-- ==== Sys2Proof/Word.lean ====
section
/-! DEFINITION. The word types the manual treats as bits, and nothing else. -/

namespace Sys2Proof

/-- One byte of scratchpad or of memory. -/
abbrev Byte := BitVec 8

/-- A 64-bit register, and an instruction word (R2, R200). -/
abbrev Word := BitVec 64

/-- A vector register (R256). -/
abbrev VWord := BitVec 1024

/-- A predicate register (R249). -/
abbrev PWord := BitVec 32

/-- An accumulator's 16 KiB of storage (R286). -/
abbrev AccWord := BitVec 131072

end Sys2Proof
end

