-- ==== Sys2Proof/Config.lean ====
section
/-! DEFINITION. What one implementation fixes and what the manual leaves free. Nothing here has a
body that a proof could see. -/

namespace Sys2Proof.Config

/-- The n-th free value of a kind. Every choice among permitted results (R6), every undefined or
unstated value and every value that arrives from outside is read from here, at a point the state's
own counter names (log 5). -/
opaque free : Nat → Nat → Nat

/-- The slice group, 0 to 7, that a line's address hashes to (R107; log 19). -/
opaque sliceHash : Nat → Nat

/-! ### Cryptography (R436, R437; log 123)

The algorithms are those of standards that the manual names. They are uninterpreted functions of their operands here. -/

/-- SHA-384 of some bytes. -/
opaque sha384 : List Byte → List Byte

/-- RSASSA-PSS with RSA-3072, SHA-384, MGF1 with SHA-384 and a 48-byte salt: whether a key verifies a signature of a
message. -/
opaque rsaVerifies : (key msg sig : List Byte) → Bool

/-- SLH-DSA-SHA2-192s in its pure form with an empty context string: whether a key verifies a signature of a message. -/
opaque slhVerifies : (key msg sig : List Byte) → Bool

/-- The signature of a message by a private key, under either algorithm. -/
opaque rsaSign : (key msg : List Byte) → List Byte
opaque slhSign : (key msg : List Byte) → List Byte

/-- The ROM's bytes, and its four key hashes for each algorithm (R436). -/
opaque rom : List Byte
opaque romRsaHash : Fin 4 → List Byte
opaque romSlhHash : Fin 4 → List Byte

/-! ### What a module is delivered with (R435 to R437; logs 123, 124) -/

/-- A key pair. -/
structure KeyPair where
  secret : List Byte
  pub    : List Byte
  deriving DecidableEq, Repr, Inhabited

/-- What the secure element holds and nothing writes: the identity keys, which never leave it, their certificate chains, the
serial number and the stack repair data (R437). The floors and revocation bits, which rise, are state. -/
structure SecureElement where
  rsaKeys  : KeyPair
  slhKeys  : KeyPair
  rsaChain : List Byte
  slhChain : List Byte
  serial   : List Byte
  repair   : List Byte
  deriving DecidableEq, Repr, Inhabited

opaque secureElement : SecureElement

/-- The header of an image or blob, and its payload (R436). -/
structure Signed where
  length  : Nat
  version : BitVec 32
  svn     : Nat
  rsaKey  : List Byte
  slhKey  : List Byte
  rsaSig  : List Byte
  slhSig  : List Byte
  payload : List Byte
  deriving DecidableEq, Repr, Inhabited

/-- The Adeley image: its numeric revision, and where its service cores start: address space, virtual address of the overlay
image, entry word, words. -/
structure AdeleyImage where
  signed : Signed
  nrev   : BitVec 16
  asid   : BitVec 13
  addr   : Word
  entry  : Nat
  words  : List Word
  deriving DecidableEq, Repr, Inhabited

/-- A partition as boot sets it up (R407). -/
structure PartSetup where
  part  : Nat
  dies  : BitVec 16
  qnt   : Nat
  bmax  : Nat
  share : List Nat
  deriving DecidableEq, Repr, Inhabited

/-- What stage 6 of boot sets up: the ASID table and the aperture, VIF 0's descriptor, the partitions (R378, R383, R396,
R435). -/
structure BootSetup where
  asidTable : Nat
  aperBase  : Nat
  aperSize  : Nat
  part   : Nat
  npend  : Nat
  asidb  : Nat
  asidn  : Nat
  lrod   : Word
  crod   : Word
  parts  : List PartSetup
  deriving DecidableEq, Repr, Inhabited

/-- A configuration blob, and what it names: floors for images and for blobs, key slots to revoke (RSA in [3:0], SLH-DSA in
[7:4]), PLIM, suspect pairs to clear, and the setup of stage 6 (R436, R441, R443). -/
structure Blob where
  signed  : Signed
  floor   : Nat
  floorB  : Nat
  revoke  : BitVec 8
  plim    : Option Nat
  clear   : List Nat
  setup   : Option BootSetup
  deriving DecidableEq, Repr, Inhabited

/-- What module flash holds to boot from. -/
structure Firmware where
  image : AdeleyImage
  blobs : List Blob
  deriving DecidableEq, Repr, Inhabited

/-- The firmware with which the module is delivered. -/
opaque firmware : Firmware

end Sys2Proof.Config
end

