-- ==== Sys2Proof/Syntax.lean ====
section
/-! DEFINITION. The instructions and events of spec/opcode_table.json, one constructor per row.
A program instruction carries the common fields of R200 (`Hdr`) and the operand fields of its
format (R203); what the fields may hold is `WellFormed`'s matter.  A row that is no program
instruction is an event of the device or of the world outside it; which context, command, object or
data it concerns is input that the state holds beside it (`Machine.Ev`). -/

namespace Sys2Proof

/-- The three lanes of a context (R60). -/
inductive Lane where
  | L | C | S
  deriving DecidableEq, Repr, Inhabited

/-- The LANE field of a word: a lane, or A (R200). -/
inductive LaneF where
  | A | L | C | S
  deriving DecidableEq, Repr, Inhabited

/-- Bits [63:57] and [48:45] of a word (R200), all common fields but OPC. -/
structure Hdr where
  lane : LaneF
  stop : Bool
  pl   : Bool
  pr   : Bool
  gl   : Bool
  gr   : Bool
  pinv : Bool
  pred : BitVec 3
  deriving DecidableEq, Repr, Inhabited

/-- REG format (R203). -/
structure RegOps where
  d   : BitVec 6
  a   : BitVec 6
  b   : BitVec 6
  c   : BitVec 6
  t   : BitVec 5
  rm  : BitVec 2
  sub : BitVec 8
  mod : BitVec 6
  deriving DecidableEq, Repr, Inhabited

/-- RI format (R203). -/
structure RiOps where
  d   : BitVec 6
  a   : BitVec 6
  imm : BitVec 33
  deriving DecidableEq, Repr, Inhabited

/-- BR format (R203). -/
structure BrOps where
  cr  : BitVec 6
  own : BitVec 2
  ck  : BitVec 2
  cc  : BitVec 3
  off : BitVec 32
  deriving DecidableEq, Repr, Inhabited

/-- MEM format (R203). -/
structure MemOps where
  d     : BitVec 6
  base  : BitVec 6
  idx   : BitVec 6
  sz    : BitVec 3
  sc    : BitVec 3
  ord   : BitVec 2
  scope : BitVec 3
  off   : BitVec 16
  deriving DecidableEq, Repr, Inhabited

/-- ENG format (R203). -/
structure EngOps where
  dst  : BitVec 6
  src  : BitVec 6
  desc : BitVec 6
  ctr  : BitVec 6
  inc  : BitVec 4
  seqf : BitVec 2
  sub  : BitVec 9
  fl   : BitVec 6
  deriving DecidableEq, Repr, Inhabited

/-- MAT format (R203). -/
structure MatOps where
  acc : BitVec 2
  a   : BitVec 6
  b   : BitVec 6
  k   : BitVec 6
  ta  : BitVec 5
  tb  : BitVec 5
  sub : BitVec 9
  fl  : BitVec 6
  deriving DecidableEq, Repr, Inhabited

/-- SYS format (R203), less the reserved bits [12:0], which are zero in every instruction (R209). -/
structure SysOps where
  d    : BitVec 6
  a    : BitVec 6
  ctrl : BitVec 12
  sub  : BitVec 8
  deriving DecidableEq, Repr, Inhabited

/-- One constructor per row of spec/opcode_table.json, program instructions first, each
part in the table's order. -/
inductive Instr where
  /-- Lane-A no-operation that only advances each lane's walk count. (R227) -/
  | nop (h : Hdr) (o : RegOps)
  /-- Unconditional relative branch taken by each lane independently. (R229) -/
  | br (h : Hdr) (o : BrOps)
  /-- Conditional branch evaluated by the owner lane, which pushes the outcome to the other lanes. (R229) -/
  | brc (h : Hdr) (o : BrOps)
  /-- Indirect branch to a register target that the owner lane evaluates and pushes. (R229) -/
  | brx (h : Hdr) (o : BrOps)
  /-- Relative call that writes the link s1 in every lane. (R229) -/
  | call (h : Hdr) (o : BrOps)
  /-- Indirect call whose target the owner lane pushes; writes s1 in every lane. (R229) -/
  | callx (h : Hdr) (o : BrOps)
  /-- Return to the PC held in each lane's own link register. (R229) -/
  | ret (h : Hdr) (o : BrOps)
  /-- Counted loop that pushes a loop-stack entry, or skips the body when the count is zero. (R232) -/
  | loop (h : Hdr) (o : BrOps)
  /-- Meeting point at which all lanes wait until every lane has arrived and all fixed-latency results have landed. (R71) -/
  | sync (h : Hdr) (o : RegOps)
  /-- Ends the lane, which then issues nothing further. (R74) -/
  | endLane (h : Hdr) (o : RegOps)
  /-- Meeting-point software trap that carries a 16-bit code. (R234) -/
  | trap (h : Hdr) (o : RiOps)
  /-- Meeting-point breakpoint trap that carries a 16-bit code. (R234) -/
  | bkpt (h : Hdr) (o : RiOps)
  /-- Adjusts each lane's stack pointer; a decrease below SLIM traps. (R235) -/
  | stk (h : Hdr) (o : RiOps)
  /-- Meeting point that tags an overlay slot with a new image and starts filling it. (R237) -/
  | ovl (h : Hdr) (o : RegOps)
  /-- Typed integer add, wrapping or saturating. (R239) -/
  | add (h : Hdr) (o : RegOps)
  /-- Typed integer subtract, wrapping or saturating. (R239) -/
  | sub (h : Hdr) (o : RegOps)
  /-- 64-bit add of a sign-extended immediate. (R243) -/
  | addi (h : Hdr) (o : RiOps)
  /-- Typed integer multiply. (R239) -/
  | mul (h : Hdr) (o : RegOps)
  /-- High half of the exact integer product. (R239) -/
  | mulh (h : Hdr) (o : RegOps)
  /-- Integer division toward zero, with defined results for edge cases. (R240) -/
  | div (h : Hdr) (o : RegOps)
  /-- Integer remainder with the sign of the dividend. (R240) -/
  | rem (h : Hdr) (o : RegOps)
  /-- 64-bit bitwise and. (R241) -/
  | and (h : Hdr) (o : RegOps)
  /-- 64-bit bitwise or. (R241) -/
  | or (h : Hdr) (o : RegOps)
  /-- 64-bit bitwise exclusive or. (R241) -/
  | xor (h : Hdr) (o : RegOps)
  /-- 64-bit and with the complement of the second operand. (R241) -/
  | andn (h : Hdr) (o : RegOps)
  /-- Typed shift left. (R239) -/
  | shl (h : Hdr) (o : RegOps)
  /-- Typed logical shift right. (R239) -/
  | shr (h : Hdr) (o : RegOps)
  /-- Typed arithmetic shift right. (R239) -/
  | sar (h : Hdr) (o : RegOps)
  /-- Typed rotate right. (R239) -/
  | rotr (h : Hdr) (o : RegOps)
  /-- Counts leading zero bits within the type width. (R239) -/
  | clz (h : Hdr) (o : RegOps)
  /-- Counts one bits within the type width. (R239) -/
  | popc (h : Hdr) (o : RegOps)
  /-- Typed integer minimum. (R239) -/
  | min (h : Hdr) (o : RegOps)
  /-- Typed integer maximum. (R239) -/
  | max (h : Hdr) (o : RegOps)
  /-- Typed integer comparison that writes 1 or 0. (R239) -/
  | cmp (h : Hdr) (o : RegOps)
  /-- Selects one of two registers by a third register being nonzero. (R241) -/
  | sel (h : Hdr) (o : RegOps)
  /-- Loads a sign-extended 33-bit immediate. (R243) -/
  | li (h : Hdr) (o : RiOps)
  /-- Inserts the high 31 bits of a 64-bit constant. (R243) -/
  | lih (h : Hdr) (o : RiOps)
  /-- Copies a register. (R241) -/
  | mov (h : Hdr) (o : RegOps)
  /-- Extracts a bit field, zero- or sign-extended. (R242) -/
  | bfx (h : Hdr) (o : RegOps)
  /-- Inserts a bit field. (R242) -/
  | bfi (h : Hdr) (o : RegOps)
  /-- Adds a register shifted left by 0 to 7 bits. (R241) -/
  | addx (h : Hdr) (o : RegOps)
  /-- Typed integer absolute value. (R239) -/
  | abs (h : Hdr) (o : RegOps)
  /-- And with an immediate. (R243) -/
  | andi (h : Hdr) (o : RiOps)
  /-- Or with an immediate. (R243) -/
  | ori (h : Hdr) (o : RiOps)
  /-- Exclusive or with an immediate. (R243) -/
  | xori (h : Hdr) (o : RiOps)
  /-- Multiply by an immediate, modulo 2^64. (R243) -/
  | muli (h : Hdr) (o : RiOps)
  /-- Scalar floating-point add, rounded once. (R245) -/
  | fadd (h : Hdr) (o : RegOps)
  /-- Scalar floating-point subtract. (R245) -/
  | fsub (h : Hdr) (o : RegOps)
  /-- Scalar floating-point multiply. (R245) -/
  | fmul (h : Hdr) (o : RegOps)
  /-- Scalar fused multiply-add, rounded once. (R245) -/
  | ffma (h : Hdr) (o : RegOps)
  /-- Scalar floating-point divide. (R245) -/
  | fdiv (h : Hdr) (o : RegOps)
  /-- Scalar floating-point square root. (R245) -/
  | fsqrt (h : Hdr) (o : RegOps)
  /-- Scalar floating-point minimum. (R245) -/
  | fmin (h : Hdr) (o : RegOps)
  /-- Scalar floating-point maximum. (R245) -/
  | fmax (h : Hdr) (o : RegOps)
  /-- Scalar floating-point comparison that writes 1 or 0 to an s register. (R245) -/
  | fcmp (h : Hdr) (o : RegOps)
  /-- Scalar conversion between integer and floating-point formats. (R246) -/
  | fcvt (h : Hdr) (o : RegOps)
  /-- Sign copy, negate, absolute value or sign xor. (R247) -/
  | fsgn (h : Hdr) (o : RegOps)
  /-- Classifies a floating-point value as a one-hot mask. (R247) -/
  | fclass (h : Hdr) (o : RegOps)
  /-- Moves 64 bits between an s register and an f register. (R247) -/
  | fmvs (h : Hdr) (o : RegOps)
  /-- Loads an f32 immediate, optionally widened to f64. (R247) -/
  | fli (h : Hdr) (o : RiOps)
  /-- Selects one of two f registers by a predicate bit. (R247) -/
  | fsel (h : Hdr) (o : RegOps)
  /-- Predicate and. (R249) -/
  | pand (h : Hdr) (o : RegOps)
  /-- Predicate or. (R249) -/
  | por (h : Hdr) (o : RegOps)
  /-- Predicate exclusive or. (R249) -/
  | pxor (h : Hdr) (o : RegOps)
  /-- Predicate and-not. (R249) -/
  | pandn (h : Hdr) (o : RegOps)
  /-- Sets a predicate from bits, from a nonzero test, or as a first-n mask. (R249) -/
  | pset (h : Hdr) (o : RegOps)
  /-- Saves p0 to p7 into a vector register. (R250) -/
  | psave (h : Hdr) (o : RegOps)
  /-- Restores masked predicates from a vector register. (R250) -/
  | prest (h : Hdr) (o : RegOps)
  /-- Queries a predicate: count, first set bit, last set bit, bit 0 or raw value. (R250) -/
  | pqry (h : Hdr) (o : RegOps)
  /-- Pushes a value entry to a neighbour lane's queue. (R251) -/
  | xput (h : Hdr) (o : RegOps)
  /-- Pops an entry from a neighbour lane's queue and writes its value. (R251) -/
  | xget (h : Hdr) (o : RegOps)
  /-- Reads the lane's LCNT or its ESEQ field. (R252) -/
  | rdcnt (h : Hdr) (o : RegOps)
  /-- Vector floating-point add. (R261) -/
  | vadd (h : Hdr) (o : RegOps)
  /-- Vector floating-point subtract. (R261) -/
  | vsub (h : Hdr) (o : RegOps)
  /-- Vector floating-point multiply. (R261) -/
  | vmul (h : Hdr) (o : RegOps)
  /-- Vector fused multiply-add. (R261) -/
  | vfma (h : Hdr) (o : RegOps)
  /-- Vector floating-point minimum. (R261) -/
  | vmin (h : Hdr) (o : RegOps)
  /-- Vector floating-point maximum. (R261) -/
  | vmax (h : Hdr) (o : RegOps)
  /-- Vector sign operations. (R261) -/
  | vsgn (h : Hdr) (o : RegOps)
  /-- Vector compare into a predicate or a mask register. (R263) -/
  | vcmp (h : Hdr) (o : RegOps)
  /-- Vector select by a mask register. (R264) -/
  | vsel (h : Hdr) (o : RegOps)
  /-- Vector convert with narrowing or widening parts. (R265) -/
  | vcvt (h : Hdr) (o : RegOps)
  /-- Quantises one 32-element block with a dynamic or static sc8 scale. (R268) -/
  | vquant (h : Hdr) (o : RegOps)
  /-- Dequantises one block by its scale to f32. (R269) -/
  | vdeq (h : Hdr) (o : RegOps)
  /-- Correctly rounded vector power of two. (R270) -/
  | vexp2 (h : Hdr) (o : RegOps)
  /-- Correctly rounded vector base-2 logarithm. (R270) -/
  | vlog2 (h : Hdr) (o : RegOps)
  /-- Correctly rounded vector reciprocal. (R270) -/
  | vrcp (h : Hdr) (o : RegOps)
  /-- Correctly rounded vector reciprocal square root. (R270) -/
  | vrsq (h : Hdr) (o : RegOps)
  /-- Correctly rounded vector hyperbolic tangent. (R270) -/
  | vtanh (h : Hdr) (o : RegOps)
  /-- Vector reduction by a fixed pairwise tree. (R272) -/
  | vred (h : Hdr) (o : RegOps)
  /-- Vector inclusive scan in a fixed order. (R273) -/
  | vscan (h : Hdr) (o : RegOps)
  /-- Vector permute by an index vector. (R274) -/
  | vperm (h : Hdr) (o : RegOps)
  /-- Broadcasts a scalar or an element to every position. (R274) -/
  | vbcast (h : Hdr) (o : RegOps)
  /-- Slides elements up or down across two registers. (R274) -/
  | vslide (h : Hdr) (o : RegOps)
  /-- Vector integer add. (R262) -/
  | viadd (h : Hdr) (o : RegOps)
  /-- Vector integer subtract. (R262) -/
  | visub (h : Hdr) (o : RegOps)
  /-- Vector integer multiply, low or high half. (R262) -/
  | vimul (h : Hdr) (o : RegOps)
  /-- Vector integer minimum or maximum. (R262) -/
  | vimnx (h : Hdr) (o : RegOps)
  /-- Vector bitwise and. (R262) -/
  | vand (h : Hdr) (o : RegOps)
  /-- Vector bitwise or. (R262) -/
  | vor (h : Hdr) (o : RegOps)
  /-- Vector bitwise exclusive or. (R262) -/
  | vxor (h : Hdr) (o : RegOps)
  /-- Vector shift left. (R262) -/
  | vshl (h : Hdr) (o : RegOps)
  /-- Vector shift right, arithmetic or logical by type. (R262) -/
  | vshr (h : Hdr) (o : RegOps)
  /-- Vector move. (R274) -/
  | vmov (h : Hdr) (o : RegOps)
  /-- Writes an arithmetic index sequence. (R274) -/
  | viota (h : Hdr) (o : RegOps)
  /-- Extracts one element to an s or f register. (R276) -/
  | vextr (h : Hdr) (o : RegOps)
  /-- Inserts a scalar into one element. (R276) -/
  | vins (h : Hdr) (o : RegOps)
  /-- Applies a companding forward curve into a narrow format. (R267) -/
  | vcomp (h : Hdr) (o : RegOps)
  /-- Expands packed elements to the active positions. (R275) -/
  | vexpd (h : Hdr) (o : RegOps)
  /-- Packs two registers into narrower integers. (R266) -/
  | vpack (h : Hdr) (o : RegOps)
  /-- Unpacks half a register into wider integers. (R266) -/
  | vunpk (h : Hdr) (o : RegOps)
  /-- Vector clamp between two bounds. (R261) -/
  | vclamp (h : Hdr) (o : RegOps)
  /-- Compresses the active elements to the front. (R275) -/
  | vcprs (h : Hdr) (o : RegOps)
  /-- Online-softmax step that rescales a running sum by an exact power of two. (R271) -/
  | vosm (h : Hdr) (o : RegOps)
  /-- Vector load from scratchpad. (R277) -/
  | vld (h : Hdr) (o : MemOps)
  /-- Vector store to scratchpad. (R277) -/
  | vst (h : Hdr) (o : MemOps)
  /-- Strided vector load from scratchpad. (R277) -/
  | vldx (h : Hdr) (o : MemOps)
  /-- Strided vector store to scratchpad. (R277) -/
  | vstx (h : Hdr) (o : MemOps)
  /-- Loads one scratchpad element and broadcasts it. (R278) -/
  | vldb (h : Hdr) (o : MemOps)
  /-- Scalar scratchpad load. (R280) -/
  | lds (h : Hdr) (o : MemOps)
  /-- Scalar scratchpad store. (R280) -/
  | sts (h : Hdr) (o : MemOps)
  /-- Vector global load, translated whole before any access. (R283) -/
  | vldg (h : Hdr) (o : MemOps)
  /-- Vector global store, translated whole before any access. (R283) -/
  | vstg (h : Hdr) (o : MemOps)
  /-- Gathers elements from global memory or scratchpad by offsets. (R279) -/
  | vgath (h : Hdr) (o : MemOps)
  /-- Scatters elements to global memory or scratchpad by offsets. (R279) -/
  | vscat (h : Hdr) (o : MemOps)
  /-- Non-faulting global prefetch into the L1 or the die caches. (R281) -/
  | prfg (h : Hdr) (o : MemOps)
  /-- Global load, plain or acquire. (R321) -/
  | ld (h : Hdr) (o : MemOps)
  /-- Global store, plain or release. (R321) -/
  | st (h : Hdr) (o : MemOps)
  /-- Atomic read-modify-write at the home, returning the old value. (R324) -/
  | atom (h : Hdr) (o : MemOps)
  /-- Atomic reduction to memory without a result. (R325) -/
  | redm (h : Hdr) (o : MemOps)
  /-- Per-element vector atomics, replayable through VAMASK. (R328) -/
  | vatom (h : Hdr) (o : MemOps)
  /-- Per-element vector reduction to memory. (R328) -/
  | vredm (h : Hdr) (o : MemOps)
  /-- Waits at the home until a location satisfies a condition. (R326) -/
  | waita (h : Hdr) (o : MemOps)
  /-- Acquire, release or full fence at a scope. (R329) -/
  | fence (h : Hdr) (o : MemOps)
  /-- Binds a global region to a synchronisation object. (R330) -/
  | bind (h : Hdr) (o : RegOps)
  /-- Removes matching bindings, or all bindings. (R330) -/
  | unbind (h : Hdr) (o : RegOps)
  /-- Removes cached lines from the L1 and optionally the remote-data cache. (R331) -/
  | cinv (h : Hdr) (o : MemOps)
  /-- Zeroes an accumulator as a pending write. (R297) -/
  | mzero (h : Hdr) (o : MatOps)
  /-- Matrix multiply-accumulate by exact group accumulation. (R296) -/
  | mma (h : Hdr) (o : MatOps)
  /-- Loads an accumulator from scratchpad. (R297) -/
  | mld (h : Hdr) (o : MatOps)
  /-- Stores an accumulator to scratchpad with rounding. (R297) -/
  | mst (h : Hdr) (o : MatOps)
  /-- Loads an accumulator from scratchpad transposed. (R297) -/
  | mldt (h : Hdr) (o : MatOps)
  /-- Plane look-up matrix-vector product into one accumulator row. (R300) -/
  | lutmv (h : Hdr) (o : MatOps)
  /-- Builds the plane look-up tables from activations. (R299) -/
  | lutld (h : Hdr) (o : MatOps)
  /-- Adds one accumulator into another. (R297) -/
  | macc (h : Hdr) (o : MatOps)
  /-- Reduces accumulator columns into a vector register. (R298) -/
  | mred (h : Hdr) (o : MatOps)
  /-- Reads an accumulator row into a vector register. (R298) -/
  | mrow (h : Hdr) (o : MatOps)
  /-- Copy-engine command that moves bytes in ascending order. (R305) -/
  | copy (h : Hdr) (o : EngOps)
  /-- Two-dimensional copy, optionally transposing. (R305) -/
  | copyt (h : Hdr) (o : EngOps)
  /-- Fills a destination with a repeated pattern. (R305) -/
  | fill (h : Hdr) (o : EngOps)
  /-- Quantising copy block by block with scale selection. (R307) -/
  | qcvt (h : Hdr) (o : EngOps)
  /-- Stages the leading N planes and the scales of a plane tensor. (R308) -/
  | plane (h : Hdr) (o : EngOps)
  /-- Non-faulting prefetch command into the L2 and remote-data cache. (R309) -/
  | pref (h : Hdr) (o : EngOps)
  /-- Waits until a completion counter reaches a value and joins its commands. (R311) -/
  | waitc (h : Hdr) (o : RegOps)
  /-- Tests a counter, joining the commands on success. (R311) -/
  | testc (h : Hdr) (o : RegOps)
  /-- Returns the status word of a named in-flight command. (R312) -/
  | testcQ (h : Hdr) (o : RegOps)
  /-- Sets a counter atomically at its home. (R314) -/
  | cset (h : Hdr) (o : RegOps)
  /-- Names up to two predecessors for the lane's next engine command. (R312) -/
  | edep (h : Hdr) (o : RegOps)
  /-- Sends data to a fabric endpoint that a matching FRECV receives. (R315) -/
  | fsend (h : Hdr) (o : EngOps)
  /-- Receives data from a matching FSEND. (R315) -/
  | frecv (h : Hdr) (o : EngOps)
  /-- Collective operation over a scale-out group. (R316) -/
  | fcoll (h : Hdr) (o : EngOps)
  /-- Enqueues a bead on a rod, parking or returning FULL when there is no room. (R146) -/
  | enq (h : Hdr) (o : RegOps)
  /-- Dequeues a bead from a rod, parking or returning EMPTY. (R146) -/
  | deq (h : Hdr) (o : RegOps)
  /-- Initialises a rod control block. (R153) -/
  | rodinit (h : Hdr) (o : RegOps)
  /-- Reads HEAD, TAIL, RSV and STATUS of a rod in one step. (R153) -/
  | rodqry (h : Hdr) (o : RegOps)
  /-- Closes a rod and wakes its waiters with CLOSED. (R153) -/
  | rodclose (h : Hdr) (o : RegOps)
  /-- Privileged drain of all beads of a rod. (R155) -/
  | rodadmDrain (h : Hdr) (o : SysOps)
  /-- Privileged reopening of a closed rod. (R155) -/
  | rodadmReopen (h : Hdr) (o : SysOps)
  /-- Privileged repair of a quarantined rod from its rewritten fields. (R155) -/
  | rodadmRepair (h : Hdr) (o : SysOps)
  /-- Privileged retirement of a rod by zeroing its MAGIC. (R155) -/
  | rodadmRetire (h : Hdr) (o : SysOps)
  /-- Arrives at a barrier and waits for the phase to change. (R336) -/
  | barW (h : Hdr) (o : RegOps)
  /-- Arrives at a barrier without waiting. (R336) -/
  | barArr (h : Hdr) (o : RegOps)
  /-- Waits for a given barrier phase to pass. (R336) -/
  | barWt (h : Hdr) (o : RegOps)
  /-- Initialises a barrier control block. (R336) -/
  | barInit (h : Hdr) (o : RegOps)
  /-- Initialises a slate control block. (R339) -/
  | slinit (h : Hdr) (o : RegOps)
  /-- Pins the current published version of a slate. (R96) -/
  | slacqRd (h : Hdr) (o : RegOps)
  /-- Opens the next slot of a slate for writing. (R96) -/
  | slacqWr (h : Hdr) (o : RegOps)
  /-- Publishes the written slot once every write has been acknowledged. (R96) -/
  | slpub (h : Hdr) (o : RegOps)
  /-- Releases a pin on a slate version. (R96) -/
  | slrel (h : Hdr) (o : RegOps)
  /-- Dequeues the next current work bead of the core's role, discarding stale beads. (R189) -/
  | sqget (h : Hdr) (o : RegOps)
  /-- Submits a drafted tree, moving the sequence from DRAFT to CHECK. (R191) -/
  | sqaccQ (h : Hdr) (o : RegOps)
  /-- Marks p lists of named nodes accepted; the last one moves the sequence to COMMIT. (R191) -/
  | sqaccP (h : Hdr) (o : RegOps)
  /-- Supplies an accepted path for a commit under ACCM 1. (R195) -/
  | sqcommit (h : Hdr) (o : RegOps)
  /-- Admits a free record into PREFILL. (R188) -/
  | sqparkAdmit (h : Hdr) (o : RegOps)
  /-- Privileged import of a migrated record as PARKED. (R188) -/
  | sqparkImport (h : Hdr) (o : RegOps)
  /-- Requests that a sequence park at its next iteration boundary. (R188) -/
  | sqparkPark (h : Hdr) (o : RegOps)
  /-- Abandons the current iteration and parks the sequence at once. (R188) -/
  | sqparkAbort (h : Hdr) (o : RegOps)
  /-- Resumes a parked sequence into PREFILL, COMMIT or its next iteration. (R188) -/
  | sqparkResume (h : Hdr) (o : RegOps)
  /-- Privileged freeze of a parked record for migration. (R188) -/
  | sqparkMigout (h : Hdr) (o : RegOps)
  /-- Privileged end of a migration that frees the record and releases its tables. (R188) -/
  | sqparkMigdone (h : Hdr) (o : RegOps)
  /-- Privileged return of a migrating record to PARKED. (R188) -/
  | sqparkMigabort (h : Hdr) (o : RegOps)
  /-- Frees a parked or finished record and releases its tree pages. (R188) -/
  | sqparkRetire (h : Hdr) (o : RegOps)
  /-- Privileged park with REASON PREEMPT. (R342) -/
  | sqparkPreempt (h : Hdr) (o : RegOps)
  /-- Pins the current block-table version and writes page records for a range of entries. (R165) -/
  | kvmap (h : Hdr) (o : RegOps)
  /-- Releases a pin on a block-table version. (R166) -/
  | kvunpin (h : Hdr) (o : RegOps)
  /-- Engine command that appends key-value rows, copying a shared page on write. (R169) -/
  | kvapp (h : Hdr) (o : EngOps)
  /-- Looks up a prompt prefix in the index and maps the matched pages. (R174) -/
  | pfxlk (h : Hdr) (o : RegOps)
  /-- Inserts a sequence's full pages into the prefix index. (R175) -/
  | pfxins (h : Hdr) (o : RegOps)
  /-- Releases block-table entries from a first entry onward once every version is drained. (R177) -/
  | pfxrel (h : Hdr) (o : RegOps)
  /-- Scores candidate pages against a query and writes the top k. (R179) -/
  | psel (h : Hdr) (o : EngOps)
  /-- Filters logits into a distribution and draws, takes the argmax or lists the tokens. (R199) -/
  | sample (h : Hdr) (o : RegOps)
  /-- Returns a Philox draw of a sequence's stream. (R192) -/
  | rngdraw (h : Hdr) (o : RegOps)
  /-- Privileged creation of a new block-table version with a deferred counter signal. (R168) -/
  | btinv (h : Hdr) (o : SysOps)
  /-- Registers the index descriptor and empties every shard. (R181) -/
  | pfxadmInit (h : Hdr) (o : SysOps)
  /-- Demotes an indexed KVBP8 page to KVBP4 in the second tier. (R180) -/
  | pfxadmDemote (h : Hdr) (o : SysOps)
  /-- Promotes a second-tier page back to stack storage. (R180) -/
  | pfxadmPromote (h : Hdr) (o : SysOps)
  /-- Evicts up to n nodes of a pool. (R181) -/
  | pfxadmEvict (h : Hdr) (o : SysOps)
  /-- Evicts every evictable node of a pool. (R181) -/
  | pfxadmFlush (h : Hdr) (o : SysOps)
  /-- Reads a control register. (R366) -/
  | mfc (h : Hdr) (o : SysOps)
  /-- Writes a control register under its access codes. (R366) -/
  | mtc (h : Hdr) (o : SysOps)
  /-- Meeting point that leaves the handler and resumes each lane at its EPC. (R368) -/
  | eret (h : Hdr) (o : SysOps)
  /-- Meeting point that yields to a ready context in the other bank. (R367) -/
  | ctxsw (h : Hdr) (o : SysOps)
  /-- Spills a context's registers and share to memory and frees its bank. (R370) -/
  | ctxspill (h : Hdr) (o : SysOps)
  /-- Ends a context with cause KILLED. (R370) -/
  | ctxspillKill (h : Hdr) (o : SysOps)
  /-- Fills a spilled context into a free bank. (R370) -/
  | ctxfill (h : Hdr) (o : SysOps)
  /-- Reloads a context stopped for service from its save area and restarts it. (R370) -/
  | ctxfillResume (h : Hdr) (o : SysOps)
  /-- Meeting point that waits for a selected INTP bit. (R370) -/
  | waiti (h : Hdr) (o : SysOps)
  /-- Removes translations that overlap a range of an ASID. (R388) -/
  | tlbinvVa (h : Hdr) (o : SysOps)
  /-- Removes every translation of an ASID. (R388) -/
  | tlbinvAsid (h : Hdr) (o : SysOps)
  /-- Removes every translation. (R388) -/
  | tlbinvAll (h : Hdr) (o : SysOps)
  /-- Writes an ASID descriptor and advances its generation. (R388) -/
  | tlbinvBind (h : Hdr) (o : SysOps)
  /-- Invalidates an ASID descriptor and removes its translations. (R388) -/
  | tlbinvUnbind (h : Hdr) (o : SysOps)
  /-- Registers the ASID table and the device-memory aperture. (R388) -/
  | tlbinvInit (h : Hdr) (o : SysOps)
  /-- Moves a device-half page to a new frame while holding writes. (R394) -/
  | migrMove (h : Hdr) (o : SysOps)
  /-- Reads and clears a page's access count. (R393) -/
  | migrCnt (h : Hdr) (o : SysOps)
  /-- Resumes an engine command held for a translation fault. (R393) -/
  | migrRetry (h : Hdr) (o : SysOps)
  /-- Registers a die's service rods and its hint threshold. (R393) -/
  | migrInit (h : Hdr) (o : SysOps)
  /-- Reads a temperature sensor. (R439) -/
  | monrdTemp (h : Hdr) (o : SysOps)
  /-- Reads a rail voltage. (R439) -/
  | monrdVolt (h : Hdr) (o : SysOps)
  /-- Reads a process oscillator count. (R439) -/
  | monrdProc (h : Hdr) (o : SysOps)
  /-- Reads a byte of the slow-bank table. (R439) -/
  | monrdSlow (h : Hdr) (o : SysOps)
  /-- Reads a wear-record counter. (R439) -/
  | monrdWear (h : Hdr) (o : SysOps)
  /-- Reads the issuing core, die and bank. (R439) -/
  | monrdPlace (h : Hdr) (o : SysOps)
  /-- Reads the Adeley numeric revision and the image version. (R439) -/
  | monrdRev (h : Hdr) (o : SysOps)
  /-- An overlay fill or refill ends and the slot becomes VALID. (R237) -/
  | overlayFillComplete
  /-- An engine command whose predecessors have completed starts moving data. (R77) -/
  | engineCommandStart
  /-- An idle sibling copy engine takes a RELOC command that has not started. (R78) -/
  | relocSteal
  /-- An engine finishes a command, writes its status word and adds its increment to the counter. (R302) -/
  | engineCommandComplete
  /-- A command stops at an untranslatable byte, trims its scoreboard entry and records the fault. (R310) -/
  | engineTranslationFault
  /-- A member reports its completed part of a collective to the group home. (R427) -/
  | fcollMemberReport
  /-- The group home decides OK or RING_BROKEN for a collective and sends the decision. (R427) -/
  | fcollDecision
  /-- A member's collective has no decision within RTO, and it asks the home for a break. (R428) -/
  | fcollRtoExpiry
  /-- The home does not answer within a further RTO, and the member completes RING_BROKEN by itself. (R428) -/
  | fcollHomeSilentExpiry
  /-- An acknowledged slot write commits in reservation order and serves the waiters. (R146) -/
  | rodCommit
  /-- A cancellation request for a parked rod wait reaches the home. (R151) -/
  | rodWaitCancel
  /-- A blocking operation with no free wait entry rechecks after 1,024 cycles. (R152) -/
  | waitTableRetry
  /-- A commit completes, and the sequence finishes, parks or begins its next iteration. (R188) -/
  | commitComplete
  /-- The sequence manager posts gathered slots as a completion record by a blocking enqueue. (R197) -/
  | completionRecordPost
  /-- A deferred work bead is enqueued once its cause has cleared. (R408) -/
  | deferredBeadEnqueue
  /-- A die's sequence manager applies a new DRAFT_SHARE at its next iteration boundary. (R19) -/
  | draftShareApply
  /-- After the page copy joins and the old version drains, the home installs the new page as a new version. (R169) -/
  | kvappEntryUpdate
  /-- The home signals BTINV's counter once the preceding version is drained. (R168) -/
  | btinvSignal
  /-- ITTIMER goes from 1 to 0 and raises an asynchronous trap at bundle boundaries. (R360) -/
  | timer
  /-- A context whose every lane waits with nothing in flight is detected and faulted. (R73) -/
  | laneDeadlock
  /-- After the skid of a fatal fault, the context ends and its waits, pins and commands are settled. (R372) -/
  | contextFaultEnd
  /-- All lanes have ended and every command and store has completed, so the context completes. (R74) -/
  | contextComplete
  /-- The walker places the next point of a ready nest on a core when one is available. (R402) -/
  | placePoint
  /-- Every iteration of a nest has completed, and SIGADDR is signalled. (R57) -/
  | nestComplete
  /-- The walker dequeues a NEST bead, checks it and creates the nest or refuses it. (R400) -/
  | launchNest
  /-- A configuration bead sets a partition's dies, draft shares, quantum and BMAX. (R407) -/
  | partcfg
  /-- A configuration bead writes a virtual interface descriptor. (R396) -/
  | vifcfg
  /-- A configuration bead starts forming a scale-out group. (R422) -/
  | groupcfgForm
  /-- A configuration bead frees a group's handle. (R422) -/
  | groupcfgFree
  /-- All members agree, and the device writes the handle and lanes and marks the group FORMED. (R422) -/
  | groupFormed
  /-- A group not formed within 1 s of its bead is marked FREED and refused. (R422) -/
  | groupFormTimeout
  /-- The core swaps shadow banks at a bundle boundary when a trigger holds. (R404) -/
  | bankSwap
  /-- The active context has run QNT cycles with an equal-priority ready context waiting. (R404) -/
  | quantumExpiry
  /-- The spill engine finishes writing an outgoing image and marks it CLEAN. (R369) -/
  | backgroundSpillDone
  /-- The home sends a wake notice that ends a lane's dormancy after its object changes. (R405) -/
  | wakeNotice
  /-- A dormant lane with no wake entry is woken after 1,024 cycles. (R405) -/
  | wakeFallbackExpiry
  /-- A pending SPLIT value takes effect when neither bank holds a context. (R85) -/
  | splitApply
  /-- A host 64-byte write to the launch window performs ENQ.t on the launch rod. (R397) -/
  | lwin
  /-- A host 256-byte read of the completion window performs DEQ.t on the completion rod. (R397) -/
  | cwin
  /-- A host write to a function register with no behaviour of its own. (R397) -/
  | hostRegisterWrite
  /-- A function reset returns the register block to its reset values. (R397) -/
  | functionReset
  /-- MODTMR microseconds pass with records uncovered, and the completion interrupt fires. (R411) -/
  | completionTimerExpiry
  /-- The host invalidates translations and completion follows the drain of affected accesses. (R384) -/
  | atsInvalidation
  /-- A page request answered Success lets a held engine command re-translate and resume. (R390) -/
  | pageRequestResponse
  /-- A CRC error or gap on a link causes a replay from the first missing flit. (R417) -/
  | flitReplay
  /-- A mesh link or vertical bus exhausts its retries and takes the module out of service. (R418) -/
  | meshLinkFailure
  /-- A scale-out lane fails and its die pairs move to the remaining lanes. (R423) -/
  | scaleoutLaneFailure
  /-- Faulty vertical-bus wires found at run time are queued for remap at the next quiesce. (R415) -/
  | vbusWireFault
  /-- A die holds and drains its crossings, switches ratio or retrains a bus, and resumes. (R419) -/
  | quiesce
  /-- The 10 µs monitor sample applies the thermal thresholds. (R444) -/
  | monitorSample
  /-- The thermal cap of a column falls each millisecond or rises each 10 ms. (R444) -/
  | thermalCapStep
  /-- The 100 µs input-power measurement adjusts the power cap against PLIM. (R443) -/
  | powerSample
  /-- Every 60 s, on-die wear counts are added to flash. (R440) -/
  | wearFlush
  /-- Power-on or a module reset starts boot from the ROM. (R435) -/
  | moduleReset
  /-- A boot stage completes or fails, and BOOTST is updated. (R435) -/
  | bootStage
  /-- SPDM version request over DOE. (R437) -/
  | getVersion
  /-- SPDM capabilities request. (R437) -/
  | getCapabilities
  /-- SPDM algorithm negotiation. (R437) -/
  | negotiateAlgorithms
  /-- SPDM certificate-chain digest request. (R437) -/
  | getDigests
  /-- SPDM certificate request. (R437) -/
  | getCertificate
  /-- SPDM challenge signed by the identity key. (R437) -/
  | challenge
  /-- SPDM measurements request, including the SLH-DSA block 0xF0. (R437) -/
  | getMeasurements
  /-- A global write that left the L1 write path is applied and acknowledged at its home, re-evaluating WAITA waiters and satisfying waiting releases and context completion. (R115) -/
  | globalWritePerformed
  /-- The matrix array or plane unit completes an MMA, MZERO, MLD, MLDT, MACC, LUTMV or LUTLD and its pending accumulator write lands, freeing one of the four array places. (R216) -/
  | accumulatorWriteLands
  /-- A host write request to device memory arrives over PCI Express and is performed at the home. (R136) -/
  | hostMemoryWrite
  /-- A host read request of device memory arrives, is performed at the home, and completes with data or a completer abort on an uncorrectable line. (R371) -/
  | hostMemoryRead
  /-- The host rings the doorbell and INTP.HOST is set on the service cores. (R360) -/
  | hostDoorbell
  /-- A bit error arises of itself in a register, scratchpad, cache, DRAM or second-tier structure and is corrected or marked uncorrectable. (R371) -/
  | softError
  /-- Module power is lost without an orderly shutdown, losing on-die wear counts since the last flush and all volatile state. (R440) -/
  | powerLoss
  /-- At an orderly shutdown Adeley adds the on-die wear counts to flash. (R440) -/
  | orderlyShutdown
  deriving DecidableEq, Repr

end Sys2Proof
end

