-- ==== Sys2Proof/Machine/Legality.lean ====
section
/-! DEFINITION. Which words are instructions: the reason code of R212, 3 to 9, for every program
instruction, as the least code of the checks that fail.  Readings of codes 7 and 8 are in log 11. -/

namespace Sys2Proof

/-- Pairs of a reason code of R212 and whether the word breaks that check. -/
abbrev Checks := List (Nat × Bool)

/-- The least reason code among the checks that fail: R212 checks in code order within a word. -/
def leastReason (l : Checks) : Option Nat :=
  l.foldl (fun m x =>
    if x.2 then (match m with | none => some x.1 | some k => some (min k x.1)) else m) none

/-- Reason 6 for a scalar source (R202). -/
def src (r : BitVec 6) : Checks := [(6, decide (40 ≤ r.toNat))]

/-- Reason 6 for a scalar destination, and for f and v registers (R202). -/
def dst (r : BitVec 6) : Checks := [(6, decide (32 ≤ r.toNat))]

/-- Reason 6 for a predicate register (R202). -/
def prd (r : BitVec 6) : Checks := [(6, decide (8 ≤ r.toNat))]

/-- Reason 8 for a field that must be zero (R204, R212). -/
def zero {w : Nat} (x : BitVec w) : Checks := [(8, x != 0)]

/-- As `zero`, where a condition on the other fields holds. -/
def zeroIf {w : Nat} (c : Bool) (x : BitVec w) : Checks := [(8, c && x != 0)]

/-- Reason 7 unless the fields hold a value that the entry assigns (R204, R212). -/
def legal (ok : Bool) : Checks := [(7, !ok)]

/-- An s source where the condition holds, else an f or v register. -/
def srcOf (c : Bool) (r : BitVec 6) : Checks := if c then src r else dst r

/-- An f or v register where the condition holds, else an unused field. -/
def dstOrZero (c : Bool) (r : BitVec 6) : Checks := if c then dst r else zero r

/-- Reasons 3 to 5 (R201, R63, R210), given the lanes that R210 permits. -/
def common (okA okL okC okS : Bool) (h : Hdr) : Checks :=
  [(3, match h.lane with | .A => !okA | .L => !okL | .C => !okC | .S => !okS),
   (4, h.lane != .C && (h.pinv || h.pred != 0)),
   (5, h.lane == .A && (h.pl || h.pr || h.gl || h.gr))]

def lcs (h : Hdr) : Checks := common false true true true h
def onlyA (h : Hdr) : Checks := common true false false false h
def onlyC (h : Hdr) : Checks := common false false true false h
def onlyLS (h : Hdr) : Checks := common false true false true h

/-- WAITC and TESTC take no predicate in lane C (R311). -/
def noPred (h : Hdr) : Checks := [(8, h.lane == .C && (h.pinv || h.pred != 0))]

/-! Type codes of R22. -/

def isInt (t : BitVec 5) : Bool := decide (t.toNat < 8)
def isWideInt (t : BitVec 5) : Bool := decide (4 ≤ t.toNat) && decide (t.toNat < 8)
def isFloat (t : BitVec 5) : Bool := decide (8 ≤ t.toNat) && decide (t.toNat < 12)
def isFloat8 (t : BitVec 5) : Bool := decide (8 ≤ t.toNat) && decide (t.toNat < 14)
def isSized (t : BitVec 5) : Bool := decide (t.toNat < 14)
def isPlanes (t : BitVec 5) : Bool := decide (16 ≤ t.toNat) && decide (t.toNat < 24)
/-- i8, e4m3 or e5m2: the elements of a block (R34). -/
def isBlockFmt (t : BitVec 5) : Bool := t == 0 || t == 12 || t == 13

/-- Width in bits of a type code of R22 from 0 to 14. -/
def typeWidth (t : Nat) : Nat :=
  match t with
  | 0 | 1 => 8
  | 2 | 3 => 16
  | 4 | 5 => 32
  | 6 | 7 => 64
  | 8 | 9 => 16
  | 10 => 32
  | 11 => 64
  | _ => 8

/-- The condition fields of BRC (R206, R228). -/
def cond (o : BrOps) : Checks :=
  if o.ck == 0 then src o.cr ++ legal (decide (o.cc.toNat < 6))
  else if o.ck == 1 then prd o.cr ++ legal (o.own == 2 && decide (o.cc.toNat < 2))
  else legal false

/-- The types FCVT converts (R246). -/
def fcvtOk (o : RegOps) : Bool :=
  let s := o.sub.toNat % 32
  decide (4 ≤ s) && decide (s < 15)
    && decide (4 ≤ o.t.toNat) && decide (o.t.toNat < 14)
    && !(decide (s < 8) && decide (o.t.toNat < 8))

/-- The variants of VCMP (R263). -/
def vcmpOk (o : RegOps) : Bool :=
  let w := typeWidth o.t.toNat
  (isInt o.t || isFloat o.t) && decide (o.sub.toNat % 8 < 7)
    && !(isInt o.t && o.sub.toNat % 8 == 6)
    && (o.sub.getLsbD 3 || w == 32 || w == 64)

/-- The types and parts of VCVT (R265). -/
def vcvtOk (o : RegOps) : Bool :=
  let s := o.sub.toNat % 32
  let t := o.t.toNat
  let ws := typeWidth s
  let wd := typeWidth t
  decide (s < 15) && decide (t < 14)
    && !(decide (s < 8) && decide (t < 8) && ws == wd)
    && decide (o.mod.toNat / 2 % 4 < max ws wd / min ws wd)

/-- MOD holds a part in bits [2:1] and nothing else (R268, R269). -/
def quarterOnly (m : BitVec 6) : Checks := zero (m.extractLsb' 0 1) ++ zero (m.extractLsb' 3 3)

/-- The variants of VRED and VSCAN (R272, R273). -/
def redOk (o : RegOps) : Bool :=
  (isInt o.t || isFloat o.t) && decide (o.sub.toNat < 3)
    && (if isInt o.t then decide (o.mod.toNat < 2) else o.mod == 0)

/-- The variants of VCOMP (R267). -/
def vcompOk (o : RegOps) : Bool :=
  (o.t == 8 || o.t == 9 || o.t == 12 || o.t == 13)
    && decide (o.mod.toNat < 8) && decide (o.mod.toNat / 2 < 32 / typeWidth o.t.toNat)

/-- AOP, the upper bits of the offset of an atomic (R322). -/
def aopOf (o : MemOps) : Nat := o.off.toNat / 4096

/-- FL holds a swizzle mode in bits [4:3] other than 3, and no bit outside the mask (R288, R291). -/
def swOnly (fl : BitVec 6) (mask : BitVec 6) : Checks := legal (fl.toNat / 8 % 4 != 3) ++ zero (fl &&& ~~~mask)

/-- The pairs and modifiers of MMA (R295). -/
def mmaOk (o : MatOps) : Bool :=
  let f8 (t : BitVec 5) : Bool := t == 12 || t == 13
  let cmpa := o.sub.getLsbD 2
  let cmpb := o.sub.getLsbD 3
  let bsa := o.fl.getLsbD 1
  let bsb := o.fl.getLsbD 2
  let bx := o.sub.toNat / 64 % 4
  o.fl.toNat / 8 % 4 != 3 && bx != 3
    && (if f8 o.ta && f8 o.tb then true
        else if o.ta == 0 && o.tb == 0 then !cmpa && !cmpb
        else if f8 o.ta && isPlanes o.tb then !cmpb && !bsb
        else if o.ta == 9 && isPlanes o.tb then !cmpa && !cmpb && !bsa && !bsb
        else isFloat o.ta && o.ta == o.tb && !cmpa && !cmpb && !bsa && !bsb)

/-- The bits of an MMA that must be zero (R288, R295). -/
def mmaZero (o : MatOps) : Checks :=
  zero (o.fl &&& 0x21) ++ zero (o.sub.extractLsb' 8 1)
    ++ zeroIf (!o.sub.getLsbD 2 && !o.sub.getLsbD 3) (o.sub.extractLsb' 4 2)
    ++ zeroIf (isPlanes o.tb) (o.sub.extractLsb' 6 2)

/-- The variants of MRED (R298). -/
def mredOk (sub : BitVec 9) : Bool :=
  sub.toNat % 4 != 3

/-- The variants of MROW (R298). -/
def mrowOk (o : MatOps) : Bool :=
  ((o.ta == 9 && o.sub.toNat % 4 == 0) || (o.ta == 10 && decide (o.sub.toNat % 4 < 2))
        || o.ta == 11)

/-- The swizzles of COPY and COPYT, whose SUB has `n` bits in use (R305). -/
def copySw (o : EngOps) (n : Nat) : Bool :=
  let swd := o.sub.toNat % 4
  let sws := o.sub.toNat / 4 % 4
  decide (o.sub.toNat < 2 ^ n) && swd != 3 && sws != 3
    && (swd == 0 || o.fl.getLsbD 2) && (sws == 0 || o.fl.getLsbD 3)

/-- The control-register numbers that the map assigns (R356). -/
def isCtrlReg (c : BitVec 12) : Bool :=
  let n := c.toNat
  decide (n ≤ 6) || n == 8 || n == 9 || n == 0x10 || n == 0x11 || n == 0x12
    || (decide (0x18 ≤ n) && decide (n ≤ 0x1E)) || n == 0x20 || n == 0x21 || n == 0x22
    || n == 0x28 || n == 0x29 || n == 0x2A || n == 0x30
    || (decide (0x100 ≤ n) && decide (n < 0x180) && decide (n % 32 ≤ 16))

/-- The checks of R212, codes 3 to 9, that each instruction makes on its word alone. An event is no
word and fails none. -/
def checksOf (i : Instr) : Checks :=
  match i with
  | .nop h o => onlyA h ++ zero o.d ++ zero o.a ++ zero o.b ++ zero o.c ++ zero o.t ++ zero o.rm ++ zero o.sub ++ zero o.mod
  | .br h o => onlyA h ++ zero o.cr ++ zero o.own ++ zero o.ck ++ zero o.cc
  | .brc h o => onlyA h ++ legal (o.own != 0) ++ cond o
  | .brx h o => onlyA h ++ legal (o.own != 0) ++ src o.cr ++ zero o.ck ++ zero o.cc ++ zero o.off
  | .call h o => onlyA h ++ zero o.cr ++ zero o.own ++ zero o.ck ++ zero o.cc
  | .callx h o => onlyA h ++ legal (o.own != 0) ++ src o.cr ++ zero o.ck ++ zero o.cc ++ zero o.off
  | .ret h o => onlyA h ++ src o.cr ++ zero o.own ++ zero o.ck ++ zero o.cc ++ zero o.off
  | .loop h o => onlyA h ++ zero o.own ++ legal (o.ck != 3) ++ zeroIf (o.ck == 1) o.cr ++ [(9, !decide (1 ≤ o.off.toInt))]
  | .sync h o => onlyA h ++ zero o.d ++ zero o.a ++ zero o.b ++ zero o.c ++ zero o.t ++ zero o.rm ++ zero o.sub ++ zero o.mod
  | .endLane h o => onlyA h ++ zero o.d ++ zero o.a ++ zero o.b ++ zero o.c ++ zero o.t ++ zero o.rm ++ zero o.sub ++ zero o.mod
  | .trap h o => onlyA h ++ zero o.d ++ zero o.a ++ zero (o.imm.extractLsb' 16 17)
  | .bkpt h o => onlyA h ++ zero o.d ++ zero o.a ++ zero (o.imm.extractLsb' 16 17)
  | .stk h o => onlyA h ++ zero o.d ++ zero o.a ++ zero (o.imm.extractLsb' 0 3)
  | .ovl h o => onlyA h ++ src o.a ++ src o.b ++ zero (o.sub.extractLsb' 2 6) ++ zero o.d ++ zero o.c ++ zero o.t ++ zero o.rm ++ zero o.mod
  | .add h o => lcs h ++ dst o.d ++ src o.a ++ src o.b ++ legal (isWideInt o.t) ++ legal (o.mod.toNat < 2) ++ zero o.c ++ zero o.rm ++ zero o.sub
  | .sub h o => lcs h ++ dst o.d ++ src o.a ++ src o.b ++ legal (isWideInt o.t) ++ legal (o.mod.toNat < 2) ++ zero o.c ++ zero o.rm ++ zero o.sub
  | .addi h o => lcs h ++ dst o.d ++ src o.a
  | .mul h o => lcs h ++ dst o.d ++ src o.a ++ src o.b ++ legal (isWideInt o.t) ++ legal (o.mod.toNat < 2) ++ zero o.c ++ zero o.rm ++ zero o.sub
  | .mulh h o => lcs h ++ dst o.d ++ src o.a ++ src o.b ++ legal (isWideInt o.t) ++ legal (o.mod == 0) ++ zero o.c ++ zero o.rm ++ zero o.sub
  | .div h o => lcs h ++ dst o.d ++ src o.a ++ src o.b ++ legal (isWideInt o.t) ++ legal (o.mod == 0) ++ zero o.c ++ zero o.rm ++ zero o.sub
  | .rem h o => lcs h ++ dst o.d ++ src o.a ++ src o.b ++ legal (isWideInt o.t) ++ legal (o.mod == 0) ++ zero o.c ++ zero o.rm ++ zero o.sub
  | .and h o => lcs h ++ dst o.d ++ src o.a ++ src o.b ++ zero o.c ++ zero o.t ++ zero o.rm ++ zero o.sub ++ zero o.mod
  | .or h o => lcs h ++ dst o.d ++ src o.a ++ src o.b ++ zero o.c ++ zero o.t ++ zero o.rm ++ zero o.sub ++ zero o.mod
  | .xor h o => lcs h ++ dst o.d ++ src o.a ++ src o.b ++ zero o.c ++ zero o.t ++ zero o.rm ++ zero o.sub ++ zero o.mod
  | .andn h o => lcs h ++ dst o.d ++ src o.a ++ src o.b ++ zero o.c ++ zero o.t ++ zero o.rm ++ zero o.sub ++ zero o.mod
  | .shl h o => lcs h ++ dst o.d ++ src o.a ++ src o.b ++ legal (isWideInt o.t) ++ legal (o.mod == 0) ++ zero o.c ++ zero o.rm ++ zero o.sub
  | .shr h o => lcs h ++ dst o.d ++ src o.a ++ src o.b ++ legal (isWideInt o.t) ++ legal (o.mod == 0) ++ zero o.c ++ zero o.rm ++ zero o.sub
  | .sar h o => lcs h ++ dst o.d ++ src o.a ++ src o.b ++ legal (isWideInt o.t) ++ legal (o.mod == 0) ++ zero o.c ++ zero o.rm ++ zero o.sub
  | .rotr h o => lcs h ++ dst o.d ++ src o.a ++ src o.b ++ legal (isWideInt o.t) ++ legal (o.mod == 0) ++ zero o.c ++ zero o.rm ++ zero o.sub
  | .clz h o => lcs h ++ dst o.d ++ src o.a ++ legal (isWideInt o.t) ++ legal (o.mod == 0) ++ zero o.b ++ zero o.c ++ zero o.rm ++ zero o.sub
  | .popc h o => lcs h ++ dst o.d ++ src o.a ++ legal (isWideInt o.t) ++ legal (o.mod == 0) ++ zero o.b ++ zero o.c ++ zero o.rm ++ zero o.sub
  | .min h o => lcs h ++ dst o.d ++ src o.a ++ src o.b ++ legal (isWideInt o.t) ++ legal (o.mod == 0) ++ zero o.c ++ zero o.rm ++ zero o.sub
  | .max h o => lcs h ++ dst o.d ++ src o.a ++ src o.b ++ legal (isWideInt o.t) ++ legal (o.mod == 0) ++ zero o.c ++ zero o.rm ++ zero o.sub
  | .cmp h o => lcs h ++ dst o.d ++ src o.a ++ src o.b ++ legal (isWideInt o.t) ++ legal (o.mod == 0) ++ legal (o.sub.toNat < 6) ++ zero o.c ++ zero o.rm
  | .sel h o => lcs h ++ dst o.d ++ src o.a ++ src o.b ++ src o.c ++ zero o.t ++ zero o.rm ++ zero o.sub ++ zero o.mod
  | .li h o => lcs h ++ dst o.d ++ zero o.a
  | .lih h o => lcs h ++ dst o.d ++ src o.a ++ zero (o.imm.extractLsb' 31 2)
  | .mov h o => lcs h ++ dst o.d ++ src o.a ++ zero o.b ++ zero o.c ++ zero o.t ++ zero o.rm ++ zero o.sub ++ zero o.mod
  | .bfx h o => lcs h ++ dst o.d ++ src o.a ++ legal (o.mod.toNat + (o.sub.toNat % 64 + 1) ≤ 64) ++ legal (o.sub.toNat < 128) ++ zero o.b ++ zero o.c ++ zero o.t ++ zero o.rm
  | .bfi h o => lcs h ++ dst o.d ++ src o.a ++ src o.b ++ legal (o.mod.toNat + (o.sub.toNat % 64 + 1) ≤ 64) ++ legal (o.sub.toNat < 128) ++ zero (o.sub.extractLsb' 6 1) ++ zero o.c ++ zero o.t ++ zero o.rm
  | .addx h o => lcs h ++ dst o.d ++ src o.a ++ src o.b ++ zero (o.sub.extractLsb' 3 5) ++ zero o.c ++ zero o.t ++ zero o.rm ++ zero o.mod
  | .abs h o => lcs h ++ dst o.d ++ src o.a ++ zero o.b ++ legal (isWideInt o.t) ++ legal (o.mod.toNat < 2) ++ zero o.c ++ zero o.rm ++ zero o.sub
  | .andi h o => lcs h ++ dst o.d ++ src o.a
  | .ori h o => lcs h ++ dst o.d ++ src o.a
  | .xori h o => lcs h ++ dst o.d ++ src o.a
  | .muli h o => lcs h ++ dst o.d ++ src o.a
  | .fadd h o => onlyC h ++ dst o.d ++ dst o.a ++ dst o.b ++ legal (isFloat o.t) ++ zero o.c ++ zero o.sub ++ zero o.mod
  | .fsub h o => onlyC h ++ dst o.d ++ dst o.a ++ dst o.b ++ legal (isFloat o.t) ++ zero o.c ++ zero o.sub ++ zero o.mod
  | .fmul h o => onlyC h ++ dst o.d ++ dst o.a ++ dst o.b ++ legal (isFloat o.t) ++ zero o.c ++ zero o.sub ++ zero o.mod
  | .ffma h o => onlyC h ++ dst o.d ++ dst o.a ++ dst o.b ++ dst o.c ++ legal (isFloat o.t) ++ zero o.sub ++ zero o.mod
  | .fdiv h o => onlyC h ++ dst o.d ++ dst o.a ++ dst o.b ++ legal (isFloat o.t) ++ zero o.c ++ zero o.sub ++ zero o.mod
  | .fsqrt h o => onlyC h ++ dst o.d ++ dst o.a ++ legal (isFloat o.t) ++ zero o.b ++ zero o.c ++ zero o.sub ++ zero o.mod
  | .fmin h o => onlyC h ++ dst o.d ++ dst o.a ++ dst o.b ++ legal (isFloat o.t) ++ zero o.c ++ zero o.rm ++ zero o.sub ++ zero o.mod
  | .fmax h o => onlyC h ++ dst o.d ++ dst o.a ++ dst o.b ++ legal (isFloat o.t) ++ zero o.c ++ zero o.rm ++ zero o.sub ++ zero o.mod
  | .fcmp h o => onlyC h ++ dst o.d ++ dst o.a ++ dst o.b ++ legal (isFloat o.t) ++ legal (o.sub.toNat < 7) ++ zero o.c ++ zero o.rm ++ zero o.mod
  | .fcvt h o => onlyC h ++ dst o.d ++ srcOf (isInt (o.sub.extractLsb' 0 5)) o.a ++ legal (fcvtOk o) ++ zero (o.sub.extractLsb' 5 3) ++ zero (o.mod.extractLsb' 1 5) ++ zero o.b ++ zero o.c
  | .fsgn h o => onlyC h ++ dst o.d ++ dst o.a ++ dstOrZero (o.sub != 3 && o.sub != 4) o.b ++ legal (isFloat8 o.t) ++ legal (o.sub.toNat < 5) ++ zero o.c ++ zero o.rm ++ zero o.mod
  | .fclass h o => onlyC h ++ dst o.d ++ dst o.a ++ legal (isFloat8 o.t) ++ zero o.b ++ zero o.c ++ zero o.rm ++ zero o.sub ++ zero o.mod
  | .fmvs h o => onlyC h ++ dst o.d ++ srcOf (o.mod != 1) o.a ++ legal (o.mod.toNat < 2) ++ zero o.b ++ zero o.c ++ zero o.t ++ zero o.rm ++ zero o.sub
  | .fli h o => onlyC h ++ dst o.d ++ zero o.a
  | .fsel h o => onlyC h ++ dst o.d ++ dst o.a ++ dst o.b ++ prd o.c ++ zero o.t ++ zero o.rm ++ zero o.sub ++ zero o.mod
  | .pand h o => onlyC h ++ prd o.d ++ prd o.a ++ prd o.b ++ zero o.c ++ zero o.t ++ zero o.rm ++ zero o.sub ++ zero o.mod
  | .por h o => onlyC h ++ prd o.d ++ prd o.a ++ prd o.b ++ zero o.c ++ zero o.t ++ zero o.rm ++ zero o.sub ++ zero o.mod
  | .pxor h o => onlyC h ++ prd o.d ++ prd o.a ++ prd o.b ++ zero o.c ++ zero o.t ++ zero o.rm ++ zero o.sub ++ zero o.mod
  | .pandn h o => onlyC h ++ prd o.d ++ prd o.a ++ prd o.b ++ zero o.c ++ zero o.t ++ zero o.rm ++ zero o.sub ++ zero o.mod
  | .pset h o => onlyC h ++ prd o.d ++ src o.a ++ legal (o.sub.toNat < 3) ++ zero o.b ++ zero o.c ++ zero o.t ++ zero o.rm ++ zero o.mod
  | .psave h o => onlyC h ++ dst o.d ++ zero o.a ++ zero o.b ++ zero o.c ++ zero o.t ++ zero o.rm ++ zero o.sub ++ zero o.mod
  | .prest h o => onlyC h ++ dst o.a ++ zero o.d ++ zero o.b ++ zero o.c ++ zero o.t ++ zero o.rm ++ zero o.mod
  | .pqry h o => onlyC h ++ dst o.d ++ prd o.a ++ legal (o.sub.toNat < 5) ++ zero o.b ++ zero o.c ++ zero o.t ++ zero o.rm ++ zero o.mod
  | .xput h o => lcs h ++ src o.a ++ zero (o.sub.extractLsb' 1 7) ++ zero o.d ++ zero o.b ++ zero o.c ++ zero o.t ++ zero o.rm ++ zero o.mod
  | .xget h o => lcs h ++ dst o.d ++ zero (o.sub.extractLsb' 1 7) ++ zero o.a ++ zero o.b ++ zero o.c ++ zero o.t ++ zero o.rm ++ zero o.mod
  | .rdcnt h o => lcs h ++ dst o.d ++ legal (o.sub.toNat < 2) ++ zero o.a ++ zero o.b ++ zero o.c ++ zero o.t ++ zero o.rm ++ zero o.mod
  | .vadd h o => onlyC h ++ dst o.d ++ dst o.a ++ dst o.b ++ legal (isFloat o.t) ++ zero o.c ++ zero o.sub ++ zero o.mod
  | .vsub h o => onlyC h ++ dst o.d ++ dst o.a ++ dst o.b ++ legal (isFloat o.t) ++ zero o.c ++ zero o.sub ++ zero o.mod
  | .vmul h o => onlyC h ++ dst o.d ++ dst o.a ++ dst o.b ++ legal (isFloat o.t) ++ zero o.c ++ zero o.sub ++ zero o.mod
  | .vfma h o => onlyC h ++ dst o.d ++ dst o.a ++ dst o.b ++ dst o.c ++ legal (isFloat o.t) ++ zero o.sub ++ zero o.mod
  | .vmin h o => onlyC h ++ dst o.d ++ dst o.a ++ dst o.b ++ legal (isFloat o.t) ++ zero o.c ++ zero o.rm ++ zero o.sub ++ zero o.mod
  | .vmax h o => onlyC h ++ dst o.d ++ dst o.a ++ dst o.b ++ legal (isFloat o.t) ++ zero o.c ++ zero o.rm ++ zero o.sub ++ zero o.mod
  | .vsgn h o => onlyC h ++ dst o.d ++ dst o.a ++ dstOrZero (o.sub != 3 && o.sub != 4) o.b ++ legal (isFloat o.t) ++ legal (o.sub.toNat < 5) ++ zero o.c ++ zero o.rm ++ zero o.mod
  | .vcmp h o => onlyC h ++ (if o.sub.getLsbD 3 then dst o.d else prd o.d) ++ dst o.a ++ dst o.b ++ legal (vcmpOk o) ++ zero (o.sub.extractLsb' 4 4) ++ zero o.c ++ zero o.rm ++ zero o.mod
  | .vsel h o => onlyC h ++ dst o.d ++ dst o.a ++ dst o.b ++ dst o.c ++ legal (isSized o.t) ++ zero o.rm ++ zero o.sub ++ zero o.mod
  | .vcvt h o => onlyC h ++ dst o.d ++ dst o.a ++ legal (vcvtOk o) ++ zero (o.sub.extractLsb' 5 3) ++ zero (o.mod.extractLsb' 3 3) ++ zero o.b ++ zero o.c
  | .vquant h o => onlyC h ++ dst o.d ++ dst o.a ++ (if o.sub.getLsbD 0 then src o.b else zero o.b) ++ dst o.c ++ legal (isBlockFmt o.t) ++ zero (o.sub.extractLsb' 1 7) ++ quarterOnly o.mod ++ zero o.rm
  | .vdeq h o => onlyC h ++ dst o.d ++ dst o.a ++ src o.b ++ legal (o.t == 10 && isBlockFmt (o.sub.extractLsb' 0 5)) ++ zero (o.sub.extractLsb' 5 3) ++ quarterOnly o.mod ++ zero o.c ++ zero o.rm
  | .vexp2 h o => onlyC h ++ dst o.d ++ dst o.a ++ legal (isFloat o.t && o.t != 11) ++ zero o.b ++ zero o.c ++ zero o.rm ++ zero o.sub ++ zero o.mod
  | .vlog2 h o => onlyC h ++ dst o.d ++ dst o.a ++ legal (isFloat o.t && o.t != 11) ++ zero o.b ++ zero o.c ++ zero o.rm ++ zero o.sub ++ zero o.mod
  | .vrcp h o => onlyC h ++ dst o.d ++ dst o.a ++ legal (isFloat o.t && o.t != 11) ++ zero o.b ++ zero o.c ++ zero o.rm ++ zero o.sub ++ zero o.mod
  | .vrsq h o => onlyC h ++ dst o.d ++ dst o.a ++ legal (isFloat o.t && o.t != 11) ++ zero o.b ++ zero o.c ++ zero o.rm ++ zero o.sub ++ zero o.mod
  | .vtanh h o => onlyC h ++ dst o.d ++ dst o.a ++ legal (isFloat o.t && o.t != 11) ++ zero o.b ++ zero o.c ++ zero o.rm ++ zero o.sub ++ zero o.mod
  | .vred h o => onlyC h ++ dst o.d ++ dst o.a ++ legal (redOk o) ++ zeroIf (isInt o.t || o.sub != 0) o.rm ++ zero o.b ++ zero o.c
  | .vscan h o => onlyC h ++ dst o.d ++ dst o.a ++ legal (redOk o) ++ zeroIf (isInt o.t || o.sub != 0) o.rm ++ zero o.b ++ zero o.c
  | .vperm h o => onlyC h ++ dst o.d ++ dst o.a ++ dst o.b ++ legal (isSized o.t) ++ zero o.c ++ zero o.rm ++ zero o.sub ++ zero o.mod
  | .vbcast h o => onlyC h ++ dst o.d ++ srcOf (o.sub == 0) o.a ++ (if o.sub == 2 then src o.b else zero o.b) ++ legal (isSized o.t && decide (o.sub.toNat < 3)) ++ zero o.c ++ zero o.rm ++ zero o.mod
  | .vslide h o => onlyC h ++ dst o.d ++ dst o.a ++ src o.b ++ dst o.c ++ legal (isSized o.t && decide (o.sub.toNat < 2)) ++ zero o.rm ++ zero o.mod
  | .viadd h o => onlyC h ++ dst o.d ++ dst o.a ++ dst o.b ++ legal (isInt o.t && decide (o.mod.toNat < 2)) ++ zero o.c ++ zero o.rm ++ zero o.sub
  | .visub h o => onlyC h ++ dst o.d ++ dst o.a ++ dst o.b ++ legal (isInt o.t && decide (o.mod.toNat < 2)) ++ zero o.c ++ zero o.rm ++ zero o.sub
  | .vimul h o => onlyC h ++ dst o.d ++ dst o.a ++ dst o.b ++ legal (isInt o.t && decide (o.sub.toNat < 2) && decide (o.mod.toNat + o.sub.toNat < 2)) ++ zero o.c ++ zero o.rm
  | .vimnx h o => onlyC h ++ dst o.d ++ dst o.a ++ dst o.b ++ legal (isInt o.t && decide (o.sub.toNat < 2) && o.mod == 0) ++ zero o.c ++ zero o.rm
  | .vand h o => onlyC h ++ dst o.d ++ dst o.a ++ dst o.b ++ legal (isSized o.t && o.mod == 0) ++ zero o.c ++ zero o.rm ++ zero o.sub
  | .vor h o => onlyC h ++ dst o.d ++ dst o.a ++ dst o.b ++ legal (isSized o.t && o.mod == 0) ++ zero o.c ++ zero o.rm ++ zero o.sub
  | .vxor h o => onlyC h ++ dst o.d ++ dst o.a ++ dst o.b ++ legal (isSized o.t && o.mod == 0) ++ zero o.c ++ zero o.rm ++ zero o.sub
  | .vshl h o => onlyC h ++ dst o.d ++ dst o.a ++ dst o.b ++ legal (isInt o.t && o.mod == 0) ++ zero o.c ++ zero o.rm ++ zero o.sub
  | .vshr h o => onlyC h ++ dst o.d ++ dst o.a ++ dst o.b ++ legal (isInt o.t && o.mod == 0) ++ zero o.c ++ zero o.rm ++ zero o.sub
  | .vmov h o => onlyC h ++ dst o.d ++ dst o.a ++ legal (isSized o.t) ++ zero o.b ++ zero o.c ++ zero o.rm ++ zero o.sub ++ zero o.mod
  | .viota h o => onlyC h ++ dst o.d ++ src o.a ++ src o.b ++ legal (isInt o.t) ++ zero o.c ++ zero o.rm ++ zero o.sub ++ zero o.mod
  | .vextr h o => onlyC h ++ dst o.d ++ dst o.a ++ src o.b ++ legal (isSized o.t) ++ zero o.c ++ zero o.rm ++ zero o.sub ++ zero o.mod
  | .vins h o => onlyC h ++ dst o.d ++ srcOf (isInt o.t) o.a ++ src o.b ++ legal (isSized o.t) ++ zero o.c ++ zero o.rm ++ zero o.sub ++ zero o.mod
  | .vcomp h o => onlyC h ++ dst o.d ++ dst o.a ++ legal (vcompOk o) ++ zero (o.sub.extractLsb' 2 6) ++ zero o.b ++ zero o.c
  | .vexpd h o => onlyC h ++ dst o.d ++ dst o.a ++ legal (isSized o.t) ++ zero o.b ++ zero o.c ++ zero o.rm ++ zero o.sub ++ zero o.mod
  | .vpack h o => onlyC h ++ dst o.d ++ dst o.a ++ dst o.b ++ legal (decide (o.t.toNat < 6) && decide (o.mod.toNat < 2)) ++ zero o.c ++ zero o.rm ++ zero o.sub
  | .vunpk h o => onlyC h ++ dst o.d ++ dst o.a ++ legal (isInt o.t && decide (2 ≤ o.t.toNat) && decide (o.sub.toNat < 2)) ++ zero o.b ++ zero o.c ++ zero o.rm ++ zero o.mod
  | .vclamp h o => onlyC h ++ dst o.d ++ dst o.a ++ dst o.b ++ dst o.c ++ legal (isFloat o.t) ++ zero o.rm ++ zero o.sub ++ zero o.mod
  | .vcprs h o => onlyC h ++ dst o.d ++ dst o.a ++ legal (isSized o.t) ++ zero o.b ++ zero o.c ++ zero o.rm ++ zero o.sub ++ zero o.mod
  | .vosm h o => onlyC h ++ dst o.d ++ dst o.a ++ dst o.b ++ dst o.c ++ legal (o.t == 10) ++ zero o.rm ++ zero o.sub ++ zero o.mod
  | .vld h o => onlyC h ++ dst o.d ++ src o.base ++ src o.idx ++ legal (o.sz.toNat < 4) ++ zero o.ord ++ zero o.scope
  | .vst h o => onlyC h ++ dst o.d ++ src o.base ++ src o.idx ++ legal (o.sz.toNat < 4) ++ zero o.ord ++ zero o.scope
  | .vldx h o => onlyC h ++ dst o.d ++ src o.base ++ src o.idx ++ legal (o.sz.toNat < 4) ++ zero o.ord ++ zero o.scope
  | .vstx h o => onlyC h ++ dst o.d ++ src o.base ++ src o.idx ++ legal (o.sz.toNat < 4) ++ zero o.ord ++ zero o.scope
  | .vldb h o => onlyC h ++ dst o.d ++ src o.base ++ src o.idx ++ legal (o.sz.toNat < 4) ++ zero o.ord ++ zero o.scope
  | .lds h o => onlyC h ++ dst o.d ++ src o.base ++ src o.idx ++ legal (o.sz != 7) ++ zero o.ord ++ zero o.scope
  | .sts h o => onlyC h ++ src o.d ++ src o.base ++ src o.idx ++ legal (o.sz.toNat < 4) ++ zero o.ord ++ zero o.scope
  | .vldg h o => onlyC h ++ dst o.d ++ src o.base ++ src o.idx ++ legal (o.sz.toNat < 4) ++ zero o.ord ++ zero o.scope
  | .vstg h o => onlyC h ++ dst o.d ++ src o.base ++ src o.idx ++ legal (o.sz.toNat < 4) ++ zero o.ord ++ zero o.scope
  | .vgath h o => onlyC h ++ dst o.d ++ src o.base ++ dst o.idx ++ legal (o.sz.toNat < 4) ++ zero o.ord ++ zero o.scope
  | .vscat h o => onlyC h ++ dst o.d ++ src o.base ++ dst o.idx ++ legal (o.sz.toNat < 4) ++ zero o.ord ++ zero o.scope
  | .prfg h o => onlyC h ++ zero o.d ++ src o.base ++ src o.idx ++ legal (o.sz.toNat < 2) ++ zero o.ord ++ zero o.scope
  | .ld h o => lcs h ++ dst o.d ++ src o.base ++ src o.idx ++ legal (o.sz != 7) ++ legal (o.ord.toNat < 2) ++ legal (o.scope.toNat < 5)
  | .st h o => lcs h ++ src o.d ++ src o.base ++ src o.idx ++ legal (o.sz.toNat < 4) ++ legal (o.ord == 0 || o.ord == 2) ++ legal (o.scope.toNat < 5)
  | .atom h o => lcs h ++ dst o.d ++ src o.base ++ src o.idx ++ legal (o.sz == 2 || o.sz == 3) ++ zeroIf (o.sz == 3) o.sc ++ zero (o.sc.extractLsb' 1 2) ++ legal (aopOf o ≤ 12) ++ legal (o.scope.toNat < 5)
  | .redm h o => lcs h ++ zero o.d ++ src o.base ++ src o.idx ++ legal (o.sz == 2 || o.sz == 3) ++ zero o.sc ++ legal (aopOf o ≤ 10) ++ legal (o.ord == 0 || o.ord == 2) ++ legal (o.scope.toNat < 5)
  | .vatom h o => onlyC h ++ dst o.d ++ src o.base ++ dst o.idx ++ legal (o.sz == 2 || o.sz == 3) ++ zero (o.sc.extractLsb' 2 1) ++ legal (aopOf o ≤ 11) ++ legal (o.scope.toNat < 5)
  | .vredm h o => onlyC h ++ dst o.d ++ src o.base ++ dst o.idx ++ legal (o.sz == 2 || o.sz == 3) ++ zero (o.sc.extractLsb' 2 1) ++ legal (aopOf o ≤ 10) ++ legal (o.ord == 0 || o.ord == 2) ++ legal (o.scope.toNat < 5)
  | .waita h o => lcs h ++ dst o.d ++ src o.base ++ src o.idx ++ legal (o.sz == 2 || o.sz == 3) ++ zero o.sc ++ legal (aopOf o ≤ 5) ++ legal (o.ord.toNat < 2) ++ legal (o.scope.toNat < 5)
  | .fence h o => lcs h ++ legal (o.ord != 0) ++ legal (o.scope.toNat < 5) ++ zero o.d ++ zero o.base ++ zero o.idx ++ zero o.sz ++ zero o.sc ++ zero o.off
  | .bind h o => lcs h ++ dst o.d ++ src o.a ++ src o.b ++ src o.c ++ legal (o.sub.toNat < 4) ++ zero o.t ++ zero o.rm ++ zero o.mod
  | .unbind h o => lcs h ++ dst o.d ++ (if o.sub == 1 then zero o.a ++ zero o.c else src o.a ++ src o.c) ++ legal (o.sub.toNat < 2) ++ zero o.b ++ zero o.t ++ zero o.rm ++ zero o.mod
  | .cinv h o => lcs h ++ legal (o.sz.toNat < 4) ++ (if o.sz == 2 || o.sz == 3 then zero o.base ++ zero o.idx ++ zero o.off else src o.base ++ src o.idx) ++ zero o.d ++ zero o.sc ++ zero o.ord ++ zero o.scope
  | .mzero h o => onlyC h ++ zero o.a ++ zero o.b ++ zero o.k ++ zero o.ta ++ zero o.tb ++ zero o.sub ++ zero o.fl
  | .mma h o => onlyC h ++ src o.a ++ src o.b ++ src o.k ++ legal (mmaOk o) ++ mmaZero o
  | .mld h o => onlyC h ++ src o.a ++ src o.k ++ legal (isFloat o.ta) ++ swOnly o.fl 0x18 ++ zero o.b ++ zero o.tb ++ zero o.sub
  | .mst h o => onlyC h ++ src o.a ++ src o.k ++ legal (isFloat o.ta) ++ swOnly o.fl 0x1A ++ zero (o.sub.extractLsb' 2 7) ++ zero o.b ++ zero o.tb
  | .mldt h o => onlyC h ++ src o.a ++ src o.k ++ legal (isFloat o.ta) ++ swOnly o.fl 0x18 ++ zero o.b ++ zero o.tb ++ zero o.sub
  | .lutmv h o => onlyC h ++ src o.b ++ src o.k ++ legal (isPlanes o.tb) ++ zero (o.sub.extractLsb' 2 7) ++ zero o.a ++ zero o.ta ++ zero o.fl
  | .lutld h o => onlyC h ++ src o.a ++ src o.k ++ legal (isBlockFmt o.ta || o.ta == 9) ++ zero (o.fl &&& 0x3D) ++ zero o.acc ++ zero o.b ++ zero o.tb ++ zero o.sub
  | .macc h o => onlyC h ++ zero (o.sub.extractLsb' 5 4) ++ zero o.a ++ zero o.b ++ zero o.k ++ zero o.ta ++ zero o.tb ++ zero o.fl
  | .mred h o => onlyC h ++ dst o.a ++ legal (o.ta == 10) ++ legal (mredOk o.sub) ++ zeroIf (o.sub.extractLsb' 0 2 != 0) (o.sub.extractLsb' 3 2) ++ zero (o.sub.extractLsb' 5 4) ++ zero o.b ++ zero o.k ++ zero o.tb ++ zero o.fl
  | .mrow h o => onlyC h ++ dst o.a ++ src o.b ++ legal (mrowOk o) ++ zero (o.sub.extractLsb' 4 5) ++ zero o.k ++ zero o.tb ++ zero o.fl
  | .copy h o => onlyLS h ++ src o.dst ++ src o.src ++ src o.desc ++ src o.ctr ++ legal (o.seqf != 3) ++ legal (copySw o 4) ++ zero (o.fl.extractLsb' 4 1)
  | .copyt h o => onlyLS h ++ src o.dst ++ src o.src ++ src o.desc ++ src o.ctr ++ legal (o.seqf != 3) ++ legal (copySw o 5) ++ legal (o.fl.getLsbD 4)
  | .fill h o => onlyLS h ++ src o.dst ++ src o.src ++ src o.desc ++ src o.ctr ++ legal (o.seqf != 3) ++ legal (o.sub.toNat < 4) ++ zero (o.fl.extractLsb' 3 1) ++ zero (o.fl.extractLsb' 4 1)
  | .qcvt h o => onlyLS h ++ src o.dst ++ src o.src ++ src o.desc ++ src o.ctr ++ legal (o.seqf != 3) ++ legal (isBlockFmt (o.sub.extractLsb' 0 5)) ++ zero (o.sub.extractLsb' 7 2)
  | .plane h o => onlyLS h ++ src o.dst ++ src o.src ++ src o.desc ++ src o.ctr ++ legal (o.seqf != 3) ++ zero (o.sub.extractLsb' 3 6) ++ zero (o.fl.extractLsb' 2 1) ++ zero (o.fl.extractLsb' 3 1) ++ zero (o.fl.extractLsb' 4 1)
  | .pref h o => onlyLS h ++ zero o.dst ++ src o.src ++ src o.desc ++ src o.ctr ++ legal (o.seqf != 3) ++ legal (o.sub.toNat < 2) ++ zero (o.fl.extractLsb' 0 1) ++ zero (o.fl.extractLsb' 2 1) ++ zero (o.fl.extractLsb' 3 1) ++ zero (o.fl.extractLsb' 4 1)
  | .waitc h o => lcs h ++ noPred h ++ dst o.d ++ src o.a ++ src o.b ++ legal (o.sub.toNat < 2) ++ zero o.c ++ zero o.t ++ zero o.rm ++ zero o.mod
  | .testc h o => lcs h ++ noPred h ++ dst o.d ++ src o.a ++ src o.b ++ legal (o.sub.toNat < 2) ++ zero o.c ++ zero o.t ++ zero o.rm ++ zero o.mod
  | .testcQ h o => lcs h ++ noPred h ++ dst o.d ++ src o.a ++ legal (o.sub == 2) ++ zero o.b ++ zero o.c ++ zero o.t ++ zero o.rm ++ zero o.mod
  | .cset h o => onlyLS h ++ src o.a ++ src o.b ++ legal (o.sub.toNat < 2) ++ zero o.d ++ zero o.c ++ zero o.t ++ zero o.rm ++ zero o.mod
  | .edep h o => onlyLS h ++ src o.a ++ src o.b ++ legal (o.sub == 0) ++ zero o.d ++ zero o.c ++ zero o.t ++ zero o.rm ++ zero o.mod
  | .fsend h o => onlyLS h ++ src o.dst ++ src o.src ++ src o.desc ++ src o.ctr ++ legal (o.seqf != 3) ++ zero o.sub ++ zero (o.fl.extractLsb' 0 1) ++ zero (o.fl.extractLsb' 2 1)
  | .frecv h o => onlyLS h ++ src o.dst ++ src o.src ++ src o.desc ++ src o.ctr ++ legal (o.seqf != 3) ++ zero o.sub ++ zero (o.fl.extractLsb' 0 1) ++ zero (o.fl.extractLsb' 3 1)
  | .fcoll h o => onlyLS h ++ src o.dst ++ src o.src ++ src o.desc ++ src o.ctr ++ legal (o.seqf != 3) ++ zero o.sub ++ zero (o.fl.extractLsb' 0 1) ++ zero (o.fl.extractLsb' 4 1)
  | .enq h o => lcs h ++ dst o.d ++ src o.a ++ src o.b ++ src o.c ++ zero o.t ++ zero o.rm ++ legal (o.sub.toNat < 2) ++ legal (o.mod.toNat < 2)
  | .deq h o => lcs h ++ dst o.d ++ src o.a ++ src o.b ++ src o.c ++ zero o.t ++ zero o.rm ++ legal (o.sub.toNat < 2) ++ legal (o.mod.toNat < 2)
  | .rodinit h o => lcs h ++ dst o.d ++ src o.a ++ src o.b ++ src o.c ++ zero o.t ++ zero o.rm ++ legal (o.sub.toNat < 2) ++ zero o.mod
  | .rodqry h o => lcs h ++ dst o.d ++ src o.a ++ src o.b ++ zero o.c ++ zero o.t ++ zero o.rm ++ legal (o.sub.toNat < 2) ++ zero o.mod
  | .rodclose h o => lcs h ++ dst o.d ++ src o.a ++ zero o.b ++ zero o.c ++ zero o.t ++ zero o.rm ++ legal (o.sub.toNat < 2) ++ zero o.mod
  | .rodadmDrain h o => lcs h ++ dst o.d ++ src o.a ++ zero o.ctrl ++ legal (o.sub == 0)
  | .rodadmReopen h o => lcs h ++ dst o.d ++ src o.a ++ zero o.ctrl ++ legal (o.sub == 1)
  | .rodadmRepair h o => lcs h ++ dst o.d ++ src o.a ++ zero o.ctrl ++ legal (o.sub == 2)
  | .rodadmRetire h o => lcs h ++ dst o.d ++ src o.a ++ zero o.ctrl ++ legal (o.sub == 3)
  | .barW h o => lcs h ++ dst o.d ++ src o.a ++ zero o.b ++ zero o.c ++ zero o.t ++ zero o.rm ++ legal (o.sub == 0) ++ zero o.mod
  | .barArr h o => lcs h ++ dst o.d ++ src o.a ++ zero o.b ++ zero o.c ++ zero o.t ++ zero o.rm ++ legal (o.sub == 1) ++ zero o.mod
  | .barWt h o => lcs h ++ dst o.d ++ src o.a ++ src o.b ++ zero o.c ++ zero o.t ++ zero o.rm ++ legal (o.sub == 2) ++ zero o.mod
  | .barInit h o => lcs h ++ dst o.d ++ src o.a ++ src o.b ++ zero o.c ++ zero o.t ++ zero o.rm ++ legal (o.sub == 3) ++ zero o.mod
  | .slinit h o => lcs h ++ dst o.d ++ src o.a ++ src o.b ++ src o.c ++ zero o.t ++ zero o.rm ++ zero o.sub ++ zero o.mod
  | .slacqRd h o => lcs h ++ dst o.d ++ src o.a ++ zero o.b ++ zero o.c ++ zero o.t ++ zero o.rm ++ legal (o.sub == 0) ++ legal (o.mod.toNat < 2)
  | .slacqWr h o => lcs h ++ dst o.d ++ src o.a ++ zero o.b ++ zero o.c ++ zero o.t ++ zero o.rm ++ legal (o.sub == 1) ++ legal (o.mod.toNat < 2)
  | .slpub h o => lcs h ++ dst o.d ++ src o.a ++ zero o.b ++ zero o.c ++ zero o.t ++ zero o.rm ++ zero o.sub ++ zero o.mod
  | .slrel h o => lcs h ++ dst o.d ++ src o.a ++ src o.b ++ zero o.c ++ zero o.t ++ zero o.rm ++ zero o.sub ++ zero o.mod
  | .sqget h o => lcs h ++ dst o.d ++ src o.a ++ zero o.b ++ zero o.c ++ zero o.t ++ zero o.rm ++ zero o.sub ++ legal (o.mod.toNat < 2)
  | .sqaccQ h o => lcs h ++ dst o.d ++ src o.a ++ src o.b ++ zero o.c ++ zero o.t ++ zero o.rm ++ legal (o.sub == 0) ++ zero o.mod
  | .sqaccP h o => lcs h ++ dst o.d ++ src o.a ++ src o.b ++ src o.c ++ zero o.t ++ zero o.rm ++ legal (o.sub == 1) ++ zero o.mod
  | .sqcommit h o => lcs h ++ dst o.d ++ src o.a ++ src o.b ++ src o.c ++ zero o.t ++ zero o.rm ++ zero o.sub ++ zero o.mod
  | .sqparkAdmit h o => lcs h ++ dst o.d ++ src o.a ++ zero o.b ++ zero o.c ++ zero o.t ++ zero o.rm ++ legal (o.sub == 0) ++ zero o.mod
  | .sqparkImport h o => lcs h ++ dst o.d ++ src o.a ++ zero o.b ++ zero o.c ++ zero o.t ++ zero o.rm ++ legal (o.sub == 1) ++ zero o.mod
  | .sqparkPark h o => lcs h ++ dst o.d ++ src o.a ++ zero o.b ++ zero o.c ++ zero o.t ++ zero o.rm ++ legal (o.sub == 2) ++ zero o.mod
  | .sqparkAbort h o => lcs h ++ dst o.d ++ src o.a ++ zero o.b ++ zero o.c ++ zero o.t ++ zero o.rm ++ legal (o.sub == 3) ++ zero o.mod
  | .sqparkResume h o => lcs h ++ dst o.d ++ src o.a ++ zero o.b ++ zero o.c ++ zero o.t ++ zero o.rm ++ legal (o.sub == 4) ++ zero o.mod
  | .sqparkMigout h o => lcs h ++ dst o.d ++ src o.a ++ zero o.b ++ zero o.c ++ zero o.t ++ zero o.rm ++ legal (o.sub == 5) ++ zero o.mod
  | .sqparkMigdone h o => lcs h ++ dst o.d ++ src o.a ++ zero o.b ++ zero o.c ++ zero o.t ++ zero o.rm ++ legal (o.sub == 6) ++ zero o.mod
  | .sqparkMigabort h o => lcs h ++ dst o.d ++ src o.a ++ zero o.b ++ zero o.c ++ zero o.t ++ zero o.rm ++ legal (o.sub == 7) ++ zero o.mod
  | .sqparkRetire h o => lcs h ++ dst o.d ++ src o.a ++ zero o.b ++ zero o.c ++ zero o.t ++ zero o.rm ++ legal (o.sub == 8) ++ zero o.mod
  | .sqparkPreempt h o => lcs h ++ dst o.d ++ src o.a ++ zero o.b ++ zero o.c ++ zero o.t ++ zero o.rm ++ legal (o.sub == 9) ++ zero o.mod
  | .kvmap h o => lcs h ++ dst o.d ++ src o.a ++ src o.b ++ src o.c ++ zero o.t ++ zero o.rm ++ zero o.sub ++ zero o.mod
  | .kvunpin h o => lcs h ++ dst o.d ++ src o.a ++ src o.b ++ zero o.c ++ zero o.t ++ zero o.rm ++ zero o.sub ++ zero o.mod
  | .kvapp h o => onlyLS h ++ src o.dst ++ src o.src ++ src o.desc ++ src o.ctr ++ legal (o.seqf != 3) ++ zero o.sub ++ zero (o.fl.extractLsb' 0 1) ++ zero (o.fl.extractLsb' 2 1) ++ zero (o.fl.extractLsb' 3 1) ++ zero (o.fl.extractLsb' 4 1)
  | .pfxlk h o => lcs h ++ dst o.d ++ src o.a ++ src o.b ++ src o.c ++ zero o.t ++ zero o.rm ++ zero o.sub ++ zero o.mod
  | .pfxins h o => lcs h ++ dst o.d ++ src o.a ++ src o.b ++ zero o.c ++ zero o.t ++ zero o.rm ++ zero o.sub ++ zero o.mod
  | .pfxrel h o => lcs h ++ dst o.d ++ src o.a ++ src o.b ++ zero o.c ++ zero o.t ++ zero o.rm ++ zero o.sub ++ zero o.mod
  | .psel h o => onlyLS h ++ src o.dst ++ src o.src ++ src o.desc ++ src o.ctr ++ legal (o.seqf != 3) ++ zero o.sub ++ zero (o.fl.extractLsb' 0 1) ++ zero (o.fl.extractLsb' 2 1) ++ zero (o.fl.extractLsb' 3 1) ++ zero (o.fl.extractLsb' 4 1)
  | .sample h o => lcs h ++ dst o.d ++ src o.a ++ src o.b ++ src o.c ++ zero o.t ++ zero o.rm ++ legal (o.sub.toNat < 4) ++ zero o.mod
  | .rngdraw h o => lcs h ++ dst o.d ++ src o.a ++ src o.b ++ zero o.c ++ zero o.t ++ zero o.rm ++ legal (o.sub.toNat < 2) ++ zero o.mod
  | .btinv h o => lcs h ++ src o.d ++ src o.a ++ zero o.ctrl ++ zero o.sub
  | .pfxadmInit h o => lcs h ++ dst o.d ++ src o.a ++ zero o.ctrl ++ legal (o.sub == 0)
  | .pfxadmDemote h o => lcs h ++ dst o.d ++ src o.a ++ zero o.ctrl ++ legal (o.sub == 1)
  | .pfxadmPromote h o => lcs h ++ dst o.d ++ src o.a ++ zero o.ctrl ++ legal (o.sub == 2)
  | .pfxadmEvict h o => lcs h ++ dst o.d ++ src o.a ++ zero o.ctrl ++ legal (o.sub == 3)
  | .pfxadmFlush h o => lcs h ++ dst o.d ++ src o.a ++ zero o.ctrl ++ legal (o.sub == 4)
  | .mfc h o => lcs h ++ dst o.d ++ zero o.a ++ legal (isCtrlReg o.ctrl) ++ zero o.sub
  | .mtc h o => lcs h ++ zero o.d ++ src o.a ++ legal (isCtrlReg o.ctrl) ++ zero o.sub
  | .eret h o => onlyA h ++ zero o.d ++ zero o.a ++ zero o.ctrl ++ zero o.sub
  | .ctxsw h o => onlyA h ++ zero o.d ++ zero o.a ++ zero o.ctrl ++ zero o.sub
  | .ctxspill h o => lcs h ++ dst o.d ++ src o.a ++ zero o.ctrl ++ legal (o.sub == 0)
  | .ctxspillKill h o => lcs h ++ dst o.d ++ src o.a ++ zero o.ctrl ++ legal (o.sub == 1)
  | .ctxfill h o => lcs h ++ dst o.d ++ src o.a ++ zero o.ctrl ++ legal (o.sub == 0)
  | .ctxfillResume h o => lcs h ++ dst o.d ++ src o.a ++ zero o.ctrl ++ legal (o.sub == 1)
  | .waiti h o => onlyA h ++ zero o.d ++ src o.a ++ zero o.ctrl ++ zero o.sub
  | .tlbinvVa h o => lcs h ++ dst o.d ++ src o.a ++ zero o.ctrl ++ legal (o.sub == 0)
  | .tlbinvAsid h o => lcs h ++ dst o.d ++ src o.a ++ zero o.ctrl ++ legal (o.sub == 1)
  | .tlbinvAll h o => lcs h ++ dst o.d ++ src o.a ++ zero o.ctrl ++ legal (o.sub == 2)
  | .tlbinvBind h o => lcs h ++ dst o.d ++ src o.a ++ zero o.ctrl ++ legal (o.sub == 3)
  | .tlbinvUnbind h o => lcs h ++ dst o.d ++ src o.a ++ zero o.ctrl ++ legal (o.sub == 4)
  | .tlbinvInit h o => lcs h ++ dst o.d ++ src o.a ++ zero o.ctrl ++ legal (o.sub == 5)
  | .migrMove h o => lcs h ++ dst o.d ++ src o.a ++ zero o.ctrl ++ legal (o.sub == 0)
  | .migrCnt h o => lcs h ++ dst o.d ++ src o.a ++ zero o.ctrl ++ legal (o.sub == 1)
  | .migrRetry h o => lcs h ++ dst o.d ++ src o.a ++ zero o.ctrl ++ legal (o.sub == 2)
  | .migrInit h o => lcs h ++ dst o.d ++ src o.a ++ zero o.ctrl ++ legal (o.sub == 3)
  | .monrdTemp h o => lcs h ++ dst o.d ++ src o.a ++ zero o.ctrl ++ legal (o.sub == 0)
  | .monrdVolt h o => lcs h ++ dst o.d ++ src o.a ++ zero o.ctrl ++ legal (o.sub == 1)
  | .monrdProc h o => lcs h ++ dst o.d ++ src o.a ++ zero o.ctrl ++ legal (o.sub == 2)
  | .monrdSlow h o => lcs h ++ dst o.d ++ src o.a ++ zero o.ctrl ++ legal (o.sub == 3)
  | .monrdWear h o => lcs h ++ dst o.d ++ src o.a ++ zero o.ctrl ++ legal (o.sub == 4)
  | .monrdPlace h o => lcs h ++ dst o.d ++ src o.a ++ zero o.ctrl ++ legal (o.sub == 5)
  | .monrdRev h o => lcs h ++ dst o.d ++ src o.a ++ zero o.ctrl ++ legal (o.sub == 6)
  | .overlayFillComplete => []
  | .engineCommandStart => []
  | .relocSteal => []
  | .engineCommandComplete => []
  | .engineTranslationFault => []
  | .fcollMemberReport => []
  | .fcollDecision => []
  | .fcollRtoExpiry => []
  | .fcollHomeSilentExpiry => []
  | .rodCommit => []
  | .rodWaitCancel => []
  | .waitTableRetry => []
  | .commitComplete => []
  | .completionRecordPost => []
  | .deferredBeadEnqueue => []
  | .draftShareApply => []
  | .kvappEntryUpdate => []
  | .btinvSignal => []
  | .timer => []
  | .laneDeadlock => []
  | .contextFaultEnd => []
  | .contextComplete => []
  | .placePoint => []
  | .nestComplete => []
  | .launchNest => []
  | .partcfg => []
  | .vifcfg => []
  | .groupcfgForm => []
  | .groupcfgFree => []
  | .groupFormed => []
  | .groupFormTimeout => []
  | .bankSwap => []
  | .quantumExpiry => []
  | .backgroundSpillDone => []
  | .wakeNotice => []
  | .wakeFallbackExpiry => []
  | .splitApply => []
  | .lwin => []
  | .cwin => []
  | .hostRegisterWrite => []
  | .functionReset => []
  | .completionTimerExpiry => []
  | .atsInvalidation => []
  | .pageRequestResponse => []
  | .flitReplay => []
  | .meshLinkFailure => []
  | .scaleoutLaneFailure => []
  | .vbusWireFault => []
  | .quiesce => []
  | .monitorSample => []
  | .thermalCapStep => []
  | .powerSample => []
  | .wearFlush => []
  | .moduleReset => []
  | .bootStage => []
  | .getVersion => []
  | .getCapabilities => []
  | .negotiateAlgorithms => []
  | .getDigests => []
  | .getCertificate => []
  | .challenge => []
  | .getMeasurements => []
  | .globalWritePerformed => []
  | .accumulatorWriteLands => []
  | .hostMemoryWrite => []
  | .hostMemoryRead => []
  | .hostDoorbell => []
  | .softError => []
  | .powerLoss => []
  | .orderlyShutdown => []

/-- The first reason of R212, from 3 to 9, that applies to the word alone; none for a legal word. -/
def illegalReason (i : Instr) : Option Nat := leastReason (checksOf i)

/-- Reason 9 of R212, which depends on the PC: a BR-format word whose PC + OFF lies outside 0 to
16,383 (R206). -/
def targetOutside (pc : Nat) (i : Instr) : Bool :=
  match i with
  | .br _ o | .brc _ o | .brx _ o | .call _ o | .callx _ o | .ret _ o | .loop _ o =>
    let t := (pc : Int) + o.off.toInt
    decide (t < 0) || decide (16383 < t)
  | _ => false

/-- The common fields of a program instruction. -/
def hdrOf (i : Instr) : Option Hdr :=
  match i with
  | .nop h _ => some h
  | .br h _ => some h
  | .brc h _ => some h
  | .brx h _ => some h
  | .call h _ => some h
  | .callx h _ => some h
  | .ret h _ => some h
  | .loop h _ => some h
  | .sync h _ => some h
  | .endLane h _ => some h
  | .trap h _ => some h
  | .bkpt h _ => some h
  | .stk h _ => some h
  | .ovl h _ => some h
  | .add h _ => some h
  | .sub h _ => some h
  | .addi h _ => some h
  | .mul h _ => some h
  | .mulh h _ => some h
  | .div h _ => some h
  | .rem h _ => some h
  | .and h _ => some h
  | .or h _ => some h
  | .xor h _ => some h
  | .andn h _ => some h
  | .shl h _ => some h
  | .shr h _ => some h
  | .sar h _ => some h
  | .rotr h _ => some h
  | .clz h _ => some h
  | .popc h _ => some h
  | .min h _ => some h
  | .max h _ => some h
  | .cmp h _ => some h
  | .sel h _ => some h
  | .li h _ => some h
  | .lih h _ => some h
  | .mov h _ => some h
  | .bfx h _ => some h
  | .bfi h _ => some h
  | .addx h _ => some h
  | .abs h _ => some h
  | .andi h _ => some h
  | .ori h _ => some h
  | .xori h _ => some h
  | .muli h _ => some h
  | .fadd h _ => some h
  | .fsub h _ => some h
  | .fmul h _ => some h
  | .ffma h _ => some h
  | .fdiv h _ => some h
  | .fsqrt h _ => some h
  | .fmin h _ => some h
  | .fmax h _ => some h
  | .fcmp h _ => some h
  | .fcvt h _ => some h
  | .fsgn h _ => some h
  | .fclass h _ => some h
  | .fmvs h _ => some h
  | .fli h _ => some h
  | .fsel h _ => some h
  | .pand h _ => some h
  | .por h _ => some h
  | .pxor h _ => some h
  | .pandn h _ => some h
  | .pset h _ => some h
  | .psave h _ => some h
  | .prest h _ => some h
  | .pqry h _ => some h
  | .xput h _ => some h
  | .xget h _ => some h
  | .rdcnt h _ => some h
  | .vadd h _ => some h
  | .vsub h _ => some h
  | .vmul h _ => some h
  | .vfma h _ => some h
  | .vmin h _ => some h
  | .vmax h _ => some h
  | .vsgn h _ => some h
  | .vcmp h _ => some h
  | .vsel h _ => some h
  | .vcvt h _ => some h
  | .vquant h _ => some h
  | .vdeq h _ => some h
  | .vexp2 h _ => some h
  | .vlog2 h _ => some h
  | .vrcp h _ => some h
  | .vrsq h _ => some h
  | .vtanh h _ => some h
  | .vred h _ => some h
  | .vscan h _ => some h
  | .vperm h _ => some h
  | .vbcast h _ => some h
  | .vslide h _ => some h
  | .viadd h _ => some h
  | .visub h _ => some h
  | .vimul h _ => some h
  | .vimnx h _ => some h
  | .vand h _ => some h
  | .vor h _ => some h
  | .vxor h _ => some h
  | .vshl h _ => some h
  | .vshr h _ => some h
  | .vmov h _ => some h
  | .viota h _ => some h
  | .vextr h _ => some h
  | .vins h _ => some h
  | .vcomp h _ => some h
  | .vexpd h _ => some h
  | .vpack h _ => some h
  | .vunpk h _ => some h
  | .vclamp h _ => some h
  | .vcprs h _ => some h
  | .vosm h _ => some h
  | .vld h _ => some h
  | .vst h _ => some h
  | .vldx h _ => some h
  | .vstx h _ => some h
  | .vldb h _ => some h
  | .lds h _ => some h
  | .sts h _ => some h
  | .vldg h _ => some h
  | .vstg h _ => some h
  | .vgath h _ => some h
  | .vscat h _ => some h
  | .prfg h _ => some h
  | .ld h _ => some h
  | .st h _ => some h
  | .atom h _ => some h
  | .redm h _ => some h
  | .vatom h _ => some h
  | .vredm h _ => some h
  | .waita h _ => some h
  | .fence h _ => some h
  | .bind h _ => some h
  | .unbind h _ => some h
  | .cinv h _ => some h
  | .mzero h _ => some h
  | .mma h _ => some h
  | .mld h _ => some h
  | .mst h _ => some h
  | .mldt h _ => some h
  | .lutmv h _ => some h
  | .lutld h _ => some h
  | .macc h _ => some h
  | .mred h _ => some h
  | .mrow h _ => some h
  | .copy h _ => some h
  | .copyt h _ => some h
  | .fill h _ => some h
  | .qcvt h _ => some h
  | .plane h _ => some h
  | .pref h _ => some h
  | .waitc h _ => some h
  | .testc h _ => some h
  | .testcQ h _ => some h
  | .cset h _ => some h
  | .edep h _ => some h
  | .fsend h _ => some h
  | .frecv h _ => some h
  | .fcoll h _ => some h
  | .enq h _ => some h
  | .deq h _ => some h
  | .rodinit h _ => some h
  | .rodqry h _ => some h
  | .rodclose h _ => some h
  | .rodadmDrain h _ => some h
  | .rodadmReopen h _ => some h
  | .rodadmRepair h _ => some h
  | .rodadmRetire h _ => some h
  | .barW h _ => some h
  | .barArr h _ => some h
  | .barWt h _ => some h
  | .barInit h _ => some h
  | .slinit h _ => some h
  | .slacqRd h _ => some h
  | .slacqWr h _ => some h
  | .slpub h _ => some h
  | .slrel h _ => some h
  | .sqget h _ => some h
  | .sqaccQ h _ => some h
  | .sqaccP h _ => some h
  | .sqcommit h _ => some h
  | .sqparkAdmit h _ => some h
  | .sqparkImport h _ => some h
  | .sqparkPark h _ => some h
  | .sqparkAbort h _ => some h
  | .sqparkResume h _ => some h
  | .sqparkMigout h _ => some h
  | .sqparkMigdone h _ => some h
  | .sqparkMigabort h _ => some h
  | .sqparkRetire h _ => some h
  | .sqparkPreempt h _ => some h
  | .kvmap h _ => some h
  | .kvunpin h _ => some h
  | .kvapp h _ => some h
  | .pfxlk h _ => some h
  | .pfxins h _ => some h
  | .pfxrel h _ => some h
  | .psel h _ => some h
  | .sample h _ => some h
  | .rngdraw h _ => some h
  | .btinv h _ => some h
  | .pfxadmInit h _ => some h
  | .pfxadmDemote h _ => some h
  | .pfxadmPromote h _ => some h
  | .pfxadmEvict h _ => some h
  | .pfxadmFlush h _ => some h
  | .mfc h _ => some h
  | .mtc h _ => some h
  | .eret h _ => some h
  | .ctxsw h _ => some h
  | .ctxspill h _ => some h
  | .ctxspillKill h _ => some h
  | .ctxfill h _ => some h
  | .ctxfillResume h _ => some h
  | .waiti h _ => some h
  | .tlbinvVa h _ => some h
  | .tlbinvAsid h _ => some h
  | .tlbinvAll h _ => some h
  | .tlbinvBind h _ => some h
  | .tlbinvUnbind h _ => some h
  | .tlbinvInit h _ => some h
  | .migrMove h _ => some h
  | .migrCnt h _ => some h
  | .migrRetry h _ => some h
  | .migrInit h _ => some h
  | .monrdTemp h _ => some h
  | .monrdVolt h _ => some h
  | .monrdProc h _ => some h
  | .monrdSlow h _ => some h
  | .monrdWear h _ => some h
  | .monrdPlace h _ => some h
  | .monrdRev h _ => some h
  | _ => none

end Sys2Proof
end

