-- ==== Sys2Proof/WellFormed.lean ====
section
/-! DEFINITION. Which terms are instructions: those that no check of R212 refuses. -/

namespace Sys2Proof

/-- No reason of R212 applies to the word of the instruction, taken alone. Events are well formed. -/
abbrev Instr.WellFormed (i : Instr) : Prop := illegalReason i = none

end Sys2Proof
end

