-- ==== Sys2Proof/Decode.lean ====
section
/-! DEFINITION. From words to instructions and back (R200 to R212).  `decodeWord` is total: it
answers an instruction or the reason code of R212 for which the word is none.  `encode` is written
from the same tables. -/

namespace Sys2Proof

/-- The LANE field (R200). -/
def laneOfBits (k : Nat) : LaneF :=
  match k % 4 with
  | 0 => .A
  | 1 => .L
  | 2 => .C
  | _ => .S

def laneBits (l : LaneF) : Nat :=
  match l with
  | .A => 0
  | .L => 1
  | .C => 2
  | .S => 3

/-- The common fields at bits [63:57] and [48:45] (R200). -/
def hdrAt (w : Nat) : Hdr where
  lane := laneOfBits (w / 2 ^ 62)
  stop := w / 2 ^ 61 % 2 == 1
  pl := w / 2 ^ 60 % 2 == 1
  pr := w / 2 ^ 59 % 2 == 1
  gl := w / 2 ^ 58 % 2 == 1
  gr := w / 2 ^ 57 % 2 == 1
  pinv := w / 2 ^ 48 % 2 == 1
  pred := BitVec.ofNat 3 (w / 2 ^ 45)

/-- The operand fields of the REG format (R203). -/
def regAt (w : Nat) : RegOps where
  d := BitVec.ofNat 6 (w / 2 ^ 39)
  a := BitVec.ofNat 6 (w / 2 ^ 33)
  b := BitVec.ofNat 6 (w / 2 ^ 27)
  c := BitVec.ofNat 6 (w / 2 ^ 21)
  t := BitVec.ofNat 5 (w / 2 ^ 16)
  rm := BitVec.ofNat 2 (w / 2 ^ 14)
  sub := BitVec.ofNat 8 (w / 2 ^ 6)
  mod := BitVec.ofNat 6 w

/-- The operand fields of the RI format (R203). -/
def riAt (w : Nat) : RiOps where
  d := BitVec.ofNat 6 (w / 2 ^ 39)
  a := BitVec.ofNat 6 (w / 2 ^ 33)
  imm := BitVec.ofNat 33 w

/-- The operand fields of the BR format (R203). -/
def brAt (w : Nat) : BrOps where
  cr := BitVec.ofNat 6 (w / 2 ^ 39)
  own := BitVec.ofNat 2 (w / 2 ^ 37)
  ck := BitVec.ofNat 2 (w / 2 ^ 35)
  cc := BitVec.ofNat 3 (w / 2 ^ 32)
  off := BitVec.ofNat 32 w

/-- The operand fields of the MEM format (R203). -/
def memAt (w : Nat) : MemOps where
  d := BitVec.ofNat 6 (w / 2 ^ 39)
  base := BitVec.ofNat 6 (w / 2 ^ 33)
  idx := BitVec.ofNat 6 (w / 2 ^ 27)
  sz := BitVec.ofNat 3 (w / 2 ^ 24)
  sc := BitVec.ofNat 3 (w / 2 ^ 21)
  ord := BitVec.ofNat 2 (w / 2 ^ 19)
  scope := BitVec.ofNat 3 (w / 2 ^ 16)
  off := BitVec.ofNat 16 w

/-- The operand fields of the ENG format (R203). -/
def engAt (w : Nat) : EngOps where
  dst := BitVec.ofNat 6 (w / 2 ^ 39)
  src := BitVec.ofNat 6 (w / 2 ^ 33)
  desc := BitVec.ofNat 6 (w / 2 ^ 27)
  ctr := BitVec.ofNat 6 (w / 2 ^ 21)
  inc := BitVec.ofNat 4 (w / 2 ^ 17)
  seqf := BitVec.ofNat 2 (w / 2 ^ 15)
  sub := BitVec.ofNat 9 (w / 2 ^ 6)
  fl := BitVec.ofNat 6 w

/-- The operand fields of the MAT format (R203). -/
def matAt (w : Nat) : MatOps where
  acc := BitVec.ofNat 2 (w / 2 ^ 43)
  a := BitVec.ofNat 6 (w / 2 ^ 37)
  b := BitVec.ofNat 6 (w / 2 ^ 31)
  k := BitVec.ofNat 6 (w / 2 ^ 25)
  ta := BitVec.ofNat 5 (w / 2 ^ 20)
  tb := BitVec.ofNat 5 (w / 2 ^ 15)
  sub := BitVec.ofNat 9 (w / 2 ^ 6)
  fl := BitVec.ofNat 6 w

/-- The operand fields of the SYS format (R203). -/
def sysAt (w : Nat) : SysOps where
  d := BitVec.ofNat 6 (w / 2 ^ 39)
  a := BitVec.ofNat 6 (w / 2 ^ 33)
  ctrl := BitVec.ofNat 12 (w / 2 ^ 21)
  sub := BitVec.ofNat 8 (w / 2 ^ 13)

/-- Opcodes 0x00 to 0x0F of the map of R210. -/
def decode0x (op w : Nat) : Option Instr :=
  match op with
  | 0 => some (.nop (hdrAt w) (regAt w))
  | 1 => some (.br (hdrAt w) (brAt w))
  | 2 => some (.brc (hdrAt w) (brAt w))
  | 3 => some (.brx (hdrAt w) (brAt w))
  | 4 => some (.call (hdrAt w) (brAt w))
  | 5 => some (.callx (hdrAt w) (brAt w))
  | 6 => some (.ret (hdrAt w) (brAt w))
  | 7 => some (.loop (hdrAt w) (brAt w))
  | 8 => some (.sync (hdrAt w) (regAt w))
  | 9 => some (.endLane (hdrAt w) (regAt w))
  | 10 => some (.trap (hdrAt w) (riAt w))
  | 11 => some (.bkpt (hdrAt w) (riAt w))
  | 12 => some (.stk (hdrAt w) (riAt w))
  | 13 => some (.ovl (hdrAt w) (regAt w))
  | _ => none

/-- Opcodes 0x10 to 0x1F of the map of R210. -/
def decode1x (op w : Nat) : Option Instr :=
  match op with
  | 0 => some (.add (hdrAt w) (regAt w))
  | 1 => some (.sub (hdrAt w) (regAt w))
  | 2 => some (.addi (hdrAt w) (riAt w))
  | 3 => some (.mul (hdrAt w) (regAt w))
  | 4 => some (.mulh (hdrAt w) (regAt w))
  | 5 => some (.div (hdrAt w) (regAt w))
  | 6 => some (.rem (hdrAt w) (regAt w))
  | 7 => some (.and (hdrAt w) (regAt w))
  | 8 => some (.or (hdrAt w) (regAt w))
  | 9 => some (.xor (hdrAt w) (regAt w))
  | 10 => some (.andn (hdrAt w) (regAt w))
  | 11 => some (.shl (hdrAt w) (regAt w))
  | 12 => some (.shr (hdrAt w) (regAt w))
  | 13 => some (.sar (hdrAt w) (regAt w))
  | 14 => some (.rotr (hdrAt w) (regAt w))
  | 15 => some (.clz (hdrAt w) (regAt w))
  | _ => none

/-- Opcodes 0x20 to 0x2F of the map of R210. -/
def decode2x (op w : Nat) : Option Instr :=
  match op with
  | 0 => some (.popc (hdrAt w) (regAt w))
  | 1 => some (.min (hdrAt w) (regAt w))
  | 2 => some (.max (hdrAt w) (regAt w))
  | 3 => some (.cmp (hdrAt w) (regAt w))
  | 4 => some (.sel (hdrAt w) (regAt w))
  | 5 => some (.li (hdrAt w) (riAt w))
  | 6 => some (.lih (hdrAt w) (riAt w))
  | 7 => some (.mov (hdrAt w) (regAt w))
  | 8 => some (.bfx (hdrAt w) (regAt w))
  | 9 => some (.bfi (hdrAt w) (regAt w))
  | 10 => some (.addx (hdrAt w) (regAt w))
  | 11 => some (.abs (hdrAt w) (regAt w))
  | 12 => some (.andi (hdrAt w) (riAt w))
  | 13 => some (.ori (hdrAt w) (riAt w))
  | 14 => some (.xori (hdrAt w) (riAt w))
  | 15 => some (.muli (hdrAt w) (riAt w))
  | _ => none

/-- Opcodes 0x30 to 0x3F of the map of R210. -/
def decode3x (op w : Nat) : Option Instr :=
  match op with
  | 0 => some (.fadd (hdrAt w) (regAt w))
  | 1 => some (.fsub (hdrAt w) (regAt w))
  | 2 => some (.fmul (hdrAt w) (regAt w))
  | 3 => some (.ffma (hdrAt w) (regAt w))
  | 4 => some (.fdiv (hdrAt w) (regAt w))
  | 5 => some (.fsqrt (hdrAt w) (regAt w))
  | 6 => some (.fmin (hdrAt w) (regAt w))
  | 7 => some (.fmax (hdrAt w) (regAt w))
  | 8 => some (.fcmp (hdrAt w) (regAt w))
  | 9 => some (.fcvt (hdrAt w) (regAt w))
  | 10 => some (.fsgn (hdrAt w) (regAt w))
  | 11 => some (.fclass (hdrAt w) (regAt w))
  | 12 => some (.fmvs (hdrAt w) (regAt w))
  | 13 => some (.fli (hdrAt w) (riAt w))
  | 14 => some (.fsel (hdrAt w) (regAt w))
  | _ => none

/-- Opcodes 0x40 to 0x4F of the map of R210. -/
def decode4x (op w : Nat) : Option Instr :=
  match op with
  | 0 => some (.pand (hdrAt w) (regAt w))
  | 1 => some (.por (hdrAt w) (regAt w))
  | 2 => some (.pxor (hdrAt w) (regAt w))
  | 3 => some (.pandn (hdrAt w) (regAt w))
  | 4 => some (.pset (hdrAt w) (regAt w))
  | 5 => some (.psave (hdrAt w) (regAt w))
  | 6 => some (.prest (hdrAt w) (regAt w))
  | 7 => some (.pqry (hdrAt w) (regAt w))
  | 8 => some (.xput (hdrAt w) (regAt w))
  | 9 => some (.xget (hdrAt w) (regAt w))
  | 11 => some (.rdcnt (hdrAt w) (regAt w))
  | _ => none

/-- Opcodes 0x50 to 0x5F of the map of R210. -/
def decode5x (op w : Nat) : Option Instr :=
  match op with
  | 0 => some (.vadd (hdrAt w) (regAt w))
  | 1 => some (.vsub (hdrAt w) (regAt w))
  | 2 => some (.vmul (hdrAt w) (regAt w))
  | 3 => some (.vfma (hdrAt w) (regAt w))
  | 4 => some (.vmin (hdrAt w) (regAt w))
  | 5 => some (.vmax (hdrAt w) (regAt w))
  | 6 => some (.vsgn (hdrAt w) (regAt w))
  | 7 => some (.vcmp (hdrAt w) (regAt w))
  | 8 => some (.vsel (hdrAt w) (regAt w))
  | 9 => some (.vcvt (hdrAt w) (regAt w))
  | 10 => some (.vquant (hdrAt w) (regAt w))
  | 11 => some (.vdeq (hdrAt w) (regAt w))
  | 12 => some (.vexp2 (hdrAt w) (regAt w))
  | 13 => some (.vlog2 (hdrAt w) (regAt w))
  | 14 => some (.vrcp (hdrAt w) (regAt w))
  | 15 => some (.vrsq (hdrAt w) (regAt w))
  | _ => none

/-- Opcodes 0x60 to 0x6F of the map of R210. -/
def decode6x (op w : Nat) : Option Instr :=
  match op with
  | 0 => some (.vtanh (hdrAt w) (regAt w))
  | 1 => some (.vred (hdrAt w) (regAt w))
  | 2 => some (.vscan (hdrAt w) (regAt w))
  | 3 => some (.vperm (hdrAt w) (regAt w))
  | 4 => some (.vbcast (hdrAt w) (regAt w))
  | 5 => some (.vslide (hdrAt w) (regAt w))
  | 6 => some (.viadd (hdrAt w) (regAt w))
  | 7 => some (.visub (hdrAt w) (regAt w))
  | 8 => some (.vimul (hdrAt w) (regAt w))
  | 9 => some (.vimnx (hdrAt w) (regAt w))
  | 10 => some (.vand (hdrAt w) (regAt w))
  | 11 => some (.vor (hdrAt w) (regAt w))
  | 12 => some (.vxor (hdrAt w) (regAt w))
  | 13 => some (.vshl (hdrAt w) (regAt w))
  | 14 => some (.vshr (hdrAt w) (regAt w))
  | 15 => some (.vmov (hdrAt w) (regAt w))
  | _ => none

/-- Opcodes 0x70 to 0x7F of the map of R210. -/
def decode7x (op w : Nat) : Option Instr :=
  match op with
  | 0 => some (.viota (hdrAt w) (regAt w))
  | 1 => some (.vextr (hdrAt w) (regAt w))
  | 2 => some (.vins (hdrAt w) (regAt w))
  | 3 => some (.vcomp (hdrAt w) (regAt w))
  | 4 => some (.vexpd (hdrAt w) (regAt w))
  | 5 => some (.vpack (hdrAt w) (regAt w))
  | 6 => some (.vunpk (hdrAt w) (regAt w))
  | 7 => some (.vclamp (hdrAt w) (regAt w))
  | 8 => some (.vcprs (hdrAt w) (regAt w))
  | 9 => some (.vosm (hdrAt w) (regAt w))
  | _ => none

/-- Opcodes 0x80 to 0x8F of the map of R210. -/
def decode8x (op w : Nat) : Option Instr :=
  match op with
  | 0 => some (.vld (hdrAt w) (memAt w))
  | 1 => some (.vst (hdrAt w) (memAt w))
  | 2 => some (.vldx (hdrAt w) (memAt w))
  | 3 => some (.vstx (hdrAt w) (memAt w))
  | 4 => some (.vldb (hdrAt w) (memAt w))
  | 5 => some (.lds (hdrAt w) (memAt w))
  | 6 => some (.sts (hdrAt w) (memAt w))
  | 7 => some (.vldg (hdrAt w) (memAt w))
  | 8 => some (.vstg (hdrAt w) (memAt w))
  | 9 => some (.vgath (hdrAt w) (memAt w))
  | 10 => some (.vscat (hdrAt w) (memAt w))
  | 11 => some (.prfg (hdrAt w) (memAt w))
  | _ => none

/-- Opcodes 0x90 to 0x9F of the map of R210. -/
def decode9x (op w : Nat) : Option Instr :=
  match op with
  | 0 => some (.ld (hdrAt w) (memAt w))
  | 1 => some (.st (hdrAt w) (memAt w))
  | 2 => some (.atom (hdrAt w) (memAt w))
  | 3 => some (.redm (hdrAt w) (memAt w))
  | 4 => some (.vatom (hdrAt w) (memAt w))
  | 5 => some (.vredm (hdrAt w) (memAt w))
  | 6 => some (.waita (hdrAt w) (memAt w))
  | 7 => some (.fence (hdrAt w) (memAt w))
  | 8 => some (.bind (hdrAt w) (regAt w))
  | 9 => some (.unbind (hdrAt w) (regAt w))
  | 10 => some (.cinv (hdrAt w) (memAt w))
  | _ => none

/-- Opcodes 0xA0 to 0xAF of the map of R210. -/
def decodeAx (op w : Nat) : Option Instr :=
  match op with
  | 0 => some (.mzero (hdrAt w) (matAt w))
  | 1 => some (.mma (hdrAt w) (matAt w))
  | 2 => some (.mld (hdrAt w) (matAt w))
  | 3 => some (.mst (hdrAt w) (matAt w))
  | 4 => some (.mldt (hdrAt w) (matAt w))
  | 5 => some (.lutmv (hdrAt w) (matAt w))
  | 6 => some (.lutld (hdrAt w) (matAt w))
  | 7 => some (.macc (hdrAt w) (matAt w))
  | 8 => some (.mred (hdrAt w) (matAt w))
  | 9 => some (.mrow (hdrAt w) (matAt w))
  | _ => none

/-- Opcodes 0xB0 to 0xBF of the map of R210. -/
def decodeBx (op w : Nat) : Option Instr :=
  match op with
  | 0 => some (.copy (hdrAt w) (engAt w))
  | 1 => some (.copyt (hdrAt w) (engAt w))
  | 2 => some (.fill (hdrAt w) (engAt w))
  | 3 => some (.qcvt (hdrAt w) (engAt w))
  | 4 => some (.plane (hdrAt w) (engAt w))
  | 5 => some (.waitc (hdrAt w) (regAt w))
  | 6 =>
    match w / 2 ^ 6 % 256 with
    | 2 => some (.testcQ (hdrAt w) (regAt w))
    | _ => some (.testc (hdrAt w) (regAt w))
  | 7 => some (.cset (hdrAt w) (regAt w))
  | 8 => some (.edep (hdrAt w) (regAt w))
  | 9 => some (.fsend (hdrAt w) (engAt w))
  | 10 => some (.frecv (hdrAt w) (engAt w))
  | 11 => some (.fcoll (hdrAt w) (engAt w))
  | 12 => some (.pref (hdrAt w) (engAt w))
  | _ => none

/-- Opcodes 0xC0 to 0xCF of the map of R210. -/
def decodeCx (op w : Nat) : Option Instr :=
  match op with
  | 0 => some (.enq (hdrAt w) (regAt w))
  | 1 => some (.deq (hdrAt w) (regAt w))
  | 2 => some (.rodinit (hdrAt w) (regAt w))
  | 3 => some (.rodqry (hdrAt w) (regAt w))
  | 4 => some (.rodclose (hdrAt w) (regAt w))
  | 5 =>
    match w / 2 ^ 6 % 256 with
    | 1 => some (.barArr (hdrAt w) (regAt w))
    | 2 => some (.barWt (hdrAt w) (regAt w))
    | 3 => some (.barInit (hdrAt w) (regAt w))
    | _ => some (.barW (hdrAt w) (regAt w))
  | 6 => some (.slpub (hdrAt w) (regAt w))
  | 7 =>
    match w / 2 ^ 6 % 256 with
    | 1 => some (.slacqWr (hdrAt w) (regAt w))
    | _ => some (.slacqRd (hdrAt w) (regAt w))
  | 8 => some (.slrel (hdrAt w) (regAt w))
  | 9 => some (.slinit (hdrAt w) (regAt w))
  | _ => none

/-- Opcodes 0xD0 to 0xDF of the map of R210. -/
def decodeDx (op w : Nat) : Option Instr :=
  match op with
  | 0 => some (.sqget (hdrAt w) (regAt w))
  | 1 =>
    match w / 2 ^ 6 % 256 with
    | 1 => some (.sqaccP (hdrAt w) (regAt w))
    | _ => some (.sqaccQ (hdrAt w) (regAt w))
  | 2 => some (.sqcommit (hdrAt w) (regAt w))
  | 3 =>
    match w / 2 ^ 6 % 256 with
    | 1 => some (.sqparkImport (hdrAt w) (regAt w))
    | 2 => some (.sqparkPark (hdrAt w) (regAt w))
    | 3 => some (.sqparkAbort (hdrAt w) (regAt w))
    | 4 => some (.sqparkResume (hdrAt w) (regAt w))
    | 5 => some (.sqparkMigout (hdrAt w) (regAt w))
    | 6 => some (.sqparkMigdone (hdrAt w) (regAt w))
    | 7 => some (.sqparkMigabort (hdrAt w) (regAt w))
    | 8 => some (.sqparkRetire (hdrAt w) (regAt w))
    | 9 => some (.sqparkPreempt (hdrAt w) (regAt w))
    | _ => some (.sqparkAdmit (hdrAt w) (regAt w))
  | 4 => some (.kvmap (hdrAt w) (regAt w))
  | 5 => some (.kvunpin (hdrAt w) (regAt w))
  | 6 => some (.kvapp (hdrAt w) (engAt w))
  | 7 => some (.pfxlk (hdrAt w) (regAt w))
  | 8 => some (.pfxins (hdrAt w) (regAt w))
  | 9 => some (.pfxrel (hdrAt w) (regAt w))
  | 10 => some (.psel (hdrAt w) (engAt w))
  | 11 => some (.sample (hdrAt w) (regAt w))
  | 12 => some (.rngdraw (hdrAt w) (regAt w))
  | _ => none

/-- Opcodes 0xE0 to 0xEF of the map of R210. -/
def decodeEx (op w : Nat) : Option Instr :=
  match op with
  | 0 => some (.mfc (hdrAt w) (sysAt w))
  | 1 => some (.mtc (hdrAt w) (sysAt w))
  | 2 => some (.eret (hdrAt w) (sysAt w))
  | 3 => some (.ctxsw (hdrAt w) (sysAt w))
  | 4 =>
    match w / 2 ^ 13 % 256 with
    | 1 => some (.ctxspillKill (hdrAt w) (sysAt w))
    | _ => some (.ctxspill (hdrAt w) (sysAt w))
  | 5 =>
    match w / 2 ^ 13 % 256 with
    | 1 => some (.ctxfillResume (hdrAt w) (sysAt w))
    | _ => some (.ctxfill (hdrAt w) (sysAt w))
  | 6 =>
    match w / 2 ^ 13 % 256 with
    | 1 => some (.tlbinvAsid (hdrAt w) (sysAt w))
    | 2 => some (.tlbinvAll (hdrAt w) (sysAt w))
    | 3 => some (.tlbinvBind (hdrAt w) (sysAt w))
    | 4 => some (.tlbinvUnbind (hdrAt w) (sysAt w))
    | 5 => some (.tlbinvInit (hdrAt w) (sysAt w))
    | _ => some (.tlbinvVa (hdrAt w) (sysAt w))
  | 7 => some (.btinv (hdrAt w) (sysAt w))
  | 8 => some (.waiti (hdrAt w) (sysAt w))
  | 9 =>
    match w / 2 ^ 13 % 256 with
    | 1 => some (.migrCnt (hdrAt w) (sysAt w))
    | 2 => some (.migrRetry (hdrAt w) (sysAt w))
    | 3 => some (.migrInit (hdrAt w) (sysAt w))
    | _ => some (.migrMove (hdrAt w) (sysAt w))
  | 10 =>
    match w / 2 ^ 13 % 256 with
    | 1 => some (.pfxadmDemote (hdrAt w) (sysAt w))
    | 2 => some (.pfxadmPromote (hdrAt w) (sysAt w))
    | 3 => some (.pfxadmEvict (hdrAt w) (sysAt w))
    | 4 => some (.pfxadmFlush (hdrAt w) (sysAt w))
    | _ => some (.pfxadmInit (hdrAt w) (sysAt w))
  | 11 =>
    match w / 2 ^ 13 % 256 with
    | 1 => some (.rodadmReopen (hdrAt w) (sysAt w))
    | 2 => some (.rodadmRepair (hdrAt w) (sysAt w))
    | 3 => some (.rodadmRetire (hdrAt w) (sysAt w))
    | _ => some (.rodadmDrain (hdrAt w) (sysAt w))
  | 12 =>
    match w / 2 ^ 13 % 256 with
    | 1 => some (.monrdVolt (hdrAt w) (sysAt w))
    | 2 => some (.monrdProc (hdrAt w) (sysAt w))
    | 3 => some (.monrdSlow (hdrAt w) (sysAt w))
    | 4 => some (.monrdWear (hdrAt w) (sysAt w))
    | 5 => some (.monrdPlace (hdrAt w) (sysAt w))
    | 6 => some (.monrdRev (hdrAt w) (sysAt w))
    | _ => some (.monrdTemp (hdrAt w) (sysAt w))
  | _ => none

/-- The row of the opcode map that the word's OPC and, where forms share an opcode, its SUB select;
none for an unassigned opcode (R210). -/
def candidate (w : Nat) : Option Instr :=
  let opc := w / 2 ^ 49 % 256
  match opc / 16 with
  | 0 => decode0x (opc % 16) w
  | 1 => decode1x (opc % 16) w
  | 2 => decode2x (opc % 16) w
  | 3 => decode3x (opc % 16) w
  | 4 => decode4x (opc % 16) w
  | 5 => decode5x (opc % 16) w
  | 6 => decode6x (opc % 16) w
  | 7 => decode7x (opc % 16) w
  | 8 => decode8x (opc % 16) w
  | 9 => decode9x (opc % 16) w
  | 10 => decodeAx (opc % 16) w
  | 11 => decodeBx (opc % 16) w
  | 12 => decodeCx (opc % 16) w
  | 13 => decodeDx (opc % 16) w
  | 14 => decodeEx (opc % 16) w
  | _ => none

/-- Bits [12:0] of the SYS format are reserved (R203, R209). -/
def sysReserved (w : Nat) : Checks :=
  [(8, decide (0xE0 ≤ w / 2 ^ 49 % 256) && w % 2 ^ 13 != 0)]

/-- The instruction a word stands for, or the first reason of R212 that makes it none. -/
def decodeNat (w : Nat) : Except Nat Instr :=
  if 0xF0 ≤ w / 2 ^ 49 % 256 then .error 1
  else
    match candidate w with
    | none => .error 2
    | some i =>
      match leastReason (checksOf i ++ sysReserved w) with
      | some r => .error r
      | none => .ok i

/-- `decodeNat` on a word. -/
def decodeWord (w : Word) : Except Nat Instr := decodeNat w.toNat

/-- The least significant byte of a list first (R1). -/
def leNat : List Byte → Nat
  | [] => 0
  | b :: bs => b.toNat + 256 * leNat bs

/-- The instruction at the head of a byte list, with the bytes that follow it; a reason of R212 for
a word that is none, and 0 where fewer than eight bytes are left. -/
def decodeBytes (bs : List Byte) : Except Nat (Instr × List Byte) :=
  if (bs.take 8).length = 8 then
    match decodeNat (leNat (bs.take 8)) with
    | .ok i => .ok (i, bs.drop 8)
    | .error r => .error r
  else .error 0

def bit (b : Bool) : Nat := if b then 1 else 0

/-- Bits [63:45] of a word: the common fields and the opcode. -/
def packHdr (h : Hdr) (opc : Nat) : Nat :=
  laneBits h.lane * 2 ^ 62 + bit h.stop * 2 ^ 61 + bit h.pl * 2 ^ 60 + bit h.pr * 2 ^ 59
    + bit h.gl * 2 ^ 58 + bit h.gr * 2 ^ 57 + opc * 2 ^ 49 + bit h.pinv * 2 ^ 48
    + h.pred.toNat * 2 ^ 45

def packReg (o : RegOps) : Nat :=
  o.d.toNat * 2 ^ 39 + o.a.toNat * 2 ^ 33 + o.b.toNat * 2 ^ 27 + o.c.toNat * 2 ^ 21
    + o.t.toNat * 2 ^ 16 + o.rm.toNat * 2 ^ 14 + o.sub.toNat * 2 ^ 6 + o.mod.toNat

def packRi (o : RiOps) : Nat :=
  o.d.toNat * 2 ^ 39 + o.a.toNat * 2 ^ 33 + o.imm.toNat

def packBr (o : BrOps) : Nat :=
  o.cr.toNat * 2 ^ 39 + o.own.toNat * 2 ^ 37 + o.ck.toNat * 2 ^ 35 + o.cc.toNat * 2 ^ 32
    + o.off.toNat

def packMem (o : MemOps) : Nat :=
  o.d.toNat * 2 ^ 39 + o.base.toNat * 2 ^ 33 + o.idx.toNat * 2 ^ 27 + o.sz.toNat * 2 ^ 24
    + o.sc.toNat * 2 ^ 21 + o.ord.toNat * 2 ^ 19 + o.scope.toNat * 2 ^ 16 + o.off.toNat

def packEng (o : EngOps) : Nat :=
  o.dst.toNat * 2 ^ 39 + o.src.toNat * 2 ^ 33 + o.desc.toNat * 2 ^ 27 + o.ctr.toNat * 2 ^ 21
    + o.inc.toNat * 2 ^ 17 + o.seqf.toNat * 2 ^ 15 + o.sub.toNat * 2 ^ 6 + o.fl.toNat

def packMat (o : MatOps) : Nat :=
  o.acc.toNat * 2 ^ 43 + o.a.toNat * 2 ^ 37 + o.b.toNat * 2 ^ 31 + o.k.toNat * 2 ^ 25
    + o.ta.toNat * 2 ^ 20 + o.tb.toNat * 2 ^ 15 + o.sub.toNat * 2 ^ 6 + o.fl.toNat

def packSys (o : SysOps) : Nat :=
  o.d.toNat * 2 ^ 39 + o.a.toNat * 2 ^ 33 + o.ctrl.toNat * 2 ^ 21 + o.sub.toNat * 2 ^ 13

/-- The word of a program instruction, from its opcode and format (R203, R210). Events have none. -/
def encodeNat (i : Instr) : Option Nat :=
  match i with
  | .nop h o => some (packHdr h 0x00 + packReg o)
  | .br h o => some (packHdr h 0x01 + packBr o)
  | .brc h o => some (packHdr h 0x02 + packBr o)
  | .brx h o => some (packHdr h 0x03 + packBr o)
  | .call h o => some (packHdr h 0x04 + packBr o)
  | .callx h o => some (packHdr h 0x05 + packBr o)
  | .ret h o => some (packHdr h 0x06 + packBr o)
  | .loop h o => some (packHdr h 0x07 + packBr o)
  | .sync h o => some (packHdr h 0x08 + packReg o)
  | .endLane h o => some (packHdr h 0x09 + packReg o)
  | .trap h o => some (packHdr h 0x0A + packRi o)
  | .bkpt h o => some (packHdr h 0x0B + packRi o)
  | .stk h o => some (packHdr h 0x0C + packRi o)
  | .ovl h o => some (packHdr h 0x0D + packReg o)
  | .add h o => some (packHdr h 0x10 + packReg o)
  | .sub h o => some (packHdr h 0x11 + packReg o)
  | .addi h o => some (packHdr h 0x12 + packRi o)
  | .mul h o => some (packHdr h 0x13 + packReg o)
  | .mulh h o => some (packHdr h 0x14 + packReg o)
  | .div h o => some (packHdr h 0x15 + packReg o)
  | .rem h o => some (packHdr h 0x16 + packReg o)
  | .and h o => some (packHdr h 0x17 + packReg o)
  | .or h o => some (packHdr h 0x18 + packReg o)
  | .xor h o => some (packHdr h 0x19 + packReg o)
  | .andn h o => some (packHdr h 0x1A + packReg o)
  | .shl h o => some (packHdr h 0x1B + packReg o)
  | .shr h o => some (packHdr h 0x1C + packReg o)
  | .sar h o => some (packHdr h 0x1D + packReg o)
  | .rotr h o => some (packHdr h 0x1E + packReg o)
  | .clz h o => some (packHdr h 0x1F + packReg o)
  | .popc h o => some (packHdr h 0x20 + packReg o)
  | .min h o => some (packHdr h 0x21 + packReg o)
  | .max h o => some (packHdr h 0x22 + packReg o)
  | .cmp h o => some (packHdr h 0x23 + packReg o)
  | .sel h o => some (packHdr h 0x24 + packReg o)
  | .li h o => some (packHdr h 0x25 + packRi o)
  | .lih h o => some (packHdr h 0x26 + packRi o)
  | .mov h o => some (packHdr h 0x27 + packReg o)
  | .bfx h o => some (packHdr h 0x28 + packReg o)
  | .bfi h o => some (packHdr h 0x29 + packReg o)
  | .addx h o => some (packHdr h 0x2A + packReg o)
  | .abs h o => some (packHdr h 0x2B + packReg o)
  | .andi h o => some (packHdr h 0x2C + packRi o)
  | .ori h o => some (packHdr h 0x2D + packRi o)
  | .xori h o => some (packHdr h 0x2E + packRi o)
  | .muli h o => some (packHdr h 0x2F + packRi o)
  | .fadd h o => some (packHdr h 0x30 + packReg o)
  | .fsub h o => some (packHdr h 0x31 + packReg o)
  | .fmul h o => some (packHdr h 0x32 + packReg o)
  | .ffma h o => some (packHdr h 0x33 + packReg o)
  | .fdiv h o => some (packHdr h 0x34 + packReg o)
  | .fsqrt h o => some (packHdr h 0x35 + packReg o)
  | .fmin h o => some (packHdr h 0x36 + packReg o)
  | .fmax h o => some (packHdr h 0x37 + packReg o)
  | .fcmp h o => some (packHdr h 0x38 + packReg o)
  | .fcvt h o => some (packHdr h 0x39 + packReg o)
  | .fsgn h o => some (packHdr h 0x3A + packReg o)
  | .fclass h o => some (packHdr h 0x3B + packReg o)
  | .fmvs h o => some (packHdr h 0x3C + packReg o)
  | .fli h o => some (packHdr h 0x3D + packRi o)
  | .fsel h o => some (packHdr h 0x3E + packReg o)
  | .pand h o => some (packHdr h 0x40 + packReg o)
  | .por h o => some (packHdr h 0x41 + packReg o)
  | .pxor h o => some (packHdr h 0x42 + packReg o)
  | .pandn h o => some (packHdr h 0x43 + packReg o)
  | .pset h o => some (packHdr h 0x44 + packReg o)
  | .psave h o => some (packHdr h 0x45 + packReg o)
  | .prest h o => some (packHdr h 0x46 + packReg o)
  | .pqry h o => some (packHdr h 0x47 + packReg o)
  | .xput h o => some (packHdr h 0x48 + packReg o)
  | .xget h o => some (packHdr h 0x49 + packReg o)
  | .rdcnt h o => some (packHdr h 0x4B + packReg o)
  | .vadd h o => some (packHdr h 0x50 + packReg o)
  | .vsub h o => some (packHdr h 0x51 + packReg o)
  | .vmul h o => some (packHdr h 0x52 + packReg o)
  | .vfma h o => some (packHdr h 0x53 + packReg o)
  | .vmin h o => some (packHdr h 0x54 + packReg o)
  | .vmax h o => some (packHdr h 0x55 + packReg o)
  | .vsgn h o => some (packHdr h 0x56 + packReg o)
  | .vcmp h o => some (packHdr h 0x57 + packReg o)
  | .vsel h o => some (packHdr h 0x58 + packReg o)
  | .vcvt h o => some (packHdr h 0x59 + packReg o)
  | .vquant h o => some (packHdr h 0x5A + packReg o)
  | .vdeq h o => some (packHdr h 0x5B + packReg o)
  | .vexp2 h o => some (packHdr h 0x5C + packReg o)
  | .vlog2 h o => some (packHdr h 0x5D + packReg o)
  | .vrcp h o => some (packHdr h 0x5E + packReg o)
  | .vrsq h o => some (packHdr h 0x5F + packReg o)
  | .vtanh h o => some (packHdr h 0x60 + packReg o)
  | .vred h o => some (packHdr h 0x61 + packReg o)
  | .vscan h o => some (packHdr h 0x62 + packReg o)
  | .vperm h o => some (packHdr h 0x63 + packReg o)
  | .vbcast h o => some (packHdr h 0x64 + packReg o)
  | .vslide h o => some (packHdr h 0x65 + packReg o)
  | .viadd h o => some (packHdr h 0x66 + packReg o)
  | .visub h o => some (packHdr h 0x67 + packReg o)
  | .vimul h o => some (packHdr h 0x68 + packReg o)
  | .vimnx h o => some (packHdr h 0x69 + packReg o)
  | .vand h o => some (packHdr h 0x6A + packReg o)
  | .vor h o => some (packHdr h 0x6B + packReg o)
  | .vxor h o => some (packHdr h 0x6C + packReg o)
  | .vshl h o => some (packHdr h 0x6D + packReg o)
  | .vshr h o => some (packHdr h 0x6E + packReg o)
  | .vmov h o => some (packHdr h 0x6F + packReg o)
  | .viota h o => some (packHdr h 0x70 + packReg o)
  | .vextr h o => some (packHdr h 0x71 + packReg o)
  | .vins h o => some (packHdr h 0x72 + packReg o)
  | .vcomp h o => some (packHdr h 0x73 + packReg o)
  | .vexpd h o => some (packHdr h 0x74 + packReg o)
  | .vpack h o => some (packHdr h 0x75 + packReg o)
  | .vunpk h o => some (packHdr h 0x76 + packReg o)
  | .vclamp h o => some (packHdr h 0x77 + packReg o)
  | .vcprs h o => some (packHdr h 0x78 + packReg o)
  | .vosm h o => some (packHdr h 0x79 + packReg o)
  | .vld h o => some (packHdr h 0x80 + packMem o)
  | .vst h o => some (packHdr h 0x81 + packMem o)
  | .vldx h o => some (packHdr h 0x82 + packMem o)
  | .vstx h o => some (packHdr h 0x83 + packMem o)
  | .vldb h o => some (packHdr h 0x84 + packMem o)
  | .lds h o => some (packHdr h 0x85 + packMem o)
  | .sts h o => some (packHdr h 0x86 + packMem o)
  | .vldg h o => some (packHdr h 0x87 + packMem o)
  | .vstg h o => some (packHdr h 0x88 + packMem o)
  | .vgath h o => some (packHdr h 0x89 + packMem o)
  | .vscat h o => some (packHdr h 0x8A + packMem o)
  | .prfg h o => some (packHdr h 0x8B + packMem o)
  | .ld h o => some (packHdr h 0x90 + packMem o)
  | .st h o => some (packHdr h 0x91 + packMem o)
  | .atom h o => some (packHdr h 0x92 + packMem o)
  | .redm h o => some (packHdr h 0x93 + packMem o)
  | .vatom h o => some (packHdr h 0x94 + packMem o)
  | .vredm h o => some (packHdr h 0x95 + packMem o)
  | .waita h o => some (packHdr h 0x96 + packMem o)
  | .fence h o => some (packHdr h 0x97 + packMem o)
  | .bind h o => some (packHdr h 0x98 + packReg o)
  | .unbind h o => some (packHdr h 0x99 + packReg o)
  | .cinv h o => some (packHdr h 0x9A + packMem o)
  | .mzero h o => some (packHdr h 0xA0 + packMat o)
  | .mma h o => some (packHdr h 0xA1 + packMat o)
  | .mld h o => some (packHdr h 0xA2 + packMat o)
  | .mst h o => some (packHdr h 0xA3 + packMat o)
  | .mldt h o => some (packHdr h 0xA4 + packMat o)
  | .lutmv h o => some (packHdr h 0xA5 + packMat o)
  | .lutld h o => some (packHdr h 0xA6 + packMat o)
  | .macc h o => some (packHdr h 0xA7 + packMat o)
  | .mred h o => some (packHdr h 0xA8 + packMat o)
  | .mrow h o => some (packHdr h 0xA9 + packMat o)
  | .copy h o => some (packHdr h 0xB0 + packEng o)
  | .copyt h o => some (packHdr h 0xB1 + packEng o)
  | .fill h o => some (packHdr h 0xB2 + packEng o)
  | .qcvt h o => some (packHdr h 0xB3 + packEng o)
  | .plane h o => some (packHdr h 0xB4 + packEng o)
  | .pref h o => some (packHdr h 0xBC + packEng o)
  | .waitc h o => some (packHdr h 0xB5 + packReg o)
  | .testc h o => some (packHdr h 0xB6 + packReg o)
  | .testcQ h o => some (packHdr h 0xB6 + packReg o)
  | .cset h o => some (packHdr h 0xB7 + packReg o)
  | .edep h o => some (packHdr h 0xB8 + packReg o)
  | .fsend h o => some (packHdr h 0xB9 + packEng o)
  | .frecv h o => some (packHdr h 0xBA + packEng o)
  | .fcoll h o => some (packHdr h 0xBB + packEng o)
  | .enq h o => some (packHdr h 0xC0 + packReg o)
  | .deq h o => some (packHdr h 0xC1 + packReg o)
  | .rodinit h o => some (packHdr h 0xC2 + packReg o)
  | .rodqry h o => some (packHdr h 0xC3 + packReg o)
  | .rodclose h o => some (packHdr h 0xC4 + packReg o)
  | .rodadmDrain h o => some (packHdr h 0xEB + packSys o)
  | .rodadmReopen h o => some (packHdr h 0xEB + packSys o)
  | .rodadmRepair h o => some (packHdr h 0xEB + packSys o)
  | .rodadmRetire h o => some (packHdr h 0xEB + packSys o)
  | .barW h o => some (packHdr h 0xC5 + packReg o)
  | .barArr h o => some (packHdr h 0xC5 + packReg o)
  | .barWt h o => some (packHdr h 0xC5 + packReg o)
  | .barInit h o => some (packHdr h 0xC5 + packReg o)
  | .slinit h o => some (packHdr h 0xC9 + packReg o)
  | .slacqRd h o => some (packHdr h 0xC7 + packReg o)
  | .slacqWr h o => some (packHdr h 0xC7 + packReg o)
  | .slpub h o => some (packHdr h 0xC6 + packReg o)
  | .slrel h o => some (packHdr h 0xC8 + packReg o)
  | .sqget h o => some (packHdr h 0xD0 + packReg o)
  | .sqaccQ h o => some (packHdr h 0xD1 + packReg o)
  | .sqaccP h o => some (packHdr h 0xD1 + packReg o)
  | .sqcommit h o => some (packHdr h 0xD2 + packReg o)
  | .sqparkAdmit h o => some (packHdr h 0xD3 + packReg o)
  | .sqparkImport h o => some (packHdr h 0xD3 + packReg o)
  | .sqparkPark h o => some (packHdr h 0xD3 + packReg o)
  | .sqparkAbort h o => some (packHdr h 0xD3 + packReg o)
  | .sqparkResume h o => some (packHdr h 0xD3 + packReg o)
  | .sqparkMigout h o => some (packHdr h 0xD3 + packReg o)
  | .sqparkMigdone h o => some (packHdr h 0xD3 + packReg o)
  | .sqparkMigabort h o => some (packHdr h 0xD3 + packReg o)
  | .sqparkRetire h o => some (packHdr h 0xD3 + packReg o)
  | .sqparkPreempt h o => some (packHdr h 0xD3 + packReg o)
  | .kvmap h o => some (packHdr h 0xD4 + packReg o)
  | .kvunpin h o => some (packHdr h 0xD5 + packReg o)
  | .kvapp h o => some (packHdr h 0xD6 + packEng o)
  | .pfxlk h o => some (packHdr h 0xD7 + packReg o)
  | .pfxins h o => some (packHdr h 0xD8 + packReg o)
  | .pfxrel h o => some (packHdr h 0xD9 + packReg o)
  | .psel h o => some (packHdr h 0xDA + packEng o)
  | .sample h o => some (packHdr h 0xDB + packReg o)
  | .rngdraw h o => some (packHdr h 0xDC + packReg o)
  | .btinv h o => some (packHdr h 0xE7 + packSys o)
  | .pfxadmInit h o => some (packHdr h 0xEA + packSys o)
  | .pfxadmDemote h o => some (packHdr h 0xEA + packSys o)
  | .pfxadmPromote h o => some (packHdr h 0xEA + packSys o)
  | .pfxadmEvict h o => some (packHdr h 0xEA + packSys o)
  | .pfxadmFlush h o => some (packHdr h 0xEA + packSys o)
  | .mfc h o => some (packHdr h 0xE0 + packSys o)
  | .mtc h o => some (packHdr h 0xE1 + packSys o)
  | .eret h o => some (packHdr h 0xE2 + packSys o)
  | .ctxsw h o => some (packHdr h 0xE3 + packSys o)
  | .ctxspill h o => some (packHdr h 0xE4 + packSys o)
  | .ctxspillKill h o => some (packHdr h 0xE4 + packSys o)
  | .ctxfill h o => some (packHdr h 0xE5 + packSys o)
  | .ctxfillResume h o => some (packHdr h 0xE5 + packSys o)
  | .waiti h o => some (packHdr h 0xE8 + packSys o)
  | .tlbinvVa h o => some (packHdr h 0xE6 + packSys o)
  | .tlbinvAsid h o => some (packHdr h 0xE6 + packSys o)
  | .tlbinvAll h o => some (packHdr h 0xE6 + packSys o)
  | .tlbinvBind h o => some (packHdr h 0xE6 + packSys o)
  | .tlbinvUnbind h o => some (packHdr h 0xE6 + packSys o)
  | .tlbinvInit h o => some (packHdr h 0xE6 + packSys o)
  | .migrMove h o => some (packHdr h 0xE9 + packSys o)
  | .migrCnt h o => some (packHdr h 0xE9 + packSys o)
  | .migrRetry h o => some (packHdr h 0xE9 + packSys o)
  | .migrInit h o => some (packHdr h 0xE9 + packSys o)
  | .monrdTemp h o => some (packHdr h 0xEC + packSys o)
  | .monrdVolt h o => some (packHdr h 0xEC + packSys o)
  | .monrdProc h o => some (packHdr h 0xEC + packSys o)
  | .monrdSlow h o => some (packHdr h 0xEC + packSys o)
  | .monrdWear h o => some (packHdr h 0xEC + packSys o)
  | .monrdPlace h o => some (packHdr h 0xEC + packSys o)
  | .monrdRev h o => some (packHdr h 0xEC + packSys o)
  | _ => none

/-- The word of a program instruction. -/
def encode (i : Instr) : Option Word := (encodeNat i).map (BitVec.ofNat 64)

/-- What the decoder reads from an instruction whose bits are `w`. Every word has 64 bits (R200), so
the bits from `nbits` up are zero. -/
def decodeTableWord (nbits w : Nat) : Option Instr :=
  match decodeNat (w % 2 ^ nbits % 2 ^ 64) with
  | .ok i => some i
  | .error _ => none

end Sys2Proof
end

