-- ==== Sys2Proof/Machine/State.lean ====
section
/-! DEFINITION. The state of the module as plain data, and the state right after reset.
Collections keyed by a number are lists of pairs with rising keys (`Kv`); the functions over
them, and over everything here, are in Machine/Ops.lean. -/

namespace Sys2Proof.Machine

/-- A finite map: pairs in strictly rising order of key. A key that is not listed reads as the
default that its reader names. -/
abbrev Kv (α : Type) := List (Nat × α)

/-! ### What a lane holds -/

/-- An entry of a token queue: a token and, optionally, a 64-bit value (R63). -/
structure Tok where
  hasVal : Bool
  val    : Word
  /-- Commands the giving lane had joined when it gave the entry (R84). -/
  joined : List Nat
  deriving DecidableEq, Repr, Inhabited

/-- An entry of a branch-outcome queue (R70). -/
structure BranchOut where
  taken  : Bool
  target : Nat
  deriving DecidableEq, Repr, Inhabited

/-- A loop-stack entry (R232). `tab` is the loop-table entry for src = (2, e). -/
structure LoopEnt where
  start : Nat
  stop  : Nat
  left  : Nat
  trip  : Nat
  tab   : Option Nat
  deriving DecidableEq, Repr, Inhabited

/-- One set of loop stack and queues of a lane: the normal set or the handler set (R363).
`fromL` and `fromR` hold what the left and the right neighbour gave this lane, oldest first. `gives`
holds, one list for an instruction, the entries that instructions have still to push before they
retire, for want of room (R63): true for the right neighbour. -/
structure LaneQ where
  loops : List LoopEnt
  fromL : List Tok
  fromR : List Tok
  outs  : List BranchOut
  gives : List (List (Bool × Tok))
  /-- The phase at which a BAR.w of this set has arrived, kept across a cancelled wait (R337). -/
  barPhase : Option (BitVec 32)
  deriving DecidableEq, Repr, Inhabited

/-- The register files that a latency bound concerns (R67). -/
inductive RegFile where
  | s | f | v | p
  deriving DecidableEq, Repr, Inhabited

/-- A fixed-latency write whose bound has not elapsed (R67): the value it replaced, and for how many
further bundles of the lane a read may still return that value. -/
structure InFlight where
  file : RegFile
  idx  : Nat
  old  : Nat
  left : Nat
  deriving DecidableEq, Repr, Inhabited

/-- A scratchpad write whose row accesses need not all have been performed (R89, R94, R127, R284): the
accesses in the order in which they are performed, each the bytes of one row with what they replaced. `left`
is for how many further bundles of the lane a read may still find the old bytes; an engine command whose number in the
order of the core's writes is `num` or more has issued after the write (R130). -/
structure ScratchWrite where
  rows : List (List (Nat × Byte))
  left : Nat
  num  : Nat
  deriving DecidableEq, Repr, Inhabited

/-- A blocking instruction that has issued and waits (R149, R313, R326, R336, R339, R320). -/
structure Parked where
  /-- First word of the instruction's bundle. -/
  pc    : Nat
  /-- Its word index in the bundle, and the bundle's length in words. -/
  slot  : Nat
  len   : Nat
  instr : Instr
  /-- No wait entry was free, so the lane retries (R152). -/
  retry : Bool
  /-- The lane's scalar registers as the instruction read them when it issued. -/
  s     : Vector Word 32
  deriving DecidableEq, Repr

/-- One lane of a context. -/
structure LaneSt where
  pc      : Nat
  s       : Vector Word 32
  i       : Vector Word 8
  /-- SLIM_x (R360). -/
  slim    : Word
  /-- EPC_x (R358). -/
  epc     : Word
  /-- LCNT (R65). -/
  lcnt    : Nat
  /-- The lane's field of ESEQ (R75). -/
  eseq    : BitVec 16
  normal  : LaneQ
  handler : LaneQ
  /-- Has issued END (R74); in a handler, in the handler's flow. -/
  ended   : Bool
  /-- Had issued END before the delivery of the handler that runs (R363, R368). -/
  endedBefore : Bool
  /-- The PC of the END word of a lane that had ended before the delivery (R363). -/
  endPc   : Nat
  /-- Pending EDEP pair: lane code and number (R312); none when no EDEP is pending. -/
  edep    : Option (BitVec 18 × BitVec 18)
  /-- Resume by reissuing only this word of the bundle at pc (R358). -/
  rslot   : Option Nat
  parked  : Option Parked
  /-- Switched out while parked and not yet woken (R405). -/
  dormant : Bool
  /-- Has reached the meeting point at pc and waits for the others (R71). -/
  arrived : Bool
  inflight : List InFlight
  /-- Scratchpad writes that need not have been performed, oldest first. -/
  scratchInflight : List ScratchWrite
  /-- Words of other lanes passed over since the last bundle (R60). -/
  skips   : Nat
  /-- Lines of which the lane has read at the home what no copy near it need hold (R128). -/
  past    : List Nat
  /-- Commands of the context that the lane has joined (R84): 65,536·lane code + number. With them, from 2^20 on, the
  MTCs of the context that the lane comes after (R366). -/
  joined  : List Nat
  /-- Bytes of operand rows that the lane's next bundle, a matrix word, has read already, by location (R293). -/
  ahead   : List (Nat × Byte)
  deriving DecidableEq, Repr

/-- A binding of a context (R55, R121, R330). -/
structure Binding where
  base : Word
  len  : Nat
  obj  : Word
  kind : BitVec 2
  deriving DecidableEq, Repr, Inhabited

/-- State of an overlay slot as one context sees it (R103). -/
inductive SlotState where
  | empty | loading | valid
  deriving DecidableEq, Repr, Inhabited

/-- An overlay slot's entry in OVLMAP and the image the context expects there (R103). -/
structure OvlSlot where
  st   : SlotState
  addr : Word
  len  : Nat
  deriving DecidableEq, Repr, Inhabited

/-- Where a context stands with respect to its core (R58, R364, R369, R370). -/
inductive Residence where
  | resident      -- in its bank
  | stopped       -- resident, stopped for service (STOP = 1)
  | spilled       -- in its save area
  | gone          -- ended, its bank free
  deriving DecidableEq, Repr, Inhabited

/-- A class-F fault that has been recorded and not yet ended the context (R371): further
instructions each lane may issue. -/
structure Fatal where
  skidL : Nat
  skidC : Nat
  skidS : Nat
  deriving DecidableEq, Repr, Inhabited

/-- The activations of the last LUTLD (R299): K, type code, and each exact value as sign, magnitude
and power of two. -/
structure LutSrc where
  k    : Nat
  ty   : Nat
  bsa  : Bool
  acts : List Byte
  scal : List Byte
  deriving DecidableEq, Repr, Inhabited

/-- A value of a control register that an MTC has replaced, and the MTC's number: a lane that does not come after the MTC
may still see it (R366). -/
structure OldCtrl where
  reg : Nat
  val : Word
  mtc : Nat
  deriving DecidableEq, Repr, Inhabited

/-- What a BIND has added to a context's bindings, or an UNBIND has taken from them, and its number: a lane that does not
come after it may still act without it (R330). -/
structure Rebind where
  added : Bool
  binds : List Binding
  num   : Nat
  deriving DecidableEq, Repr, Inhabited

/-- The control registers of a context (R356) that are not kept elsewhere. -/
structure Ctrl where
  prv     : Bool
  /-- HND: 0 normal, 1 user handler, 2 system handler (R354). -/
  hnd     : BitVec 2
  chk     : Bool
  cause   : Word
  finfo   : Word
  faddr   : Word
  utvec   : Word
  tvec    : Word
  slipw   : BitVec 13
  detm    : Bool
  mode    : Word
  vamask  : Word
  nestid  : BitVec 32
  asid    : BitVec 13
  gen     : BitVec 16
  savea   : Word
  itcount : Word
  ittimer : BitVec 32
  /-- Knot j of CMPDTt is entry 17·t + j (R42, R356). -/
  cmpdt   : Vector Word 68
  deriving DecidableEq, Repr

/-- A placed context. -/
structure Ctx where
  core   : Nat
  bank   : Nat
  res    : Residence
  nest   : Nat
  point  : Nat
  vif    : Nat
  part   : Nat
  prio   : Nat
  laneL  : LaneSt
  laneC  : LaneSt
  laneS  : LaneSt
  f      : Vector Word 32
  v      : Vector VWord 32
  p      : Vector PWord 8
  acc    : Vector AccWord 4
  ctrl   : Ctrl
  /-- MTCs, BINDs and UNBINDs of the context so far, the values that MTCs have replaced since its lanes last met
  (R366), and what BINDs and UNBINDs have changed since then (R330). -/
  mtcs   : Nat
  olds   : List OldCtrl
  rebinds : List Rebind
  ovl0   : OvlSlot
  ovl1   : OvlSlot
  /-- OVL.w words that wait for a slot: the handler state in which each waits, and the slot (R237). -/
  ovlWait : List (Nat × Nat)
  /-- Trip counts of the loop table (R54). -/
  loopTab : List Nat
  binds   : List Binding
  /-- Pins on slates: SCB location and version (R99). -/
  slatePins : List (Nat × BitVec 32)
  /-- Slates whose write the context holds, by SCB location (R99). -/
  slateWrites : List Nat
  /-- What contexts that have ended held on slates of this share while it was spilled: the slate's record, the version
  pinned or none for the write, and the context (R99). -/
  slateOwed : List (Nat × Option (BitVec 32) × Nat)
  /-- Pins on block tables: BTD location, the address that named it, and version (R166). -/
  tablePins : List (Nat × Nat × BitVec 32)
  lut    : LutSrc
  fatal  : Option Fatal
  /-- A difference between the two cores of the pair, not yet compared (R81): the item of R373. -/
  mirrorDiff : Option Nat
  /-- Save-area image state of R369: 0 PARTIAL, 1 CLEAN, 2 SPILLED. -/
  image  : Nat
  /-- Cycles the context has been active since the last swap (R404). -/
  quantum : Nat
  /-- Where the service delivery stopped each lane (RESUME_L, C, S of R369). -/
  resume : Word × Word × Word
  /-- The service report rod was full: the report is retried (R364). -/
  reportDue : Bool
  deriving DecidableEq, Repr

/-! ### What a core holds -/

/-- A slot of instruction memory: its tag and its words (R103). `full` is false during a fill; `told`: the
fill's translation fault has been recorded (R237). -/
structure ImemSlot where
  asid  : BitVec 13
  addr  : Word
  len   : Nat
  words : List Word
  full  : Bool
  told  : Bool
  deriving DecidableEq, Repr, Inhabited

/-- A 64-byte copy in an L1 or a remote-data cache, tagged by its location (R106, R108). `vas` are the
host-half virtual lines, with their ASID, through which it was filled: the device has no tables of that half
in which to look up what a range of addresses names. -/
structure CacheLine where
  data : BitVec 512
  vas  : List (Nat × Nat)
  deriving DecidableEq, Repr, Inhabited

/-- What a write-path entry does at its home (R64, R325, R327). `redm` holds AOP and size. -/
inductive WriteOp where
  | store | redm (aop size : Nat)
  deriving DecidableEq, Repr, Inhabited

/-- A global write accepted by a core's L1 write path and not yet performed (R64, R115). -/
structure PendWrite where
  id    : Nat
  ctx   : Nat
  lane  : Lane
  asid  : BitVec 13
  va    : Word
  pa    : Nat
  op    : WriteOp
  /-- The bytes from `pa` on; none where a masked store leaves one as it is. -/
  bytes : List (Option Byte)
  /-- The piece of the same store that is performed first (R321). -/
  prev  : Option Nat
  /-- The number that the next entry of any core was to have when a release, or the end of a command that
  follows the write, made the write known to others (R119); none before. -/
  rel   : Option Nat
  /-- The number that the next entry was to have when the core last made an acquire: what had been released
  by then comes before this write where both touch a byte (R128). -/
  seen  : Nat
  deriving DecidableEq, Repr, Inhabited

/-- A pending write of an accumulator by the matrix array or the plane unit (R216, R287). -/
structure PendAcc where
  ctx : Nat
  acc : Nat
  val : AccWord
  deriving DecidableEq, Repr, Inhabited

/-- A core: 0 to 1,023 by package-wide number (R8), 1,024 + 2·die + j for service core j (R10). -/
structure CoreSt where
  /-- H0 and PEND of SPLIT (R85). -/
  h0     : Nat
  pend   : Nat
  bank0  : Option Nat
  bank1  : Option Nat
  active : Nat
  /-- The context that last completed in a free bank: its share stays reachable until the bank is filled
  again (R92, R351; log 32). -/
  last0  : Option Nat
  last1  : Option Nat
  /-- A spill or a kill of a bank is under way, for the CTXSPILL of a context and lane (R370). -/
  spill0 : Option (Nat × Lane)
  spill1 : Option (Nat × Lane)
  /-- QNT of the partition as the core took it up at its last swap (R404, R407). -/
  qnt    : Nat
  slot0  : ImemSlot
  slot1  : ImemSlot
  l1     : Kv CacheLine
  wpath  : List PendWrite
  /-- The number that the next write-path entry was to have at the core's last acquire (R128). -/
  seen   : Nat
  accq   : List PendAcc
  cycle  : Word
  intp   : Word
  deriving DecidableEq, Repr

/-! ### Engine commands -/

/-- The engine commands of R301 and R344. -/
inductive CmdKind where
  | copy | copyt | fill | qcvt | plane | fsend | frecv | fcoll | pref | kvapp | psel
  deriving DecidableEq, Repr, Inhabited

/-- Progress of an engine command (R77, R79). -/
inductive CmdPhase where
  | queued | started | held
  deriving DecidableEq, Repr, Inhabited

/-- A physical scratchpad range and whether the command writes it (R100, R84). -/
structure Range where
  lo    : Nat
  hi    : Nat
  write : Bool
  deriving DecidableEq, Repr, Inhabited

/-- A predecessor of a command (R77): its lane and number, whether it has been issued, and whether it
has completed. -/
structure Pred where
  lane   : Lane
  num    : BitVec 16
  issued : Bool
  done   : Bool
  deriving DecidableEq, Repr, Inhabited

/-- An engine command in flight (R75 to R79, R302). -/
structure EngCmd where
  ctx   : Nat
  lane  : Lane
  num   : BitVec 16
  kind  : CmdKind
  core  : Nat
  bank  : Nat
  asid  : BitVec 13
  /-- The context held privilege when it issued the command; while it lives, what it holds now counts (R382). -/
  priv  : Bool
  dst   : Word
  src   : Word
  desc  : Word
  ctr   : Word
  inc   : BitVec 4
  sub   : BitVec 9
  fl    : BitVec 6
  /-- The block read at issue (R304), or the bytes of the source registers. -/
  blk   : List Byte
  preds : List Pred
  binds : List Binding
  ranges : List Range
  /-- Scoreboard entry, trimmed under R102; none for a command that takes none. -/
  board : Option (List Range)
  phase : CmdPhase
  /-- Bytes of the processing order, and those completed (OFF of R302). -/
  len   : Nat
  off   : Nat
  code  : Nat
  sat   : Bool
  /-- Scratchpad writes through a multicast window that a target has still to see (R94). -/
  landing : List ScratchWrite
  /-- Global lines that the command has written, by location (R131), and those that its predecessors had written
  (R127, R130). -/
  lines : List Nat
  before : List Nat
  /-- Pending writes of the core below this number precede the command (R130). -/
  wid   : Nat
  /-- Core whose engine runs the command (R78). -/
  runOn : Nat
  /-- Source bytes held for the command, where they are held: those of an overlapping copy (R306), data
  sent, received or decided (R315, R316). -/
  data  : List (Option Byte)
  /-- The peer has acknowledged an FSEND, the data of an FRECV has arrived, an FCOLL is decided. -/
  acked : Bool
  /-- The group that an FSEND, FRECV or FCOLL addresses (R316, R422). -/
  grp   : Option Nat
  /-- Rank, die, tag and ordinal of an FSEND's or FRECV's peer (R315); group key and ordinal of an
  FCOLL (R427). -/
  ends  : Nat × Nat × Nat × Nat
  /-- The translation fault that holds the command: kind of R390, write, address. -/
  fault : Option (Nat × Bool × Word)
  /-- For KVAPP: progress of R169: NAPP taken, entry being set up, page allocated. -/
  kvNapp : Bool
  kvSet  : Option Nat
  kvNew  : Option Nat
  /-- The fresh page holds the contents of the page it replaces. -/
  kvDone : Bool
  kvPage : Nat
  /-- For PSEL: the version pinned (R179). -/
  pinned : Option (BitVec 32)
  /-- For KVAPP: the block table being set up (R169), by location. -/
  table  : Nat
  /-- The engine-fault rod was full: the record is retried (R390). -/
  reportDue : Bool
  /-- A Page Request whose response is to come holds the command, and no record has been made (R390). -/
  asked  : Bool
  deriving DecidableEq, Repr

/-- A command that has completed, kept for the joins of R131 and the checker of R84. -/
structure DoneCmd where
  ctx    : Nat
  lane   : Lane
  num    : BitVec 16
  ranges : List Range
  preds  : List Pred
  /-- Global lines that it and its predecessors wrote. -/
  lines  : List Nat
  deriving DecidableEq, Repr, Inhabited

/-- An increment included in a counter's value (R120, R131): the counter's location, the command,
the global lines it wrote, and those that its predecessors wrote. -/
structure CtrInc where
  loc   : Nat
  ctx   : Nat
  /-- The command's lane and number, until the number is used again. -/
  name  : Option (Lane × BitVec 16)
  lines : List Nat
  before : List Nat
  deriving DecidableEq, Repr, Inhabited

/-! ### Waiters at a home -/

/-- What a wait entry waits for, or keeps for a dormant lane (R149, R405). `commit`: an enqueuer whose
reserved slot k is not yet committed (R146). `retry`: an operation that found no free entry (R152). -/
inductive WaitKind where
  | enq (bead : List Byte) | deq (dst : Nat) (len : Nat)
  | commit (k : Nat)
  | addr | counter | barrier | slateRd | slateWr | table
  | retry
  | wake
  deriving DecidableEq, Repr

/-- A wait entry or a wake entry, in parking order (R141, R149, R405). -/
structure Waiter where
  /-- Location of the object. -/
  obj  : Nat
  /-- Address by which the instruction named it. -/
  addr : Word
  ctx  : Nat
  lane : Lane
  kind : WaitKind
  /-- Wait table: 16·die + slice group for memory, 4,096 + cluster for scratchpad. -/
  home : Nat
  /-- Index of the entry in that table (R141). -/
  entry : Nat
  /-- The home has an event that ends the dormancy to report (R405). -/
  due  : Bool
  /-- Bytes of the object of a wake entry that any write to them changes, a WAITA location or a counter; 0 for the control
  blocks, which only operations on them change (R405). -/
  span : Nat
  deriving DecidableEq, Repr

/-! ### Nests, virtual interfaces, partitions, groups -/

/-- A level descriptor (R53). -/
structure Level where
  kind  : Nat
  ireg  : Nat
  iregEn : Bool
  ltidx : Nat
  count : Nat
  start : Word
  step  : Word
  deriving DecidableEq, Repr, Inhabited

/-- A nest that a walker has created (R52, R400). -/
structure Nest where
  vif    : Nat
  part   : Nat
  asid   : BitVec 13
  tag    : BitVec 32
  note   : Bool
  prq    : Bool
  utv    : Word
  tv     : Word
  cmpi   : List Word
  nestid : BitVec 32
  prio   : Nat
  detm   : Bool
  checked : Bool
  ovl0   : Word
  ovlw   : Nat
  entryw : Nat
  argb   : Word
  ltab   : Word
  ltn    : Nat
  binds  : List Binding
  slipw0 : Nat
  stkL   : Nat
  stkC   : Nat
  stkS   : Nat
  waits  : List (Word × Word)
  sigAddr : Word
  sigInc : Word
  levels : List Level
  /-- Points placed so far on each die that has points (R58). -/
  placed : Kv Nat
  total  : Nat
  done   : Nat
  faulted : Bool
  complete : Bool
  deriving DecidableEq, Repr, Inhabited

/-- A virtual interface: its descriptor (R396), its registers (R397) and what it has sent. -/
structure Vif where
  valid  : Bool
  prvok  : Bool
  part   : Nat
  npend  : Nat
  asidb  : Nat
  asidn  : Nat
  lrod   : Word
  crod   : Word
  lst    : Nat
  cst    : Nat
  accB   : Nat
  refd   : Nat
  modcnt : Nat
  modtmr : Nat
  pcnt   : Nat
  iflag  : BitVec 3
  /-- MSI-X messages sent on vector 0 and vector 1. -/
  msi0   : Nat
  msi1   : Nat
  /-- Page request groups outstanding (R383). -/
  pageReqs : List (Nat × Word)
  /-- Launch records that wait for room in CROD (R401). -/
  recq   : List (List Byte)
  deriving DecidableEq, Repr, Inhabited

/-- A partition (R406, R407). -/
structure Partition where
  dies : BitVec 16
  qnt  : Nat
  /-- BMAX of each die as applied, and as written and waiting for the die's next iteration boundary (R407). -/
  bmax : Vector Nat 16
  bmaxNew : Vector (Option Nat) 16
  /-- DRAFT_SHARE of each die as applied (R17, R19). -/
  dsh  : Vector (BitVec 4) 16
  /-- DRAFT_SHARE written and waiting for the die's next iteration boundary (R19). -/
  dshNew : Vector (Option (BitVec 4)) 16
  deriving DecidableEq, Repr

/-- State of a scale-out group (R422). -/
inductive GroupState where
  | forming | formed | broken | freed
  deriving DecidableEq, Repr, Inhabited

/-- A scale-out group of which this module is a member (R421, R422). -/
structure Group where
  st     : GroupState
  rank   : Nat
  g      : Nat
  part   : Nat
  rto    : Nat
  gid    : BitVec 32
  handle : Nat
  vif    : Nat
  tag    : BitVec 32
  asid   : BitVec 13
  record : Word
  /-- Lanes in use towards each peer rank (R421, R423). -/
  lanes  : List (Nat × BitVec 16)
  /-- The lane of a peer's set that failed last, and how many have failed and not been replaced (R421, R424). -/
  lost   : List (Nat × Nat × Nat)
  /-- Collectives decided so far (R427). -/
  decided : Nat
  /-- Collectives issued so far by this module. -/
  issued : Nat
  /-- Sources reported by each peer for the collective to be decided next (R427): rank, bytes. -/
  reports : List (Nat × List Byte)
  /-- The break the home has decided or been asked for (R427, R428). -/
  breakReq : Bool
  deriving DecidableEq, Repr, Inhabited

/-! ### What a die holds -/

/-- A commit under way (R195): the path with node 0, the new tokens, the draws used, the status EMPTY; then
k′, HLEN before the commit, and the STATE and REASON that follow. -/
structure Commit where
  path  : List Nat
  toks  : List Nat
  draws : Nat
  empty : Bool
  kept  : Nat
  hlen  : Nat
  next  : Nat
  reason : Nat
  /-- 0 rows to be moved; 1 entries to be released; 2 slot to be gathered; 3 slot gathered; 4 slot posted; 5 slot
  lost. -/
  stage : Nat
  deriving DecidableEq, Repr, Inhabited

/-- An active sequence record of a die (R184, R409). -/
structure SeqEnt where
  /-- Location of the record. -/
  seq    : Nat
  va     : Word
  asid   : BitVec 13
  part   : Nat
  vif    : Nat
  /-- Context that holds the sequence (R409). -/
  holder : Option Nat
  /-- The current iteration's bead has been enqueued or taken (R408). -/
  inFlight : Bool
  taken  : Bool
  /-- REASON that PEND leads to: false HOST, true PREEMPT (R188, R410). -/
  preempt : Bool
  /-- The commit of a record in COMMIT, once its path is known (R195). -/
  commit : Option Commit
  /-- The iteration whose commit is a prefill commit (R197). -/
  prefill : Bool
  deriving DecidableEq, Repr, Inhabited

/-- A work bead that is deferred (R408). `full`: for a full rod, else for BMAX. -/
structure Deferred where
  part  : Nat
  draft : Bool
  bead  : List Byte
  seq   : Nat
  full  : Bool
  deriving DecidableEq, Repr, Inhabited

/-- A 16-byte completion slot (R197): the record it reports, the ITER that the record has while the slot is what it
waits for, and whether it is a commit's, whose STATE and REASON are filled in as it is posted. -/
structure Slot where
  bytes  : List Byte
  seq    : Nat
  iter   : Nat
  commit : Bool
  deriving DecidableEq, Repr, Inhabited

/-- A completion record in posting: the name under which it waits at its rod, the number of its slots, the location of
the rod's RCB, and what the rod has answered. -/
structure Posting where
  wait   : Nat
  slots  : Nat
  rod    : Nat
  answer : Option Nat
  deriving DecidableEq, Repr, Inhabited

/-- Completion slots that the sequence manager has gathered for one rod (R197). -/
structure Gathered where
  crod  : Word
  asid  : BitVec 13
  part  : Nat
  slots : List Slot
  /-- The record that waits in the rod's list of waiters (R149, R156). -/
  posting : Option Posting
  deriving DecidableEq, Repr, Inhabited

/-- Access count of a page (R392): ASID, virtual base, size; count; a hint has been given. -/
structure PageCount where
  asid  : Nat
  va    : Nat
  size  : Nat
  count : BitVec 16
  hinted : Bool
  deriving DecidableEq, Repr, Inhabited

/-- A compute die. -/
structure Die where
  rdc    : Kv CacheLine
  /-- Rods registered by MIGR.init (R393). -/
  engRod : Option Word
  hintRod : Option Word
  repRod : Option Word
  saveRod : Option Word
  /-- ASID in which those addresses were registered. -/
  rodAsid : BitVec 13
  mthr   : Nat
  counts : List PageCount
  seqs   : List SeqEnt
  deferred : List Deferred
  gathered : List Gathered
  /-- Records posted to each completion rod, by the location of its RCB (R197). -/
  posted : List (Nat × Nat)
  /-- Save areas that are to go back to the die's rod (R400). -/
  areas  : List Word
  /-- VIF last served at each PRIO (R403); 255 before any. -/
  lastVif : Vector Nat 4
  /-- VIF last served by the lead die's launch walker (R399). -/
  lastLaunch : Nat
  /-- Commands issued so far to or from each peer: tag + 2^16·die + 2^20·rank (R315). -/
  sends : Kv Nat
  recvs : Kv Nat
  /-- Readings of R438: sensors 0 to 16 in 1/16 °C, rails in mV, oscillators. -/
  temps  : List Int
  volts  : List Int
  procs  : List Int
  /-- Effective core clock, Adeley's target, power cap and thermal cap, in MHz (R442). -/
  clock  : Nat
  target : Nat
  pcap   : Nat
  tcap   : Nat
  /-- First-row and second-row thermal limits in force (R444). -/
  warm   : Bool
  hot    : Bool
  /-- On-die wear counts since the last flush: 256·class + item (R440). -/
  wear   : Kv Nat
  deriving DecidableEq, Repr

/-! ### Translation -/

/-- A cached translation (R379, R383, R385): a range of virtual addresses, the frame, and what it
allows. `host`: it is of the host half, and `pa` is the address that the host's completion gave. -/
structure TlbEnt where
  /-- Die whose TLB holds it. -/
  die  : Nat
  asid : Nat
  gen  : Nat
  va   : Nat
  size : Nat
  pa   : Nat
  w    : Bool
  u    : Bool
  ae   : Bool
  mg   : Bool
  host : Bool
  priv : Bool
  deriving DecidableEq, Repr, Inhabited

/-- A table entry of level 0 to 2 in a die's walk cache (R379, R385): the level, the address bits that select
it, and the entry. -/
structure WalkEnt where
  die   : Nat
  asid  : Nat
  gen   : Nat
  level : Nat
  index : Nat
  entry : Nat
  deriving DecidableEq, Repr, Inhabited

/-- A MIGR.move under way (R394): who issued it, the page, its leaf entry, the two frames, and how many lines
have been copied. `lost`: it has been abandoned for another move (R395). -/
structure PageMove where
  ctx   : Nat
  lane  : Lane
  asid  : Nat
  va    : Nat
  size  : Nat
  leaf  : Nat
  old   : Nat
  new   : Nat
  org   : Nat
  lines : Nat
  lost  : Bool
  deriving DecidableEq, Repr, Inhabited

/-- A bead in a rod's slot as it was enqueued: the RCB's location, the bead's number, and its bytes. A plain store to the
slot does not change it (R148). -/
structure HeldBead where
  rod   : Nat
  num   : Nat
  bytes : List Byte
  deriving DecidableEq, Repr, Inhabited

/-- A pending BTINV signal that the home holds (R168). -/
structure TableSignal where
  table : Nat
  asid  : BitVec 13
  priv  : Bool
  ver   : BitVec 32
  ctr   : Word
  deriving DecidableEq, Repr, Inhabited

/-- What a context that has ended leaves to be settled at a block table (R166, R169, R179): for whom, the table, a pin
to be released, an append's counts, and a page that it had not entered. -/
structure TableDebt where
  core  : Nat
  asid  : Nat
  priv  : Bool
  table : Nat
  pin   : Option (BitVec 32)
  napp  : Bool
  sete  : Bool
  page  : Option Nat
  deriving DecidableEq, Repr, Inhabited

/-! ### Who moves -/

/-- What an event concerns: a context, lane and command; a core, die, interface, group or other
number; an address and a length; bytes that arrive; readings. Each event says which it reads. -/
structure Ev where
  ctx   : Nat
  lane  : Lane
  num   : Nat
  a     : Nat
  b     : Nat
  bytes : List Byte
  ints  : List (List Int)
  deriving DecidableEq, Repr, Inhabited

/-- Who takes the next step: a lane of a context, or an event of the device or of the world
outside it. -/
inductive Agent where
  | lane (ctx : Nat) (l : Lane)
  /-- Lane C of a context reads an operand row of the matrix word that it is about to retire (R293). -/
  | readAhead (ctx : Nat)
  | event (i : Instr) (e : Ev)
  deriving DecidableEq, Repr

/-- What became of the word that has just been executed. -/
inductive Issued where
  | ran       -- executed
  | stalled   -- cannot issue now; its bundle has not issued
  | parked    -- issued, and waits at a home
  | trapped   -- took a precise trap: the context has been delivered
  | redirected -- a lane-A word that has set the lane's pc itself
  | met       -- a meeting point, which has moved every lane that took part
  /-- A VATOM that took a translation fault: its bundle retires before the trap is taken (R328, R362). -/
  | late (code detail : Nat) (addr : Word)
  deriving DecidableEq, Repr, Inhabited

/-- The bundle being issued. -/
structure Issue where
  ctx  : Nat
  lane : Lane
  /-- First word of the bundle. -/
  pc   : Nat
  /-- Index of the word being executed. -/
  slot : Nat
  /-- The context as it stood before the bundle issued: what the bundle's words read (R62). -/
  snap : Option Ctx
  res  : Issued
  /-- What the event being performed concerns. -/
  ev   : Ev
  deriving DecidableEq, Repr

/-! ### Attestation (R437) -/

/-- The signature and hash algorithms that an SPDM exchange may negotiate: one of each. -/
inductive SignAlg where
  | rsapss3072
  deriving DecidableEq, Repr, Inhabited

inductive HashAlg where
  | sha384
  deriving DecidableEq, Repr, Inhabited

/-- What an SPDM response says. -/
inductive SpdmReply where
  | version (major minor : Nat)
  | capabilities (flags : Nat)
  | algorithms (sign : SignAlg) (hash : HashAlg)
  | digests (ds : List (List Byte))
  | certificate (chain : List Byte)
  | challenge (sig : List Byte)
  | measurements (blocks : List (Nat × List Byte)) (sig : List Byte)
  deriving DecidableEq, Repr, Inhabited

/-- Health, power and attestation (R434 to R444). -/
structure Module where
  powered : Bool
  /-- BOOTST (R434). -/
  stage  : Nat
  ready  : Bool
  fail   : Bool
  err    : Nat
  nrev   : BitVec 16
  image  : BitVec 32
  /-- The module is out of service (R418). -/
  outOfService : Bool
  plim   : Nat
  /-- Periods of 100 µs for which the input power has stayed above PLIM, and below 95 % of it. -/
  overP  : Nat
  underP : Nat
  /-- Flash wear record: 2^16·die + 256·class + item (R440). -/
  flash  : Kv Nat
  /-- Suspect mask (R441): bit 64·k + N. -/
  suspect : BitVec 512
  /-- Slow-bank table (R416). -/
  slow   : Kv (BitVec 8)
  /-- Failed data wires of each vertical bus that repair has taken up (R415). -/
  wires  : Kv Nat
  /-- Faulty wires found at run time and queued for a quiesce: bus and number (R415). -/
  remaps : List (Nat × Nat)
  /-- SVN floors of the secure element for the Adeley image and for configuration blobs, and its revoked key slots: RSA in
  bits [3:0], SLH-DSA in [7:4] (R436, R437). -/
  floor  : Nat
  floorB : Nat
  revoked : BitVec 8
  /-- What has been put into module flash to boot from; none: what the module was delivered with (R435). -/
  loaded : Option Config.Firmware
  /-- Virtual functions that the host has enabled, from 1 on (R433). -/
  vfs    : Nat
  /-- AER: the uncorrectable error status of the physical function (R433). -/
  aer    : BitVec 32
  /-- Last SPDM response or host read data returned to the host, as bytes. -/
  reply  : List Byte
  /-- The number that the next write-path entry was to have when the host last dequeued through a window (R128, R136). -/
  hostSeen : Nat
  /-- The last host read ended with a completer abort (R371). -/
  abort  : Bool
  /-- How far an SPDM exchange has come, its transcript, and what the last response said (R437). -/
  spdm   : Nat
  transcript : List Byte
  said   : Option SpdmReply
  /-- Stack refresh is doubled (R444). -/
  refresh2 : Bool
  /-- Failed scale-out lanes (R423). -/
  deadLanes : BitVec 16
  lastLane : Nat
  /-- Replays in a row of the flit that each link has replayed last: 2^16·die + 2^12·kind + link (R417). -/
  replays : Kv Nat
  deriving DecidableEq, Repr

/-- The whole module, with what the host and the fabric have put to it. -/
structure State where
  /-- Every byte of storage that holds a value other than zero, by location: stack memory and the
  second tier at their device physical address (R374), host memory at 2^64 and the scratchpads at
  2^72 (Machine/Ops.lean). -/
  mem    : List Host.Cell
  /-- Bytes that the step in progress has written, newest first; empty between steps. -/
  wlog   : List Host.Cell
  /-- 64-byte lines and rows that hold an uncorrectable error (R371), and those of them whose error is in an L2 that holds the
  only copy (R440). -/
  poison : List Nat
  l2bad  : List Nat
  ctxs   : Kv Ctx
  cores  : Kv CoreSt
  dies   : Kv Die
  vifs   : Kv Vif
  parts  : Kv Partition
  nests  : Kv Nest
  groups : Kv Group
  cmds   : List EngCmd
  doneCmds : List DoneCmd
  incs   : List CtrInc
  waiters : List Waiter
  beads  : List HeldBead
  signals : List TableSignal
  debts  : List TableDebt
  tlb    : List TlbEnt
  walks  : List WalkEnt
  moves  : List PageMove
  /-- ASID table PA, aperture base and size registered by TLBINV.init (R378, R383, R388). -/
  asidTable : Option Nat
  aperBase : Nat
  aperSize : Nat
  /-- Address and ASID of the index descriptor registered by PFXADM INIT (R171). -/
  index  : Option (Word × BitVec 13)
  /-- Next placement serial (R360). -/
  nextSer : Nat
  /-- Next nest, write-path entry and group. -/
  nextId : Nat
  module : Module
  /-- Who moves next, when the world or the schedule has fixed it. -/
  agenda : List Agent
  cur    : Issue
  /-- Free values used so far (the model's own counter). -/
  fresh  : Nat
  deriving DecidableEq, Repr

/-- Why the machine stops. -/
inductive Fault where
  /-- Raised by a step while the module is powered off (R444): nothing runs until a module reset.
  Safe: it claims nothing of the hardware. -/
  | moduleOff
  deriving DecidableEq, Repr

/-- Why a step has no meaning in the model. -/
inductive Refusal where
  /-- Raised by the arm of an instruction that has no meaning yet. Safe. -/
  | notModelled (mnemonic : String)
  deriving DecidableEq, Repr

/-! ### Values before anything has written them -/

/-- An empty set of loop stack and queues. -/
def LaneQ.empty : LaneQ := ⟨[], [], [], [], [], none⟩

/-- A lane as placement starts it, before the nest's values are written (R59). -/
def LaneSt.reset : LaneSt where
  pc := 0
  s := Vector.replicate 32 0
  i := Vector.replicate 8 0
  slim := 0
  epc := 0
  lcnt := 0
  eseq := 0
  normal := LaneQ.empty
  handler := LaneQ.empty
  ended := false
  endedBefore := false
  endPc := 0
  edep := none
  rslot := none
  parked := none
  dormant := false
  arrived := false
  inflight := []
  scratchInflight := []
  skips := 0
  past := []
  joined := []
  ahead := []

/-- The control registers at placement, before the launch's values are written (R59, R356). The
knots of CMPDT take the reset values of R42. -/
def Ctrl.reset : Ctrl where
  prv := false
  hnd := 0
  chk := false
  cause := 0
  finfo := 0
  faddr := 0
  utvec := 0
  tvec := 0
  slipw := 0x100
  detm := false
  mode := 0
  vamask := 0
  nestid := 0
  asid := 0
  gen := 0
  savea := 0
  itcount := 0
  ittimer := 0
  cmpdt := Vector.replicate 68 0

/-- A context with nothing in it (R59). -/
def Ctx.reset : Ctx where
  core := 0
  bank := 0
  res := .gone
  nest := 0
  point := 0
  vif := 0
  part := 0
  prio := 0
  laneL := LaneSt.reset
  laneC := LaneSt.reset
  laneS := LaneSt.reset
  f := Vector.replicate 32 0
  v := Vector.replicate 32 0
  p := Vector.replicate 8 0
  acc := Vector.replicate 4 0
  ctrl := Ctrl.reset
  mtcs := 0
  olds := []
  rebinds := []
  ovl0 := ⟨.empty, 0, 0⟩
  ovl1 := ⟨.empty, 0, 0⟩
  ovlWait := []
  loopTab := []
  binds := []
  slatePins := []
  slateWrites := []
  slateOwed := []
  tablePins := []
  lut := ⟨0, 0, false, [], []⟩
  fatal := none
  mirrorDiff := none
  image := 0
  quantum := 0
  resume := (0, 0, 0)
  reportDue := false

/-- A core after module reset (R85, R103, R360); the value of a core that no key lists. -/
def CoreSt.reset : CoreSt where
  h0 := 8
  pend := 0
  bank0 := none
  bank1 := none
  active := 0
  last0 := none
  last1 := none
  spill0 := none
  spill1 := none
  qnt := 0
  slot0 := ⟨0, 0, 0, [], true, false⟩
  slot1 := ⟨0, 0, 0, [], true, false⟩
  l1 := []
  wpath := []
  seen := 0
  accq := []
  cycle := 0
  intp := 0

/-- A die after module reset (R393, R403, R442); the value of a die that no key lists. -/
def Die.reset : Die where
  rdc := []
  engRod := none
  hintRod := none
  repRod := none
  saveRod := none
  rodAsid := 0
  mthr := 0
  counts := []
  seqs := []
  deferred := []
  gathered := []
  posted := []
  areas := []
  lastVif := Vector.replicate 4 255
  lastLaunch := 255
  sends := []
  recvs := []
  temps := []
  volts := []
  procs := []
  clock := 2000
  target := 2000
  pcap := 2200
  tcap := 2200
  warm := false
  hot := false
  wear := []

/-- A virtual interface after module reset (R397); the value of one that no key lists. -/
def Vif.reset : Vif where
  valid := false
  prvok := false
  part := 0
  npend := 1
  asidb := 0
  asidn := 0
  lrod := 0
  crod := 0
  lst := 0
  cst := 0
  accB := 0
  refd := 0
  modcnt := 1
  modtmr := 0
  pcnt := 0
  iflag := 0
  msi0 := 0
  msi1 := 0
  pageReqs := []
  recq := []

/-- A partition with no dies (R406); the value of one that no key lists. -/
def Partition.reset : Partition where
  dies := 0
  qnt := 0
  bmax := Vector.replicate 16 1024
  bmaxNew := Vector.replicate 16 none
  dsh := Vector.replicate 16 0
  dshNew := Vector.replicate 16 none

/-- An idle issue record. -/
def Issue.idle : Issue := ⟨0, .L, 0, 0, none, .ran, ⟨0, .L, 0, 0, 0, [], []⟩⟩

/-- The module right after a module reset: powered, before boot stage 1, nothing placed, memory
not listed (R435). -/
def State.reset : State where
  mem := []
  wlog := []
  poison := []
  l2bad := []
  ctxs := []
  cores := []
  dies := []
  vifs := []
  parts := []
  nests := []
  groups := []
  cmds := []
  doneCmds := []
  incs := []
  waiters := []
  beads := []
  signals := []
  debts := []
  tlb := []
  walks := []
  moves := []
  asidTable := none
  aperBase := 0
  aperSize := 0
  index := none
  nextSer := 0
  nextId := 0
  module :=
    { powered := true, stage := 0, ready := false, fail := false, err := 0, nrev := 0, image := 0
      outOfService := false, plim := 2800, overP := 0, underP := 0, flash := [], suspect := 0
      slow := [], wires := [], remaps := [], floor := 0, floorB := 0, revoked := 0, loaded := none, vfs := 0, aer := 0
      reply := [], hostSeen := 0, abort := false, spdm := 0, transcript := [], said := none, refresh2 := false
      deadLanes := 0, lastLane := 0, replays := [] }
  agenda := []
  cur := Issue.idle
  fresh := 0

end Sys2Proof.Machine
end

