-- ==== Sys2Proof/Machine/Store.lean ====
section
/-! DEFINITION. Reading and writing the state: finite maps, bytes of storage, contexts, lanes,
registers, free values. -/

namespace Sys2Proof.Machine

/-! ### Finite maps -/

def kvGet {α : Type} : Kv α → Nat → Option α
  | [], _ => none
  | (j, x) :: m, k => if j = k then some x else kvGet m k

def kvPut {α : Type} : Kv α → Nat → α → Kv α
  | [], k, x => [(k, x)]
  | (j, y) :: m, k, x =>
    if k < j then (k, x) :: (j, y) :: m
    else if k = j then (k, x) :: m
    else (j, y) :: kvPut m k x

def kvDel {α : Type} : Kv α → Nat → Kv α
  | [], _ => []
  | (j, y) :: m, k => if j = k then kvDel m k else (j, y) :: kvDel m k

/-! ### Bytes

A location is a device physical address (R374), 2^64 + a host address, or 2^72 + 2^21·core + a byte
of that core's scratchpad. -/

def hostLoc (a : Nat) : Nat := 2 ^ 64 + a

def spadLoc (core byte : Nat) : Nat := 2 ^ 72 + core * 2 ^ 21 + byte

/-- What the memory list holds at a location: zero where nothing is listed (R435, log 4). -/
def memGet (m : List Host.Cell) (a : Nat) : Byte := (kvGet m a).getD 0

/-- Writing zero removes the entry, so equal memories are equal lists. -/
def memPut (m : List Host.Cell) (a : Nat) (b : Byte) : List Host.Cell :=
  if b = 0 then kvDel m a else kvPut m a b

/-- Addresses strictly rising from `lo`, and no entry that equals what an unlisted address reads. -/
def memWfFrom (lo : Nat) : List Host.Cell → Bool
  | [] => true
  | (a, b) :: m => decide (lo ≤ a) && b != 0 && memWfFrom (a + 1) m

/-- The canonical form of memory. -/
def Memory.wf (m : List Host.Cell) : Bool := memWfFrom 0 m

/-- One byte as the step in progress sees it: what it has written itself, else memory. -/
def State.byteAt (s : State) (a : Nat) : Byte :=
  match kvGet s.wlog a with
  | some b => b
  | none => memGet s.mem a

def State.setByte (s : State) (a : Nat) (b : Byte) : State := { s with wlog := (a, b) :: s.wlog }

/-- The bytes a step has written become memory, the newest write of a byte last. -/
def commitMem (m : List Host.Cell) (w : List Host.Cell) : List Host.Cell :=
  w.foldr (fun c acc => memPut acc c.1 c.2) m

/-- `n` bytes at rising locations. -/
def State.readBytes (s : State) (a : Nat) : Nat → List Byte
  | 0 => []
  | n + 1 => s.byteAt a :: s.readBytes (a + 1) n

def State.writeBytes (s : State) (a : Nat) : List Byte → State
  | [] => s
  | b :: bs => (s.setByte a b).writeBytes (a + 1) bs

/-- `n` bytes of a number, least significant first (R1). -/
def bytesOf (v : Nat) : Nat → List Byte
  | 0 => []
  | n + 1 => BitVec.ofNat 8 v :: bytesOf (v / 256) n

/-- A little-endian number of `n` bytes. -/
def State.readNat (s : State) (a n : Nat) : Nat := leNat (s.readBytes a n)

def State.writeNat (s : State) (a n v : Nat) : State := s.writeBytes a (bytesOf v n)

/-- A field [hi:lo] of a number (R1). -/
def bits (v lo len : Nat) : Nat := v / 2 ^ lo % 2 ^ len

/-- A field replaced. -/
def putBits (v lo len x : Nat) : Nat :=
  v - bits v lo len * 2 ^ lo + x % 2 ^ len * 2 ^ lo

/-- A bit field of a little-endian 8-byte word in storage. -/
def State.field (s : State) (a lo len : Nat) : Nat := bits (s.readNat a 8) lo len

def State.setField (s : State) (a lo len x : Nat) : State :=
  s.writeNat a 8 (putBits (s.readNat a 8) lo len x)

/-- Sign extension of the low `n` bits of a number to an integer. -/
def toSigned (v n : Nat) : Int := if bits v (n - 1) 1 = 1 then (bits v 0 n : Int) - 2 ^ n else bits v 0 n

/-- An integer modulo 2^n. -/
def wrap (x : Int) (n : Nat) : Nat := (x % (2 ^ n : Int)).toNat

/-! ### Free values -/

/-- The next free value of a kind; the counter advances so that no two are tied together. -/
def State.free (s : State) (kind : Nat) : Nat × State :=
  (Config.free kind s.fresh, { s with fresh := s.fresh + 1 })

/-! ### Contexts, cores, dies, interfaces, partitions -/

def State.ctx (s : State) (k : Nat) : Ctx := (kvGet s.ctxs k).getD Ctx.reset
def State.setCtx (s : State) (k : Nat) (c : Ctx) : State := { s with ctxs := kvPut s.ctxs k c }
def State.updCtx (s : State) (k : Nat) (f : Ctx → Ctx) : State := s.setCtx k (f (s.ctx k))
def State.core (s : State) (k : Nat) : CoreSt := (kvGet s.cores k).getD CoreSt.reset
def State.setCore (s : State) (k : Nat) (c : CoreSt) : State := { s with cores := kvPut s.cores k c }
def State.updCore (s : State) (k : Nat) (f : CoreSt → CoreSt) : State := s.setCore k (f (s.core k))
def State.die (s : State) (k : Nat) : Die := (kvGet s.dies k).getD Die.reset
def State.setDie (s : State) (k : Nat) (d : Die) : State := { s with dies := kvPut s.dies k d }
def State.updDie (s : State) (k : Nat) (f : Die → Die) : State := s.setDie k (f (s.die k))
def State.vif (s : State) (k : Nat) : Vif := (kvGet s.vifs k).getD Vif.reset
def State.updVif (s : State) (k : Nat) (f : Vif → Vif) : State :=
  { s with vifs := kvPut s.vifs k (f (s.vif k)) }
def State.part (s : State) (k : Nat) : Partition := (kvGet s.parts k).getD Partition.reset
def State.updPart (s : State) (k : Nat) (f : Partition → Partition) : State :=
  { s with parts := kvPut s.parts k (f (s.part k)) }
def State.nest (s : State) (k : Nat) : Nest := (kvGet s.nests k).getD default
def State.updNest (s : State) (k : Nat) (f : Nest → Nest) : State :=
  { s with nests := kvPut s.nests k (f (s.nest k)) }
def State.group (s : State) (k : Nat) : Group := (kvGet s.groups k).getD default
def State.updGroup (s : State) (k : Nat) (f : Group → Group) : State :=
  { s with groups := kvPut s.groups k (f (s.group k)) }

/-- Die of a core: user cores by 64, service cores above 1,023 by pairs (R8, R10). -/
def dieOfCore (core : Nat) : Nat := if core < 1024 then core / 64 else (core - 1024) / 2

def isService (core : Nat) : Bool := decide (1024 ≤ core)

/-- Package-wide cluster of a core (R9); a service core has none, and gets a number of its own. -/
def clusterOf (core : Nat) : Nat := if core < 1024 then core / 4 else core

/-- Service cores of a die. -/
def serviceCores (die : Nat) : List Nat := [1024 + 2 * die, 1025 + 2 * die]

def Ctx.lane (c : Ctx) : Lane → LaneSt
  | .L => c.laneL
  | .C => c.laneC
  | .S => c.laneS

def Ctx.setLane (c : Ctx) (l : Lane) (x : LaneSt) : Ctx :=
  match l with
  | .L => { c with laneL := x }
  | .C => { c with laneC := x }
  | .S => { c with laneS := x }

def Ctx.updLane (c : Ctx) (l : Lane) (f : LaneSt → LaneSt) : Ctx := c.setLane l (f (c.lane l))

def State.lane (s : State) (k : Nat) (l : Lane) : LaneSt := (s.ctx k).lane l

def State.updLane (s : State) (k : Nat) (l : Lane) (f : LaneSt → LaneSt) : State :=
  s.updCtx k (fun c => c.updLane l f)

def lanes : List Lane := [.L, .C, .S]

/-- Lane codes of EPC, CMDL and command names: 1 L, 2 C, 3 S. -/
def laneCode : Lane → Nat
  | .L => 1
  | .C => 2
  | .S => 3

def laneOfCode (k : Nat) : Option Lane :=
  match k with
  | 1 => some .L
  | 2 => some .C
  | 3 => some .S
  | _ => none

/-- Neighbours on the token ring (R63). -/
def leftOf : Lane → Lane
  | .L => .S
  | .C => .L
  | .S => .C

def rightOf : Lane → Lane
  | .L => .C
  | .C => .S
  | .S => .L

/-- A context holds privilege when PRV = 1 or HND = 2 (R354). -/
def Ctx.holdsPriv (c : Ctx) : Bool := c.ctrl.prv || c.ctrl.hnd == 2

/-- The set of loop stack and queues in use: the handler's while HND ≠ 0 (R363). -/
def Ctx.queues (c : Ctx) (l : Lane) : LaneQ :=
  if c.ctrl.hnd = 0 then (c.lane l).normal else (c.lane l).handler

def Ctx.setQueues (c : Ctx) (l : Lane) (q : LaneQ) : Ctx :=
  c.updLane l (fun x => if c.ctrl.hnd = 0 then { x with normal := q } else { x with handler := q })

/-- A lane that has issued END is out of every meeting (R71); in a handler, only if it ended there (R363). -/
def LaneSt.isOut (x : LaneSt) : Bool := x.ended

/-! ### The issuing context -/

/-- The issuing context, as it stands. -/
def State.me (s : State) : Ctx := s.ctx s.cur.ctx
def State.updMe (s : State) (f : Ctx → Ctx) : State := s.updCtx s.cur.ctx f
def State.myLane (s : State) : LaneSt := s.me.lane s.cur.lane
def State.updMyLane (s : State) (f : LaneSt → LaneSt) : State := s.updLane s.cur.ctx s.cur.lane f
/-- The issuing context as its bundle found it: what sources read (R62). -/
def State.snap (s : State) : Ctx := s.cur.snap.getD s.me
def State.setRes (s : State) (r : Issued) : State := { s with cur := { s.cur with res := r } }
def State.myCore (s : State) : Nat := s.me.core
def State.myDie (s : State) : Nat := dieOfCore s.me.core

/-! ### Registers -/

/-- The values that a register held before the in-flight writes to it, newest first (R67). -/
def oldValues (l : List InFlight) (rf : RegFile) (i : Nat) : List Nat :=
  (l.filter (fun e => e.file == rf && e.idx == i)).map (fun e => e.old)

/-- A read inside a latency bound: for each unit of `w` bits, one of the candidates, chosen by the
free number `pick` (R67). -/
def pickUnits (cands : List Nat) (w n : Nat) (pick : Nat) : Nat :=
  match n with
  | 0 => 0
  | k + 1 =>
    bits (cands.getD (pick % cands.length) 0) 0 w
      + 2 ^ w * pickUnits (cands.map (fun c => c / 2 ^ w)) w k (pick / cands.length)

/-- The value read from a register whose current value is `cur`: `cur` itself, unless writes to the
register are in flight. -/
def settle (l : List InFlight) (rf : RegFile) (i cur w n pick : Nat) : Nat :=
  match oldValues l rf i with
  | [] => cur
  | olds => pickUnits (cur :: olds) w n pick

/-- The free number that decides what operand `pos` of the word being executed reads inside a
latency bound. -/
def State.pick (s : State) (pos : Nat) : Nat := Config.free (1000000 + 8 * s.cur.slot + pos) s.fresh

/-- Reg(x) for a scalar integer source of a lane: s0 reads zero, 32 to 39 name i0 to i7 (R202, R225). -/
def LaneSt.srcS (x : LaneSt) (r pick : Nat) : Word :=
  if r = 0 then 0
  else if r < 32 then BitVec.ofNat 64 (settle x.inflight .s r (x.s.getD r 0).toNat 64 1 pick)
  else x.i.getD (r - 32) 0

/-- Operand `pos`, a scalar integer source. -/
def State.srcS (s : State) (pos : Nat) (r : BitVec 6) : Word :=
  (s.snap.lane s.cur.lane).srcS r.toNat (s.pick pos)

/-- Operand `pos`, an f register. -/
def State.srcF (s : State) (pos : Nat) (r : BitVec 6) : Word :=
  BitVec.ofNat 64
    (settle s.snap.laneC.inflight .f r.toNat (s.snap.f.getD r.toNat 0).toNat 64 1 (s.pick pos))

/-- Operand `pos`, a v register of elements of `w` bits: inside a latency bound each element is old or new as
a whole (R67, R259). -/
def State.srcVBy (s : State) (w pos : Nat) (r : BitVec 6) : VWord :=
  BitVec.ofNat 1024
    (settle s.snap.laneC.inflight .v r.toNat (s.snap.v.getD r.toNat 0).toNat w (1024 / w) (s.pick pos))

/-- Operand `pos`, a v register of bytes. -/
def State.srcV (s : State) (pos : Nat) (r : BitVec 6) : VWord := s.srcVBy 8 pos r

/-- Operand `pos`, a predicate register; p0 reads all true (R202). -/
def State.srcP (s : State) (pos : Nat) (r : Nat) : PWord :=
  if r = 0 then BitVec.allOnes 32
  else BitVec.ofNat 32
    (settle s.snap.laneC.inflight .p r (s.snap.p.getD r 0).toNat 1 32 (s.pick pos))

/-- A write of a register joins the in-flight writes when its bound, or that of an older write to
the same register, has not elapsed by the next bundle (R67, R215). A bound of 0 stands for an
interlocked write, which lands after every older one (R216). -/
def noteWrite (l : List InFlight) (rf : RegFile) (i old bound : Nat) : List InFlight :=
  let mine := l.filter (fun e => e.file == rf && e.idx == i)
  let left := mine.foldl (fun m e => max m e.left) (bound - 1)
  if bound = 0 then l.filter (fun e => !(e.file == rf && e.idx == i))
  else if left = 0 then l
  else ⟨rf, i, old, left⟩ :: l

/-- Write(s d, v) in a lane; s0 discards it (R202). -/
def LaneSt.putS (x : LaneSt) (d : Nat) (v : Word) (bound : Nat) : LaneSt :=
  if d = 0 then x
  else { x with s := x.s.setIfInBounds d v
                inflight := noteWrite x.inflight .s d (x.s.getD d 0).toNat bound }

def Ctx.putF (c : Ctx) (d : Nat) (v : Word) (bound : Nat) : Ctx :=
  { c with f := c.f.setIfInBounds d v
           laneC := { c.laneC with
             inflight := noteWrite c.laneC.inflight .f d (c.f.getD d 0).toNat bound } }

def Ctx.putV (c : Ctx) (d : Nat) (v : VWord) (bound : Nat) : Ctx :=
  { c with v := c.v.setIfInBounds d v
           laneC := { c.laneC with
             inflight := noteWrite c.laneC.inflight .v d (c.v.getD d 0).toNat bound } }

/-- A write of p0 is discarded (R202). -/
def Ctx.putP (c : Ctx) (d : Nat) (v : PWord) (bound : Nat) : Ctx :=
  if d = 0 then c
  else { c with p := c.p.setIfInBounds d v
                laneC := { c.laneC with
                  inflight := noteWrite c.laneC.inflight .p d (c.p.getD d 0).toNat bound } }

def State.wrS (s : State) (d : BitVec 6) (v : Word) (bound : Nat) : State :=
  s.updMyLane (fun x => x.putS d.toNat v bound)
def State.wrF (s : State) (d : BitVec 6) (v : Word) (bound : Nat) : State :=
  s.updMe (fun c => c.putF d.toNat v bound)
def State.wrV (s : State) (d : BitVec 6) (v : VWord) (bound : Nat) : State :=
  s.updMe (fun c => c.putV d.toNat v bound)
def State.wrP (s : State) (d : Nat) (v : PWord) (bound : Nat) : State :=
  s.updMe (fun c => c.putP d v bound)

/-- One bundle of the lane later: a bound that has elapsed can no longer return an old value. -/
def LaneSt.age (x : LaneSt) : LaneSt :=
  { x with
    inflight := (x.inflight.filter (fun e => decide (1 < e.left))).map
      (fun e => { e with left := e.left - 1 })
    scratchInflight := (x.scratchInflight.filter (fun e => decide (1 < e.left))).map
      (fun e => { e with left := e.left - 1 }) }

/-- Every fixed-latency result has landed (R69, R71). -/
def LaneSt.land (x : LaneSt) : LaneSt := { x with inflight := [], scratchInflight := [], ahead := [] }

def Ctx.land (c : Ctx) : Ctx :=
  { c with laneL := c.laneL.land, laneC := c.laneC.land, laneS := c.laneS.land, olds := [], rebinds := [] }

/-- Each number once, in the order of first appearance. -/
def distinct (xs : List Nat) : List Nat :=
  (xs.foldl (fun l x => if l.contains x then l else x :: l) []).reverse

/-- The name of an MTC, BIND or UNBIND of the context among what a lane has joined (R330, R366). -/
def mtcKey (n : Nat) : Nat := 2 ^ 20 + n

/-- The names of what lanes of a context may still not have seen. -/
def Ctx.unseen (c : Ctx) : List Nat := c.olds.map (fun o => mtcKey o.mtc) ++ c.rebinds.map (fun b => mtcKey b.num)

/-- The lane comes after every MTC, BIND and UNBIND of the context so far. -/
def State.joinMtcs (s : State) (k : Nat) (l : Lane) : State :=
  let names := (s.ctx k).unseen
  if names.isEmpty then s else s.updLane k l (fun x => { x with joined := distinct (names ++ x.joined) })

/-- The bindings as a lane finds them, newest change first: what a BIND or UNBIND of another lane has changed is there or
not, by the digits of `pick`, where the lane does not come after it (R330). -/
def seenBinds (joined : List Nat) : List Rebind → Nat → List Binding → List Binding
  | [], _, bs => bs
  | b :: rest, pick, bs =>
    let undo := !joined.contains (mtcKey b.num) && pick % 2 == 1
    seenBinds joined rest (pick / 2)
      (if !undo then bs else if b.added then b.binds.foldl (fun l x => l.erase x) bs else bs ++ b.binds)

/-- The bindings with which a lane of a context acts now (R6, R121, R330; log 56). -/
def State.bindsFor (s : State) (k : Nat) (l : Lane) : List Binding :=
  let c := s.ctx k
  seenBinds (c.lane l).joined c.rebinds.reverse (Config.free 204 s.fresh) c.binds

/-- Instructions of lane C act only where bit 0 of their predicate, exclusive-ored with PINV, is 1;
those of the other lanes always do (R201, R248). -/
def State.active (s : State) (h : Hdr) : Bool :=
  match h.lane with
  | .C => (s.srcP 7 h.pred.toNat).getLsbD 0 != h.pinv
  | _ => true

/-- The meaning of an instruction that is gated as a whole: an inactive one retires at issue and
writes nothing (R201). -/
def gate (h : Hdr) (s : State) (k : State → Host.Outcome State Fault Refusal) :
    Host.Outcome State Fault Refusal :=
  if s.active h then k s else .next s

end Sys2Proof.Machine
end

