-- ==== Sys2Proof/Machine/Memory.lean ====
section
/-! DEFINITION. Scratchpad and global memory: local addresses, translation, homes, caches, the write
path, releases and acquires. -/

namespace Sys2Proof.Machine

/-! ### Causes and operations -/

/-- Trap and fault causes (R361). -/
inductive Cause where
  | trap | bkpt | stackLimit | loopDepth | sampleSpill
  | illegal | privilege | overlayInvalid | tfAbsent | tfProt | tfNoncanon | timer
  | uncorr | rodCorrupt | slateCorrupt | kvCorrupt | sqCorrupt | barCorrupt | bankConflict
  | orderOverlap | checkMismatch | linkFail | spadAddr | matrixRange | memAlign | fwdUnsup
  | laneDeadlock | killed
  deriving DecidableEq, Repr

/-- The code of a cause (R361). -/
def Cause.code : Cause → Nat
  | .trap => 0x01
  | .bkpt => 0x02
  | .stackLimit => 0x03
  | .loopDepth => 0x04
  | .sampleSpill => 0x05
  | .illegal => 0x10
  | .privilege => 0x11
  | .overlayInvalid => 0x12
  | .tfAbsent => 0x13
  | .tfProt => 0x14
  | .tfNoncanon => 0x15
  | .timer => 0x18
  | .uncorr => 0x20
  | .rodCorrupt => 0x21
  | .slateCorrupt => 0x22
  | .kvCorrupt => 0x23
  | .sqCorrupt => 0x24
  | .barCorrupt => 0x25
  | .bankConflict => 0x26
  | .orderOverlap => 0x27
  | .checkMismatch => 0x28
  | .linkFail => 0x29
  | .spadAddr => 0x2A
  | .matrixRange => 0x2B
  | .memAlign => 0x2C
  | .fwdUnsup => 0x2D
  | .laneDeadlock => 0x2E
  | .killed => 0x2F

/-- The precise user traps (R361). -/
def Cause.isUser (c : Cause) : Bool := decide (c.code < 0x10)

/-- How an operation ends other than by completing. What it has changed is not kept, except the
translations and page requests it made (`settleHalt` in Machine/Ops.lean). -/
inductive Halt where
  /-- A precise trap at the instruction. -/
  | trap (c : Cause) (detail : Nat) (addr : Word)
  /-- A class-F fault with nothing performed. -/
  | fatal (c : Cause) (detail : Nat) (addr : Word)
  /-- The instruction cannot issue yet. -/
  | stall
  deriving DecidableEq, Repr

/-- An operation on the state that may end early. -/
abbrev Op (α : Type) : Type := ExceptT Halt (StateM State) α

/-- On whose behalf an access is made: the context, the core its requests leave from, its address
space, its privilege and its lane. -/
structure Who where
  ctx  : Nat
  core : Nat
  asid : Nat
  priv : Bool
  lane : Lane
  deriving DecidableEq, Repr

/-- The issuing lane. -/
def State.who (s : State) : Who :=
  ⟨s.cur.ctx, s.me.core, s.me.ctrl.asid.toNat, s.me.holdsPriv, s.cur.lane⟩

def Op.free (kind : Nat) : Op Nat := do
  let (v, s) := (← get).free kind
  set s
  return v

/-! ### Scratchpad (R85 to R94) -/

/-- H, the per-group share of a bank (R86). -/
def bankShare (c : CoreSt) (bank : Nat) : Nat :=
  if bank = 0 then 32768 * c.h0 else 32768 * (16 - c.h0)

/-- The location of a byte of a context's share (R86); none at or above 4·H. -/
def State.shareLoc (s : State) (c : Ctx) (a : Nat) : Option Nat :=
  let h := bankShare (s.core c.core) c.bank
  if a < 4 * h then
    let p := a % h + (if c.bank = 1 then 32768 * (s.core c.core).h0 else 0)
    some (spadLoc c.core (a / h * 524288 + p))
  else none

/-- The context resident in a bank. -/
def State.residentIn (s : State) (b : Option Nat) : Option Ctx :=
  match b with
  | none => none
  | some k =>
    let c := s.ctx k
    if c.res = .resident ∨ c.res = .stopped then some c else none

/-- The context whose share a bank holds: the resident one, or the one that completed there last and to whose
place no other has come (log 32). -/
def State.shareIn (s : State) (b last : Option Nat) : Option Ctx :=
  match b with
  | some _ => s.residentIn b
  | none => last.map s.ctx

/-- The share of a context is in its bank. -/
def State.holdsShare (s : State) (k : Nat) : Bool :=
  let c := s.ctx k
  let t := s.core c.core
  c.res == .resident || c.res == .stopped
    || (if c.bank = 0 then t.bank0.isNone && t.last0 == some k else t.bank1.isNone && t.last1 == some k)

/-- The context that a window of position `q` reaches (R92): one of the accessor's ASID, in the accessor's own
bank where both banks hold one; a resident context comes before one that has completed. -/
def State.windowCtx (s : State) (c : Ctx) (q : Nat) : Option Ctx :=
  if isService c.core then none
  else
    let t := s.core (c.core / 4 * 4 + q)
    let ok (x : Option Ctx) : Option Ctx := x.bind (fun x => if x.ctrl.asid = c.ctrl.asid then some x else none)
    let pick (x y : Option Ctx) : Option Ctx :=
      match x, y with
      | some x, some y => if c.bank = 0 then some x else some y
      | some x, none => some x
      | none, y => y
    match pick (ok (s.residentIn t.bank0)) (ok (s.residentIn t.bank1)) with
    | some x => some x
    | none => pick (ok (s.shareIn t.bank0 t.last0)) (ok (s.shareIn t.bank1 t.last1))

/-- The shares, and the offset in them, that a local address reaches (R87, R92 to R94). -/
def State.spadTargets (s : State) (c : Ctx) (a : Nat) (write : Bool) : Option (List Ctx × Nat) :=
  if a < 0x800000 then some ([c], a)
  else if a < 0x1000000 then
    (s.windowCtx c ((a - 0x800000) / 0x200000)).map (fun x => ([x], a % 0x200000))
  else if 0x1200000 ≤ a ∧ a < 0x3000000 ∧ write then
    let m := (a - 0x1000000) / 0x200000
    let qs := [0, 1, 2, 3].filter (fun q => bits m q 1 == 1)
    (qs.mapM (fun q => s.windowCtx c q)).map (fun xs => (xs, a % 0x200000))
  else none

/-- The locations of `n` bytes at a local address, one list per target. -/
def State.spadSpan (s : State) (c : Ctx) (a n : Nat) (write : Bool) : Option (List (List Nat)) :=
  match s.spadTargets c a write with
  | none => none
  | some (xs, off) => xs.mapM (fun x => (List.range n).mapM (fun i => s.shareLoc x (off + i)))

/-- Locations of a range that must lie in the issuer's own share. -/
def State.ownSpan (s : State) (c : Ctx) (a n : Nat) : Option (List Nat) :=
  (List.range n).mapM (fun i => s.shareLoc c (a + i))

/-- Rounds a location down to its 64-byte row or line. -/
def rowOf (loc : Nat) : Nat := loc / 64 * 64

/-- The context has a command in flight whose scoreboard entry covers a row of these locations
(R101). -/
def State.boardHit (s : State) (k : Nat) (locs : List Nat) : Bool :=
  s.cmds.any (fun c => c.ctx == k &&
    (c.board.getD []).any (fun r => locs.any (fun x => decide (r.lo ≤ rowOf x + 63) && decide (rowOf x < r.hi))))

/-! ### Waiters: what an event at an object does to wake entries (R405) -/

/-- Marks the wake entries that a condition names. -/
def State.wakeIf (s : State) (p : Waiter → Bool) : State :=
  { s with waiters := s.waiters.map (fun q => if q.kind == .wake && p q then { q with due := true } else q) }

/-- The object of a wake entry is a WAITA location or a counter, and a write to `n` bytes changes it. -/
def Waiter.written (q : Waiter) (loc n : Nat) : Bool :=
  q.span != 0 && decide (q.obj < loc + n) && decide (loc < q.obj + q.span)

/-- A write to `n` bytes marks the wake entries of lanes that waited for these bytes to change. -/
def State.touchWords (s : State) (loc n : Nat) : State := s.wakeIf (fun q => q.written loc n)

/-- An operation on a control block of 64 bytes marks the wake entries of lanes that waited for it, or for a word of it. -/
def State.touch (s : State) (loc : Nat) : State :=
  s.wakeIf (fun q => (q.span == 0 && q.obj == loc) || q.written loc 64)

/-- A write to some bytes marks them likewise. -/
def State.touchAll (s : State) (locs : List Nat) : State := s.wakeIf (fun q => locs.any (fun a => q.written a 1))

/-! ### Scratchpad writes that need not have been performed (R89, R94, R127, R284)

A write is put into storage when it is made, with what it replaced kept beside it; for as long as an access of it
need not have been performed, other parties find the old bytes. Performing an access forgets them. -/

/-- Who makes an access to a scratchpad: a lane of a context, or none for an engine or the device. -/
abbrev Party := Option (Nat × Lane)

/-- An access touches one of these locations. -/
def rowHits (r : List (Nat × Byte)) (locs : List Nat) : Bool := r.any (fun ab => locs.contains ab.1)

/-- The number of accesses, from the first, up to the last that touches one of these locations. -/
def upTo (locs : List Nat) : List (List (Nat × Byte)) → Nat
  | [] => 0
  | r :: rs =>
    let n := upTo locs rs
    if n ≠ 0 then n + 1 else if rowHits r locs then 1 else 0

/-- The writes of one party, oldest first, of which accesses are performed up to a free point where the row of
`locs` concerns them: in order within a write, and with them every older access to the same bytes (R89, R128).
Answers the writes, the locations performed, and the free values used. -/
def performSome (locs : List Nat) : List ScratchWrite → State → List ScratchWrite × List Nat × State
  | [], s => ([], [], s)
  | w :: ws, s =>
    let (ws1, done, s1) := performSome locs ws s
    let least := upTo done w.rows
    let (n, s2) := if w.rows.any (fun r => r.any (fun ab => locs.contains (rowOf ab.1))) then s1.free 200 else (0, s1)
    let k := least + n % (w.rows.length - least + 1)
    (({ w with rows := w.rows.drop k } :: ws1).filter (fun x => !x.rows.isEmpty),
      done ++ (w.rows.take k).flatMap (fun r => r.map (·.1)), s2)

/-- Every party that has such writes. -/
def State.scratchOwners (s : State) : List (Nat × Lane) :=
  s.ctxs.flatMap (fun kc => (lanes.filter (fun l => !(kc.2.lane l).scratchInflight.isEmpty)).map (fun l => (kc.1, l)))

/-- No scratchpad write is left that need not have been performed. -/
def State.scratchPending (s : State) : List ScratchWrite :=
  s.ctxs.flatMap (fun kc => lanes.flatMap (fun l => (kc.2.lane l).scratchInflight))
    ++ s.cmds.flatMap (fun c => c.landing)

/-- A party is about to look at rows: of the writes of other parties there, some have been performed (R89). -/
def observe (s : State) (me : Party) (rows : List Nat) : State :=
  let s1 := (s.scratchOwners.filter (fun o => me != some o)).foldl (fun t o =>
    let (ws, _, u) := performSome rows (t.lane o.1 o.2).scratchInflight t
    u.updLane o.1 o.2 (fun x => { x with scratchInflight := ws })) s
  let (cs, s2) := s1.cmds.foldl (fun (acc : List EngCmd × State) c =>
    let (ws, _, u) := performSome rows c.landing acc.2
    (acc.1 ++ [{ c with landing := ws }], u)) ([], s1)
  { s2 with cmds := cs }

/-- What the oldest of these writes replaced at a location. -/
def oldByte (ws : List ScratchWrite) (a : Nat) : Option Byte :=
  ((ws.flatMap (·.rows)).flatten.find? (fun ab => ab.1 == a)).map (·.2)

/-- What each of a lane's own writes replaced at a location (R67, R284): for a write of several accesses to it,
what the first replaced. -/
def ownOlds (ws : List ScratchWrite) (a : Nat) : List Byte := ws.filterMap (fun w => oldByte [w] a)

/-- Writes of parties other than `me`. -/
def State.othersWrites (s : State) (me : Party) : List ScratchWrite :=
  (s.scratchOwners.filter (fun o => me != some o)).flatMap (fun o => (s.lane o.1 o.2).scratchInflight)
    ++ s.cmds.flatMap (fun c => c.landing)

/-- A scratchpad byte as a party finds it: another party's write that has not been performed is not seen; inside
the bound of one of its own writes a lane finds the old value or the new one, by the free number `pick`. -/
def State.spadByte (s : State) (me : Party) (others : List ScratchWrite) (a pick : Nat) : Byte :=
  match oldByte others a with
  | some b => b
  | none =>
    let own := match me with | some o => ownOlds (s.lane o.1 o.2).scratchInflight a | none => []
    (s.byteAt a :: own).getD (pick % (own.length + 1)) 0

/-- Adjacent locations of one row make one access (R89). -/
def rowGroups : List (Nat × Byte) → List (List (Nat × Byte))
  | [] => []
  | x :: l =>
    match rowGroups l with
    | (y :: g) :: gs => if rowOf x.1 = rowOf y.1 then (x :: y :: g) :: gs else [x] :: (y :: g) :: gs
    | gs => [x] :: gs

/-- The uncorrectable row or line that an access meets (R371). -/
def State.poisoned (s : State) (locs : List Nat) : Option Nat :=
  s.poison.find? (fun p => locs.any (fun x => rowOf x == p))

/-- DETAIL of UNCORR by where the line lies (R371). -/
def uncorrDetail (loc : Nat) : Nat :=
  if 2 ^ 72 ≤ loc then 2 else if 0x10000000000 ≤ loc ∧ loc < 2 ^ 64 then 4 else 3

def fatalOp {α : Type} (c : Cause) (detail : Nat) (addr : Nat) : Op α :=
  throw (.fatal c detail (BitVec.ofNat 64 addr))

def trapOp {α : Type} (c : Cause) (detail : Nat) (addr : Nat) : Op α :=
  throw (.trap c detail (BitVec.ofNat 64 addr))

/-- SPAD_ADDR with the address as given (R88). -/
def spadFault {α : Type} (a : Nat) : Op α := fatalOp .spadAddr 0 a

/-- Reads bytes for a party, row by row in the order given; inside the bound of a write of its own a lane finds
each unit of `unit` bytes old or new as a whole (R67, R89, R284). -/
def spadSee (me : Party) (unit : Nat) (locs : List Nat) : Op (List Byte) := do
  let s ← get
  match s.poisoned locs with
  | some p => fatalOp .uncorr 2 p
  | none =>
    if s.scratchPending.isEmpty then return locs.map s.byteAt
    else
      let numbered := locs.zipIdx
      let groups := rowGroups (numbered.map (fun ai => (ai.1, (0 : Byte))))
      let (_, bs) ← groups.foldlM (fun (acc : Nat × List Byte) g => do
        let t := observe (← get) me [rowOf ((g.map (·.1)).headD 0)]
        let others := t.othersWrites me
        let r := g.mapIdx (fun j ab => t.spadByte me others ab.1 (Config.free (300 + (acc.1 + j) / unit) t.fresh))
        set t
        return (acc.1 + g.length, acc.2 ++ r)) (0, [])
      modify (fun t => { t with fresh := t.fresh + 1 })
      return bs

/-- Reads bytes at locations of the scratchpad for the issuing lane. -/
def spadReadBy (unit : Nat) (locs : List Nat) : Op (List Byte) := do
  let s ← get
  spadSee (some (s.cur.ctx, s.cur.lane)) unit locs

/-- Reads bytes at locations of the scratchpad. -/
def spadRead (locs : List Nat) : Op (List Byte) := spadReadBy 1 locs

/-- A write of the whole row clears its error (R371). -/
def clearPoison (s : State) (locs : List Nat) : State :=
  let left (ps : List Nat) : List Nat := ps.filter (fun p => !((List.range 64).all (fun i => locs.contains (p + i))))
  { s with poison := left s.poison, l2bad := left s.l2bad }

/-- Writes of a lane less their accesses up to the last that touches one of these locations. -/
def cutWrites (locs : List Nat) (ws : List ScratchWrite) : List ScratchWrite :=
  (ws.map (fun w => { w with rows := w.rows.drop (upTo locs w.rows) })).filter (fun w => !w.rows.isEmpty)

/-- A write comes to bytes for which another party has a write that need not have been performed: either that is
performed first, or the new bytes take their place under it (R116). Answers whether any is left above. -/
def underOthers (s : State) (me : Party) (locs : List Nat) : State :=
  if (s.othersWrites me).any (fun w => w.rows.any (fun r => rowHits r locs)) then
    let (n, s1) := s.free 201
    if n % 2 = 0 then s1
    else
      let s2 := (s1.scratchOwners.filter (fun o => me != some o)).foldl (fun t o =>
        t.updLane o.1 o.2 (fun x => { x with scratchInflight := cutWrites locs x.scratchInflight })) s1
      { s2 with cmds := s2.cmds.map (fun c => { c with landing := cutWrites locs c.landing }) }
  else s

/-- Replaces the first byte kept for a location, if one is. -/
def putUnder (a : Nat) (b : Byte) : List (Nat × Byte) → Option (List (Nat × Byte))
  | [] => none
  | (x, y) :: l => if x = a then some ((x, b) :: l) else (putUnder a b l).map ((x, y) :: ·)

def putUnderRows (a : Nat) (b : Byte) : List (List (Nat × Byte)) → Option (List (List (Nat × Byte)))
  | [] => none
  | r :: rs => match putUnder a b r with
    | some q => some (q :: rs)
    | none => (putUnderRows a b rs).map (r :: ·)

def putUnderWrites (a : Nat) (b : Byte) : List ScratchWrite → Option (List ScratchWrite)
  | [] => none
  | w :: ws => match putUnderRows a b w.rows with
    | some q => some ({ w with rows := q } :: ws)
    | none => (putUnderWrites a b ws).map (w :: ·)

/-- Writes one byte under whatever writes of other parties stand above it, else into storage. -/
def putByte (me : Party) (s : State) (ab : Nat × Byte) : State :=
  let lane := (s.scratchOwners.filter (fun o => me != some o)).findSome? (fun o =>
    (putUnderWrites ab.1 ab.2 (s.lane o.1 o.2).scratchInflight).map (fun ws => (o, ws)))
  match lane with
  | some (o, ws) => s.updLane o.1 o.2 (fun x => { x with scratchInflight := ws })
  | none =>
    let cmd := s.cmds.findSome? (fun c => (putUnderWrites ab.1 ab.2 c.landing).map (fun ws => (c, ws)))
    match cmd with
    | some (c, ws) =>
      let put := fun (d : EngCmd) => if d == c then { c with landing := ws } else d
      { s with cmds := s.cmds.map put }
    | none => s.setByte ab.1 ab.2

/-- Puts the bytes of a write in place, with its place among the writes of other parties. -/
def placeBytes (s : State) (me : Party) (cells : List (Nat × Byte)) : State :=
  let locs := cells.map (·.1)
  let s1 := (clearPoison s locs).touchAll locs
  if s1.scratchPending.isEmpty then cells.foldl (fun t ab => t.setByte ab.1 ab.2) s1
  else cells.foldl (putByte me) (underOthers s1 me locs)

/-- Puts the bytes of an atomic step in place, which has just found what it replaces: what was not seen then stays
above (R132). -/
def placeAtomic (s : State) (me : Party) (cells : List (Nat × Byte)) : State :=
  cells.foldl (putByte me) ((clearPoison s (cells.map (·.1))).touchAll (cells.map (·.1)))

/-- What accesses made one after the other replace. -/
def replacedBy (s : State) : List (List (Nat × Byte)) → List (List (Nat × Byte))
  | [] => []
  | g :: gs =>
    g.map (fun ab => (ab.1, s.byteAt ab.1)) :: replacedBy (g.foldl (fun t ab => t.setByte ab.1 ab.2) s) gs

/-- A write of a lane whose accesses are given in order: `bound` is for how many further bundles of the lane a read may
still find what it replaced, 0 for one that is performed
before its instruction retires, and with it every older write of the lane to the same bytes (R127, R128, R284). A
write that goes under another party's is performed at once. -/
def putWriteBy (s : State) (k : Nat) (l : Lane) (accesses : List (List (Nat × Byte))) (bound : Nat) : State :=
  let locs := accesses.flatten.map (·.1)
  let s1 := accesses.foldl (fun t g => placeBytes t (some (k, l)) g) s
  let above := (s1.othersWrites (some (k, l))).any (fun w => w.rows.any (fun r => rowHits r locs))
  if bound = 0 ∨ above = true then
    if (s1.lane k l).scratchInflight.isEmpty then s1
    else s1.updLane k l (fun x => { x with scratchInflight := cutWrites locs x.scratchInflight })
  else
    let w : ScratchWrite := ⟨replacedBy s accesses, bound, s.nextId⟩
    s1.updLane k l (fun x => { x with scratchInflight := x.scratchInflight ++ [w] })

/-- A write of the issuing lane. -/
def putWrite (s : State) (accesses : List (List (Nat × Byte))) (bound : Nat) : State :=
  putWriteBy s s.cur.ctx s.cur.lane accesses bound

def spadPut (accesses : List (List (Nat × Byte))) (bound : Nat) : Op Unit :=
  modify (fun s => putWrite s accesses bound)

/-- Writes bytes at locations of the scratchpad, row by row. -/
def spadWrite (locs : List Nat) (bs : List Byte) (bound : Nat) : Op Unit :=
  spadPut (rowGroups (locs.zip bs)) bound

/-- Locations of a lane's scratchpad access, with its checks: a meaning under R87 to R94 (R88), and
no scoreboard entry of the context over it (R101). -/
def laneSpan (a n : Nat) (write : Bool) : Op (List (List Nat)) := do
  let s ← get
  match s.spadSpan s.me a n write with
  | none => spadFault a
  | some xs =>
    if s.boardHit s.cur.ctx xs.flatten then throw .stall
    return xs

/-- As `laneSpan`, for a block that must lie in the own share at an alignment (R88). -/
def ownBlock (a n align : Nat) : Op (List Nat) := do
  let s ← get
  if a % align ≠ 0 then spadFault a
  else
    match s.ownSpan s.me a n with
    | none => spadFault a
    | some xs =>
      if s.boardHit s.cur.ctx xs then throw .stall
      return xs

/-! ### Physical memory and homes (R374 to R376) -/

/-- A PA that names a stack frame or a second-tier frame (R374). -/
def paValid (pa : Nat) : Bool :=
  decide (pa < 768000000000) || (decide (0x10000000000 ≤ pa) && decide (pa < 0x30000000000))

/-- The port that serves a second-tier byte, and its offset within the port (R376). -/
def portHome (pa : Nat) : Nat × Nat :=
  let x := pa - 0x10000000000
  (x / 4096 % 8, x / 32768 * 4096 + x % 4096)

/-- The home die of a location (R375, R376); host memory has none, and stands as 16. -/
def homeOf (loc : Nat) : Nat :=
  if loc < 0x10000000000 then loc / 4096 % 16
  else if loc < 2 ^ 64 then 2 * (portHome loc).1
  else 16

/-- Pseudo-channel and line of a stack byte (R375): die, stack, pseudo-channel, channel line. -/
def stackHome (pa : Nat) : Nat × Nat × Nat × Nat :=
  let c := pa / 4096
  let die := c % 16
  let l := (c / 16 * 4096 + pa % 4096) / 64
  (die, die / 2, l % 48 + 48 * (die % 2), l / 48)

/-! ### Translation (R377 to R386) -/

/-- A translation: location, and what the page entry says. -/
structure Xlat where
  loc  : Nat
  host : Bool
  mg   : Bool
  ae   : Bool
  page : Nat
  size : Nat
  deriving DecidableEq, Repr, Inhabited

/-- Why a translation fails. -/
inductive TransFault where
  | absent | prot | noncanon
  deriving DecidableEq, Repr

def TransFault.cause : TransFault → Cause
  | .absent => .tfAbsent
  | .prot => .tfProt
  | .noncanon => .tfNoncanon

/-- Levels of the device-half tables: shift and width of the index, size of a page mapped by a leaf,
size of the next level's tables (R380). -/
def walkLevels : List (Nat × Nat × Nat × Nat) :=
  [(42, 14, 0, 0x10000), (29, 13, 2 ^ 29, 0x800), (21, 8, 2 ^ 21, 0x100), (16, 5, 2 ^ 16, 0)]

/-- What a table entry leads to at one level of a walk: the next table, or the translation (R382, less the
checks of rights, which depend on the access). -/
def walkEntry (die asid gen va e : Nat) (lvl : Nat × Nat × Nat × Nat) : Except TransFault (Nat ⊕ TlbEnt) :=
  let addr := bits e 8 40 * 256
  let page := lvl.2.2.1
  let next := lvl.2.2.2
  if bits e 0 1 = 0 then .error .absent
  else if bits e 1 1 = 1 then
    if page = 0 ∨ addr % page ≠ 0 then .error .prot
    else .ok (.inr ⟨die, asid, gen, va / page * page, page, addr, bits e 2 1 = 1, bits e 3 1 = 1,
      bits e 5 1 = 1, bits e 4 1 = 1, false, false⟩)
  else if next = 0 ∨ addr % next ≠ 0 then .error .prot
  else .ok (.inl addr)

/-- The walk of R382 through the tables as they stand. -/
def State.walkFrom (s : State) (die asid gen va t : Nat) :
    List (Nat × Nat × Nat × Nat) → Except TransFault TlbEnt
  | [] => .error .prot
  | l :: lvls =>
    match walkEntry die asid gen va (s.readNat (t + 8 * bits va l.1 l.2.1) 8) l with
    | .error f => .error f
    | .ok (.inr e) => .ok e
    | .ok (.inl next) => s.walkFrom die asid gen va next lvls

/-- An error that a walk meets in a table entry it reads (R371). -/
def State.walkPoison (s : State) (va t : Nat) : List (Nat × Nat × Nat × Nat) → Option Nat
  | [] => none
  | l :: lvls =>
    let at_ := t + 8 * bits va l.1 l.2.1
    match s.poison.find? (fun p => at_ / 64 * 64 == p) with
    | some p => some p
    | none =>
      match walkEntry 0 0 0 va (s.readNat at_ 8) l with
      | .ok (.inl next) => s.walkPoison va next lvls
      | _ => none

/-- Address of an ASID descriptor (R378). -/
def State.asidDesc (s : State) (asid : Nat) : Option Nat := s.asidTable.map (fun b => b + 32 * asid)

def State.asidGen (s : State) (asid : Nat) : Nat :=
  match s.asidDesc asid with
  | none => 0
  | some d => s.field d 16 16

/-- The root of the tables of an address space, where its device half is mapped (R378). -/
def State.rootOf (s : State) (asid : Nat) : Option Nat :=
  match s.asidDesc asid with
  | none => none
  | some d => if s.field d 0 1 = 0 then none else some (s.readNat (d + 8) 8 % 2 ^ 48)

def State.walk (s : State) (asid va : Nat) : Except TransFault TlbEnt :=
  match s.rootOf asid with
  | none => .error .absent
  | some t => s.walkFrom 0 asid (s.asidGen asid) va t walkLevels

/-- One of a full list goes, to make room (R21, R385). -/
def replaceOne {α : Type} (cap kind : Nat) (l : List α) (s : State) : List α × State :=
  if l.length < cap then (l, s)
  else
    let (n, s1) := s.free kind
    (l.eraseIdx (n % l.length), s1)

/-- Keeps a table entry in a die's walk cache of 256 (R385). -/
def keepWalk (s : State) (e : WalkEnt) : State :=
  if s.walks.contains e then s
  else
    let (mine, s1) := replaceOne 256 5 (s.walks.filter (fun x => x.die == e.die
      && !(x.asid == e.asid && x.gen == e.gen && x.level == e.level && x.index == e.index))) s
    { s1 with walks := e :: mine ++ s1.walks.filter (fun x => x.die != e.die) }

/-- A walk for an access: where a walk cache holds another entry than the table does, either may serve (R386). -/
def State.walkVia (s : State) (die asid gen va t level : Nat) :
    List (Nat × Nat × Nat × Nat) → Except TransFault TlbEnt × State
  | [] => (.error .prot, s)
  | l :: lvls =>
    let now := s.readNat (t + 8 * bits va l.1 l.2.1) 8
    let old := (s.walks.filter (fun x => x.die == die && x.asid == asid && x.gen == gen && x.level == level
      && x.index == va / 2 ^ l.1 && x.entry != now)).map (·.entry)
    let (n, s1) := if old.isEmpty then (0, s) else s.free 4
    let e := (now :: old).getD (n % (old.length + 1)) now
    match walkEntry die asid gen va e l with
    | .error f => (.error f, s1)
    | .ok (.inr x) => (.ok x, s1)
    | .ok (.inl next) => (keepWalk s1 ⟨die, asid, gen, level, va / 2 ^ l.1, e⟩).walkVia die asid gen va next (level + 1) lvls

/-- Where an entry sends an address: for the host half, inside the device-memory aperture to the stacks, and
otherwise to host memory (R383). The flag says that it is host memory. -/
def State.entLoc (s : State) (e : TlbEnt) (va : Nat) : Nat × Bool :=
  let a := e.pa + (va - e.va)
  if e.host then
    if s.aperBase ≤ a ∧ a < s.aperBase + s.aperSize then (a - s.aperBase, false) else (hostLoc a, true)
  else (a, false)

/-- What an entry gives an access: R382's checks of rights for the device half, for the host half the rights that
the completion granted (R383), and the ranges of R374. -/
def useEnt (s : State) (e : TlbEnt) (va : Nat) (priv write : Bool) : Except TransFault Xlat :=
  let (loc, host) := s.entLoc e va
  if write && !e.w then .error .prot
  else if !priv && !e.u then .error .prot
  else if !host && !paValid loc then .error .prot
  else .ok ⟨loc, host, e.mg, e.ae, e.va, e.size⟩

/-- Entries of a die's TLBs that match a request (R379). -/
def State.tlbHits (s : State) (die asid va : Nat) : List TlbEnt :=
  s.tlb.filter (fun e => e.die == die && e.asid == asid && e.gen == s.asidGen asid && decide (e.va ≤ va)
    && decide (va < e.va + e.size))

/-- Keeps a translation in a die's TLB of 4,096 (R385). -/
def keepTlb (s : State) (e : TlbEnt) : State :=
  if s.tlb.contains e then s
  else
    let (mine, s1) := replaceOne 4096 6 (s.tlb.filter (fun x => x.die == e.die)) s
    { s1 with tlb := e :: mine ++ s1.tlb.filter (fun x => x.die != e.die) }

/-- What the host's translation agent answers to a Translation Request is the host's own: a free
value (R383, log 21). Sizes other than the three cached ones do not arise (R383). -/
def atsAnswer (s : State) (die asid va : Nat) (priv write : Bool) (n : Nat) : Except TransFault TlbEnt :=
  let sz := [4096, 2 ^ 21, 2 ^ 30].getD (bits n 0 2 % 3) 4096
  if bits n 2 1 = 0 then .error .absent
  else if bits n 3 1 = 0 ∨ (write = true ∧ bits n 4 1 = 0) then .error .prot
  else .ok ⟨die, asid, s.asidGen asid, va / sz * sz, sz, n / 64 * sz, bits n 4 1 = 1, true, true, false, true, priv⟩

/-- A Page Request for the page, unless 256 groups are outstanding (R383). -/
def sendPageRequest (s : State) (d va : Nat) : State :=
  let v := s.field (d + 16) 32 8
  let pasid := s.field (d + 16) 0 20
  s.updVif v (fun f =>
    if f.pageReqs.length < 256 then
      { f with pageReqs := f.pageReqs ++ [(pasid, BitVec.ofNat 64 (va / 4096 * 4096))] }
    else f)

/-- Translates one address for a party on a die (R110, R382 to R386). Where a cached entry differs from what the
tables give, either may serve the access. -/
def State.translate (s : State) (die asid : Nat) (priv write : Bool) (va : Nat) :
    Except TransFault Xlat × State :=
  if 2 ^ 57 ≤ va then (.error .noncanon, s)
  else if bits va 56 1 = 1 then
    match s.rootOf asid with
    | none => (.error .absent, s)
    | some t =>
      let gen := s.asidGen asid
      let now := s.walkFrom die asid gen va t walkLevels
      let stale := (s.tlbHits die asid va).filter (fun e => match now with | .ok f => e != f | .error _ => true)
      let (n, s1) := if stale.isEmpty then (0, s) else s.free 1
      match stale[n % (stale.length + 1)]? with
      | some e => (useEnt s e va priv write, s1)
      | none =>
        match now with
        | .ok e =>
          if s.tlb.contains e then (useEnt s e va priv write, s1)
          else
            let (r, s2) := s1.walkVia die asid gen va t 0 walkLevels
            match r with
            | .error f => (.error f, s2)
            | .ok e => (useEnt s e va priv write, keepTlb s2 e)
        | .error _ =>
          let (r, s2) := s1.walkVia die asid gen va t 0 walkLevels
          match r with
          | .error f => (.error f, s2)
          | .ok e => (useEnt s e va priv write, keepTlb s2 e)
  else
    match s.asidDesc asid with
    | none => (.error .absent, s)
    | some d =>
      if s.field d 1 1 = 0 then (.error .absent, s)
      else
        let hits := (s.tlbHits die asid va).filter (fun e => e.priv == priv && (e.w || !write))
        let (n, s1) := s.free 2
        match hits[n % (hits.length + 1)]? with
        | some e => (useEnt s e va priv write, s1)
        | none =>
          let (a, s2) := s1.free 3
          match atsAnswer s2 die asid va priv write a with
          | .error f => (.error f, sendPageRequest s2 d va)
          | .ok e => (useEnt s e va priv write, keepTlb s2 e)

/-- A walk reads its entries at their homes, and an error there is UNCORR (R371, R382). -/
def State.walkError (s : State) (asid va : Nat) : Option Nat :=
  if s.poison.isEmpty ∨ bits va 56 1 = 0 then none
  else (s.rootOf asid).bind (fun t => s.walkPoison va t walkLevels)

/-- Translates for an instruction; a fault is precise at it (R389). -/
def xlat (w : Who) (write : Bool) (va : Nat) : Op Xlat := do
  let s0 ← get
  let (r, s) := s0.translate (dieOfCore w.core) w.asid w.priv write va
  set s
  match (if (s0.tlbHits (dieOfCore w.core) w.asid va).isEmpty then s0.walkError w.asid va else none) with
  | some p => fatalOp .uncorr (uncorrDetail p) p
  | none =>
  match r with
  | .ok x => return x
  | .error f => trapOp f.cause (if write then 1 else 0) va

/-- The aligned 64-byte pieces of an access, in ascending order (R109); addresses modulo 2^64. -/
def pieces (va : Nat) : Nat → List (Nat × Nat)
  | 0 => []
  | n + 1 =>
    match pieces ((va + 1) % 2 ^ 64) n with
    | [] => [(va, 1)]
    | (a, k) :: ps => if (va + 1) % 64 = 0 ∨ a ≠ va + 1 then (va, 1) :: (a, k) :: ps else (va, k + 1) :: ps

/-! ### Access counters (R111, R392) -/

/-- A forwarded access adds 1 to its page's count on the accessing die. -/
def countAccess (s : State) (w : Who) (x : Xlat) : State :=
  let die := dieOfCore w.core
  if x.ae && homeOf x.loc != die then
    s.updDie die (fun d =>
      if d.counts.any (fun p => p.asid == w.asid && p.va == x.page) then
        { d with counts := d.counts.map (fun p =>
            if p.asid == w.asid && p.va == x.page then
              { p with count := if p.count = 0xFFFF then p.count else p.count + 1 }
            else p) }
      else { d with counts := ⟨w.asid, x.page, x.size, 1, false⟩ :: d.counts })
  else s

/-! ### Caches and the write path (R106, R108, R115, R127) -/

/-- Home bytes of a line. -/
def State.homeLine (s : State) (line : Nat) : BitVec 512 := BitVec.ofNat 512 (s.readNat (64 * line) 64)

/-- The bytes of a line with the bytes written to it replaced. -/
def patchLine (data : BitVec 512) (line loc : Nat) (bs : List Byte) : BitVec 512 :=
  BitVec.ofNat 512 ((bs.zipIdx).foldl (fun acc bi =>
    if (loc + bi.2) / 64 = line then putBits acc (8 * ((loc + bi.2) % 64)) 8 bi.1.toNat else acc) data.toNat)

def dropLine (s : State) (core line : Nat) : State :=
  s.updCore core (fun c => { c with l1 := kvDel c.l1 line })

def dropRdc (s : State) (die line : Nat) : State :=
  s.updDie die (fun d => { d with rdc := kvDel d.rdc line })

/-- A write by a core updates the copies of the line in its L1 and in its die's remote-data cache
where they are present (R106, R108). -/
def updateCopies (s : State) (core loc : Nat) (bs : List Byte) : State :=
  let line := loc / 64
  let s1 := match kvGet (s.core core).l1 line with
    | none => s
    | some c => s.updCore core (fun k => { k with l1 := kvPut k.l1 line { c with data := patchLine c.data line loc bs } })
  let die := dieOfCore core
  match kvGet (s1.die die).rdc line with
  | none => s1
  | some c => s1.updDie die (fun d => { d with rdc := kvPut d.rdc line { c with data := patchLine c.data line loc bs } })

/-- Writes bytes at a home: coherence order is the order of these writes (R116). -/
def homeWriteLoc (s : State) (core loc : Nat) (bs : List Byte) : State :=
  let s1 := (clearPoison s ((List.range bs.length).map (loc + ·))).writeBytes loc bs
  (updateCopies s1 core loc bs).touchWords loc bs.length

/-- Writes the bytes that a masked store has, each run of them, as one write (R109). -/
def homeWriteMasked (s : State) (core loc : Nat) (bs : List (Option Byte)) : State :=
  if bs.all (·.isSome) then homeWriteLoc s core loc (bs.filterMap id)
  else
    (bs.zipIdx.foldl (fun t bi => match bi.1 with
      | some b => updateCopies (t.setByte (loc + bi.2) b) core (loc + bi.2) [b]
      | none => t) s).touchWords loc bs.length

/-- Bytes of a location as a lane of the core finds them in the write path: the newest pending store
of each byte (R127). -/
def overlay (wp : List PendWrite) (loc : Nat) (b : Byte) : Byte :=
  wp.foldl (fun acc e =>
    if e.op == .store && decide (e.pa ≤ loc) && decide (loc < e.pa + e.bytes.length)
    then (e.bytes.getD (loc - e.pa) none).getD acc else acc) b

/-- The page of a pending write is being moved, so the write is held (R394). -/
def State.writeHeld (s : State) (e : PendWrite) : Bool :=
  bits e.va.toNat 56 1 == 1 &&
    (match s.walk e.asid.toNat e.va.toNat with | .ok t => t.mg | .error _ => false)

end Sys2Proof.Machine
end

