-- ==== Sys2Proof/Machine/Numbers.lean ====
section
/-! DEFINITION. Number formats and arithmetic (spec/02_numbers.md): bits to exact values, exact
operations, one rounding back to bits, block scales, planes, companding, group accumulation,
reduction trees and the transcendental functions. -/

namespace Sys2Proof.Machine

/-! ### Formats (R22 to R25) -/

/-- A binary floating-point format: exponent and fraction widths, bias, and whether its top exponent
holds infinities and NaNs. -/
structure FpFmt where
  eb   : Nat
  fb   : Nat
  bias : Nat
  ieee : Bool
  deriving DecidableEq, Repr

/-- Formats by type code (R22, R24, R25). -/
def fpFmt (t : Nat) : FpFmt :=
  match t with
  | 8 => ⟨5, 10, 15, true⟩
  | 9 => ⟨8, 7, 127, true⟩
  | 10 => ⟨8, 23, 127, true⟩
  | 11 => ⟨11, 52, 1023, true⟩
  | 12 => ⟨4, 3, 7, false⟩
  | _ => ⟨5, 2, 15, true⟩

def FpFmt.width (f : FpFmt) : Nat := 1 + f.eb + f.fb

/-- The sign bit. -/
def FpFmt.signBit (f : FpFmt) (neg : Bool) : Nat := if neg then 2 ^ (f.eb + f.fb) else 0

/-- Code, below the sign, of the largest finite value. -/
def FpFmt.maxCode (f : FpFmt) : Nat := if f.ieee then (2 ^ f.eb - 1) * 2 ^ f.fb - 1 else 0x7E

/-- Code of infinity; for e4m3 the NaN that stands for it (R28). -/
def FpFmt.infCode (f : FpFmt) : Nat := if f.ieee then (2 ^ f.eb - 1) * 2 ^ f.fb else 0x7F

/-- An exact value: a NaN with its sign and its fraction left-aligned in 52 bits, an infinity, or
(−1)^neg · m · 2^e. -/
inductive Num where
  | nan (neg : Bool) (frac : Nat)
  | inf (neg : Bool)
  | fin (neg : Bool) (m : Nat) (e : Int)
  deriving DecidableEq, Repr, Inhabited

/-- The default NaN (R26). -/
def Num.dflt : Num := .nan false (2 ^ 51)

def Num.zero : Num := .fin false 0 0

def Num.isNan : Num → Bool
  | .nan _ _ => true
  | _ => false

def Num.isInf : Num → Bool
  | .inf _ => true
  | _ => false

def Num.isZero : Num → Bool
  | .fin _ m _ => m == 0
  | _ => false

def Num.neg : Num → Bool
  | .nan s _ => s
  | .inf s => s
  | .fin s _ _ => s

/-- Sign inverted; a NaN is left as it is. -/
def Num.opp : Num → Num
  | .nan s p => .nan s p
  | .inf s => .inf (!s)
  | .fin s m e => .fin (!s) m e

def Num.ofInt (x : Int) : Num := .fin (decide (x < 0)) x.natAbs 0

/-- The value of an sc8 code (R32). -/
def sc8Num (c : Nat) : Num :=
  if c % 256 = 255 then .dflt
  else if bits c 3 5 = 0 then .fin false (bits c 0 3) (-17)
  else .fin false (8 + bits c 0 3) ((bits c 3 5 : Int) - 18)

/-- Bits of a floating-point format to a value. The payload of a NaN is its fraction; e4m3 has one NaN, whose
fraction of ones is the payload that a wider format gets (log 27). -/
def fpDecode (f : FpFmt) (b : Nat) : Num :=
  let neg := bits b (f.eb + f.fb) 1 == 1
  let ex := bits b f.fb f.eb
  let fr := bits b 0 f.fb
  let top := 2 ^ f.eb - 1
  if ex = top ∧ f.ieee then (if fr = 0 then .inf neg else .nan neg (fr * 2 ^ (52 - f.fb)))
  else if ex = top ∧ fr = 2 ^ f.fb - 1 then .nan neg (fr * 2 ^ (52 - f.fb))
  else if ex = 0 then .fin neg fr (1 - (f.bias : Int) - f.fb)
  else .fin neg (2 ^ f.fb + fr) ((ex : Int) - f.bias - f.fb)

/-- The integer that the low bits of a number give in an integer format. -/
def intVal (t b : Nat) : Int :=
  let w := typeWidth t
  if t % 2 = 0 then toSigned (bits b 0 w) w else bits b 0 w

/-- Bits of any format of R22 below the plane codes to a value. -/
def decodeNum (t b : Nat) : Num :=
  if t < 8 then .ofInt (intVal t b)
  else if t = 14 then sc8Num b
  else fpDecode (fpFmt t) b

/-! ### Rounding (R27 to R29) -/

/-- Whether a magnitude with a nonzero remainder rounds up: `twice` compares twice the remainder with
the divisor (R27). -/
def roundUp (rm : Nat) (neg odd : Bool) (twice : Ordering) : Bool :=
  match rm with
  | 0 => twice == .gt || (twice == .eq && odd)
  | 1 => false
  | 2 => !neg
  | _ => neg

/-- n/d·2^e to an integer magnitude. -/
def roundMag (rm : Nat) (neg : Bool) (n d : Nat) (e : Int) : Nat :=
  let n' := if 0 ≤ e then n * 2 ^ e.toNat else n
  let d' := if 0 ≤ e then d else d * 2 ^ (-e).toNat
  let q := n' / d'
  let r := n' % d'
  if r ≠ 0 && roundUp rm neg (q % 2 == 1) (compare (2 * r) d') then q + 1 else q

/-- RoundTo((−1)^neg · n/d · 2^e, f, rm, sat), and whether it overflowed (R27, R28). -/
def roundQ (f : FpFmt) (rm : Nat) (sat neg : Bool) (n d : Nat) (e : Int) : Nat × Bool :=
  if n = 0 then (f.signBit neg, false)
  else
    let l0 : Int := (Nat.log2 n : Int) - Nat.log2 d
    -- ⌊log2(n/d)⌋
    let l := if n * 2 ^ (-l0).toNat < d * 2 ^ l0.toNat then l0 - 1 else l0
    let qmin : Int := 1 - (f.bias : Int) - f.fb
    let q := max (l + e - f.fb) qmin
    let code := roundMag rm neg n d (e - q) + (q - qmin).toNat * 2 ^ f.fb
    if code ≤ f.maxCode then (f.signBit neg + code, false)
    else if sat || rm == 1 || (rm == 2 && neg) || (rm == 3 && !neg) then
      (f.signBit neg + f.maxCode, true)
    else (f.signBit neg + f.infCode, true)

/-- A NaN in a format: quieted, with the leading payload bits that fit (R26). -/
def nanBits (f : FpFmt) (neg : Bool) (frac : Nat) : Nat :=
  if f.ieee then
    f.signBit neg + (2 ^ f.eb - 1) * 2 ^ f.fb + Nat.lor (frac / 2 ^ (52 - f.fb)) (2 ^ (f.fb - 1))
  else f.signBit neg + 0x7F

/-- RoundTo of a value, and whether it saturated or overflowed. -/
def roundNum (f : FpFmt) (rm : Nat) (sat : Bool) : Num → Nat × Bool
  | .nan s p => (nanBits f s p, false)
  | .inf s => (f.signBit s + (if sat then f.maxCode else f.infCode), true)
  | .fin s m e => roundQ f rm sat s m 1 e

def defaultNan (f : FpFmt) : Nat := (roundNum f 0 false .dflt).1

/-- The least and the greatest integer of an integer format. -/
def intLo (t : Nat) : Int := if t % 2 = 0 then -(2 ^ (typeWidth t - 1)) else 0
def intHi (t : Nat) : Int := if t % 2 = 0 then 2 ^ (typeWidth t - 1) - 1 else 2 ^ typeWidth t - 1

def clampInt (lo hi x : Int) : Int := if x < lo then lo else if hi < x then hi else x

/-- An exact integer result in an integer format: clamped, or its low bits (R23). -/
def intBits (t : Nat) (sat : Bool) (x : Int) : Nat :=
  wrap (if sat then clampInt (intLo t) (intHi t) x else x) (typeWidth t)

/-- A value rounded to an integer, saturating; a NaN gives 0 (R30). -/
def numToInt (rm : Nat) (lo hi : Int) : Num → Int
  | .nan _ _ => 0
  | .inf s => if s then lo else hi
  | .fin s m e =>
    let q : Int := roundMag rm s m 1 e
    clampInt lo hi (if s then -q else q)

/-- Every value of a floating-point or scale format is a value of another, so that a conversion is exact (R30). -/
def holdsAll (src dst : Nat) : Bool :=
  src == dst || match src with
    | 12 | 13 => decide (8 ≤ dst) && decide (dst ≤ 11)
    | 8 | 9 => dst == 10 || dst == 11
    | 10 => dst == 11
    | 14 => decide (9 ≤ dst) && decide (dst ≤ 11)
    | _ => false

/-- Convert(x, S, T, rm, sat) on bits; .sat changes nothing in an exact conversion (R30). -/
def convertBits (src dst rm : Nat) (sat : Bool) (x : Nat) : Nat :=
  if dst < 8 then
    if src < 8 then intBits dst sat (intVal src x)
    else wrap (numToInt rm (intLo dst) (intHi dst) (decodeNum src x)) (typeWidth dst)
  else (roundNum (fpFmt dst) rm (sat && !holdsAll src dst) (decodeNum src x)).1

/-! ### Exact operations -/

/-- The first NaN in operand order (R26). -/
def firstNan (xs : List Num) : Option Num := xs.find? Num.isNan

/-- Least exponent among nonzero finite values. -/
def minExp (xs : List Num) : Int :=
  xs.foldl (fun a x => match x with | .fin _ m e => if m = 0 then a else min a e | _ => a) 0

/-- A finite value as an integer multiple of 2^e0, for e0 no greater than its exponent. -/
def Num.scaled (e0 : Int) : Num → Int
  | .fin s m e => let v : Int := (m * 2 ^ (e - e0).toNat : Nat); if s then -v else v
  | _ => 0

/-- The exact sum of values none of which is a NaN: infinities of both signs give the default NaN;
a zero sum takes its sign from R29. -/
def sumNum (rm : Nat) (xs : List Num) : Num :=
  match xs.filter Num.isInf with
  | i :: is => if is.all (fun j => j.neg == i.neg) then i else .dflt
  | [] =>
    let e0 := minExp xs
    let t : Int := xs.foldl (fun a x => a + x.scaled e0) 0
    if t = 0 then .fin (xs.all (fun x => x.isZero && x.neg) || rm == 3) 0 0
    else .fin (decide (t < 0)) t.natAbs e0

def addNum (rm : Nat) (x y : Num) : Num :=
  match firstNan [x, y] with
  | some n => n
  | none => sumNum rm [x, y]

/-- The exact product; 0 × ∞ is invalid (R26), the sign of a zero is the xor (R29). -/
def mulNum (x y : Num) : Num :=
  match firstNan [x, y] with
  | some n => n
  | none =>
    match x, y with
    | .fin s m e, .fin t n g => .fin (s != t) (m * n) (e + g)
    | _, _ => if x.isZero || y.isZero then .dflt else .inf (x.neg != y.neg)

/-- A·B + C, exact (R31). -/
def fmaNum (rm : Nat) (x y z : Num) : Num :=
  match firstNan [x, y, z] with
  | some n => n
  | none =>
    match mulNum x y with
    | .nan s p => .nan s p
    | p => sumNum rm [p, z]

/-- Comparison of two values that are no NaNs, zeros equal. -/
def cmpNum (x y : Num) : Ordering :=
  match x, y with
  | .inf s, .inf t => if s = t then .eq else if s then .lt else .gt
  | .inf s, _ => if s then .lt else .gt
  | _, .inf t => if t then .gt else .lt
  | _, _ => let e0 := minExp [x, y]; compare (x.scaled e0) (y.scaled e0)

/-- As `cmpNum`, with −0 below +0. -/
def ordNum (x y : Num) : Ordering :=
  match cmpNum x y with
  | .eq => if x.isZero && y.isZero then compare y.neg x.neg else .eq
  | o => o

/-- A relation by its SUB code: 0 eq, 1 ne, 2 lt, 3 ge, 4 le, 5 gt. -/
def condHolds (c : Nat) (o : Ordering) : Bool :=
  match c with
  | 0 => o == .eq
  | 1 => o != .eq
  | 2 => o == .lt
  | 3 => o != .lt
  | 4 => o != .gt
  | _ => o == .gt

/-- The FP relation of R245: with a NaN only ne and un hold. -/
def fpCond (c : Nat) (x y : Num) : Bool :=
  if x.isNan || y.isNan then c == 1 || c == 6
  else if c = 6 then false
  else condHolds c (cmpNum x y)

/-- ⌊√n⌋, one result bit a step from 2^k down. -/
def isqrtFrom (n : Nat) : Nat → Nat → Nat
  | 0, r => if (r + 1) * (r + 1) ≤ n then r + 1 else r
  | k + 1, r => isqrtFrom n k (if (r + 2 ^ (k + 1)) * (r + 2 ^ (k + 1)) ≤ n then r + 2 ^ (k + 1) else r)

def isqrt (n : Nat) : Nat := isqrtFrom n (Nat.log2 n / 2 + 1) 0

/-- √(n/d·2^e) to `p` bits or more; where it is not exact, a value strictly between the same two
neighbours. -/
def rootNum (n d : Nat) (e : Int) (p : Nat) : Num :=
  let n1 := if e % 2 = 0 then n else 2 * n
  let e1 := if e % 2 = 0 then e else e - 1
  let k := p + Nat.log2 d + 2
  let q := n1 * 2 ^ (2 * k) / d
  let r := isqrt q
  if r * r * d = n1 * 2 ^ (2 * k) then .fin false r (e1 / 2 - k)
  else .fin false (2 * r + 1) (e1 / 2 - k - 1)

/-! ### Floating-point operations on bits -/

def fpAdd (f : FpFmt) (rm a b : Nat) : Nat :=
  (roundNum f rm false (addNum rm (fpDecode f a) (fpDecode f b))).1

def fpSub (f : FpFmt) (rm a b : Nat) : Nat :=
  (roundNum f rm false (addNum rm (fpDecode f a) (fpDecode f b).opp)).1

def fpMul (f : FpFmt) (rm a b : Nat) : Nat :=
  (roundNum f rm false (mulNum (fpDecode f a) (fpDecode f b))).1

def fpFma (f : FpFmt) (rm a b c : Nat) : Nat :=
  (roundNum f rm false (fmaNum rm (fpDecode f a) (fpDecode f b) (fpDecode f c))).1

/-- Division: 0/0 and ∞/∞ are invalid; x/0 is infinite (R26, R245). -/
def fpDiv (f : FpFmt) (rm a b : Nat) : Nat :=
  let x := fpDecode f a
  let y := fpDecode f b
  match firstNan [x, y] with
  | some n => (roundNum f rm false n).1
  | none =>
    match x, y with
    | .inf _, .inf _ => defaultNan f
    | .inf s, _ => f.signBit (s != y.neg) + f.infCode
    | _, .inf t => f.signBit (x.neg != t)
    | .fin s m e, .fin t n g =>
      if n = 0 then (if m = 0 then defaultNan f else f.signBit (s != t) + f.infCode)
      else (roundQ f rm false (s != t) m n (e - g)).1
    | _, _ => defaultNan f

/-- Square root: √−0 = −0; of a negative nonzero value invalid (R26, R245). -/
def fpSqrt (f : FpFmt) (rm a : Nat) : Nat :=
  match fpDecode f a with
  | .nan s p => nanBits f s p
  | .inf s => if s then defaultNan f else f.infCode
  | .fin s m e =>
    if m = 0 then f.signBit s
    else if s then defaultNan f
    else (roundNum f rm false (rootNum m 1 e (f.fb + 4))).1

/-- The lesser (or greater) operand, exactly, −0 below +0; a NaN operand gives R26's NaN (R245). -/
def fpMinMax (f : FpFmt) (wantMax : Bool) (a b : Nat) : Nat :=
  let x := fpDecode f a
  let y := fpDecode f b
  match firstNan [x, y] with
  | some n => (roundNum f 0 false n).1
  | none =>
    if ordNum x y = (if wantMax then .lt else .gt) then bits b 0 f.width else bits a 0 f.width

/-- Sign operations by SUB: 0 cp, 1 cpn, 2 xor, 3 abs, 4 neg; nothing else changes (R247). -/
def fpSign (f : FpFmt) (sub a b : Nat) : Nat :=
  let top := f.eb + f.fb
  let sa := bits a top 1
  let sb := bits b top 1
  let s := match sub with
    | 0 => sb
    | 1 => 1 - sb
    | 2 => (sa + sb) % 2
    | 3 => 0
    | _ => 1 - sa
  bits a 0 top + s * 2 ^ top

/-- FCLASS: the one bit set (R247). -/
def fpClass (f : FpFmt) (a : Nat) : Nat :=
  match fpDecode f a with
  | .nan _ p => if f.ieee && bits p 51 1 == 0 then 2 ^ 8 else 2 ^ 9
  | .inf s => if s then 2 ^ 0 else 2 ^ 7
  | .fin s m _ =>
    if m = 0 then (if s then 2 ^ 3 else 2 ^ 4)
    else if m < 2 ^ f.fb then (if s then 2 ^ 2 else 2 ^ 5)
    else (if s then 2 ^ 1 else 2 ^ 6)

/-! ### Block scaling (R33 to R37) -/

/-- The decoded element value times its scale, with the special scales of R34. -/
def blockNum (t scale : Nat) (x : Num) : Num :=
  if scale = 255 then .dflt
  else if scale = 0 then
    match x with
    | .nan s p => .nan s p
    | .inf _ => .dflt
    | .fin s _ _ => if t < 8 then .zero else .fin s 0 0
  else mulNum x (sc8Num scale)

/-- The bound Fmax of R35 as a fraction, by target: type code, or 32 for KVBP8 page codes. -/
def fmaxOf (t : Nat) : Nat × Nat :=
  match t with
  | 12 => (448, 1)
  | 13 => (57344, 1)
  | 0 => (127, 1)
  | _ => (255, 2)

/-- The magnitude of a value that is no NaN. -/
def Num.abs : Num → Num
  | .nan s p => .nan s p
  | .inf _ => .inf false
  | .fin _ m e => .fin false m e

def maxMag (xs : List Num) : Num :=
  xs.foldl (fun a x => if cmpNum a x.abs = .lt then x.abs else a) .zero

/-- ChooseScale (R35). -/
def chooseScale (t : Nat) (xs : List Num) : Nat :=
  if xs.any Num.isNan then 0xFF
  else
    let amax := maxMag xs
    if amax.isZero then 0
    else
      let (n, d) := fmaxOf t
      -- amax/value ≤ n/d, compared exactly
      (((List.range 254).map (· + 1)).find? (fun c =>
        match amax, sc8Num c with
        | .fin _ m e, .fin _ k g =>
          cmpNum (.fin false (m * d) e) (.fin false (k * n) g) != .gt
        | _, _ => false)).getD 0xFE

/-- One element encoded under a scale, and whether it saturated (R36, R37); `dyn`: the scale has been selected for the
block, whose saturation then needs the scale 0xFE. Under a scale of 0x00 a finite element does not count as
saturated, since x/s has no value (log 103). -/
def blockEncode (t scale : Nat) (dyn : Bool) (x : Num) : Nat × Bool :=
  let f := fpFmt t
  if scale = 255 then (0, !dyn && x.isInf)
  else if scale = 0 then (if t = 0 then 0 else f.signBit x.neg, x.isInf)
  else
    match x, sc8Num scale with
    | .fin s m e, .fin _ k g =>
      if t = 0 then
        let q : Int := roundMag 0 s (m * 2 ^ (e - g).toNat) (k * 2 ^ (g - e).toNat) 0
        let v := clampInt (-127) 127 (if s then -q else q)
        (wrap v 8, decide (127 < q))
      else roundQ f 0 true s m k (e - g)
    | .inf s, _ => if t = 0 then (wrap (if s then -127 else 127) 8, true) else (f.signBit s + f.maxCode, true)
    | .nan s p, _ => if t = 0 then (0, false) else (nanBits f s p, false)
    | _, _ => (0, false)

/-- A KVBP8 page block: the scale and the codes (R49). -/
def kvEncode (xs : List Num) : Nat × List Nat :=
  if xs.any Num.isNan then (0xFF, xs.map (fun _ => 0))
  else
    let s := chooseScale 32 xs
    if s = 0 then (0, xs.map (fun _ => 0))
    else
      (s, xs.map (fun x =>
        match x, sc8Num s with
        | .fin n m e, .fin _ k g =>
          -- x/s + 255/2 over the common denominator 2·k
          let a : Int := (2 * m * 2 ^ (e - g).toNat : Nat)
          let b : Nat := k * 2 ^ (g - e).toNat
          let num : Int := (if n then -a else a) + 255 * b
          if num < 0 then 0 else min 255 (roundMag 0 false num.toNat (2 * b) 0)
        | .inf n, _ => if n then 0 else 255
        | _, _ => 0))

/-! ### Bit planes (R39) -/

/-- o_n of the bits b_0, b_1, … read. -/
def planeOdd (bs : List Nat) : Int := bs.foldl (fun o b => 2 * o + (2 * (b : Int) - 1)) 0

/-- o_n · 2^(7−n), before the scale. -/
def planeNum (bs : List Nat) : Num :=
  let o := planeOdd bs
  .fin (decide (o < 0)) o.natAbs (7 - (bs.length : Int))

/-- w_n with its scale, R34's integer rows for the special scales. -/
def planeScaled (scale : Nat) (bs : List Nat) : Num := blockNum 0 scale (planeNum bs)

/-! ### Companding (R42, R43) -/

/-- A finite f32 value as an integer multiple of 2^-149; none if it is not finite. -/
def f32Int (b : Nat) : Option Int :=
  match fpDecode (fpFmt 10) b with
  | .fin s m e => some ((Num.fin s m e).scaled (-149))
  | _ => none

def risingInts : List Int → Bool
  | a :: b :: l => decide (a < b) && risingInts (b :: l)
  | _ => true

/-- The knots (x_j, y_j) of a table's seventeen registers, as multiples of 2^-149; none if the table
is invalid (R42). -/
def cmpTable (regs : List Nat) : Option (List (Int × Int)) :=
  match regs.mapM (fun r => f32Int (bits r 0 32)), regs.mapM (fun r => f32Int (bits r 32 32)) with
  | some xs, some ys =>
    if bits (regs.headD 1) 0 64 = 0 && risingInts xs && risingInts ys then some (xs.zip ys) else none
  | _, _ => none

/-- The segment that holds a magnitude: its lower and upper knot; the last one is extended. -/
def segmentOf (x : Int) : List (Int × Int) → (Int × Int) × (Int × Int)
  | a :: b :: c :: l => if x < b.1 then (a, b) else segmentOf x (b :: c :: l)
  | [a, b] => (a, b)
  | _ => ((0, 0), (1, 1))

/-- What a companding curve gives: a special value, or sign, numerator and denominator of a multiple
of 2^-149. `inverse` exchanges the knots. -/
inductive Curve where
  | same (x : Num)
  | ratio (neg : Bool) (n d : Nat)
  deriving DecidableEq, Repr

def curveAt (tab : Option (List (Int × Int))) (inverse : Bool) (x : Num) : Curve :=
  match tab with
  | none => .same .dflt
  | some ks =>
    match x with
    | .fin s m e =>
      if m = 0 then .same x
      else
        let ks := if inverse then ks.map (fun k => (k.2, k.1)) else ks
        let v := (Num.fin false m e).scaled (-149)
        let (a, b) := segmentOf v ks
        let dx := b.1 - a.1
        .ratio s (a.2 * dx + (v - a.1) * (b.2 - a.2)).toNat dx.toNat
    | _ => .same x

/-- The curve rounded once into a format. -/
def roundCurve (f : FpFmt) (rm : Nat) (sat : Bool) : Curve → Nat × Bool
  | .same x => roundNum f rm sat x
  | .ratio s n d => roundQ f rm sat s n d (-149)

/-! ### Group accumulation (R44) -/

/-- One group of at most sixteen products added to the accumulator element. -/
def groupStep (f : FpFmt) (rm : Nat) (acc : Num) (ab : List (Num × Num)) : Num :=
  fpDecode f (roundNum f rm false
    (match firstNan (acc :: ab.flatMap (fun p => [p.1, p.2])) with
     | some n => n
     | none =>
       let ps := ab.map (fun p => mulNum p.1 p.2)
       match firstNan ps with
       | some _ => .dflt
       | none => sumNum rm (acc :: ps))).1

/-- GroupDot over the groups in ascending K; `fuel` bounds the number of groups. -/
def groupDotFuel (f : FpFmt) (rm : Nat) : Nat → Num → List (Num × Num) → Num
  | 0, acc, _ => acc
  | k + 1, acc, ab =>
    match ab with
    | [] => acc
    | _ => groupDotFuel f rm k (groupStep f rm acc (ab.take 16)) (ab.drop 16)

/-- GroupDot(acc, A, B, K, F, rm) (R44). -/
def groupDot (f : FpFmt) (rm : Nat) (acc : Num) (ab : List (Num × Num)) : Num :=
  groupDotFuel f rm (ab.length / 16 + 1) acc ab

/-! ### Reduction and scan orders (R47, R273) -/

/-- One stage of the pairwise tree. -/
def pairStage {α : Type} (op : α → α → α) : List α → List α
  | a :: b :: l => op a b :: pairStage op l
  | l => l

/-- VredTree: `k` stages. -/
def redTree {α : Type} (op : α → α → α) : Nat → List α → List α
  | 0, l => l
  | k + 1, l => redTree op k (pairStage op l)

/-- VscanTree: stages with distance 2^s. -/
def scanTree {α : Type} (op : α → α → α) : Nat → Nat → List α → List α
  | 0, _, l => l
  | k + 1, dist, l =>
    scanTree op k (2 * dist) (l.take dist ++ (l.zip (l.drop dist)).map (fun p => op p.1 p.2))

/-! ### Transcendental functions (R270, R271; log 13)

Fixed point with 2^-320 as the unit. An inexact value is given one more bit, set, so that it lies
strictly between two representable candidates. -/

def fixBits : Nat := 320

/-- Σ 2·z^(2k+1)/(2k+1) for k below n: twice the inverse hyperbolic tangent of z, in units. -/
def atanhSum (z2 : Nat) : Nat → Nat → Nat → Nat
  | 0, _, _ => 0
  | n + 1, k, p => 2 * p / (2 * k + 1) + atanhSum z2 n (k + 1) (p * z2 / 2 ^ fixBits)

/-- ln(n/d) in units, for 1 ≤ n/d ≤ 2. -/
def lnFix (n d : Nat) : Nat :=
  let z := (n - d) * 2 ^ fixBits / (n + d)
  atanhSum (z * z / 2 ^ fixBits) 110 0 z

/-- ln 2 in units. -/
def ln2Fix : Nat := lnFix 2 1

/-- Σ y^k/k! in units, from term `k` on. -/
def expSum (y : Nat) : Nat → Nat → Nat → Nat
  | 0, _, _ => 0
  | n + 1, k, term => term + expSum y n (k + 1) (term * y / 2 ^ fixBits / (k + 1))

/-- 2^x in units for x in units, 0 ≤ x < 1. -/
def exp2Fix (x : Nat) : Nat := expSum (x * ln2Fix / 2 ^ fixBits) 80 0 (2 ^ fixBits)

/-- The exact value 2^(±m·2^e) where it is a power of two, else it with its extra bit; an exponent beyond
every format stands for all such. -/
def exp2Num (s : Bool) (m : Nat) (e : Int) : Num :=
  let v : Int := (Num.fin s m e).scaled (min e 0)          -- in units of 2^(min e 0)
  let u : Nat := (-(min e 0)).toNat
  let i := v / (2 ^ u : Int)
  let fr := (v % (2 ^ u : Int)).toNat
  if 2000 < i then .fin false 1 2000
  else if i < -4000 then .fin false 1 (-4000)
  else if fr = 0 then .fin false 1 i
  else .fin false (2 * exp2Fix (fr * 2 ^ (fixBits - u)) + 1) (i - fixBits - 1)

/-- VEXP2 of an element. -/
def fpExp2 (f : FpFmt) (a : Nat) : Nat :=
  (roundNum f 0 false
    (match fpDecode f a with
     | .nan s p => .nan s p
     | .inf s => if s then .zero else .inf false
     | .fin s m e => exp2Num s m e)).1

/-- log2 of m·2^e as a value. -/
def log2Num (m : Nat) (e : Int) : Num :=
  let k := Nat.log2 m
  let i : Int := e + k
  if m = 2 ^ k then .ofInt i
  else
    let frac := lnFix m (2 ^ k) * 2 ^ fixBits / ln2Fix
    let t : Int := i * 2 ^ fixBits + frac
    .fin (decide (t < 0)) (2 * t + 1).natAbs (-(fixBits : Int) - 1)

/-- VLOG2 of an element. -/
def fpLog2 (f : FpFmt) (a : Nat) : Nat :=
  (roundNum f 0 false
    (match fpDecode f a with
     | .nan s p => .nan s p
     | .inf s => if s then .dflt else .inf false
     | .fin s m e => if m = 0 then .inf true else if s then .dflt else log2Num m e)).1

/-- VRCP of an element. -/
def fpRcp (f : FpFmt) (a : Nat) : Nat :=
  match fpDecode f a with
  | .nan s p => nanBits f s p
  | .inf s => f.signBit s
  | .fin s m e => if m = 0 then f.signBit s + f.infCode else (roundQ f 0 false s 1 m (-e)).1

/-- VRSQ of an element. -/
def fpRsq (f : FpFmt) (a : Nat) : Nat :=
  match fpDecode f a with
  | .nan s p => nanBits f s p
  | .inf s => if s then defaultNan f else 0
  | .fin s m e =>
    if m = 0 then f.signBit s + f.infCode
    else if s then defaultNan f
    else (roundNum f 0 false (rootNum 1 m (-e) (f.fb + f.eb + Nat.log2 m + 8))).1

/-- |tanh| of m·2^e: below 2^-40 it lies just under its argument, from 32 on just under 1. -/
def tanhMag (m : Nat) (e : Int) : Num :=
  let l : Int := Nat.log2 m + e
  if l < -40 then .fin false (m * 2 ^ 200 - 1) (e - 200)
  else if 5 ≤ l then .fin false (2 ^ 64 - 1) (-64)
  else
    -- 2x·log2(e) in units
    let x2 : Nat := if 0 ≤ e + 1 + fixBits then m * 2 ^ (e + 1 + fixBits).toNat
      else m / 2 ^ (-(e + 1 + fixBits)).toNat
    let t := x2 * 2 ^ fixBits / ln2Fix
    let y := exp2Fix (t % 2 ^ fixBits) * 2 ^ (t / 2 ^ fixBits)
    .fin false (2 * ((y - 2 ^ fixBits) * 2 ^ fixBits / (y + 2 ^ fixBits)) + 1) (-(fixBits : Int) - 1)

/-- VTANH of an element. -/
def fpTanh (f : FpFmt) (a : Nat) : Nat :=
  (roundNum f 0 false
    (match fpDecode f a with
     | .nan s p => .nan s p
     | .inf s => .fin s 1 0
     | .fin s m e =>
       if m = 0 then .fin s 0 0
       else match tanhMag m e with
         | .fin _ k g => .fin s k g
         | x => x)).1

/-- Vosm(A, B, C) (R271). -/
def fpVosm (a b c : Nat) : Nat :=
  let f := fpFmt 10
  let x := fpDecode f a
  let y := fpDecode f b
  let z := fpDecode f c
  (roundNum f 0 false
    (match firstNan [x, y, z] with
     | some n => n
     | none =>
       if cmpNum x y != .lt then mulNum z (.fin false 1 0)
       else
         match sumNum 0 [x, y.opp] with
         | .fin s m e => mulNum z (exp2Num s m e)
         | _ => mulNum z .zero)).1

end Sys2Proof.Machine
end

