-- ==== Sys2Proof/Machine/Path.lean ====
section
/-! DEFINITION. The path to global memory: atomics, the write path and its order towards a home,
loads through the caches, stores, releases and acquires; and the record of a class-F fault. -/

namespace Sys2Proof.Machine

/-! ### Recording a class-F fault (R371, R357) -/

/-- CAUSE, from its fields. -/
def causeWord (c : Cause) (lane : Nat) (imp : Bool) : Word :=
  BitVec.ofNat 64 (c.code + 256 * lane + (if imp then 1024 else 0))

/-- FINFO of a fault: DETAIL, the PC of the raising instruction, the raising command. -/
def finfoWord (detail : Nat) (fpc : Option Nat) (cmd : Option (Lane × BitVec 16)) : Word :=
  BitVec.ofNat 64
    (detail % 65536
      + (match fpc with | some pc => pc % 16384 * 65536 + 2 ^ 30 | none => 0)
      + (match cmd with | some (l, n) => n.toNat * 2 ^ 32 + laneCode l * 2 ^ 48 | none => 0))

/-- Adds to an on-die wear count (R440); `key` is 256·class + item. -/
def bumpWear (s : State) (die key n : Nat) : State :=
  s.updDie die (fun d => { d with wear := kvPut d.wear key ((kvGet d.wear key).getD 0 + n) })

/-- The item of wear class 5 for a DETAIL of UNCORR and its line (R371, R440): a line of DETAIL 3 counts for the L2 where the
error is in an L2's only copy. -/
def uncorrItem (s : State) (detail : Nat) (line : Nat) : Nat :=
  if detail = 3 ∧ s.l2bad.contains line then 3 else [0, 0, 1, 7, 8].getD detail 7

/-- An UNCORR that is raised is counted (R440). -/
def countUncorr (s : State) (k : Nat) (c : Cause) (detail : Nat) (addr : Word) : State :=
  if c = .uncorr then bumpWear s (dieOfCore (s.ctx k).core) (0x500 + uncorrItem s detail addr.toNat) 1 else s

/-- Records a class-F fault, unless one is recorded; each lane may then issue 64 further instructions
(R371). -/
def recordFatal (s : State) (k : Nat) (c : Cause) (lane detail : Nat) (addr : Word)
    (fpc : Option Nat) (cmd : Option (Lane × BitVec 16)) : State :=
  if (kvGet s.ctxs k).isNone then s else
  (countUncorr s k c detail addr).updCtx k (fun x =>
    if x.fatal.isSome ∨ x.res = .gone then x
    else
      { x with
        fatal := some ⟨64, 64, 64⟩
        ctrl := { x.ctrl with
          cause := causeWord c lane true
          finfo := finfoWord detail fpc cmd
          faddr := addr } })

/-! ### Atomic operations (R323) -/

/-- Value of an operand with its sign. -/
def aopSigned (w x : Nat) : Int := toSigned x w

/-- The value an atomic operation leaves: `w` is the width, `x` the value at EA, `b` the operand, `cmp`
the comparand of cas. -/
def aopNew (aop w x b cmp : Nat) : Nat :=
  let f := fpFmt (if w = 64 then 11 else 10)
  match aop with
  | 0 => (x + b) % 2 ^ w
  | 1 => fpAdd f 0 x b
  | 2 => Nat.land x b
  | 3 => Nat.lor x b
  | 4 => Nat.xor x b
  | 5 => if aopSigned w b < aopSigned w x then b else x
  | 6 => if aopSigned w x < aopSigned w b then b else x
  | 7 => min x b
  | 8 => max x b
  | 9 => fpMinMax f false x b
  | 10 => fpMinMax f true x b
  | 11 => b
  | _ => if x = cmp then b else x

/-! ### Performing pending writes (R115, R128, R135) -/

/-- Performs one pending write at its home. A reduction is an atomic: it removes the core's L1 copy of the line
(R106); one whose line holds an uncorrectable error raises UNCORR in its context (R371). -/
def performOne (s : State) (core : Nat) (e : PendWrite) : State :=
  match e.op with
  | .store => homeWriteMasked s core e.pa e.bytes
  | .redm aop size =>
    match s.poisoned [e.pa] with
    | some p => recordFatal s e.ctx .uncorr (laneCode e.lane) (uncorrDetail p) (BitVec.ofNat 64 p) none none
    | none =>
      dropLine (homeWriteLoc s core e.pa
        (bytesOf (aopNew aop (8 * size) (s.readNat e.pa size) (leNat (e.bytes.filterMap id)) 0) size)) core (e.pa / 64)

/-- Two pending writes of which the first, accepted earlier, comes first: towards one home from one core (R135), as
pieces of one store (R321), or, from two cores, to one location where the first had been made known before the
core of the second last made an acquire (R128). -/
def precedes (a b : Nat × PendWrite) : Bool :=
  if a.1 = b.1 then homeOf a.2.pa == homeOf b.2.pa || b.2.prev == some a.2.id
  else (match a.2.rel with | some r => decide (r ≤ b.2.seen) | none => false)
    && decide (a.2.pa < b.2.pa + b.2.bytes.length) && decide (b.2.pa < a.2.pa + a.2.bytes.length)

/-- Every pending write with its core, in the order in which they were accepted. -/
def State.pendings (s : State) : List (Nat × PendWrite) :=
  ((s.cores.flatMap (fun kc => kc.2.wpath.map (fun e => (kc.1, e)))).foldl
    (fun m x => kvPut m x.2.id x) ([] : Kv (Nat × PendWrite))).map (·.2)

/-- The writes that must be performed so that those in `p` are, in the order in which they are performed. -/
def dueWrites (p : Nat × PendWrite → Bool) : List (Nat × PendWrite) → List (Nat × PendWrite)
  | [] => []
  | e :: l =>
    let d := dueWrites p l
    if p e || d.any (precedes e) then e :: d else d

/-- Performs pending writes, with what must come before them; one held by a page move stalls (R394). -/
def drainWhere (p : Nat × PendWrite → Bool) : Op Unit := do
  let s ← get
  match dueWrites p s.pendings with
  | [] => pure ()
  | due =>
    if due.any (fun x => s.writeHeld x.2) then throw .stall
    set (due.foldl (fun t x => performOne
      (t.updCore x.1 (fun c => { c with wpath := c.wpath.filter (fun e => e.id != x.2.id) })) x.1 x.2) s)

/-- Performs the pending writes of a core that satisfy `p`. -/
def drain (core : Nat) (p : PendWrite → Bool) : Op Unit := drainWhere (fun x => x.1 == core && p x.2)

/-- The pending writes that come before an operation by a core at the home of `n` bytes: the core's own towards that
home (R135, log 10), and those of other cores to these bytes that had been made known to it (R128). -/
def State.firstAt (s : State) (core loc n : Nat) (x : Nat × PendWrite) : Bool :=
  if x.1 = core then homeOf x.2.pa == homeOf loc
  else (match x.2.rel with | some r => decide (r ≤ (s.core core).seen) | none => false)
    && decide (x.2.pa < loc + n) && decide (loc < x.2.pa + x.2.bytes.length)

/-- Performs what comes before an operation by a core at the home of `n` bytes. -/
def drainFor (core loc n : Nat) : Op Unit := do
  let s ← get
  drainWhere (s.firstAt core loc n)

/-- Reads `n` bytes at the home. -/
def homeRead (core loc n : Nat) : Op (List Byte) := do
  drainFor core loc n
  let s ← get
  match s.poisoned ((List.range n).map (loc + ·)) with
  | some p => fatalOp .uncorr (uncorrDetail p) p
  | none => return s.readBytes loc n

/-- Writes bytes at a home, after the writes that come before. -/
def homeWrite (core loc : Nat) (bs : List Byte) : Op Unit := do
  drainFor core loc bs.length
  modify (fun s => homeWriteLoc s core loc bs)

/-! ### Loads (R106, R108, R109, R116) -/

/-- Puts a line's data in a cache of `cap` lines; where it is full, one makes room (R113). Lines of the host half
keep the virtual lines through which they were filled. -/
def fillLine (cap : Nat) (c : Kv CacheLine) (line : Nat) (data : BitVec 512) (tag : Nat × Nat) (s : State) :
    Kv CacheLine × State :=
  let tags := if bits (64 * tag.2) 56 1 = 0 then [tag] else []
  match kvGet c line with
  | some x => (kvPut c line ⟨data, tags ++ x.vas.filter (fun t => !tags.contains t)⟩, s)
  | none =>
    let (c1, s1) := replaceOne cap 7 c s
    (kvPut c1 line ⟨data, tags⟩, s1)

/-- Puts a line in a core's L1 of 128 KiB (R106, R113). -/
def fillL1 (s : State) (core line : Nat) (data : BitVec 512) (tag : Nat × Nat) : State :=
  let (c, s1) := fillLine 2048 (s.core core).l1 line data tag s
  s1.updCore core (fun x => { x with l1 := c })

/-- Puts a line in a die's remote-data cache of 16 MiB (R108, R113). -/
def fillRdc (s : State) (die line : Nat) (data : BitVec 512) (tag : Nat × Nat) : State :=
  let (c, s1) := fillLine 262144 (s.die die).rdc line data tag s
  s1.updDie die (fun x => { x with rdc := c })

/-- A copy of a line. -/
def copyFor (c : Kv CacheLine) (line : Nat) : Option (BitVec 512) := (kvGet c line).map (·.data)

/-- The bytes at offset `o` of a line. -/
def lineBytes (data : BitVec 512) (o n : Nat) : List Byte :=
  (List.range n).map (fun i => BitVec.ofNat 8 (data.toNat / 2 ^ (8 * (o + i))))

/-- The lane has read the line at its home: a copy that holds something else no longer serves it (R128). -/
def seeHome (s : State) (w : Who) (loc : Nat) : State :=
  let line := loc / 64
  let data := s.homeLine line
  let differs (c : Option (BitVec 512)) : Bool := match c with | some d => d != data | none => false
  if differs (copyFor (s.core w.core).l1 line) || differs (copyFor (s.die (dieOfCore w.core)).rdc line) then
    s.updLane w.ctx w.lane (fun x => { x with past := line :: x.past.filter (· != line) })
  else s

/-- Reads a line for a load. Where copies differ, a line may have been replaced since it was filled,
so which level serves the load is a free choice (log 9); a copy behind what the lane has read does not serve it
(R128). `keepL1`: the load allocates in the L1. -/
def readLine (w : Who) (x : Xlat) (line : Nat) (tag : Nat × Nat) (keepL1 : Bool) : Op (BitVec 512) := do
  let s ← get
  let die := dieOfCore w.core
  let near := homeOf x.loc == die
  let past := (s.lane w.ctx w.lane).past.contains line
  let l1 := if keepL1 && !past then copyFor (s.core w.core).l1 line else none
  let rdc := if near || past then none else copyFor (s.die die).rdc line
  let home := s.homeLine line
  let copies := [l1, rdc].filterMap id
  let n ← if copies.all (· == home) then pure 0 else Op.free 10
  match copies[n % (copies.length + 1)]? with
  | some d =>
    if keepL1 then modify (fun t => fillL1 t w.core line d tag)
    return d
  | none =>
    drainFor w.core x.loc 1
    let t ← get
    match t.poisoned [64 * line] with
    | some p => fatalOp .uncorr (uncorrDetail p) p
    | none =>
      let d := t.homeLine line
      let t0 := if past then t.updLane w.ctx w.lane (fun y => { y with past := y.past.filter (· != line) }) else t
      let t1 := if near then t0 else fillRdc t0 die line d tag
      let t2 := if keepL1 then fillL1 t1 w.core line d tag else t1
      set (countAccess t2 w x)
      return d

/-- Loads the bytes of one aligned piece, as a lane sees them: the core's write path first (R127). -/
def loadPiece (w : Who) (va n : Nat) : Op (List Byte) := do
  let x ← xlat w false va
  let hits := fun (e : PendWrite) =>
    e.op != .store && decide (e.pa < x.loc + n) && decide (x.loc < e.pa + e.bytes.length)
  drain w.core hits
  let d ← readLine w x (x.loc / 64) (w.asid, va / 64) true
  let s ← get
  return (lineBytes d (x.loc % 64) n).mapIdx
    (fun i b => overlay (s.core w.core).wpath (x.loc + i) b)

/-- Loads `n` bytes at a virtual address, piece by piece in ascending order. -/
def loadBytes (w : Who) (va n : Nat) : Op (List Byte) := do
  for p in pieces va n do
    let _ ← xlat w false p.1
  (pieces va n).foldlM (fun acc p => do return acc ++ (← loadPiece w p.1 p.2)) []

/-! ### Stores (R64, R106, R111) -/

/-- Puts a write in the core's write path; `prev` is the piece of the same store before it. Answers its number. -/
def acceptWrite (w : Who) (va : Nat) (x : Xlat) (op : WriteOp) (bs : List (Option Byte)) (prev : Option Nat) : Op Nat := do
  let s ← get
  let s1 := countAccess s w x
  set { s1.updCore w.core (fun c => { c with wpath := c.wpath ++
      [⟨s1.nextId, w.ctx, w.lane, BitVec.ofNat 13 w.asid, BitVec.ofNat 64 va, x.loc, op, bs, prev, none, c.seen⟩] })
    with nextId := s1.nextId + 1 }
  return s1.nextId

/-- The pieces of a masked store that write anything, each with its bytes. -/
def storePieces (va : Nat) (bs : List (Option Byte)) : List (Nat × List (Option Byte)) :=
  ((pieces va bs.length).foldl (fun (acc : Nat × List (Nat × List (Option Byte))) p =>
    (acc.1 + p.2, acc.2 ++ [(p.1, (bs.drop acc.1).take p.2)])) (0, [])).2.filter (fun q => q.2.any (·.isSome))

/-- Accepts the bytes of a store, masked, piece by piece in ascending order (R109); every address is translated
before any is accepted. `ordered`: the pieces are performed in that order (R321). -/
def storeMasked (w : Who) (va : Nat) (bs : List (Option Byte)) (ordered : Bool) : Op Unit := do
  let ps := storePieces va bs
  let xs ← ps.mapM (fun p => xlat w true p.1)
  let _ ← (ps.zip xs).foldlM (fun (prev : Option Nat) (px : (Nat × List (Option Byte)) × Xlat) => do
      let id ← acceptWrite w px.1.1 px.2 .store px.1.2 prev
      return if ordered then some id else none) none

/-- Accepts the bytes of a store. -/
def storeBytes (w : Who) (va : Nat) (bs : List Byte) : Op Unit := storeMasked w va (bs.map some) true

/-! ### Atomic steps at a home (R132, R322 to R325) -/

/-- MEM_ALIGN with FADDR holding EA (R321). -/
def alignCheck (va size : Nat) : Op Unit := if va % size ≠ 0 then fatalOp .memAlign 0 va else pure ()

/-- A home operation on a line whose owner is the host raises FWD_UNSUP unless the operation is one of
the PCI Express AtomicOps (R112). -/
def hostCheck (x : Xlat) (va : Nat) (atomicOp : Bool) : Op Unit :=
  if x.host && !atomicOp then fatalOp .fwdUnsup 0 va else pure ()

/-- After an operation of a lane at the home of a line: the issuing core's L1 copy is removed (R106), and what the
lane has read there counts for its later reads (R128). -/
def leaveHome (w : Who) (loc : Nat) : Op Unit :=
  modify (fun s => seeHome (dropLine s w.core (loc / 64)) w loc)

/-- An atomic read-modify-write at the home: the old value. -/
def atomicAt (w : Who) (va size aop b cmp : Nat) : Op Nat := do
  alignCheck va size
  let x ← xlat w true va
  hostCheck x va (aop == 0 || aop == 11 || aop == 12)
  if x.mg then throw .stall
  let old := leNat (← homeRead w.core x.loc size)
  unless aop = 12 ∧ old ≠ cmp do
    modify (fun s => homeWriteLoc s w.core x.loc (bytesOf (aopNew aop (8 * size) old b cmp) size))
  modify (fun s => countAccess s w x)
  leaveHome w x.loc
  return old

/-- A read at the home, as WAITA and WAITC make it. -/
def readAtHome (w : Who) (va size : Nat) : Op Nat := do
  alignCheck va size
  let x ← xlat w false va
  hostCheck x va false
  let v := leNat (← homeRead w.core x.loc size)
  modify (fun s => countAccess s w x)
  leaveHome w x.loc
  return v

/-! ### Releases and acquires (R121 to R123) -/

/-- What a release or an acquire covers: the locations bound to an object, or every location. -/
inductive Cover where
  | obj (binds : List Binding) (a : Word)
  | all
  deriving DecidableEq, Repr

/-- A virtual address is covered. -/
def Cover.has : Cover → Nat → Bool
  | .all, _ => true
  | .obj bs a, va =>
    bs.any (fun b => b.obj == a && decide (b.base.toNat ≤ va) && decide (va < b.base.toNat + b.len))

/-- A 64-byte virtual line holds a covered location. -/
def Cover.hasLine : Cover → Nat → Bool
  | .all, _ => true
  | .obj bs a, line =>
    bs.any (fun b => b.obj == a && decide (b.base.toNat < 64 * line + 64)
      && decide (64 * line < b.base.toNat + b.len))

/-- What the bindings with which a lane acts cover for an object (R121, R330). -/
def State.coverFor (s : State) (k : Nat) (l : Lane) (a : Word) : Cover := .obj (s.bindsFor k l) a

/-- What the issuing lane's bindings cover for an object (R330; log 56). -/
def State.coverOf (s : State) (a : Word) : Cover := s.coverFor s.cur.ctx s.cur.lane a

/-- A write of the pending ones that a release of a context covers. -/
def releaseDue (ctx : Nat) (cov : Cover) (e : PendWrite) : Bool :=
  e.ctx == ctx && (List.range e.bytes.length).any (fun i => cov.has (e.va.toNat + i))

/-- What a core's write path still holds has been made known by a release (R128). -/
def publish (s : State) (core : Nat) (p : PendWrite → Bool) : State :=
  if (s.core core).wpath.any (fun e => e.rel.isNone && p e) then
    s.updCore core (fun c => { c with wpath := c.wpath.map (fun e =>
      if e.rel.isNone && p e then { e with rel := some s.nextId } else e) })
  else s

/-- The waits of a release (R122): scratchpad writes, then covered global writes of the context. -/
def releaseOp (w : Who) (cov : Cover) : Op Unit := do
  modify (fun s => s.updLane w.ctx w.lane (fun x => { x with scratchInflight := [] }))
  drain w.core (releaseDue w.ctx cov)
  modify (fun s => publish s w.core (fun _ => true))

/-- The part of a table that maps offsets `lo` to `hi` of what it spans maps a byte of the line at `p` (R380). -/
def State.mapsTo (s : State) (p t lo hi : Nat) : List (Nat × Nat × Nat × Nat) → Bool
  | [] => false
  | l :: lvls =>
    let span := 2 ^ l.1
    (List.range ((hi - 1) / span + 1 - lo / span)).any (fun j =>
      let i := lo / span + j
      let clo := max lo (i * span) - i * span
      let chi := min hi ((i + 1) * span) - i * span
      match walkEntry 0 0 0 0 (s.readNat (t + 8 * i) 8) l with
      | .error _ => false
      | .ok (.inr e) => decide (e.pa + clo < p + 64) && decide (p < e.pa + chi)
      | .ok (.inl next) => s.mapsTo p next clo chi lvls)

/-- The host's address of a line that the host half can name: one of host memory, or of the aperture (R383). -/
def State.hostLine (s : State) (line : Nat) : Option Nat :=
  if 2 ^ 64 ≤ 64 * line then some (64 * line - 2 ^ 64)
  else if 64 * line < s.aperSize then some (s.aperBase + 64 * line) else none

/-- Addresses of the host half from `base` on name a line: by a translation that is cached, or else by the host's tables,
of which the device knows nothing (R331; log 21). -/
def State.hostNamed (s : State) (asid base len line : Nat) : Bool :=
  decide (base < 2 ^ 56) && (match s.hostLine line with
    | none => false
    | some a =>
      s.tlb.any (fun e => e.host && e.asid == asid && e.gen == s.asidGen asid && decide (e.pa ≤ a)
        && decide (a < e.pa + e.size) && decide (base < e.va + (a - e.pa) + 64) && decide (e.va + (a - e.pa) < base + len))
      || Config.free (3000000 + line) s.fresh % 2 == 1)

/-- A line holds a byte that addresses from `base` name in an address space: through the tables of the device half, or,
for the host half, by the addresses through which the line was filled, by cached translations, or by the host's
tables. -/
def State.lineNamed (s : State) (asid base len line : Nat) (x : CacheLine) : Bool :=
  x.vas.any (fun t => t.1 == asid && decide (base < 64 * t.2 + 64) && decide (64 * t.2 < base + len))
    || s.hostNamed asid base len line
    || (match s.rootOf asid with
        | none => false
        | some t =>
          let lo := max base (2 ^ 56) - 2 ^ 56
          let hi := min (base + len) (2 ^ 57) - 2 ^ 56
          if lo < hi then s.mapsTo (64 * line) t lo hi walkLevels else false)

/-- A line holds a covered location. -/
def State.lineCovered (s : State) (asid : Nat) (cov : Cover) (line : Nat) (x : CacheLine) : Bool :=
  match cov with
  | .all => true
  | .obj bs a => bs.any (fun b => b.obj == a && s.lineNamed asid b.base.toNat b.len line x)

/-- Copies of covered lines of an address space are removed. -/
def purge (s : State) (c : Kv CacheLine) (asid : Nat) (cov : Cover) : Kv CacheLine :=
  c.filter (fun x => !s.lineCovered asid cov x.1 x.2)

/-- The removals of an acquire (R123); scopes are the codes of R117. The core has then heard of what has been
released (R128). -/
def acquireState (s : State) (core asid scope : Nat) (cov : Cover) : State :=
  let s0 := s.updCore core (fun c => { c with seen := s.nextId })
  let s1 := if scope = 0 then s0
    else s0.updCore core (fun c => { c with l1 := purge s0 c.l1 asid cov })
  if scope < 3 then s1
  else s1.updDie (dieOfCore core) (fun d => { d with rdc := purge s1 d.rdc asid cov })

/-- An acquire by a lane, which then comes after what its context has done (log 56). -/
def acquireOp (w : Who) (scope : Nat) (cov : Cover) : Op Unit :=
  modify (fun s => (acquireState s w.core w.asid scope cov).joinMtcs w.ctx w.lane)

/-- Removes lines, by location, from a core's L1 and its die's remote-data cache (R131). -/
def removeLines (s : State) (core : Nat) (lines : List Nat) : State :=
  lines.foldl (fun t l => dropRdc (dropLine t core l) (dieOfCore core) l) s

end Sys2Proof.Machine
end

