-- ==== Sys2Proof/Machine/Lane.lean ====
section
/-! DEFINITION. How a lane walks: loop entries and index values, token and outcome queues, retiring,
and the end of a wait (spec/03_execution.md, spec/10_control_scalar.md). -/

namespace Sys2Proof.Machine

/-! ### Loops (R232, R233) -/

/-- SetIndex: the index values of the TEMPORAL levels that an entry's loop-table source drives. -/
def setIndex (levels : List Level) (e : LoopEnt) (x : LaneSt) : LaneSt :=
  match e.tab with
  | none => x
  | some t =>
    levels.foldl (fun y l =>
      if l.kind = 0 ∧ l.ltidx = t ∧ l.iregEn then
        { y with i := y.i.setIfInBounds l.ireg (l.start + l.step * BitVec.ofNat 64 e.trip) }
      else y) x

/-- EndCheck on a loop stack (top first) for the consumed words `lo` to `hi`: the stack left, and the
entry whose next trip starts, if one does. -/
def endCheck (lo hi : Nat) : List LoopEnt → List LoopEnt × Option LoopEnt
  | [] => ([], none)
  | e :: l =>
    if lo ≤ e.stop ∧ e.stop ≤ hi then
      if 1 < e.left then
        let e' := { e with left := e.left - 1, trip := e.trip + 1 }
        (e' :: l, some e')
      else endCheck lo hi l
    else (e :: l, none)

/-- LoopExit(target): entries from the top for as long as the target lies outside them (R233). -/
def loopExit (target : Nat) : List LoopEnt → List LoopEnt
  | [] => []
  | e :: l => if e.start ≤ target ∧ target ≤ e.stop then e :: l else loopExit target l

/-- Runs EndCheck for words that a lane has just consumed (R232). -/
def Ctx.endCheck (c : Ctx) (levels : List Level) (l : Lane) (lo hi : Nat) : Ctx :=
  let q := c.queues l
  let (stack, back) := Sys2Proof.Machine.endCheck lo hi q.loops
  let c1 := c.setQueues l { q with loops := stack }
  match back with
  | none => c1
  | some e => c1.updLane l (fun x => { setIndex levels e x with pc := e.start })

/-! ### Queues (R63, R70, R127) -/

/-- Entries in the queue that a lane reads from a neighbour; true for the right one. -/
def Ctx.queueFrom (c : Ctx) (l : Lane) (right : Bool) : List Tok :=
  if right then (c.queues l).fromR else (c.queues l).fromL

def Ctx.setQueueFrom (c : Ctx) (l : Lane) (right : Bool) (ts : List Tok) : Ctx :=
  c.setQueues l (if right then { c.queues l with fromR := ts } else { c.queues l with fromL := ts })

/-- The lane that a lane gives to, and from which side that lane sees it. -/
def giveTarget (l : Lane) (right : Bool) : Lane := if right then rightOf l else leftOf l

/-- Room for `n` more entries in the queue of 8 towards a neighbour. -/
def Ctx.giveRoom (c : Ctx) (l : Lane) (right : Bool) (n : Nat) : Bool :=
  decide ((c.queueFrom (giveTarget l right) (!right)).length + n ≤ 8)

/-- Pushes an entry towards a neighbour, with what the lane has joined (R84). The lane's scratchpad writes
have been performed by then (R127). -/
def Ctx.giveOne (c : Ctx) (l : Lane) (right : Bool) (t : Tok) : Ctx :=
  let d := giveTarget l right
  (c.setQueueFrom d (!right) (c.queueFrom d (!right) ++ [{ t with joined := (c.lane l).joined }])).updLane l
    (fun x => { x with scratchInflight := [] })

/-- Entries of a group towards one side. -/
def towards (g : List (Bool × Tok)) (right : Bool) : Nat := (g.filter (fun p => p.1 == right)).length

/-- Retires, in order, the instructions whose entries all have room and follow no older entry that is
still held for the same queue (R63). `bl` and `br`: an older entry is held for that side. -/
def Ctx.flushGives (c : Ctx) (l : Lane) (bl br : Bool) :
    List (List (Bool × Tok)) → Ctx × List (List (Bool × Tok))
  | [] => (c, [])
  | g :: gs =>
    let nl := towards g false
    let nr := towards g true
    if (nl = 0 ∨ (!bl ∧ c.giveRoom l false nl)) ∧ (nr = 0 ∨ (!br ∧ c.giveRoom l true nr)) then
      (g.foldl (fun c p => c.giveOne l p.1 p.2) c).flushGives l bl br gs
    else
      let (c1, rest) := c.flushGives l (bl || nl != 0) (br || nr != 0) gs
      (c1, g :: rest)

/-- Pushes what a lane's instructions give, as far as there is room. -/
def Ctx.settleGives (c : Ctx) (l : Lane) : Ctx :=
  let (c1, rest) := c.flushGives l false false (c.queues l).gives
  c1.setQueues l { c1.queues l with gives := rest }

/-- A retiring instruction's entries join those that the lane has still to push. -/
def Ctx.addGives (c : Ctx) (l : Lane) (g : List (Bool × Tok)) : Ctx :=
  if g.isEmpty then c else c.setQueues l { c.queues l with gives := (c.queues l).gives ++ [g] }

/-- What a word gives when it retires: an XPUT's entry first, then GL and GR (R63, R251). -/
def giveList (h : Hdr) (put : Option (Bool × Word)) : List (Bool × Tok) :=
  let left := if h.gl then [(false, Tok.mk false 0 [])] else []
  let right := if h.gr then [(true, Tok.mk false 0 [])] else []
  match put with
  | some (side, v) => (side, Tok.mk true v []) :: (left ++ right)
  | none => left ++ right

/-- The lane has joined what the givers of some tokens had (R84). -/
def LaneSt.join (x : LaneSt) (ts : List Tok) : LaneSt := { x with joined := distinct (ts.flatMap (·.joined) ++ x.joined) }

/-- Drops the `n` oldest entries of a queue; the lane has then joined what their givers had (R84). -/
def Ctx.popQueue (c : Ctx) (l : Lane) (right : Bool) (n : Nat) : Ctx :=
  let q := c.queueFrom l right
  (c.setQueueFrom l right (q.drop n)).updLane l (fun x => x.join (q.take n))

/-- PushOutcome: the owner's outcome goes to each other lane that has not ended (R70). -/
def Ctx.pushOutcome (c : Ctx) (l : Lane) (o : BranchOut) : Ctx :=
  (lanes.filter (fun m => m != l && !(c.lane m).isOut)).foldl
    (fun c m => c.setQueues m { c.queues m with outs := (c.queues m).outs ++ [o] })
    (c.updLane l (fun x => { x with scratchInflight := [] }))

/-- No lane that would receive an outcome has a full queue of 4 (R70). -/
def Ctx.outcomeRoom (c : Ctx) (l : Lane) : Bool :=
  (lanes.filter (fun m => m != l && !(c.lane m).isOut)).all (fun m => decide ((c.queues m).outs.length < 4))

/-! ### Advancing past a bundle -/

/-- The lane goes on after the `n` words of the bundle at `pc` (R232). -/
def State.advance (s : State) (k : Nat) (l : Lane) (pc n : Nat) : State :=
  let levels := (s.nest (s.ctx k).nest).levels
  s.updCtx k (fun c => (c.updLane l (fun x => { x with pc := pc + n, rslot := none })).endCheck levels l pc (pc + n - 1))

/-- A parked instruction retires: the lane gives its tokens and goes on with the next bundle (R365). -/
def State.finishParked (s : State) (k : Nat) (l : Lane) : State :=
  match (s.lane k l).parked with
  | none => s
  | some p =>
    let s1 := s.updLane k l (fun x => { x with parked := none, dormant := false })
    let s2 := s1.updCtx k (fun c =>
      let c1 := c.setQueues l { c.queues l with barPhase := none }
      match hdrOf p.instr with
      | some h => (c1.addGives l (giveList h none)).settleGives l
      | none => c1)
    s2.advance k l p.pc p.len

/-- What a parked instruction reads when its home looks at it again: its registers as it first read them,
and a predicate under which it is active. -/
def parkedSnap (c : Ctx) (l : Lane) (p : Parked) : Ctx :=
  let act : PWord := match hdrOf p.instr with
    | some h => if h.pinv then 0 else BitVec.allOnes 32
    | none => 0
  { c.updLane l (fun x => { x with s := p.s, inflight := [] }) with p := Vector.replicate 8 act }

/-! ### Wait entries (R107, R141, R142, R152) -/

/-- The wait table of an object: 8·die + slice group for memory, 4,096 + cluster for scratchpad. A service core
belongs to no cluster; the waits on its scratchpad have a table of their own, which is the model's choice (log 98). -/
def waitTable (loc : Nat) : Nat :=
  if 2 ^ 72 ≤ loc then 4096 + clusterOf ((loc - 2 ^ 72) / 2 ^ 21)
  else 8 * homeOf loc + Config.sliceHash (loc / 64) % 8

/-- Entries of a wait table. -/
def tableSize (t : Nat) : Nat := if 4096 ≤ t then 64 else 1024

/-- Indexes of a table that no waiter or wake entry holds. -/
def State.freeEntries (s : State) (t : Nat) : List Nat :=
  let used := (s.waiters.filter (fun q => q.home == t && q.kind != .retry)).map (·.entry)
  (List.range (tableSize t)).filter (fun i => !used.contains i)

/-- Waiters in the table that have been retrying for longer than the lane has. -/
def State.retryingBefore (s : State) (t ctx : Nat) (l : Lane) : Nat :=
  ((s.waiters.takeWhile (fun q => !(q.ctx == ctx && q.lane == l && q.kind == .retry))).filter
    (fun q => q.home == t && q.kind == .retry)).length

/-- Drops the wait entries of a lane; a wake entry of a wait that has been cancelled stays (R405). -/
def State.unwait (s : State) (ctx : Nat) (l : Lane) : State :=
  { s with waiters := s.waiters.filter (fun q => !(q.ctx == ctx && q.lane == l && q.kind != .wake)) }

/-- Drops the wait and wake entries of a lane, which issues its instruction again. -/
def State.unwake (s : State) (ctx : Nat) (l : Lane) : State :=
  { s with waiters := s.waiters.filter (fun q => !(q.ctx == ctx && q.lane == l)) }

/-- A party parks on an object in any free entry of its table (R141); false when none is free for it (R152). -/
def State.parkFor (s : State) (k : Nat) (l : Lane) (loc : Nat) (addr : Word) (kind : WaitKind) : Bool × State :=
  let t := waitTable loc
  let free := s.freeEntries t
  if s.retryingBefore t k l < free.length then
    let (n, s1) := s.free 11
    let e := free.getD (n % free.length) 0
    let s2 := s1.unwait k l
    (true, { s2 with waiters := s2.waiters ++ [(Waiter.mk loc addr k l kind t e false 0)] })
  else (false, s)

/-- The issuing lane parks on an object, or retries when no entry is free for it. -/
def State.park (s : State) (loc : Nat) (addr : Word) (kind : WaitKind) : State :=
  let k := s.cur.ctx
  let l := s.cur.lane
  if s.waiters.any (fun q => q.ctx == k && q.lane == l && q.kind != .retry && q.kind != .wake) then s.setRes .parked
  else
    match s.parkFor k l loc addr kind with
    | (true, t) => t.setRes .parked
    | (false, _) =>
      if s.waiters.any (fun q => q.ctx == k && q.lane == l && q.kind == .retry) then s.setRes .parked
      else { s with waiters := s.waiters ++ [(Waiter.mk loc addr k l .retry (waitTable loc) 0 false 0)] }.setRes .parked

/-- The issuing lane's operation found no free entry and waits for its next retry. -/
def State.isRetrying (s : State) (ctx : Nat) (l : Lane) : Bool :=
  s.waiters.any (fun q => q.ctx == ctx && q.lane == l && q.kind == .retry)

end Sys2Proof.Machine
end

