-- ==== Sys2Proof/Machine/Rods.lean ====
section
/-! DEFINITION. Rods: the control block, its checks, enqueue, dequeue, serving of waiters, and
completion interrupts (spec/06_rods.md; 18_launch_scheduling.md R411). -/

namespace Sys2Proof.Machine

/-! ### CRC-16 (R140, R98) -/

/-- One bit step of the check code: generator 0x1021, most significant bit first. -/
def crcShift (c : Nat) : Nat :=
  if 0x8000 ≤ c then Nat.xor (c * 2 % 0x10000) 0x1021 else c * 2 % 0x10000

def crcByte (c : Nat) (b : Byte) : Nat :=
  crcShift (crcShift (crcShift (crcShift (crcShift (crcShift (crcShift (crcShift
    (Nat.xor c (b.toNat * 256)))))))))

def crc16 (bs : List Byte) : Nat := bs.foldl crcByte 0xFFFF

/-! ### The control block (R139) -/

/-- A rod as an operation reaches it: the location of its RCB, the address that named it, and whether
the operation used a scratchpad address. -/
structure RodRef where
  loc  : Nat
  addr : Word
  sp   : Bool
  deriving DecidableEq, Repr, Inhabited

def rodElsz (s : State) (r : Nat) : Nat := s.field r 32 8
def rodCapl (s : State) (r : Nat) : Nat := s.field r 40 8
def rodCap (s : State) (r : Nat) : Nat := 2 ^ rodCapl s r
def rodBase (s : State) (r : Nat) : Nat := s.readNat (r + 8) 8
def rodHead (s : State) (r : Nat) : Nat := s.readNat (r + 0x10) 8
def rodTail (s : State) (r : Nat) : Nat := s.readNat (r + 0x18) 8
def rodRsv (s : State) (r : Nat) : Nat := s.readNat (r + 0x20) 8
def rodFree (s : State) (r : Nat) : Nat := s.readNat (r + 0x28) 8
def rodStatus (s : State) (r : Nat) : Nat := s.field (r + 0x38) 0 2

/-- (b − a) mod 2^64. -/
def dist64 (a b : Nat) : Nat := (b + 2 ^ 64 - a) % 2 ^ 64

/-- The actual home: the die of the line, or the cluster of the core (R142). -/
def rodHome (r : Nat) : Nat :=
  if 2 ^ 72 ≤ r then clusterOf ((r - 2 ^ 72) / 2 ^ 21) else homeOf r

/-- Check 4 of R144. -/
def rodFieldsOk (s : State) (r : RodRef) : Bool :=
  let sp := s.field r.loc 16 1 == 1
  decide (3 ≤ rodElsz s r.loc) && decide (rodElsz s r.loc ≤ 8)
    && decide (1 ≤ rodCapl s r.loc) && decide (rodCapl s r.loc ≤ 24)
    && (sp || decide (s.field r.loc 48 8 ≤ 15))
    && rodStatus s r.loc != 3
    && !(sp && s.field r.loc 17 3 != 0)
    && rodBase s r.loc % 64 == 0
    && sp == r.sp

/-- What the checks of R144 find. -/
inductive RodCheck where
  | bad (code : Nat)
  | quarantined
  | ok
  deriving DecidableEq, Repr

/-- Checks 1 and 2, and the QUARANTINED test that follows them. -/
def rodCheck12 (s : State) (r : RodRef) : RodCheck :=
  if r.addr.toNat % 64 ≠ 0 then .bad 1
  else if s.field r.loc 0 16 ≠ 0xB0D5 then .bad 2
  else if rodStatus s r.loc = 2 then .quarantined
  else .ok

/-- Checks 3 to 7. -/
def rodCheck37 (s : State) (r : RodRef) : RodCheck :=
  let h := rodHead s r.loc
  let t := rodTail s r.loc
  let v := rodRsv s r.loc
  let cap := rodCap s r.loc
  if crc16 (s.readBytes r.loc 16) ≠ s.field (r.loc + 0x38) 48 16 then .bad 3
  else if !rodFieldsOk s r then .bad 4
  else if cap < dist64 h t ∨ cap < dist64 t v then .bad 5
  else if cap < dist64 h v then .bad 6
  else if rodFree s r.loc ≠ cap - dist64 h v then .bad 7
  else .ok

/-- CHECK rewritten over the immutable fields. -/
def setRodCheck (s : State) (r : Nat) : State :=
  s.setField (r + 0x38) 48 16 (crc16 (s.readBytes r 16))

/-- The home fix-up of R147, for a rod in memory. -/
def rodFixHome (s : State) (r : RodRef) : State :=
  if r.sp ∨ 2 ^ 72 ≤ r.loc ∨ s.field r.loc 48 8 = rodHome r.loc then s
  else setRodCheck (s.setField r.loc 48 8 (rodHome r.loc)) r.loc

/-! ### Waiters and their mirror (R141, R149) -/

def WaitKind.isEnq : WaitKind → Bool
  | .enq _ => true
  | _ => false

def WaitKind.isDeq : WaitKind → Bool
  | .deq _ _ => true
  | _ => false

/-- Parked dequeuers or enqueuers of a rod, oldest first. -/
def State.rodWaiters (s : State) (r : Nat) : List Waiter :=
  s.waiters.filter (fun q => q.obj == r && (q.kind.isEnq || q.kind.isDeq))

/-- Waiters of any kind parked on an object's line, wake entries and retries left out (R153). -/
def State.waitersOn (s : State) (loc : Nat) : List Waiter :=
  s.waiters.filter (fun q => rowOf q.obj == rowOf loc && q.kind != .wake && q.kind != .retry)

/-- Where a byte lies: its location, and its place in the new frame of a page that is being moved, so that what a home
writes of its own accord is not lost with the old frame (R394). -/
def State.frames (s : State) (loc : Nat) : List Nat :=
  loc :: (s.moves.filter (fun m => !m.lost && decide (m.old ≤ loc) && decide (loc < m.old + m.size))).map
    (fun m => loc - m.old + m.new)

/-- A mirror of the home's own list is brought up to date. -/
def mirrorPut (s : State) (loc v : Nat) : State :=
  (s.frames loc).foldl (fun t a => if t.readNat a 8 = v then t else t.writeNat a 8 v) s

/-- WAITQ rewritten from the home's own list (R141). -/
def mirrorWaitq (s : State) (r : Nat) : State :=
  let ws := s.rodWaiters r
  let v := match ws with
    | [] => 0x7FF + 2 ^ 16 * 0x7FF
    | q :: _ => q.entry + 2 ^ 16 * (ws.getLast?.map (·.entry)).getD 0 + 2 ^ 32 * ws.length
        + (if q.kind.isEnq then 2 ^ 48 else 0)
  mirrorPut s (r + 0x30) v

/-- WAITQ of a barrier mirrors its waiters (R141). -/
def mirrorBar (s : State) (l : Nat) : State :=
  let ws := s.waiters.filter (fun q => q.obj == l && q.kind == .barrier)
  let v := match ws with
    | [] => 0x7FF + 2 ^ 16 * 0x7FF
    | q :: _ => q.entry + 2 ^ 16 * (ws.getLast?.map (·.entry)).getD 0 + 2 ^ 32 * ws.length
  mirrorPut s (l + 0x10) v

/-- The head of a slate's wait list, whose form the manual leaves open. -/
def slWaitq (s : State) (l : Nat) : State :=
  let (n, t) := s.free 13
  t.writeNat (l + 0x20) 8 n

/-- The control block at `loc` mirrors its waiters once more, after a wait of `q`'s kind has changed (R141). -/
def mirrorFor (s : State) (q : Waiter) (loc : Nat) : State :=
  match q.kind with
  | .enq _ | .deq _ _ => mirrorWaitq s loc
  | .barrier => mirrorBar s loc
  | .slateRd | .slateWr => slWaitq s loc
  | _ => s

/-- The bytes of the object of a wake entry for a wait of this kind (R405). -/
def WaitKind.span : WaitKind → Nat
  | .addr | .counter => 8
  | _ => 0

/-- The device on behalf of an address space: a translation that needs no user rights. -/
def deviceWho (die asid : Nat) : Who := ⟨2 ^ 40, 1024 + 2 * die, asid, true, .L⟩

/-- A device's own blocking enqueue waits under a number of its own: the interface for which it is made, its die, whether
it is a sequence manager's record (R197) or the walker's (R401), and a serial. -/
def deviceCtx (vif die : Nat) (post : Bool) (serial : Nat) : Nat := 2 ^ 40 + vif + 256 * die + 4096 * post.toNat + 8192 * serial

/-- A wait is the device's own. -/
def isDeviceCtx (k : Nat) : Bool := decide (2 ^ 40 ≤ k)

/-- The interface of a wait of the device's own. -/
def deviceVif (k : Nat) : Nat := (k - 2 ^ 40) % 256

/-- The die of a wait of the device's own. -/
def deviceDie (k : Nat) : Nat := (k - 2 ^ 40) / 256 % 16

/-- A wait of the device's own is a sequence manager's. -/
def isPostCtx (k : Nat) : Bool := isDeviceCtx k && (k - 2 ^ 40) / 4096 % 2 == 1

/-- The record in posting that waits under a name. -/
def Gathered.waitsAs (g : Gathered) (k : Nat) : Bool := match g.posting with | some p => p.wait == k | none => false

/-- The address space in which a wait of the device's own names its rod. -/
def State.deviceAsid (s : State) (k : Nat) : Nat :=
  if isPostCtx k then (((s.die (deviceDie k)).gathered.find? (fun g => g.waitsAs k)).map (fun g => g.asid.toNat)).getD 0
  else (s.vif (deviceVif k)).asidb

/-- On whose behalf a lane of a context, or a wait of the device's own, acts. -/
def State.whoOf (s : State) (k : Nat) (l : Lane) : Who :=
  if isDeviceCtx k then { deviceWho (deviceDie k) (s.deviceAsid k) with ctx := k }
  else
    let c := s.ctx k
    ⟨k, c.core, c.ctrl.asid.toNat, c.holdsPriv, l⟩

/-- Runs an operation for the device; one that fails changes nothing. -/
def State.tryOp {α : Type} (s : State) (m : Op α) : Option α × State :=
  match m.run.run s with
  | (.ok a, t) => (some a, t)
  | (.error _, _) => (none, s)

/-! ### The device's own work rods (R156, R189) -/

/-- Where a draft or check work rod's RCB lies, homed on its die: memory that Adeley reserves, which no page of software
names; the model gives it locations between the two ranges of R374 (log 14). -/
def workLoc (die part : Nat) (draft : Bool) : Nat := 0xFF00000000 + 4096 * die + 128 * part + 64 * draft.toNat

/-- The RCB is a work rod's. -/
def isWorkRod (r : Nat) : Bool := decide (0xFF00000000 ≤ r) && decide (r < 0xFF00010000)

/-- The location of a work rod's slot array. -/
def workSlots (r : Nat) : Nat := 0xFE00000000 + (r - 0xFF00000000) / 64 * 2 ^ 17

def workRef (die part : Nat) (draft : Bool) : RodRef :=
  ⟨workLoc die part draft, BitVec.ofNat 64 (workLoc die part draft), false⟩

/-! ### Slots -/

/-- The context whose share holds a scratchpad location, and its offset in the share. -/
def State.shareOf (s : State) (loc : Nat) : Option (Ctx × Nat) :=
  let core := (loc - 2 ^ 72) / 2 ^ 21
  let byte := (loc - 2 ^ 72) % 2 ^ 21
  let c := s.core core
  let h0 := 32768 * c.h0
  let p := byte % 524288
  let g := byte / 524288
  if p < h0 then (s.shareIn c.bank0 c.last0).map (fun x => (x, g * h0 + p))
  else (s.shareIn c.bank1 c.last1).map (fun x => (x, g * (524288 - h0) + (p - h0)))

/-- The locations of `n` bytes from slot `k` of a rod (R139, R142). Slots in memory are named by
virtual addresses of the party for which the operation is made; writes that come before are performed first (R128),
and an access to a page elsewhere is counted (R111). -/
def slotLocs (w : Who) (r : RodRef) (k : Nat) (n : Nat) (write : Bool) : Op (List Nat) := do
  let s ← get
  let a := rodBase s r.loc + k % rodCap s r.loc * 2 ^ rodElsz s r.loc
  if isWorkRod r.loc then return (List.range n).map (a + ·)
  else if r.sp then
    match s.shareOf r.loc with
    | none => spadFault a
    | some (c, _) =>
      match s.ownSpan c a n with
      | none => spadFault a
      | some xs => return xs
  else
    let ps := pieces (a % 2 ^ 64) n
    ps.foldlM (fun acc p => do
      let x ← xlat w write p.1
      if write && x.mg then throw .stall
      drainFor w.core x.loc p.2
      modify (fun t => countAccess t w x)
      return acc ++ (List.range p.2).map (x.loc + ·)) []

/-- Reads bytes at locations as the home does. -/
def locsRead (locs : List Nat) : Op (List Byte) := do
  let s ← get
  match s.poisoned locs with
  | some p => fatalOp .uncorr (uncorrDetail p) p
  | none => return locs.map s.byteAt

/-- Writes bytes at locations as the home does. -/
def locsWrite (locs : List Nat) (bs : List Byte) : Op Unit :=
  modify (fun s => (locs.zip bs).foldl (fun t ab => t.setByte ab.1 ab.2) (clearPoison s locs))

/-! ### Flags and completion interrupts (R397, R411) -/

/-- A flag of IFLAG other than CMP is raised; vector 1 is sent when it goes from 0 to 1 (R397). -/
def raiseFlag (f : Vif) (bit : Nat) : Vif :=
  if f.iflag.getLsbD bit then f
  else { f with iflag := f.iflag ||| BitVec.ofNat 3 (2 ^ bit), msi1 := f.msi1 + 1 }

/-- Sends vector 0 and starts a new batch. -/
def completionInterrupt (f : Vif) : Vif :=
  { f with pcnt := 0, iflag := f.iflag ||| 1, msi0 := f.msi0 + 1 }

/-- One more record on a VIF's completion rod. -/
def countRecord (f : Vif) : Vif :=
  let f1 := { f with pcnt := min 65535 (f.pcnt + 1) }
  if f1.modcnt ≠ 0 ∧ f1.modcnt ≤ f1.pcnt then completionInterrupt f1 else f1

/-- The location that a VIF's descriptor names as its completion rod. -/
def State.crodLoc (s : State) (f : Vif) : Option Nat :=
  if f.crod = 0 then none
  else match (s.translate 0 f.asidb true true f.crod.toNat).1 with
    | .ok x => some x.loc
    | .error _ => none

/-- A record committed to a rod with IRQ set counts for every VIF that names it (R411). -/
def countCommit (s : State) (r : Nat) : State :=
  if s.field r 19 1 = 1 then
    (s.vifs.filter (fun kv => s.crodLoc kv.2 == some r)).foldl (fun t kv => t.updVif kv.1 countRecord) s
  else s

/-! ### Ends of waits -/

/-- The destination of a rod instruction's result word. -/
def rodDest : Instr → BitVec 6
  | .enq _ o => o.d
  | .deq _ o => o.d
  | .sqget _ o => o.d
  | _ => 0

/-- A result word: status in [7:0], a field above it (R319, R333). -/
def resultWord (status upper : Nat) : Word := BitVec.ofNat 64 (status + 256 * upper)

/-- Wakes a parked rod instruction with a status; a delivered bead is written first, and a dequeue, or
a status CLOSED, acquires (R120, R149, R333). -/
def completeRod (s : State) (r : RodRef) (q : Waiter) (status idx : Nat) (bead : List Byte) : State :=
  if isPostCtx q.ctx then
    (s.unwait q.ctx q.lane).updDie (deviceDie q.ctx) (fun d => { d with gathered := d.gathered.map (fun g =>
      if g.waitsAs q.ctx then { g with posting := g.posting.map (fun p => { p with answer := some status }) } else g) })
  else if isDeviceCtx q.ctx then
    let s1 := s.unwait q.ctx q.lane
    if status = 0 then s1 else s1.updVif (deviceVif q.ctx) (fun f => raiseFlag f 2)
  else
  let w := s.whoOf q.ctx q.lane
  let s1 := match q.kind with
    | .deq dst _ =>
      if status = 0 then
        match s.spadSpan (s.ctx q.ctx) dst bead.length true with
        | some xs => putWriteBy s q.ctx q.lane (rowGroups (xs.flatten.zip bead)) 0
        | none => recordFatal s q.ctx .spadAddr (laneCode q.lane) 0 (BitVec.ofNat 64 dst) none none
      else s
    | _ => s
  let s2 := if q.kind.isDeq && status == 0 || status == 3 then
      (acquireState s1 w.core w.asid (if r.sp then 1 else 4) (s.coverFor q.ctx q.lane q.addr)).joinMtcs q.ctx q.lane
    else s1
  let d := match (s2.lane q.ctx q.lane).parked with
    | some p => rodDest p.instr
    | none => 0
  let s3 := s2.updLane q.ctx q.lane (fun x => x.putS d.toNat (resultWord status idx) 0)
  (s3.unwait q.ctx q.lane).finishParked q.ctx q.lane

/-- TAIL moves past the slot that it names (R146). -/
def moveTail (s : State) (r : RodRef) : State :=
  countCommit ((s.writeNat (r.loc + 0x18) 8 ((rodTail s r.loc + 1) % 2 ^ 64)).touch r.loc) r.loc

/-- The enqueuer whose reserved slot is the next to commit. -/
def State.committer (s : State) (r : Nat) : Option Waiter :=
  s.waiters.find? (fun q => q.obj == r && q.kind == .commit (rodTail s r))

/-- Commits the next reserved slot, and completes the enqueuer that waits for it (R146). -/
def commitNext (s : State) (r : RodRef) : State :=
  match s.committer r.loc with
  | some q => completeRod (moveTail s r) r q 0 (rodTail s r.loc % 2 ^ 56) []
  | none => s

/-- Commits every slot whose reservation is outstanding, in their order; `n` bounds their number. -/
def commitAll (r : RodRef) : Nat → State → State
  | 0, s => s
  | n + 1, s => if (s.committer r.loc).isNone then s else commitAll r n (commitNext s r)

/-- The beads of a rod are forgotten: its slots hold what memory holds. -/
def dropBeads (s : State) (rod : Nat) : State := { s with beads := s.beads.filter (fun b => b.rod != rod) }

/-- Keeps a bead as it was enqueued. No software reaches the slots of a work rod. -/
def keepBead (s : State) (r : RodRef) (k : Nat) (bead : List Byte) : State :=
  if isWorkRod r.loc then s
  else { s with beads := ⟨r.loc, k, bead⟩ :: s.beads.filter (fun b => !(b.rod == r.loc && b.num == k)) }

/-- What a DEQ finds in a slot whose home holds `now`: for each 64-byte piece, freely, that or the bead as it was enqueued
where a plain store has changed it (R148). -/
def beadOrStored (s : State) (r : RodRef) (k : Nat) (now : List Byte) : List Byte × State :=
  match s.beads.find? (fun b => b.rod == r.loc && b.num == k) with
  | none => (now, s)
  | some b =>
    let t := { s with beads := s.beads.erase b }
    if b.bytes = now ∨ b.bytes.length ≠ now.length then (now, t)
    else
      let (n, u) := t.free 206
      (now.mapIdx (fun i x => if n / 2 ^ (i / 64) % 2 = 1 then b.bytes.getD i x else x), u)

/-- A write to memory on a die's behalf brings the die's copy of the line up to date (R108). -/
def updateRdc (s : State) (die loc : Nat) (bs : List Byte) : State :=
  match kvGet (s.die die).rdc (loc / 64) with
  | none => s
  | some c => s.updDie die (fun d => { d with rdc := kvPut d.rdc (loc / 64) { c with data := patchLine c.data (loc / 64) loc bs } })

/-- What the step has written to a control block brings the copy that the die of the operation has of it up to date (R108);
`old` are the bytes of the block before. -/
def refreshBlock (s : State) (die loc : Nat) (old : List Byte) : State :=
  if (kvGet (s.die die).rdc (loc / 64)).isNone then s
  else (old.zipIdx).foldl (fun t bi =>
    if t.byteAt (loc + bi.2) = bi.1 then t else updateRdc t die (loc + bi.2) [t.byteAt (loc + bi.2)]) s

/-- The issuing lane's operation on a control block of 64 bytes, whose home writes it. -/
def onBlock (loc : Nat) (m : Op Unit) : Op Unit := do
  let old := (← get).readBytes loc 64
  m
  modify (fun s => refreshBlock s s.myDie loc old)

/-- Reserves a slot, and writes the bead to it; the slot's number. -/
def reserveSlot (w : Who) (r : RodRef) (bead : List Byte) : Op Nat := do
  let s ← get
  let k := rodRsv s r.loc
  let locs ← slotLocs w r k bead.length true
  locsWrite locs bead
  modify (fun s => keepBead ((locs.zip bead).foldl (fun t ab => updateRdc t (dieOfCore w.core) ab.1 [ab.2]) s) r k bead)
  modify (fun s => (s.writeNat (r.loc + 0x20) 8 ((k + 1) % 2 ^ 64)).writeNat (r.loc + 0x28) 8 (rodFree s r.loc - 1))
  return k

/-- Takes the oldest committed bead: its number and its bytes. Where software has stored to the slot, the bytes are
those that the home holds or, freely, those of the bead (R148). -/
def takeSlot (w : Who) (r : RodRef) : Op (Nat × List Byte) := do
  let s ← get
  let k := rodHead s r.loc
  let locs ← slotLocs w r k (2 ^ rodElsz s r.loc) false
  let (bead, t) := beadOrStored (← get) r k (← locsRead locs)
  set t
  modify (fun s => ((s.writeNat (r.loc + 0x10) 8 ((k + 1) % 2 ^ 64)).writeNat (r.loc + 0x28) 8
    (rodFree s r.loc + 1)).touch r.loc)
  return (k, bead)

/-- A waiter whose slot it cannot reach is released: a lane issues its instruction again, and finds what stands in its
way; a record of the device's own waits with the device again where its page is being moved, and is lost where it does
not translate (R156, R394). -/
def releaseWaiter (s : State) (r : RodRef) (q : Waiter) (held : Bool) : State :=
  if !isDeviceCtx q.ctx then s.unwait q.ctx q.lane
  else if held then
    let t := s.unwait q.ctx q.lane
    match q.kind with
    | .enq bead =>
      if isPostCtx q.ctx then t.updDie (deviceDie q.ctx) (fun d => { d with gathered := d.gathered.map (fun g =>
        if g.waitsAs q.ctx then { g with posting := none } else g) })
      else t.updVif (deviceVif q.ctx) (fun f => { f with recq := f.recq ++ [bead] })
    | _ => t
  else completeRod s r q 4 0 []

/-- An operation for a waiter: what it answers, or the state in which the waiter has been released. -/
def tryWaiter {α : Type} (s : State) (r : RodRef) (q : Waiter) (m : Op α) : Except State (α × State) :=
  match m.run.run s with
  | (.ok a, t) => .ok (a, t)
  | (.error .stall, _) => .error (releaseWaiter s r q true)
  | (.error _, _) => .error (releaseWaiter s r q false)

/-- Serves one waiter that can proceed: the oldest dequeuer, else the oldest enqueuer (R146). -/
def serveOne (s : State) (r : RodRef) : Option State :=
  -- a work rod's dequeuers are served by the sequence manager, which looks at each bead (R189)
  let ws := if isWorkRod r.loc then [] else s.rodWaiters r.loc
  match (if rodTail s r.loc = rodHead s r.loc then none else ws.find? (fun q => q.kind.isDeq)) with
  | some q =>
    match tryWaiter s r q (takeSlot (s.whoOf q.ctx q.lane) r) with
    | .ok ((k, bead), t) => some (completeRod t r q 0 (k % 2 ^ 56) bead)
    | .error t => some t
  | none =>
    match (if rodFree s r.loc = 0 then none else ws.find? (fun q => q.kind.isEnq)) with
    | none => none
    | some q =>
      let bead := match q.kind with | .enq b => b | _ => []
      match tryWaiter s r q (reserveSlot (s.whoOf q.ctx q.lane) r bead) with
      | .ok (k, t) =>
        let t1 := { t with waiters := t.waiters.map (fun p => if p == q then { p with kind := .commit k } else p) }
        some (if rodTail t1 r.loc = k then commitNext t1 r else t1)
      | .error t => some t

/-- ServeWaiters (R146); `n` bounds the number of waiters. -/
def serveWaiters (r : RodRef) : Nat → State → State
  | 0, s => s
  | n + 1, s => match serveOne s r with
    | some t => serveWaiters r n t
    | none => s

def serveAll (s : State) (r : RodRef) : State :=
  mirrorWaitq (serveWaiters r (s.waiters.length + 1) s) r.loc

/-- Wakes every parked enqueuer and dequeuer with a status; beads of enqueuers are discarded (R149). -/
def wakeAll (s : State) (r : RodRef) (status : Nat) : State :=
  mirrorWaitq ((s.rodWaiters r.loc).foldl (fun t q => completeRod t r q status 0 []) (s.touch r.loc)) r.loc

/-- Enqueuers whose reserved slots no count covers any more, because software has written the counts. -/
def State.strayCommits (s : State) (r : Nat) : List Waiter :=
  s.waiters.filter (fun q => q.obj == r && (match q.kind with | .commit _ => true | _ => false))

/-- Every reservation that is outstanding completes: in the slots' order, and where the counts no longer name its slot,
without a change of TAIL (R146). -/
def completeSlots (s : State) (r : RodRef) : State :=
  let t := commitAll r (s.waiters.length + 1) s
  (t.strayCommits r.loc).foldl (fun u q =>
    completeRod u r q 0 ((match q.kind with | .commit k => k | _ => 0) % 2 ^ 56) []) t

/-- Quarantines a rod with the first failing check (R145). What it had accepted before has been enqueued (R146). -/
def quarantine (s : State) (r : RodRef) (code : Nat) : State :=
  dropBeads (wakeAll (((completeSlots s r).setField (r.loc + 0x38) 0 2 2).setField (r.loc + 0x38) 8 4 code) r 4) r.loc

/-! ### Operations -/

/-- What a rod operation comes to: a status with an index and a bead, a wait, a reserved slot that is
not yet committed, or a failed check. -/
inductive RodOut where
  | done (status idx : Nat) (bead : List Byte)
  | wait
  | reserved (k : Nat)
  | corrupt (code : Nat)
  deriving DecidableEq, Repr, Inhabited

/-- What every operation on a rod does once checks 1 and 2 have passed: the home fix-up, and WAITQ rewritten from
the home's list (R141, R147). Answers checks 1 and 2 and the QUARANTINED test. -/
def rodMeet (r : RodRef) : Op RodCheck := do
  let c := rodCheck12 (← get) r
  match c with
  | .bad _ => return c
  | _ =>
    modify (fun s => mirrorWaitq (rodFixHome s r) r.loc)
    return c

/-- The start of a rod operation: checks, and what they lead to (R144, R145, R147). -/
def rodEnter (r : RodRef) : Op RodCheck := do
  match ← rodMeet r with
  | .ok =>
    let s ← get
    match rodCheck37 s r with
    | .bad c => set (quarantine s r c); return .bad c
    | x => return x
  | x => return x

/-- The operation would park beside waiters of the other kind: that cannot be, so it comes after the slot writes that
are under way (R146, R149). -/
def settleKinds (s : State) (r : RodRef) (enq : Bool) : State :=
  if (s.rodWaiters r.loc).any (fun q => q.kind.isEnq != enq) then
    serveAll (commitAll r (s.waiters.length + 1) s) r
  else s

/-- RodEnq (R146). `late`: the slot's write is acknowledged, and so commits, at a later event. -/
def rodEnq (w : Who) (r : RodRef) (bead : List Byte) (n : Nat) (blocking late : Bool) : Op RodOut := do
  match ← rodEnter r with
  | .bad c => return .corrupt c
  | .quarantined => return .done 4 0 []
  | .ok =>
    if blocking && rodFree (← get) r.loc == 0 then modify (fun t => settleKinds t r true)
    let s ← get
    if rodStatus s r.loc = 1 then return .done 3 0 []
    else if n ≠ 2 ^ rodElsz s r.loc then return .done 5 0 []
    else if rodFree s r.loc = 0 then return (if blocking then .wait else .done 2 0 [])
    else
      let k ← reserveSlot w r bead
      let now ← get
      let t := if late then now else commitAll r (now.waiters.length + 1) now
      if late || rodTail t r.loc != k then
        modify (fun t => mirrorWaitq t r.loc)
        return .reserved k
      else
        set (serveAll (moveTail t r) r)
        return .done 0 (k % 2 ^ 56) []

/-- Slot writes that are under way commit before an operation that finds the rod's counts settled (R143, R146). -/
def settleSlots (s : State) (r : RodRef) : State :=
  if (s.committer r.loc).isSome then serveAll (commitAll r (s.waiters.length + 1) s) r else s

/-- RodDeq (R146). A closed rod is empty only when the beads that it has accepted have come out. -/
def rodDeq (w : Who) (r : RodRef) (n : Nat) (blocking : Bool) : Op RodOut := do
  match ← rodEnter r with
  | .bad c => return .corrupt c
  | .quarantined => return .done 4 0 []
  | .ok =>
    if rodTail (← get) r.loc == rodHead (← get) r.loc then
      modify (fun t => if rodStatus t r.loc = 1 then settleSlots t r else if blocking then settleKinds t r false else t)
    let s ← get
    if n ≠ 2 ^ rodElsz s r.loc then return .done 5 0 []
    else if rodTail s r.loc = rodHead s r.loc then
      if rodStatus s r.loc = 1 then return .done 3 0 []
      else return (if blocking then .wait else .done 1 0 [])
    else
      let (k, bead) ← takeSlot w r
      modify (fun t => serveAll t r)
      return .done 0 (k % 2 ^ 56) bead

/-- ROD_COMMIT: an acknowledged slot write commits, and the waiters are served. -/
def rodCommit (s : State) (r : RodRef) : State := serveAll (commitNext s r) r

/-! ### Rods that the device uses (R156, R364, R400) -/

/-- What the device's own operation answers where it is held for a page move (R394): it is still to be performed. -/
def heldStatus : Nat := 7

/-- The device reaches a rod in memory for an operation of its own: an access to a page elsewhere is counted (R111). A status
where it cannot: a location that does not translate or is the host's gives 4, as a quarantined rod does (DESIGN CHOICE,
log 128), and a page that is being moved holds the operation (R394). -/
def deviceReach (s : State) (die asid : Nat) (a : Word) : Except Nat (RodRef × State) :=
  match s.translate die asid true true a.toNat with
  | (.ok x, t) =>
    if x.host then .error 4
    else if x.mg then .error heldStatus
    else .ok (⟨x.loc, a, false⟩, countAccess t (deviceWho die asid) x)
  | (.error _, _) => .error 4

/-- What an operation of the device's own on a rod answers: the status of R150, or `heldStatus`. -/
def deviceAnswer (s : State) (x : Except Halt RodOut × State) : Nat × List Byte × State :=
  match x with
  | (.ok (.done 5 _ _), t) => (4, [], t)
  | (.ok (.done st _ bead), t) => (st, bead, t)
  | (.ok _, t) => (4, [], t)
  | (.error .stall, _) => (heldStatus, [], s)
  | (.error _, _) => (4, [], s)

/-- The device's own enqueue. -/
def deviceEnq (s : State) (die asid : Nat) (a : Word) (bead : List Byte) : Nat × State :=
  match deviceReach s die asid a with
  | .error st => (st, s)
  | .ok (r, t) =>
    let (st, _, u) := deviceAnswer s ((rodEnq (deviceWho die asid) r bead bead.length false false).run.run t)
    (st, u)

/-- The device's own dequeue: the status and the bead. -/
def deviceDeq (s : State) (die asid : Nat) (a : Word) (n : Nat) : Nat × List Byte × State :=
  match deviceReach s die asid a with
  | .error st => (st, [], s)
  | .ok (r, t) => deviceAnswer s ((rodDeq (deviceWho die asid) r n false).run.run t)

/-! ### Hints (R392) -/

/-- A page is owned by the host or by the second tier. -/
def hintedPage (s : State) (p : PageCount) : Bool :=
  s.tlb.any (fun e => e.asid == p.asid && e.va == p.va && decide (0x10000000000 ≤ (s.entLoc e e.va).1))

/-- Counts that have reached MTHR give one hint each, on the die's hint rod. -/
def flushHints (s : State) (die : Nat) : State :=
  let d := s.die die
  d.counts.foldl (fun t p =>
    if d.mthr ≠ 0 ∧ !p.hinted ∧ d.mthr ≤ p.count.toNat ∧ hintedPage t p then
      let mark (u : State) : State := u.updDie die (fun x => { x with counts := x.counts.map (fun q =>
        if q.asid == p.asid && q.va == p.va then { q with hinted := true } else q) })
      match d.hintRod with
      | none => mark t
      | some a =>
        let (st, u) := deviceEnq t die d.rodAsid.toNat a
          (bytesOf (p.asid + 2 ^ 15 * bits p.va 56 1) 8 ++ bytesOf p.va 8)
        if st = heldStatus then t else mark u
    else t) s

end Sys2Proof.Machine
end

