-- ==== Sys2Proof/Machine/Flags.lean ====
section
/-! DEFINITION. Status and control registers: STATUS, QSAT, EPC, and the control-register map with its
access codes (16_contexts_traps.md R354 to R361; 00_scope.md R3). -/

namespace Sys2Proof.Machine

/-- STATUS (R355). -/
def statusWord (c : Ctx) : Nat :=
  c.ctrl.prv.toNat + 2 * c.ctrl.hnd.toNat + 8 * c.ctrl.chk.toNat + 16 * c.bank

/-- A block quantisation of the issuing context saturated an element (R37). -/
def setQsat (s : State) (sat : Bool) : State :=
  if sat then s.updMe (fun c => { c with ctrl := { c.ctrl with mode := c.ctrl.mode ||| 1 } }) else s

/-- A resume point in the layout of EPC (R358). -/
def resumeWord (pc : Nat) (slot : Option Nat) : Word :=
  BitVec.ofNat 64 (pc % 16384 + (match slot with | some k => k % 4 * 2 ^ 14 + 2 ^ 16 | none => 0))

/-- The state code of an overlay slot (R103). -/
def SlotState.code : SlotState → Nat
  | .empty => 0
  | .loading => 1
  | .valid => 2

/-- OVLMAP (R103). -/
def ovlmapWord (c : Ctx) : Nat :=
  c.ovl0.st.code + 4 * c.ovl1.st.code + 2 ^ 4 * (c.ovl0.len % 2 ^ 14) + 2 ^ 18 * (c.ovl1.len % 2 ^ 14)

/-- ESEQ (R75). -/
def eseqWord (c : Ctx) : Nat :=
  c.laneL.eseq.toNat + 2 ^ 16 * c.laneC.eseq.toNat + 2 ^ 32 * c.laneS.eseq.toNat

/-- The table and knot of a CMPDT register number (R356). -/
def cmpdtIndex (n : Nat) : Option Nat :=
  if 0x100 ≤ n ∧ n < 0x180 ∧ (n - 0x100) % 0x20 ≤ 16 then
    some (17 * ((n - 0x100) / 0x20) + (n - 0x100) % 0x20)
  else none

/-- The value an MFC reads from a control register, for the context `k` (R356, R366). -/
def readCtrl (s : State) (k n : Nat) : Word :=
  let c := s.ctx k
  let r := c.ctrl
  let co := s.core c.core
  match n with
  | 0x000 => BitVec.ofNat 64 (statusWord c)
  | 0x001 => r.cause
  | 0x002 => r.finfo
  | 0x003 => r.faddr
  | 0x004 => c.laneL.epc
  | 0x005 => c.laneC.epc
  | 0x006 => c.laneS.epc
  | 0x008 => r.utvec
  | 0x009 => r.tvec
  | 0x010 => c.laneL.slim
  | 0x011 => c.laneC.slim
  | 0x012 => c.laneS.slim
  | 0x018 => BitVec.ofNat 64 r.slipw.toNat
  | 0x019 => BitVec.ofNat 64 (co.h0 + 16 * co.pend)
  | 0x01A => BitVec.ofNat 64 r.detm.toNat
  | 0x01B => r.mode
  | 0x01C => r.vamask
  | 0x01D => BitVec.ofNat 64 (eseqWord c)
  | 0x01E => BitVec.ofNat 64 (ovlmapWord c)
  | 0x020 => BitVec.ofNat 64 (k % 2 ^ 32 + 2 ^ 32 * r.nestid.toNat)
  | 0x021 => BitVec.ofNat 64 (r.asid.toNat + 2 ^ 16 * r.gen.toNat)
  | 0x022 => r.savea
  | 0x028 => co.cycle
  | 0x029 => r.itcount
  | 0x02A => BitVec.ofNat 64 r.ittimer.toNat
  | 0x030 => if isService c.core then co.intp else 0
  | _ => match cmpdtIndex n with
    | some j => r.cmpdt.getD j 0
    | none => 0

/-- Registers that an MFC may read without privilege (R356). -/
def userReadable (n : Nat) : Bool :=
  !(n == 0x009 || n == 0x021 || n == 0x022 || n == 0x02A || n == 0x030)

/-- SLIPW as an MTC stores it (R66). -/
def clampSlipw (v : Nat) : BitVec 13 :=
  BitVec.ofNat 13 (if v < 16 then 16 else if 4096 < v then 4096 else v)

/-- The fields of a value that a register holds, others reading zero. -/
def keepBits (v : Word) (mask : Nat) : Word := v &&& BitVec.ofNat 64 mask

/-- An MTC of `v` to a control register of the context `k`, under its access codes (R3, R356). Read-only
registers are left as they are. -/
def writeCtrl (s : State) (k n : Nat) (v : Word) : State :=
  let upd (f : Ctrl → Ctrl) : State := s.updCtx k (fun c => { c with ctrl := f c.ctrl })
  let core := (s.ctx k).core
  match n with
  | 0x001 => upd (fun r => { r with cause := keepBits v 0x7FF })
  | 0x002 => upd (fun r => { r with finfo := keepBits v 0x0003FFFF7FFFFFFF })
  | 0x003 => upd (fun r => { r with faddr := v })
  | 0x004 => s.updLane k .L (fun x => { x with epc := keepBits v 0x1FFFF })
  | 0x005 => s.updLane k .C (fun x => { x with epc := keepBits v 0x1FFFF })
  | 0x006 => s.updLane k .S (fun x => { x with epc := keepBits v 0x1FFFF })
  | 0x008 => upd (fun r => { r with utvec := keepBits v 0x8000000000003FFF })
  | 0x009 => upd (fun r => { r with tvec := keepBits v 0x8000000000003FFF })
  | 0x010 => s.updLane k .L (fun x => { x with slim := v })
  | 0x011 => s.updLane k .C (fun x => { x with slim := v })
  | 0x012 => s.updLane k .S (fun x => { x with slim := v })
  | 0x018 => upd (fun r => { r with slipw := clampSlipw v.toNat })
  | 0x019 =>
    let p := bits v.toNat 4 4
    if p = 0 then s else s.updCore core (fun c => { c with pend := p })
  | 0x01B => upd (fun r => { r with mode := if v.getLsbD 0 then 0 else r.mode })
  | 0x01C => upd (fun r => { r with vamask := keepBits v 0x1FFFFFFFF })
  | 0x022 => upd (fun r => { r with savea := keepBits v 0xFFFFFFFFFFFFF000 })
  | 0x02A => upd (fun r => { r with ittimer := BitVec.ofNat 32 v.toNat })
  | 0x030 =>
    if isService core then s.updCore core (fun c => { c with intp := c.intp &&& ~~~(keepBits v 0x1F) })
    else s
  | _ => match cmpdtIndex n with
    | some j => upd (fun r => { r with cmpdt := r.cmpdt.setIfInBounds j v })
    | none => s

/-- The issuing lane's MTC: other lanes that do not come after it may still see what it has replaced, but for a knot of
CMPDT (R366). -/
def writeMtc (s : State) (n : Nat) (v : Word) : State :=
  let k := s.cur.ctx
  let old := readCtrl s k n
  let t := writeCtrl s k n v
  if readCtrl t k n = old ∨ (cmpdtIndex n).isSome then t
  else t.updCtx k (fun c =>
    { c.updLane s.cur.lane (fun x => { x with joined := mtcKey c.mtcs :: x.joined }) with
      mtcs := c.mtcs + 1
      olds := c.olds ++ [⟨n, old, c.mtcs⟩] })

/-- Values of a control register that MTCs have replaced and the lane may still see. -/
def oldCtrls (s : State) (k : Nat) (l : Lane) (n : Nat) : List Word :=
  ((s.ctx k).olds.filter (fun o => o.reg == n && !((s.lane k l).joined.contains (mtcKey o.mtc)))).map (·.val)

/-- What the issuing lane sees in a control register: its value, or any that it may still see (R6, R366). -/
def seenCtrl (s : State) (n : Nat) : Word × State :=
  let now := readCtrl s s.cur.ctx n
  match oldCtrls s s.cur.ctx s.cur.lane n with
  | [] => (now, s)
  | vs =>
    let (m, t) := s.free 203
    ((now :: vs).getD (m % (vs.length + 1)) now, t)

/-- What a lane finds in a control register that its instruction uses without reading it into a register (R366). -/
def seenNow (s : State) (k : Nat) (l : Lane) (n : Nat) : Word :=
  match oldCtrls s k l n with
  | [] => readCtrl s k n
  | vs => (readCtrl s k n :: vs).getD (Config.free 203 s.fresh % (vs.length + 1)) (readCtrl s k n)

/-- Sets bits of INTP of a die's service cores (R360). -/
def raiseIntp (s : State) (die bit : Nat) : State :=
  (serviceCores die).foldl (fun t c => t.updCore c (fun x => { x with intp := x.intp ||| BitVec.ofNat 64 (2 ^ bit) })) s

/-- Numbers of the context registers of R356, ascending: those that a save-area image holds (R369). -/
def contextRegs : List Nat :=
  [0x000, 0x001, 0x002, 0x003, 0x004, 0x005, 0x006, 0x008, 0x009, 0x010, 0x011, 0x012, 0x018, 0x01A,
   0x01B, 0x01C, 0x01D, 0x01E, 0x020, 0x021, 0x022, 0x029, 0x02A]
  ++ (List.range 4).flatMap (fun t => (List.range 17).map (fun j => 0x100 + 0x20 * t + j))

end Sys2Proof.Machine
end

