-- ==== Sys2Proof/Machine/Moves.lean ====
section
/-! DEFINITION. Removing translations, and a page on its way to a new frame: what MIGR.move does line by line, and
what its end leaves (17_translation.md R384, R388, R394, R395; 06_rods.md R147). -/

namespace Sys2Proof.Machine

/-! ### Removing translations (R379, R388) -/

/-- Two ranges of addresses overlap. -/
def overlap (a n b m : Nat) : Bool := decide (a < b + m) && decide (b < a + n)

/-- Removes the translations that a condition names. -/
def dropTlb (s : State) (p : TlbEnt → Bool) : State := { s with tlb := s.tlb.filter (fun e => !p e) }

/-- The addresses that a table entry of a level serves: their first, and their number (R380). -/
def WalkEnt.span (e : WalkEnt) : Nat × Nat :=
  let sh := [42, 29, 21].getD e.level 21
  (e.index * 2 ^ sh, 2 ^ sh)

/-- Removes the entries of the walk caches that a condition names. -/
def dropWalks (s : State) (p : WalkEnt → Bool) : State := { s with walks := s.walks.filter (fun e => !p e) }

/-- Removes every entry of an address space that overlaps a range, from every TLB and walk cache. -/
def dropRange (s : State) (asid va n : Nat) : State :=
  dropWalks (dropTlb s (fun e => e.asid == asid && overlap e.va e.size va n))
    (fun e => e.asid == asid && overlap e.span.1 e.span.2 va n)

/-- Removes every entry of an address space. -/
def dropAsid (s : State) (asid : Nat) : State :=
  dropWalks (dropTlb s (fun e => e.asid == asid)) (fun e => e.asid == asid)

/-- Clears the counts of a page (R392). -/
def clearCounts (s : State) (asid va size : Nat) : State :=
  { s with dies := s.dies.map (fun kd => (kd.1, { kd.2 with
      counts := kd.2.counts.filter (fun p => !(p.asid == asid && overlap p.va p.size va size)) })) }

/-! ### What follows a page to its new frame -/

/-- What is kept by location follows a page to its new frame. -/
def relocate (old new size loc : Nat) : Nat := if old ≤ loc ∧ loc < old + size then loc - old + new else loc

def relocateLines (f : Nat → Nat) (ls : List Nat) : List Nat := ls.map (fun l => f (64 * l) / 64)

def relocateSeqs (f : Nat → Nat) (d : Die) : Die :=
  { d with
    seqs := d.seqs.map (fun q => { q with seq := f q.seq })
    gathered := d.gathered.map (fun g => { g with
      slots := g.slots.map (fun x => { x with seq := f x.seq })
      posting := g.posting.map (fun p => { p with rod := f p.rod }) })
    deferred := d.deferred.map (fun x => { x with seq := f x.seq })
    posted := d.posted.map (fun p => (f p.1, p.2)) }

def relocateLane (f : Nat → Nat) (x : LaneSt) : LaneSt := { x with past := relocateLines f x.past }

/-- Increments, lines, pins, records, slots and pending writes of the page's addresses follow it. -/
def relocateState (s : State) (m : PageMove) (f : Nat → Nat) : State :=
  { s with
    beads := s.beads.map (fun b => { b with rod := f b.rod })
    incs := s.incs.map (fun i => { i with
      loc := f i.loc, lines := relocateLines f i.lines, before := relocateLines f i.before })
    cmds := s.cmds.map (fun c => { c with lines := relocateLines f c.lines, before := relocateLines f c.before })
    doneCmds := s.doneCmds.map (fun c => { c with lines := relocateLines f c.lines })
    ctxs := s.ctxs.map (fun kc => (kc.1, { kc.2 with
      tablePins := kc.2.tablePins.map (fun p => (f p.1, p.2))
      laneL := relocateLane f kc.2.laneL
      laneC := relocateLane f kc.2.laneC
      laneS := relocateLane f kc.2.laneS }))
    cores := s.cores.map (fun kc => (kc.1, { kc.2 with wpath := kc.2.wpath.map (fun e =>
      if e.asid.toNat = m.asid ∧ m.va ≤ e.va.toNat ∧ e.va.toNat < m.va + m.size then { e with pa := f e.pa } else e) }))
    dies := s.dies.map (fun kd => (kd.1, relocateSeqs f kd.2)) }

/-- A device's own wait goes on at the new home of its object. -/
def reparkDevice (f : Nat → Nat) (s : State) (q : Waiter) : State :=
  match (s.unwait q.ctx q.lane).parkFor q.ctx q.lane (f q.obj) q.addr q.kind with
  | (true, t) => t
  | (false, _) => { s with waiters := s.waiters.map (fun r =>
      if r == q then { r with obj := f q.obj, home := waitTable (f q.obj) } else r) }

/-- Waiters at objects of the frame that a page is to leave. -/
def waitersIn (s : State) (lo size : Nat) : List Waiter :=
  s.waiters.filter (fun q => decide (lo ≤ q.obj) && decide (q.obj < lo + size))

/-- Waits of lanes are cancelled, and each waiter issues its instruction again; a reserved slot commits (R147, R149).
The control blocks mirror who is left (R141). -/
def cancelWaits (s : State) (qs : List Waiter) : State :=
  qs.foldl (fun t q =>
    match q.kind with
    | .wake => t
    | .commit _ =>
      let r : RodRef := ⟨q.obj, q.addr, decide (2 ^ 72 ≤ q.obj)⟩
      serveAll (commitAll r (t.waiters.length + 1) t) r
    | _ => if isDeviceCtx q.ctx then t else mirrorFor (t.unwait q.ctx q.lane) q q.obj) s

/-- A lane that is dormant at one of the waits wakes: its object is no longer there. -/
def wakeWaits (s : State) (qs : List Waiter) : State :=
  s.wakeIf (fun r => qs.contains r)

/-- What stays of waits at a page goes with it: a lane that is dormant there wakes, and the device's own waits go on at
the new home (R147, R405). -/
def followWaits (s : State) (m : PageMove) (f : Nat → Nat) : State :=
  let qs := waitersIn s m.old m.size
  let t := (qs.filter (fun q => isDeviceCtx q.ctx)).foldl (reparkDevice f) (wakeWaits (cancelWaits s qs) qs)
  qs.foldl (fun u q => mirrorFor u q (f q.obj)) t

/-! ### The move (R394) -/

/-- Lines of a page. -/
def PageMove.total (m : PageMove) : Nat := m.size / 64

/-- Removes a move. -/
def dropMove (s : State) (m : PageMove) : State :=
  { s with moves := s.moves.filter (fun x => !(x.ctx == m.ctx && x.lane == m.lane)) }

def putMove (s : State) (m : PageMove) : State :=
  { s with moves := s.moves.map (fun x => if x.ctx == m.ctx && x.lane == m.lane then m else x) }

/-- Copies one line to the new frame, which clears whatever error its place there had. -/
def copyLine (s : State) (old new : Nat) : State :=
  (clearPoison s ((List.range 64).map (new + ·))).writeBytes new (s.readBytes old 64)

/-- Copies up to `n` lines of a page, ascending; stops before a line that holds an error. -/
def copyLines : Nat → State → PageMove → State × PageMove
  | 0, s, m => (s, m)
  | n + 1, s, m =>
    if m.total ≤ m.lines ∨ (s.poisoned [m.old + 64 * m.lines]).isSome then (s, m)
    else copyLines n (copyLine s (m.old + 64 * m.lines) (m.new + 64 * m.lines)) { m with lines := m.lines + 1 }

/-- The leaf entry gets a frame, and the page is no longer being moved: one step at the entry's home. -/
def setLeaf (s : State) (at_ frame : Nat) : State :=
  s.writeNat at_ 8 (putBits (putBits (s.readNat at_ 8) 8 40 (frame / 256)) 4 1 0)

/-- The end of a move whose lines have all been copied. -/
def endMove (s : State) (m : PageMove) : State :=
  let f := relocate m.old m.new m.size
  let s1 := relocateState (setLeaf (followWaits s m f) m.leaf m.new) m f
  dropMove (clearCounts (dropRange s1 m.asid m.va m.size) m.asid m.va m.size) m

/-- A move that stops at an error in the old frame: the page stays where it is. -/
def abandonMove (s : State) (m : PageMove) : State :=
  dropMove (dropRange (setLeaf s m.leaf m.old) m.asid m.va m.size) m

/-- What a move has come to: a status, an error in the old frame, or more to copy. -/
inductive MoveOut where
  | status (st : Nat)
  | error (line : Nat)
  | more

/-- A move copies up to `n` lines further. One that has been abandoned for another reports that (R395). -/
def goOnMove (s : State) (m : PageMove) (n : Nat) : MoveOut × State :=
  if m.lost then (.status 3, dropMove s m)
  else
    let (t, x) := copyLines n s m
    if x.total ≤ x.lines then (.status 0, endMove t x)
    else match t.poisoned [x.old + 64 * x.lines] with
      | some p => (.error p, abandonMove t x)
      | none => (.more, putMove t x)

/-- A move is carried to its end, whoever issued it: when its lane is to stop, or its context has ended. -/
def finishMove (s : State) (m : PageMove) : MoveOut × State := goOnMove s m m.total

/-- The move of a lane that waits in its MIGR.move is carried to its end, and the lane goes on: when it is to stop, as every
interlocked result lands (R362), or when a write of the device's own waits for the move. -/
def landMove (s : State) (k : Nat) (l : Lane) (m : PageMove) (p : Parked) : State :=
  let d := match p.instr with
    | .migrMove _ o => o.d
    | _ => 0
  match finishMove s m with
  | (.error line, t) =>
    (recordFatal t k .uncorr (laneCode l) (uncorrDetail line) (BitVec.ofNat 64 line) (some (p.pc + p.slot)) none).finishParked k l
  | (.status st, t) => (t.updLane k l (fun x => x.putS d.toNat (resultWord st 0) 0)).finishParked k l
  | (.more, t) => t

/-- Moves of a page of an address space are carried to their end, for what waits for them (R394). -/
def endMovesAt (s : State) (asid va : Nat) : State :=
  (s.moves.filter (fun m => m.asid == asid && decide (m.va ≤ va) && decide (va < m.va + m.size))).foldl (fun t m =>
    match (t.lane m.ctx m.lane).parked with
    | some p => landMove t m.ctx m.lane m p
    | none => (finishMove t m).2) s

/-- Every move is carried to its end, for an operation of the host that one of them holds (R394; log 36). -/
def endMoves (s : State) : State :=
  s.moves.foldl (fun t m =>
    match (t.lane m.ctx m.lane).parked with
    | some p => landMove t m.ctx m.lane m p
    | none => (finishMove t m).2) s

/-- Moves of contexts that have ended are carried to their end (log 36). -/
def settleMoves (s : State) : State :=
  (s.moves.filter (fun m => (kvGet s.ctxs m.ctx).all (fun c => c.res == .gone))).foldl (fun t m => (finishMove t m).2) s

end Sys2Proof.Machine
end

