-- ==== Sys2Proof/Machine/SaveArea.lean ====
section
/-! DEFINITION. The save area of a context: its image, written and read back (R369; log 29 for the
layouts inside the fields that R369 names by size alone). -/

namespace Sys2Proof.Machine

/-- Size of an image. -/
def imageSize : Nat := 0x16100

/-- Bytes of equal length, one after another. -/
def packNats (n : Nat) (xs : List Nat) : List Byte := xs.flatMap (fun x => bytesOf x n)

/-- Fills or cuts a list of bytes to a length. -/
def padTo (n : Nat) (bs : List Byte) : List Byte := (bs ++ List.replicate n 0).take n

def loopBytes (e : Option LoopEnt) : List Byte :=
  match e with
  | none => List.replicate 32 0
  | some e =>
    packNats 8 [e.start + 2 ^ 16 * e.stop + 2 ^ 32 * (match e.tab with | some t => t + 1 | none => 0) + 2 ^ 63,
      e.left, e.trip, 0]

def loopOf (bs : List Byte) : Option LoopEnt :=
  let v := leNat (bs.take 8)
  if bits v 63 1 = 0 then none
  else some
    { start := bits v 0 16, stop := bits v 16 16, left := leNat ((bs.drop 8).take 8)
      trip := leNat ((bs.drop 16).take 8)
      tab := if bits v 32 16 = 0 then none else some (bits v 32 16 - 1) }

def tokBytes (t : Option Tok) : List Byte :=
  match t with
  | none => List.replicate 16 0
  | some t => packNats 8 [t.val.toNat, t.hasVal.toNat + 2]

def tokOf (bs : List Byte) : Option Tok :=
  let f := leNat ((bs.drop 8).take 8)
  if bits f 1 1 = 0 then none else some ⟨bits f 0 1 == 1, BitVec.ofNat 64 (leNat (bs.take 8)), []⟩

def outBytes (b : Option BranchOut) : List Byte :=
  match b with
  | none => List.replicate 16 0
  | some b => packNats 8 [b.target, b.taken.toNat + 2]

def outOf (bs : List Byte) : Option BranchOut :=
  let f := leNat ((bs.drop 8).take 8)
  if bits f 1 1 = 0 then none else some ⟨bits f 0 1 == 1, leNat (bs.take 8)⟩

/-- Splits bytes into chunks of `n`; `k` chunks. -/
def chunks (n : Nat) : Nat → List Byte → List (List Byte)
  | 0, _ => []
  | k + 1, bs => bs.take n :: chunks n k (bs.drop n)

/-- A location in eight bytes: those of host memory and of the scratchpads lie apart (log 29). -/
def locWord (loc : Nat) : Nat :=
  if 2 ^ 72 ≤ loc then 2 ^ 62 + (loc - 2 ^ 72) else if 2 ^ 64 ≤ loc then 2 ^ 61 + (loc - 2 ^ 64) else loc

def locOfWord (v : Nat) : Nat :=
  if bits v 62 1 = 1 then 2 ^ 72 + v % 2 ^ 61 else if bits v 61 1 = 1 then 2 ^ 64 + v % 2 ^ 61 else v % 2 ^ 61

def lutBytes (u : LutSrc) : List Byte :=
  padTo 0x40 (packNats 8 [u.k, u.ty + 2 ^ 8 * u.bsa.toNat]) ++ padTo 0x2000 u.acts ++ padTo 0xC0 u.scal

def lutOf (bs : List Byte) : LutSrc :=
  let k := leNat (bs.take 8)
  let ty := leNat ((bs.drop 8).take 1)
  let bsa := bits (leNat ((bs.drop 9).take 1)) 0 1 == 1
  { k := k, ty := ty, bsa := bsa
    acts := (bs.drop 0x40).take (k * (typeWidth ty / 8))
    scal := if bsa then (bs.drop 0x2040).take ((k + 31) / 32) else [] }

/-- A binding in the layout of R55. -/
def bindBytes (b : Binding) : List Byte := packNats 8 [b.base.toNat, b.len, b.obj.toNat, b.kind.toNat]

/-- The binding of an entry in that layout; an entry of length 0 is none. -/
def bindOf (bs : List Byte) : Option Binding :=
  let n := leNat ((bs.drop 8).take 8)
  if n = 0 then none
  else some ⟨BitVec.ofNat 64 (leNat (bs.take 8)), n,
    BitVec.ofNat 64 (leNat ((bs.drop 16).take 8)), BitVec.ofNat 2 (leNat ((bs.drop 24).take 8))⟩

def slatePinBytes (q : Nat × BitVec 32) : List Byte := packNats 8 [locWord q.1, q.2.toNat + 2 ^ 63]

def slatePinOf (bs : List Byte) : Option (Nat × BitVec 32) :=
  let v := leNat ((bs.drop 8).take 8)
  if bits v 63 1 = 0 then none else some (locOfWord (leNat (bs.take 8)), BitVec.ofNat 32 v)

def slateWriteBytes (q : Nat) : List Byte := packNats 8 [locWord q + 2 ^ 63]

def slateWriteOf (bs : List Byte) : Option Nat :=
  let v := leNat bs
  if bits v 63 1 = 0 then none else some (locOfWord (v % 2 ^ 63))

/-- A pin on a block table: the address that named it, and the version. -/
def tablePinBytes (q : Nat × Nat × BitVec 32) : List Byte := packNats 8 [0, q.2.1, q.2.2.toNat + 2 ^ 63]

def tablePinOf (bs : List Byte) : Option (Nat × BitVec 32) :=
  let v := leNat ((bs.drop 16).take 8)
  if bits v 63 1 = 0 then none else some (leNat ((bs.drop 8).take 8), BitVec.ofNat 32 v)

def phaseBytes (p : Option (BitVec 32)) : List Byte :=
  packNats 8 [match p with | some p => p.toNat + 2 ^ 63 | none => 0]

def phaseOf (bs : List Byte) : Option (BitVec 32) :=
  if bits (leNat bs) 63 1 = 0 then none else some (BitVec.ofNat 32 (leNat bs))

/-- Of each lane: LCNT, the pending EDEP pair, the commands in flight, whether it has issued END (R369). -/
def laneInfo (s : State) (k : Nat) (l : Lane) : List Byte :=
  let x := s.lane k l
  padTo 128 (packNats 8
    [x.lcnt,
     (match x.edep with | some (a, b) => a.toNat + 2 ^ 18 * b.toNat + 2 ^ 63 | none => 0),
     (s.cmds.filter (fun m => m.ctx == k && m.lane == l)).length,
     x.ended.toNat + 2 * x.endedBefore.toNat])

/-- The register part of an image, from +0x100 (R369). -/
def registerImage (s : State) (k : Nat) : List Byte :=
  let c := s.ctx k
  let ls := [c.laneL, c.laneC, c.laneS]
  let sets := [ls.map (·.normal), ls.map (·.handler)]
  padTo 0x300 (packNats 8 (contextRegs.map (fun n => (readCtrl s k n).toNat)))
  ++ packNats 8 (ls.flatMap (fun l => l.s.toList.map (·.toNat)))
  ++ packNats 8 (ls.flatMap (fun l => l.i.toList.map (·.toNat)))
  ++ padTo 0x40 (packNats 4 (c.p.toList.map (·.toNat)))
  ++ packNats 8 (c.f.toList.map (·.toNat))
  ++ sets.flatMap (fun q => q.flatMap (fun x => (List.range 8).flatMap (fun j => loopBytes (x.loops[j]?))))
  ++ sets.flatMap (fun q => q.flatMap (fun x => (List.range 4).flatMap (fun j => outBytes (x.outs[j]?))))
  ++ sets.flatMap (fun q => q.flatMap (fun x =>
      (List.range 8).flatMap (fun j => tokBytes (x.fromL[j]?))
      ++ (List.range 8).flatMap (fun j => tokBytes (x.fromR[j]?))))
  ++ lanes.flatMap (laneInfo s k)
  ++ padTo 0x400 (packNats 4 c.loopTab)
  ++ padTo 0x400 (c.binds.flatMap bindBytes)
  ++ packNats 128 (c.v.toList.map (·.toNat))
  ++ padTo 0x200
      (padTo 0x80 (c.slatePins.flatMap slatePinBytes)
       ++ padTo 0x40 (c.slateWrites.flatMap slateWriteBytes)
       ++ padTo 0xC0 (c.tablePins.flatMap tablePinBytes)
       ++ sets.flatMap (fun q => q.flatMap (fun x => phaseBytes x.barPhase)))
  ++ List.replicate 0xE00 0
  ++ padTo 0x2100 (lutBytes c.lut)
  ++ packNats 16384 (c.acc.toList.map (·.toNat))

/-- The header of an image (R369). -/
def imageHeader (s : State) (k state : Nat) (stop : Bool) (spada : Nat) (r : Word × Word × Word) : List Byte :=
  let c := s.ctx k
  let die := dieOfCore c.core
  let local_ := if isService c.core then 64 + (c.core - 1024) % 2 else c.core % 64
  padTo 0x100 (packNats 8
    [0xC7A5 + 2 ^ 16 * state + 2 ^ 18 * stop.toNat + 2 ^ 20 * (local_ % 64) + 2 ^ 26 * die
       + 2 ^ 30 * c.bank + 2 ^ 32 * (s.core c.core).h0,
     spada, r.1.toNat, r.2.1.toNat, r.2.2.toNat])

/-- ASID in which a context's save area is named: that of the rods of its die (R393, R400). -/
def saveAsid (s : State) (k : Nat) : Nat := (s.die (dieOfCore (s.ctx k).core)).rodAsid.toNat

/-- What a write of the device's own finds once the page is not being moved: the write waits for the end of a move (R394). -/
def settledXlat (s : State) (die asid va : Nat) : Except TransFault Xlat × State :=
  match (s.translate die asid true true va).1 with
  | .ok x =>
    if x.mg then
      let t := endMovesAt s asid va
      ((t.translate die asid true true va).1, t)
    else (.ok x, s)
  | .error e => (.error e, s)

/-- Writes the first `n` of some bytes at a virtual address for the device, piece by piece; a piece that does not translate
is left out. -/
def deviceWriteN (s : State) (die asid va n : Nat) (bs : List Byte) : State :=
  ((pieces va n).foldl (fun (so : State × Nat) p =>
    match settledXlat so.1 die asid p.1 with
    | (.ok x, u) =>
      let t := clearPoison u ((List.range p.2).map (x.loc + ·))
      ((t.writeBytes x.loc ((bs.drop so.2).take p.2)).touchWords x.loc p.2, so.2 + p.2)
    | (.error _, u) => (u, so.2 + p.2)) (s, 0)).1

/-- Writes bytes at a virtual address for the device. -/
def deviceWrite (s : State) (die asid va : Nat) (bs : List Byte) : State := deviceWriteN s die asid va bs.length bs

/-- Reads bytes at a virtual address for the device; none where a piece does not translate. -/
def deviceRead (s : State) (die asid va n : Nat) : Option (List Byte) :=
  (pieces va n).foldlM (fun acc p =>
    match (s.translate die asid true false p.1).1 with
    | .ok x => some (acc ++ s.readBytes x.loc p.2)
    | .error _ => none) []

/-- An uncorrectable line that such a read meets (R371). -/
def devicePoison (s : State) (die asid va n : Nat) : Option Nat :=
  if s.poison.isEmpty then none
  else (pieces va n).findSome? (fun p =>
    match (s.translate die asid true false p.1).1 with
    | .ok x => s.poisoned [x.loc]
    | .error _ => none)

/-- Writes a context's complete image to its save area. -/
def writeImage (s : State) (k state : Nat) (stop : Bool) (spada : Nat) (r : Word × Word × Word) : State :=
  deviceWriteN s (dieOfCore (s.ctx k).core) (saveAsid s k) (s.ctx k).ctrl.savea.toNat imageSize
    (imageHeader s k state stop spada r ++ registerImage s k)

/-- Reads `n` numbers of `w` bytes. -/
def natsAt (bs : List Byte) (off w n : Nat) : List Nat := (chunks w n (bs.drop off)).map leNat

/-- The state that a code of OVLMAP gives a slot. -/
def slotStateOf : Nat → SlotState
  | 1 => .loading
  | 2 => .valid
  | _ => .empty

/-- A context register goes back to what an image holds (R370), whatever its access code for an MTC. What placement
has fixed stays: PRV, CHK and BANK of STATUS, and the serial (R354, R355, R360). -/
def loadCtrl (s : State) (k n v : Nat) : State :=
  let upd (f : Ctrl → Ctrl) : State := s.updCtx k (fun c => { c with ctrl := f c.ctrl })
  let eseq (l : Lane) (x : Nat) (t : State) : State := t.updLane k l (fun y => { y with eseq := BitVec.ofNat 16 x })
  match n with
  | 0x000 => upd (fun r => { r with hnd := BitVec.ofNat 2 (bits v 1 2) })
  | 0x01A => upd (fun r => { r with detm := bits v 0 1 == 1 })
  | 0x01B => upd (fun r => { r with mode := BitVec.ofNat 64 (v % 2) })
  | 0x01D => eseq .S (v / 2 ^ 32) (eseq .C (v / 2 ^ 16) (eseq .L v s))
  | 0x01E => s.updCtx k (fun c => { c with
      ovl0 := ⟨slotStateOf (bits v 0 2), c.ovl0.addr, bits v 4 14⟩
      ovl1 := ⟨slotStateOf (bits v 2 2), c.ovl1.addr, bits v 18 14⟩ })
  | 0x020 => upd (fun r => { r with nestid := BitVec.ofNat 32 (v / 2 ^ 32) })
  | 0x021 => upd (fun r => { r with asid := BitVec.ofNat 13 v, gen := BitVec.ofNat 16 (v / 2 ^ 16) })
  | 0x029 => upd (fun r => { r with itcount := BitVec.ofNat 64 v })
  | _ => writeCtrl s k n (BitVec.ofNat 64 v)

/-- Tokens as an image holds them. What their givers had joined is no part of an image, and stays with the tokens
(R84). -/
def loadToks (bs : List Byte) (old : List Tok) : List Tok :=
  ((chunks 16 8 bs).filterMap tokOf).mapIdx (fun i t => { t with joined := (old[i]?.map (·.joined)).getD [] })

/-- One set of a lane's loop stack and queues, from an image; `h` is 0 for the normal set, `j` the lane. -/
def loadSet (bs : List Byte) (h j : Nat) (q : LaneQ) : LaneQ :=
  { q with
    loops := (chunks 32 8 (bs.drop (0x800 + 768 * h + 256 * j))).filterMap loopOf
    outs := (chunks 16 4 (bs.drop (0xE00 + 192 * h + 64 * j))).filterMap outOf
    fromL := loadToks (bs.drop (0xF80 + 768 * h + 256 * j)) q.fromL
    fromR := loadToks (bs.drop (0xF80 + 768 * h + 256 * j + 128)) q.fromR
    barPhase := phaseOf ((bs.drop (0x3080 + 24 * h + 8 * j)).take 8) }

/-- A lane, from an image. -/
def loadLane (bs : List Byte) (j : Nat) (x : LaneSt) : LaneSt :=
  let sn := natsAt bs (0x300 + 256 * j) 8 32
  let inn := natsAt bs (0x600 + 64 * j) 8 8
  let info := natsAt bs (0x1580 + 128 * j) 8 4
  let e := info.getD 1 0
  { x with
    s := Vector.ofFn (fun i : Fin 32 => BitVec.ofNat 64 (sn.getD i 0))
    i := Vector.ofFn (fun i : Fin 8 => BitVec.ofNat 64 (inn.getD i 0))
    normal := loadSet bs 0 j x.normal
    handler := loadSet bs 1 j x.handler
    lcnt := info.getD 0 0
    edep := if bits e 63 1 = 1 then some (BitVec.ofNat 18 (bits e 0 18), BitVec.ofNat 18 (bits e 18 18)) else none
    ended := bits (info.getD 3 0) 0 1 == 1
    endedBefore := bits (info.getD 3 0) 1 1 == 1 }

/-- A pin of an image: the table where the context's own record has it, which follows the table's page to a new frame, else
where the address leads now. -/
def pinPlace (s : State) (c : Ctx) (p : Nat × BitVec 32) : Nat × Nat × BitVec 32 :=
  match c.tablePins.find? (fun q => q.2 == p) with
  | some q => q
  | none =>
    match (s.translate (dieOfCore c.core) c.ctrl.asid.toNat true false p.1).1 with
    | .ok x => (x.loc, p)
    | .error _ => (0, p)

/-- What a context holds of slates and block tables, from an image, where the image has been changed. -/
def loadPins (s : State) (was bs : List Byte) (c : Ctx) : Ctx :=
  let part (off n : Nat) (x : List Byte) : List Byte := (x.drop off).take n
  let same (off n : Nat) : Bool := part off n was == part off n bs
  { c with
    slatePins := if same 0x2F00 0x80 then c.slatePins else (chunks 16 8 (bs.drop 0x2F00)).filterMap slatePinOf
    slateWrites := if same 0x2F80 0x40 then c.slateWrites else (chunks 8 8 (bs.drop 0x2F80)).filterMap slateWriteOf
    tablePins := if same 0x2FC0 0xC0 then c.tablePins else ((chunks 24 8 (bs.drop 0x2FC0)).filterMap tablePinOf).map (pinPlace s c) }

/-- Puts back what an image holds of a context, from the register part of the image (R370). -/
def loadImage (s : State) (k : Nat) (bs : List Byte) : State :=
  let was := registerImage s k
  let s1 := (contextRegs.zip (natsAt bs 0 8 contextRegs.length)).foldl (fun t nv => loadCtrl t k nv.1 nv.2) s
  let pn := natsAt bs 0x6C0 4 8
  let fn := natsAt bs 0x700 8 32
  let vn := natsAt bs 0x1F00 128 32
  let an := natsAt bs 0x6000 16384 4
  s1.updCtx k (fun c => loadPins s1 was bs
    { c with
      lut := lutOf (bs.drop 0x3F00)
      laneL := loadLane bs 0 c.laneL
      laneC := loadLane bs 1 c.laneC
      laneS := loadLane bs 2 c.laneS
      p := Vector.ofFn (fun i : Fin 8 => BitVec.ofNat 32 (pn.getD i 0))
      f := Vector.ofFn (fun i : Fin 32 => BitVec.ofNat 64 (fn.getD i 0))
      v := Vector.ofFn (fun i : Fin 32 => BitVec.ofNat 1024 (vn.getD i 0))
      acc := Vector.ofFn (fun i : Fin 4 => BitVec.ofNat 131072 (an.getD i 0))
      loopTab := natsAt bs 0x1700 4 256
      binds := (chunks 32 32 (bs.drop 0x1B00)).filterMap bindOf })

end Sys2Proof.Machine
end

