-- ==== Sys2Proof/Machine/Ops.lean ====
section
/-! DEFINITION. Taking an exception and returning from one; class-F faults; running an operation as a
meaning; meeting points (16_contexts_traps.md R362 to R371; 03_execution.md R71, R72). -/

namespace Sys2Proof.Machine

/-- What a meaning answers. -/
abbrev Res := Host.Outcome State Fault Refusal

/-! ### Stopping lanes (R362, R365, R405) -/

/-- A lane's resume point (R362, R363, R365): a cancelled instruction is named by its word index, and
a lane that had ended keeps the PC of its END word. -/
def LaneSt.resumePoint (x : LaneSt) : Word :=
  if x.ended then resumeWord x.pc none
  else
    match x.parked with
    | some p => resumeWord p.pc (some p.slot)
    | none => resumeWord x.pc x.rslot

/-- Cancels the wait of a parked lane (R151, R365). A reserved rod slot completes instead, and so does a page move. The
home keeps a wake entry, and the lane is dormant (R405). -/
def cancelWait (s : State) (k : Nat) (l : Lane) : State :=
  match (s.lane k l).parked with
  | none => s
  | some p =>
    match s.moves.find? (fun m => m.ctx == k && m.lane == l) with
    | some m => landMove s k l m p
    | none =>
    match s.waiters.find? (fun q => q.ctx == k && q.lane == l && q.kind != .wake) with
    | some ⟨obj, addr, ctx, lane, .commit i, home, entry, due, span⟩ =>
      let r : RodRef := ⟨obj, addr, decide (2 ^ 72 ≤ obj)⟩
      let t := serveAll (commitAll r (s.waiters.length + 1) s) r
      -- counts that software has written can leave the slot without its turn
      if ((t.lane k l).parked).isSome then
        completeRod t r ⟨obj, addr, ctx, lane, .commit i, home, entry, due, span⟩ 0 (i % 2 ^ 56) []
      else t
    | some q =>
      let keep := q.kind != .retry
      let s1 := { s with waiters :=
        if keep then s.waiters.map (fun r => if r == q then { r with kind := .wake, due := false, span := q.kind.span } else r)
        else s.waiters.filter (fun r => !(r == q)) }
      let s2 := mirrorFor s1 q q.obj
      s2.updLane k l (fun x => { x with parked := none, pc := p.pc, rslot := some p.slot, dormant := true })
    | none => s.updLane k l (fun x => { x with parked := none, pc := p.pc, rslot := some p.slot, dormant := true })

/-! ### Overlay slots (R103, R104) -/

def Ctx.ovl (c : Ctx) (slot : Nat) : OvlSlot := if slot = 0 then c.ovl0 else c.ovl1

def Ctx.setOvl (c : Ctx) (slot : Nat) (o : OvlSlot) : Ctx :=
  if slot = 0 then { c with ovl0 := o } else { c with ovl1 := o }

def CoreSt.imem (c : CoreSt) (slot : Nat) : ImemSlot := if slot = 0 then c.slot0 else c.slot1

def CoreSt.setImem (c : CoreSt) (slot : Nat) (m : ImemSlot) : CoreSt :=
  if slot = 0 then { c with slot0 := m } else { c with slot1 := m }

/-- The slot holds, or is being filled with, the image that a context expects in it. -/
def tagMatches (c : Ctx) (m : ImemSlot) (o : OvlSlot) : Bool :=
  m.asid == c.ctrl.asid && m.addr == o.addr && m.len == o.len

/-- Begins to fill a slot with the image that the context expects (R104, R237). -/
def startFill (s : State) (k slot : Nat) : State :=
  let c := s.ctx k
  let o := c.ovl slot
  s.updCore c.core (fun x => x.setImem slot ⟨c.ctrl.asid, o.addr, o.len, [], false, false⟩)

/-- A LOADING slot of a context whose image is in the slot becomes VALID; one whose fill was displaced is filled
again (R104, R237). -/
def settleSlot (s : State) (k slot : Nat) : State :=
  let c := s.ctx k
  let o := c.ovl slot
  let m := (s.core c.core).imem slot
  if o.st ≠ .loading then s
  else if !tagMatches c m o then startFill s k slot
  else if m.full then s.updCtx k (fun x =>
    { x.setOvl slot { o with st := .valid } with ovlWait := x.ovlWait.filter (fun q => q.2 != slot) })
  else s

/-! ### Passing words of other lanes (R60) -/

def wordLane (w : Word) : LaneF := laneOfBits (bits w.toNat 62 2)

/-- The LANE field that names a lane itself. -/
def laneField : Lane → LaneF
  | .L => .L
  | .C => .C
  | .S => .S

/-- One more word in a run of skipped ones: each further eight words, or part of eight, cost a cycle, so bounds come
nearer (R60, R67). -/
def LaneSt.skip (x : LaneSt) : LaneSt :=
  let y := if x.skips ≠ 0 ∧ x.skips % 8 = 0 then x.age else x
  { y with skips := x.skips + 1, lcnt := (x.lcnt + 1) % 2 ^ 64 }

/-- A word of another lane is passed over (R60). -/
def skipWord (s : State) (k : Nat) (l : Lane) (pc : Nat) : State :=
  (s.updLane k l LaneSt.skip).advance k l pc 1

/-- The word at a PC is another lane's, and the core holds it. -/
def otherLanesWord (s : State) (k : Nat) (l : Lane) (pc : Nat) : Bool :=
  let c := s.ctx k
  let o := c.ovl (pc / 8192)
  let m := (s.core c.core).imem (pc / 8192)
  if 16384 ≤ pc ∨ o.st = .empty ∨ o.len ≤ pc % 8192 ∨ !tagMatches c m o ∨ !m.full then false
  else
    let f := wordLane (m.words.getD (pc % 8192) 0)
    f != .A && f != laneField l

/-- A lane passes on to its next bundle, over at most `n` words. -/
def toNextBundle (k : Nat) (l : Lane) : Nat → State → State
  | 0, s => s
  | n + 1, s =>
    let x := s.lane k l
    if x.isOut || x.parked.isSome || x.rslot.isSome || !otherLanesWord s k l x.pc then s
    else toNextBundle k l n (skipWord s k l x.pc)

/-- Each lane stands at its next bundle, which is where an interruption finds it (R362; log 34). -/
def atBundles (s : State) (k : Nat) : State := lanes.foldl (fun t l => toNextBundle k l 16384 t) s

/-- Every lane of a context stops at its bundle boundary: waits are cancelled, arrivals withdrawn. -/
def stopLanes (s : State) (k : Nat) : State :=
  lanes.foldl (fun t l => (cancelWait t k l).updLane k l (fun x => { x with arrived := false })) s

/-- Every result of an instruction that has issued lands: fixed-latency results and pending
accumulator writes (R69, R287, R362). -/
def landAll (s : State) (k : Nat) : State :=
  let c := s.ctx k
  let due := (s.core c.core).accq.filter (fun e => e.ctx == k)
  let s1 := due.foldl (fun t e => t.updCtx k (fun x => { x with acc := x.acc.setIfInBounds e.acc e.val })) s
  (s1.updCore c.core (fun x => { x with accq := x.accq.filter (fun e => e.ctx != k) })).updCtx k Ctx.land

/-- The three resume points. -/
def Ctx.resumePoints (c : Ctx) : Word × Word × Word :=
  (c.laneL.resumePoint, c.laneC.resumePoint, c.laneS.resumePoint)

/-! ### Ending a context as an imprecise fault (R364, R370) -/

/-- The context is to end with a cause as an imprecise fault, issuing nothing further. -/
def endAsFault (s : State) (k : Nat) (c : Cause) (lane detail : Nat) (addr : Word) : State :=
  if (kvGet s.ctxs k).isNone then s else
  (countUncorr s k c detail addr).updCtx k (fun x =>
    if x.res = .gone then x
    else if x.fatal.isSome then { x with fatal := some ⟨0, 0, 0⟩ }
    else { x with
      fatal := some ⟨0, 0, 0⟩
      ctrl := { x.ctrl with cause := causeWord c lane true, finfo := finfoWord detail none none, faddr := addr } })

/-! ### Delivery (R363, R364) -/

/-- Reports a context that has stopped for service; a full rod is retried (R364). -/
def serviceReport (s : State) (k : Nat) (c : Cause) (lane detail : Nat) (addr : Word) : State :=
  let die := dieOfCore (s.ctx k).core
  let d := s.die die
  match d.repRod with
  | none => endAsFault s k c lane detail addr
  | some rod =>
    let (st, t) := deviceEnq s die d.rodAsid.toNat rod (bytesOf (s.ctx k).ctrl.savea.toNat 8)
    match st with
    | 0 => raiseIntp (t.updCtx k (fun x => { x with reportDue := false })) die 0
    | 2 | 7 => t.updCtx k (fun x => { x with reportDue := true })
    | _ => endAsFault t k c lane detail addr

/-- ServiceDelivery (R364): the EPC registers are left as they are; the image is written with STOP
set, and the context stays resident and does not issue. -/
def serviceDelivery (s : State) (k : Nat) (c : Cause) (lane detail : Nat) (addr : Word) : State :=
  let r := (s.ctx k).resumePoints
  let s1 := s.updCtx k (fun x => { x with
    res := .stopped, resume := r, image := 1
    ctrl := { x.ctrl with cause := causeWord c lane false, finfo := finfoWord detail none none, faddr := addr } })
  serviceReport (writeImage s1 k 1 true 0 r) k c lane detail addr

/-- A vector register is enabled, and its PC (R359). -/
def vecEn (v : Word) : Bool := v.getLsbD 63
def vecPc (v : Word) : Nat := bits v.toNat 0 14

/-- A lane enters a handler: fresh queues and loop stack, live even if it had ended (R363). -/
def LaneSt.enterHandler (x : LaneSt) (target : Nat) : LaneSt :=
  { x with
    epc := x.resumePoint
    pc := target
    rslot := none
    parked := none
    handler := LaneQ.empty
    ended := false
    endedBefore := x.ended
    endPc := if x.ended then x.pc else x.endPc }

/-- Delivery to a handler of the context: saved registers, HND, and every lane at the entry. -/
def enterHandler (s : State) (k : Nat) (c : Cause) (lane detail : Nat) (addr : Word) (target : Nat)
    (h : BitVec 2) : State :=
  s.updCtx k (fun x => { x with
    laneL := x.laneL.enterHandler target
    laneC := x.laneC.enterHandler target
    laneS := x.laneS.enterHandler target
    ctrl := { x.ctrl with
      hnd := h, cause := causeWord c lane false, finfo := finfoWord detail none none, faddr := addr } })

/-- Deliver(cause, lane, detail, addr), once every lane has stopped and every result has landed (R363). For a context
that is to end with a class-F fault there is no delivery: the cause recorded first is kept, and no lane issues
anything further (R371; log 102). -/
def deliver (s : State) (k : Nat) (c : Cause) (lane detail : Nat) (addr utvec tvec : Word) : State :=
  if (s.ctx k).fatal.isSome then s.updCtx k (fun x => { x with fatal := some ⟨0, 0, 0⟩ })
  else if (s.ctx k).ctrl.hnd = 0 ∧ c.isUser ∧ vecEn utvec then enterHandler s k c lane detail addr (vecPc utvec) 1
  else if (s.ctx k).ctrl.hnd = 0 ∧ vecEn tvec then enterHandler s k c lane detail addr (vecPc tvec) 2
  else serviceDelivery s k c lane detail addr

/-- A trap is taken where the lanes stand: they stop, everything issued lands, and the trap is delivered to the vectors as
the trapping lane finds them (R366). -/
def trapInPlace (s : State) (k : Nat) (c : Cause) (lane detail : Nat) (addr : Word) : State :=
  let l := (laneOfCode lane).getD .L
  deliver (landAll (stopLanes s k) k) k c lane detail addr (seenNow s k l 0x008) (seenNow s k l 0x009)

/-- A context takes a precise or asynchronous trap: every lane stops at its next bundle, everything issued
lands, and the trap is delivered (R362). -/
def takeTrap (s : State) (k : Nat) (c : Cause) (lane detail : Nat) (addr : Word) : State :=
  trapInPlace (atBundles s k) k c lane detail addr

/-- The issuing lane traps at its bundle. -/
def trapHere (s : State) (c : Cause) (detail : Nat) (addr : Word) : State :=
  (takeTrap s s.cur.ctx c (laneCode s.cur.lane) detail addr).setRes .trapped

/-! ### Returning (R368) -/

/-- A lane goes back to where its EPC says, or to the ended state. -/
def LaneSt.leaveHandler (x : LaneSt) : LaneSt :=
  let e := x.epc.toNat
  { x with
    handler := LaneQ.empty
    ended := x.endedBefore
    endedBefore := false
    pc := if x.endedBefore then x.endPc else bits e 0 14
    rslot := if !x.endedBefore && bits e 16 1 == 1 then some (bits e 14 2) else none
    parked := none
    arrived := false }

/-- ERET once every lane has arrived: the handler set is discarded and HND becomes 0 (R368). -/
def returnFromHandler (s : State) (k : Nat) : State :=
  (landAll s k).updCtx k (fun x => { x with
    laneL := x.laneL.leaveHandler
    laneC := x.laneC.leaveHandler
    laneS := x.laneS.leaveHandler
    ctrl := { x.ctrl with hnd := 0 } })

/-! ### Class-F faults (R371) -/

/-- The issuing word raises a class-F fault. -/
def raiseFatal (s : State) (c : Cause) (detail : Nat) (addr : Word) : State :=
  recordFatal s s.cur.ctx c (laneCode s.cur.lane) detail addr (some (s.cur.pc + s.cur.slot)) none

/-- Raises a class-F fault without undoing what the operation has done. -/
def raiseKept (c : Cause) (detail : Nat) (addr : Word) : Op Unit :=
  modify (fun s => raiseFatal s c detail addr)

/-! ### Operations as meanings -/

/-- What an operation that ended early leaves: the state before it, with the translations it made, the
page requests it sent and the free values it used. -/
def keepTranslations (s t : State) : State :=
  { s with tlb := t.tlb, walks := t.walks, vifs := t.vifs, fresh := t.fresh }

/-- How a meaning ends that an operation has ended early. -/
def settleHalt (s : State) : Halt → State
  | .trap c d a => trapHere s c d a
  | .fatal c d a => raiseFatal s c d a
  | .stall => s.setRes .stalled

/-- Runs an operation as the meaning of the issuing word. -/
def runOp (s : State) (m : Op Unit) : Res :=
  match m.run.run s with
  | (.ok _, t) => .next t
  | (.error h, t) => .next (settleHalt (keepTranslations s t) h)

/-- Runs an operation that is gated as a whole (R201). -/
def gateOp (h : Hdr) (s : State) (m : Op Unit) : Res := gate h s (fun s => runOp s m)

/-- A privileged instruction issued without privilege takes PRIVILEGE with its opcode (R211, R361). -/
def privileged (s : State) (opc : Nat) (k : State → Res) : Res :=
  if s.me.holdsPriv then k s else .next (trapHere s .privilege opc 0)

/-! ### Meeting points (R71, R226) -/

/-- Every other lane has reached the issuing lane's word or has issued END. -/
def State.allMet (s : State) : Bool :=
  lanes.all (fun l => l == s.cur.lane || (s.me.lane l).isOut
    || ((s.me.lane l).arrived && (s.me.lane l).pc == s.cur.pc))

/-- Lanes that have not issued END. -/
def Ctx.liveLanes (c : Ctx) : List Lane := lanes.filter (fun l => !(c.lane l).isOut)

/-- Instructions that a lane has issued of its skid (R371). -/
def Fatal.spend (f : Fatal) (l : Lane) (n : Nat) : Fatal :=
  match l with
  | .L => { f with skidL := f.skidL - n }
  | .C => { f with skidC := f.skidC - n }
  | .S => { f with skidS := f.skidS - n }

/-- The meeting word counts in every lane that takes part, as one of its skid too, and every result has landed (R65, R71,
R371). -/
def countMeeting (s : State) (k : Nat) : State :=
  let n := (s.ctx k).liveLanes.length
  let s1 := (s.ctx k).liveLanes.foldl (fun t l =>
    t.updLane k l (fun x => { x with lcnt := (x.lcnt + 1) % 2 ^ 64, arrived := false })) (landAll s k)
  s1.updCtx k (fun c => { c with
    fatal := c.fatal.map (fun f => (c.liveLanes).foldl (fun f l => f.spend l 1) f)
    ctrl := { c.ctrl with itcount := c.ctrl.itcount + BitVec.ofNat 64 n } })

/-- Every live lane goes on with the word after the meeting point. -/
def leaveMeeting (s : State) (k pc : Nat) : State :=
  (s.ctx k).liveLanes.foldl (fun t l => t.advance k l pc 1) s

/-- A meeting-point word: the lane waits until the others have reached it; the last one brings about
the effect `act`, which has still to move the lanes on. -/
def atMeeting (s : State) (act : State → State) : State :=
  if s.allMet then (act (countMeeting s s.cur.ctx)).setRes .met
  else (s.updMyLane (fun x => { x with arrived := true })).setRes .met

end Sys2Proof.Machine
end

