-- ==== Sys2Proof/Machine/Operands.lean ====
section
/-! DEFINITION. Operand forms: effective addresses (R205, R277, R279, R322, R327), access sizes, elements
of vector registers and their predicate bits (R256 to R259), and the latency classes of R215. -/

namespace Sys2Proof.Machine

/-! ### Latency bounds (R215) -/

def boundInt : Nat := 1
def boundMul : Nat := 3
def boundDiv : Nat := 18
def boundFp : Nat := 4
def boundFdiv : Nat := 14
def boundVint : Nat := 2
def boundVfp : Nat := 5
def boundTrans : Nat := 10
def boundRed : Nat := 8
def boundScan : Nat := 9
def boundPerm : Nat := 4
def boundVspad : Nat := 6
def boundSspad : Nat := 4
def boundQuant : Nat := 12
def boundAccOut : Nat := 16

/-- An interlocked result (R216). -/
def interlocked : Nat := 0

/-! ### Immediates -/

/-- SignExtend(IMM) of the RI format, to 64 bits. -/
def immWord (i : BitVec 33) : Word := i.signExtend 64

/-- SignExtend(OFF, 16). -/
def offWord (o : BitVec 16) : Word := o.signExtend 64

/-- SignExtend(OFF[11:0]) of the atomics (R322). -/
def aopOff (o : BitVec 16) : Word := (o.truncate 12).signExtend 64

/-- AOP, OFF[15:12] (R322). -/
def aopCode (o : BitVec 16) : Nat := bits o.toNat 12 4

/-! ### Effective addresses -/

/-- EA of R205; operand positions 1 and 2 are base and idx. -/
def State.ea (s : State) (o : MemOps) : Word :=
  s.srcS 1 o.base + (s.srcS 2 o.idx <<< o.sc.toNat) + offWord o.off

/-- EA of the scalar atomics: the operand register is not scaled (R322). -/
def State.aopEa (s : State) (o : MemOps) : Word := s.srcS 1 o.base + aopOff o.off

/-- Bytes of an access, from SZ (R205). -/
def szBytes (sz : BitVec 3) : Nat := 2 ^ (sz.toNat % 4)

/-- A loaded value extended as SZ says: 4 to 6 sign-extend (R205). -/
def extendLoad (sz : BitVec 3) (v : Nat) : Word :=
  if 4 ≤ sz.toNat then BitVec.ofInt 64 (toSigned v (8 * szBytes sz)) else BitVec.ofNat 64 v

/-! ### Vector elements -/

/-- Number of elements of a width. -/
def elemCount (w : Nat) : Nat := 1024 / w

/-- The elements of width `w` of a register. -/
def elemsOf (w : Nat) (v : VWord) : List Nat :=
  (List.range (elemCount w)).map (fun j => v.toNat / 2 ^ (w * j) % 2 ^ w)

/-- A register made of elements of width `w`. -/
def packElems (w : Nat) : List Nat → Nat
  | [] => 0
  | x :: xs => x % 2 ^ w + 2 ^ w * packElems w xs

def vword (w : Nat) (xs : List Nat) : VWord := BitVec.ofNat 1024 (packElems w xs)

/-- The bytes of a register. -/
def vbytes (v : VWord) : List Byte := bytesOf v.toNat 128

/-- The predicate that governs a word of lane C: the register it names, inverted by PINV (R257). -/
def State.mask (s : State) (h : Hdr) : PWord :=
  let p := s.srcP 7 h.pred.toNat
  if h.pinv then ~~~p else p

/-- Element `j` of width `w` is active: bit (j·w) div 32 (R257). -/
def elemActive (m : PWord) (w j : Nat) : Bool := m.getLsbD (j * w / 32)

/-- Active elements take the new value, the others keep the old one (R257). -/
def mergeElems (m : PWord) (w : Nat) (old new : List Nat) : List Nat :=
  (old.zip new).mapIdx (fun j on => if elemActive m w j then on.2 else on.1)

/-- What v d holds once every older write has landed. -/
def State.curV (s : State) (d : BitVec 6) : VWord := s.me.v.getD d.toNat 0

/-- Writes the active elements of v d; the others keep what the register holds. -/
def State.wrElems (s : State) (h : Hdr) (d : BitVec 6) (w bound : Nat) (new : List Nat) : State :=
  s.wrV d (vword w (mergeElems (s.mask h) w (elemsOf w (s.curV d)) new)) bound

end Sys2Proof.Machine
end

