-- ==== Sys2Proof/Machine/ScalarInt.lean ====
section
/-! DEFINITION. Scalar integer instructions, opcodes 0x10 to 0x2F (10_control_scalar.md R238 to R243). -/

namespace Sys2Proof.Machine

/-! ### Shared forms -/

/-- A gated instruction that only changes the state. -/
def plain (h : Hdr) (s : State) (f : State → State) : Res := gate h s (fun s => .next (f s))

/-- A W-bit pattern as it is written to a register: sign-extended for i32, else zero-extended (R238). -/
def extendTyped (t n : Nat) : Word :=
  if t = 4 then BitVec.ofInt 64 (toSigned n 32) else BitVec.ofNat 64 n

/-- The W-bit pattern that a source supplies (R238). -/
def State.srcBits (s : State) (pos : Nat) (r : BitVec 6) (t : Nat) : Nat := bits (s.srcS pos r).toNat 0 (typeWidth t)

/-- The value that a source supplies (R238). -/
def State.srcInt (s : State) (pos : Nat) (r : BitVec 6) (t : Nat) : Int := intVal t (s.srcBits pos r t)

/-- A typed instruction with an exact result of the values of a and b (R238, R239). -/
def typedInt (h : Hdr) (o : RegOps) (s : State) (bound : Nat) (f : Nat → Int → Int → Int) : Res :=
  let t := o.t.toNat
  plain h s (fun s =>
    s.wrS o.d (extendTyped t (intBits t (o.mod.getLsbD 0) (f t (s.srcInt 1 o.a t) (s.srcInt 2 o.b t)))) bound)

/-- A typed instruction on the patterns of a and b; its arguments are W, A and B. -/
def typedBits (h : Hdr) (o : RegOps) (s : State) (f : Nat → Nat → Nat → Nat) : Res :=
  let t := o.t.toNat
  let w := typeWidth t
  plain h s (fun s =>
    s.wrS o.d (extendTyped t (f w (s.srcBits 1 o.a t) (s.srcBits 2 o.b t) % 2 ^ w)) boundInt)

/-- An untyped instruction on 64 bits (R241). -/
def untyped (h : Hdr) (o : RegOps) (s : State) (f : Word → Word → Word) : Res :=
  plain h s (fun s => s.wrS o.d (f (s.srcS 1 o.a) (s.srcS 2 o.b)) boundInt)

/-- An RI instruction on 64 bits (R243). -/
def riForm (h : Hdr) (o : RiOps) (s : State) (bound : Nat) (f : Word → Word → Word) : Res :=
  plain h s (fun s => s.wrS o.d (f (s.srcS 1 o.a) (immWord o.imm)) bound)

/-- Leading zero bits within `w` bits. -/
def clzBits (w n : Nat) : Nat := if n = 0 then w else w - 1 - Nat.log2 n

/-- One bits among the low `w`. -/
def popBits : Nat → Nat → Nat
  | 0, _ => 0
  | w + 1, n => n % 2 + popBits w (n / 2)

/-- The quotient of R240. -/
def divInt (t : Nat) (a b : Int) : Int := if b = 0 then -1 else if t % 2 = 0 ∧ a = intLo t ∧ b = -1 then a else a.tdiv b

/-- The remainder of R240. -/
def remInt (_ : Nat) (a b : Int) : Int := if b = 0 then a else a.tmod b

/-! ### Typed instructions (R239, R240) -/

def execAdd (h : Hdr) (o : RegOps) (s : State) : Res := typedInt h o s boundInt (fun _ a b => a + b)

def execSub (h : Hdr) (o : RegOps) (s : State) : Res := typedInt h o s boundInt (fun _ a b => a - b)

def execMul (h : Hdr) (o : RegOps) (s : State) : Res := typedInt h o s boundMul (fun _ a b => a * b)

/-- MULH: the exact product shifted right by W. -/
def execMulh (h : Hdr) (o : RegOps) (s : State) : Res :=
  typedInt h o s boundMul (fun t a b => (a * b) / 2 ^ typeWidth t)

def execDiv (h : Hdr) (o : RegOps) (s : State) : Res := typedInt h o s boundDiv divInt

def execRem (h : Hdr) (o : RegOps) (s : State) : Res := typedInt h o s boundDiv remInt

def execShl (h : Hdr) (o : RegOps) (s : State) : Res := typedBits h o s (fun w a b => a * 2 ^ (b % w))

def execShr (h : Hdr) (o : RegOps) (s : State) : Res := typedBits h o s (fun w a b => a / 2 ^ (b % w))

/-- SAR: copies of bit W − 1 enter. -/
def execSar (h : Hdr) (o : RegOps) (s : State) : Res :=
  typedBits h o s (fun w a b => wrap (toSigned a w / 2 ^ (b % w)) w)

def execRotr (h : Hdr) (o : RegOps) (s : State) : Res :=
  typedBits h o s (fun w a b => a / 2 ^ (b % w) + a * 2 ^ (w - b % w))

def execClz (h : Hdr) (o : RegOps) (s : State) : Res := typedBits h o s (fun w a _ => clzBits w a)

def execPopc (h : Hdr) (o : RegOps) (s : State) : Res := typedBits h o s (fun w a _ => popBits w a)

def execMin (h : Hdr) (o : RegOps) (s : State) : Res := typedInt h o s boundInt (fun _ a b => min a b)

def execMax (h : Hdr) (o : RegOps) (s : State) : Res := typedInt h o s boundInt (fun _ a b => max a b)

/-- CMP: 1 if the relation that SUB gives holds, else 0. -/
def execCmp (h : Hdr) (o : RegOps) (s : State) : Res :=
  plain h s (fun s =>
    let c := condHolds o.sub.toNat (compare (s.srcInt 1 o.a o.t.toNat) (s.srcInt 2 o.b o.t.toNat))
    s.wrS o.d (if c then 1 else 0) boundInt)

def execAbs (h : Hdr) (o : RegOps) (s : State) : Res := typedInt h o s boundInt (fun _ a _ => (a.natAbs : Int))

/-! ### Untyped instructions (R241) -/

def execAnd (h : Hdr) (o : RegOps) (s : State) : Res := untyped h o s (fun a b => a &&& b)

def execOr (h : Hdr) (o : RegOps) (s : State) : Res := untyped h o s (fun a b => a ||| b)

def execXor (h : Hdr) (o : RegOps) (s : State) : Res := untyped h o s (fun a b => a ^^^ b)

def execAndn (h : Hdr) (o : RegOps) (s : State) : Res := untyped h o s (fun a b => a &&& ~~~b)

def execSel (h : Hdr) (o : RegOps) (s : State) : Res :=
  plain h s (fun s =>
    s.wrS o.d (if s.srcS 3 o.c ≠ 0 then s.srcS 1 o.a else s.srcS 2 o.b) boundInt)

def execMov (h : Hdr) (o : RegOps) (s : State) : Res := untyped h o s (fun a _ => a)

def execAddx (h : Hdr) (o : RegOps) (s : State) : Res :=
  untyped h o s (fun a b => a + b <<< (o.sub.toNat % 8))

/-! ### Bit fields (R242) -/

/-- BFX: the field zero-extended, or sign-extended with SUB[6]. -/
def execBfx (h : Hdr) (o : RegOps) (s : State) : Res :=
  untyped h o s (fun a _ =>
    let len := o.sub.toNat % 64 + 1
    let f := bits a.toNat o.mod.toNat len
    if o.sub.getLsbD 6 then BitVec.ofInt 64 (toSigned f len) else BitVec.ofNat 64 f)

/-- BFI: the field of B replaced by the low bits of A. -/
def execBfi (h : Hdr) (o : RegOps) (s : State) : Res :=
  untyped h o s (fun a b => BitVec.ofNat 64 (putBits b.toNat o.mod.toNat (o.sub.toNat % 64 + 1) a.toNat))

/-! ### RI instructions (R243) -/

def execAddi (h : Hdr) (o : RiOps) (s : State) : Res := riForm h o s boundInt (fun a i => a + i)

def execMuli (h : Hdr) (o : RiOps) (s : State) : Res := riForm h o s boundMul (fun a i => a * i)

def execAndi (h : Hdr) (o : RiOps) (s : State) : Res := riForm h o s boundInt (fun a i => a &&& i)

def execOri (h : Hdr) (o : RiOps) (s : State) : Res := riForm h o s boundInt (fun a i => a ||| i)

def execXori (h : Hdr) (o : RiOps) (s : State) : Res := riForm h o s boundInt (fun a i => a ^^^ i)

def execLi (h : Hdr) (o : RiOps) (s : State) : Res := riForm h o s boundInt (fun _ i => i)

/-- LIH: IMM[30:0] above the low 33 bits of A. -/
def execLih (h : Hdr) (o : RiOps) (s : State) : Res :=
  riForm h o s boundInt (fun a _ => BitVec.ofNat 64 (o.imm.toNat % 2 ^ 31 * 2 ^ 33 + a.toNat % 2 ^ 33))

end Sys2Proof.Machine
end

