-- ==== Sys2Proof/Machine/Vector.lean ====
section
/-! DEFINITION. The vector group, opcodes 0x50 to 0x79 (11_vector.md R256 to R276). -/

namespace Sys2Proof.Machine

/-! ### Shared forms -/

/-- Elements of operand `pos`, a v register. -/
def State.srcE (s : State) (pos : Nat) (r : BitVec 6) (w : Nat) : List Nat := elemsOf w (s.srcVBy w pos r)

/-- Elements 0 to n − 1 of width w by position, written where active (R257). -/
def byIndex (h : Hdr) (d : BitVec 6) (s : State) (w bound : Nat) (f : Nat → Nat) : Res :=
  .next (s.wrElems h d w bound ((List.range (elemCount w)).map f))

/-- An instruction of one source, element by element. -/
def vec1 (h : Hdr) (o : RegOps) (s : State) (bound : Nat) (f : Nat → Nat) : Res :=
  let w := typeWidth o.t.toNat
  .next (s.wrElems h o.d w bound ((s.srcE 1 o.a w).map f))

/-- An instruction of two sources, element by element. -/
def vec2 (h : Hdr) (o : RegOps) (s : State) (bound : Nat) (f : Nat → Nat → Nat) : Res :=
  let w := typeWidth o.t.toNat
  .next (s.wrElems h o.d w bound (List.zipWith f (s.srcE 1 o.a w) (s.srcE 2 o.b w)))

/-- An instruction of three sources, element by element. -/
def vec3 (h : Hdr) (o : RegOps) (s : State) (bound : Nat) (f : Nat → Nat → Nat → Nat) : Res :=
  let w := typeWidth o.t.toNat
  .next (s.wrElems h o.d w bound
    (List.zipWith (fun g c => g c) (List.zipWith f (s.srcE 1 o.a w) (s.srcE 2 o.b w)) (s.srcE 3 o.c w)))

/-- An integer instruction with an exact result of the element values (R262). -/
def vecInt (h : Hdr) (o : RegOps) (s : State) (f : Int → Int → Int) : Res :=
  let t := o.t.toNat
  vec2 h o s boundVint (fun a b => intBits t (o.mod.getLsbD 0) (f (intVal t a) (intVal t b)))

/-! ### Floating-point elements (R261) -/

def execVadd (h : Hdr) (o : RegOps) (s : State) : Res :=
  vec2 h o s boundVfp (fpAdd (fpFmt o.t.toNat) o.rm.toNat)

def execVsub (h : Hdr) (o : RegOps) (s : State) : Res :=
  vec2 h o s boundVfp (fpSub (fpFmt o.t.toNat) o.rm.toNat)

def execVmul (h : Hdr) (o : RegOps) (s : State) : Res :=
  vec2 h o s boundVfp (fpMul (fpFmt o.t.toNat) o.rm.toNat)

def execVfma (h : Hdr) (o : RegOps) (s : State) : Res :=
  vec3 h o s boundVfp (fpFma (fpFmt o.t.toNat) o.rm.toNat)

def execVmin (h : Hdr) (o : RegOps) (s : State) : Res := vec2 h o s boundVfp (fpMinMax (fpFmt o.t.toNat) false)

def execVmax (h : Hdr) (o : RegOps) (s : State) : Res := vec2 h o s boundVfp (fpMinMax (fpFmt o.t.toNat) true)

def execVsgn (h : Hdr) (o : RegOps) (s : State) : Res :=
  vec2 h o s boundVfp (fpSign (fpFmt o.t.toNat) o.sub.toNat)

/-- The first NaN of three operands decides; else Min(Max(A, B), C) (R26, R261). -/
def clampBits (f : FpFmt) (a b c : Nat) : Nat := fpMinMax f false (fpMinMax f true a b) c

def execVclamp (h : Hdr) (o : RegOps) (s : State) : Res := vec3 h o s boundVfp (clampBits (fpFmt o.t.toNat))

/-! ### Integer and bitwise elements (R262) -/

def execViadd (h : Hdr) (o : RegOps) (s : State) : Res := vecInt h o s (fun a b => a + b)

def execVisub (h : Hdr) (o : RegOps) (s : State) : Res := vecInt h o s (fun a b => a - b)

/-- VIMUL: the product, or with SUB 1 its upper half. -/
def execVimul (h : Hdr) (o : RegOps) (s : State) : Res :=
  vecInt h o s (fun a b => if o.sub.getLsbD 0 then a * b / 2 ^ typeWidth o.t.toNat else a * b)

def execVimnx (h : Hdr) (o : RegOps) (s : State) : Res :=
  vecInt h o s (fun a b => if o.sub.getLsbD 0 then max a b else min a b)

/-- VSHL: the count is read as unsigned. -/
def execVshl (h : Hdr) (o : RegOps) (s : State) : Res :=
  let w := typeWidth o.t.toNat
  vec2 h o s boundVint (fun a b => a * 2 ^ (b % w) % 2 ^ w)

/-- VSHR: copies of the sign enter for i types, zeros for u types. -/
def execVshr (h : Hdr) (o : RegOps) (s : State) : Res :=
  let w := typeWidth o.t.toNat
  vec2 h o s boundVint (fun a b => wrap (intVal o.t.toNat a / 2 ^ (b % w)) w)

def execVand (h : Hdr) (o : RegOps) (s : State) : Res := vec2 h o s boundVint Nat.land

def execVor (h : Hdr) (o : RegOps) (s : State) : Res := vec2 h o s boundVint Nat.lor

def execVxor (h : Hdr) (o : RegOps) (s : State) : Res := vec2 h o s boundVint Nat.xor

/-! ### Compare and select (R263, R264) -/

/-- The relation of VCMP on two elements. -/
def vcmpHolds (t cond a b : Nat) : Bool :=
  if t < 8 then condHolds cond (compare (intVal t a) (intVal t b))
  else fpCond cond (fpDecode (fpFmt t) a) (fpDecode (fpFmt t) b)

/-- A predicate register with the bits of active elements replaced by their outcomes (R263). -/
def mergePred (m old : PWord) (w : Nat) (out : List Bool) : PWord :=
  BitVec.ofNat 32 (packElems 1 ((List.range 32).map (fun i =>
    let j := i * 32 / w
    if elemActive m w j then (out.getD j false).toNat else (old.getLsbD i).toNat)))

def execVcmp (h : Hdr) (o : RegOps) (s : State) : Res :=
  let t := o.t.toNat
  let w := typeWidth t
  let bound := if t < 8 then boundVint else boundVfp
  let out := List.zipWith (vcmpHolds t (o.sub.toNat % 8)) (s.srcE 1 o.a w) (s.srcE 2 o.b w)
  if o.sub.getLsbD 3 then .next (s.wrElems h o.d w bound (out.map (fun b => if b then 2 ^ w - 1 else 0)))
  else .next (s.wrP o.d.toNat (mergePred (s.mask h) (s.me.p.getD o.d.toNat 0) w out) bound)

def execVsel (h : Hdr) (o : RegOps) (s : State) : Res := vec3 h o s boundVint (fun a b c => if c ≠ 0 then a else b)

/-! ### Conversions (R265 to R269) -/

/-- Bits [2:1] of MOD: the part q. -/
def partOf (o : RegOps) : Nat := bits o.mod.toNat 1 2

/-- New values for `n` positions from `lo` on; the other positions keep theirs. -/
def putPart (old : List Nat) (lo : Nat) (new : List Nat) : List Nat :=
  old.mapIdx (fun i x => if lo ≤ i then new.getD (i - lo) x else x)

/-- VCVT: narrowing writes part q of d, widening reads part q of a (R265). -/
def execVcvt (h : Hdr) (o : RegOps) (s : State) : Res :=
  let src := o.sub.toNat % 32
  let dst := o.t.toNat
  let ws := typeWidth src
  let wd := typeWidth dst
  let n := 1024 / max ws wd
  let q := partOf o
  let conv := convertBits src dst o.rm.toNat (o.mod.getLsbD 0)
  let a := s.srcE 1 o.a ws
  let old := elemsOf wd (s.curV o.d)
  let new := if wd ≤ ws then putPart old (q * n) (a.map conv)
    else putPart old 0 (((a.drop (q * n)).take n).map conv)
  .next (s.wrElems h o.d wd boundVfp new)

/-- VPACK: the narrow elements of a, then those of b (R266). -/
def execVpack (h : Hdr) (o : RegOps) (s : State) : Res :=
  let t := o.t.toNat
  let w := typeWidth t
  let narrow := fun x => intBits t (o.mod.getLsbD 0) (intVal (t + 2) x)
  .next (s.wrElems h o.d w boundVint
    ((s.srcE 1 o.a (2 * w)).map narrow ++ (s.srcE 2 o.b (2 * w)).map narrow))

/-- VUNPK: the low or the high half of a, extended (R266). -/
def execVunpk (h : Hdr) (o : RegOps) (s : State) : Res :=
  let t := o.t.toNat
  let w := typeWidth t
  let a := (s.srcE 1 o.a (w / 2)).drop (o.sub.toNat % 2 * elemCount w)
  .next (s.wrElems h o.d w boundVint ((a.take (elemCount w)).map (fun x => wrap (intVal (t - 2) x) w)))

/-- The seventeen registers of table CMPDTn. -/
def Ctx.table (c : Ctx) (n : Nat) : List Nat :=
  (List.range 17).map (fun j => (c.ctrl.cmpdt.getD (17 * n + j) 0).toNat)

/-- VCOMP: the forward curve of 32 f32 elements into part q of d (R267). -/
def execVcomp (h : Hdr) (o : RegOps) (s : State) : Res :=
  let t := o.t.toNat
  let w := typeWidth t
  let tab := cmpTable (s.me.table (o.sub.toNat % 4))
  let new := (s.srcE 1 o.a 32).map (fun x =>
    (roundCurve (fpFmt t) o.rm.toNat (o.mod.getLsbD 0) (curveAt tab false (decodeNum 10 x))).1)
  .next (s.wrElems h o.d w boundVfp (putPart (elemsOf w (s.curV o.d)) (32 * partOf o) new))

/-- VQUANT: one block of 32 f32 elements to codes and a scale (R268). -/
def execVquant (h : Hdr) (o : RegOps) (s : State) : Res :=
  plain h s (fun s =>
    let t := o.t.toNat
    let xs := (s.srcE 1 o.a 32).map (decodeNum 10)
    let scale := if o.sub.getLsbD 0 then (s.srcS 2 o.b).toNat % 256 else chooseScale t xs
    let codes := xs.map (blockEncode t scale (!o.sub.getLsbD 0))
    let v := vword 8 (putPart (elemsOf 8 (s.curV o.d)) (32 * partOf o) (codes.map (·.1)))
    setQsat ((s.wrV o.d v boundQuant).wrS o.c (BitVec.ofNat 64 scale) boundQuant) (codes.any (·.2)))

/-- VDEQ: the elements of part q times the scale, exact in f32 (R269). -/
def execVdeq (h : Hdr) (o : RegOps) (s : State) : Res :=
  let t := o.sub.toNat % 32
  let scale := (s.srcS 2 o.b).toNat % 256
  let a := (s.srcE 1 o.a 8).drop (32 * partOf o)
  .next (s.wrElems h o.d 32 boundVfp
    ((a.take 32).map (fun x => (roundNum (fpFmt 10) 0 false (blockNum t scale (decodeNum t x))).1)))

/-! ### Transcendentals (R270, R271) -/

def execVexp2 (h : Hdr) (o : RegOps) (s : State) : Res := vec1 h o s boundTrans (fpExp2 (fpFmt o.t.toNat))

def execVlog2 (h : Hdr) (o : RegOps) (s : State) : Res := vec1 h o s boundTrans (fpLog2 (fpFmt o.t.toNat))

def execVrcp (h : Hdr) (o : RegOps) (s : State) : Res := vec1 h o s boundTrans (fpRcp (fpFmt o.t.toNat))

def execVrsq (h : Hdr) (o : RegOps) (s : State) : Res := vec1 h o s boundTrans (fpRsq (fpFmt o.t.toNat))

def execVtanh (h : Hdr) (o : RegOps) (s : State) : Res := vec1 h o s boundTrans (fpTanh (fpFmt o.t.toNat))

def execVosm (h : Hdr) (o : RegOps) (s : State) : Res := vec3 h o s boundTrans fpVosm

/-! ### Reductions and scans (R272, R273) -/

/-- The identity of the operation SUB: 0 sum, 1 minimum, 2 maximum (R47, R272). -/
def redIdentity (t sub : Nat) : Nat :=
  if t < 8 then
    match sub with
    | 0 => 0
    | 1 => wrap (intHi t) (typeWidth t)
    | _ => wrap (intLo t) (typeWidth t)
  else
    let f := fpFmt t
    match sub with
    | 0 => f.signBit true
    | 1 => f.infCode
    | _ => f.signBit true + f.infCode

/-- One node of the tree. -/
def redOp (t sub rm : Nat) (sat : Bool) (x y : Nat) : Nat :=
  if t < 8 then
    let a := intVal t x
    let b := intVal t y
    match sub with
    | 0 => intBits t sat (a + b)
    | 1 => intBits t false (min a b)
    | _ => intBits t false (max a b)
  else
    match sub with
    | 0 => fpAdd (fpFmt t) rm x y
    | 1 => fpMinMax (fpFmt t) false x y
    | _ => fpMinMax (fpFmt t) true x y

/-- The source with inactive elements replaced by the identity. -/
def redSource (s : State) (h : Hdr) (o : RegOps) : List Nat :=
  let w := typeWidth o.t.toNat
  mergeElems (s.mask h) w (List.replicate (elemCount w) (redIdentity o.t.toNat o.sub.toNat)) (s.srcE 1 o.a w)

def execVred (h : Hdr) (o : RegOps) (s : State) : Res :=
  let w := typeWidth o.t.toNat
  let y := redTree (redOp o.t.toNat o.sub.toNat o.rm.toNat (o.mod.getLsbD 0)) (Nat.log2 (elemCount w)) (redSource s h o)
  .next (s.wrV o.d (BitVec.ofNat 1024 (y.headD 0)) boundRed)

def execVscan (h : Hdr) (o : RegOps) (s : State) : Res :=
  let w := typeWidth o.t.toNat
  .next (s.wrElems h o.d w boundScan
    (scanTree (redOp o.t.toNat o.sub.toNat o.rm.toNat (o.mod.getLsbD 0)) (Nat.log2 (elemCount w)) 1 (redSource s h o)))

/-! ### Permutes, moves and element access (R274 to R276) -/

def execVperm (h : Hdr) (o : RegOps) (s : State) : Res :=
  let w := typeWidth o.t.toNat
  let a := s.srcE 1 o.a w
  .next (s.wrElems h o.d w boundPerm ((s.srcE 2 o.b w).map (fun i => a.getD (i % elemCount w) 0)))

/-- What VSLIDE puts at position j of n, from k (R274). -/
def slideElem (up : Bool) (a c : List Nat) (n k j : Nat) : Nat :=
  if up then
    if k ≤ j then a.getD (j - k) 0 else if k ≤ j + n then c.getD (n + j - k) 0 else 0
  else if j + k < n then a.getD (j + k) 0
  else if j + k < 2 * n then c.getD (j + k - n) 0
  else 0

def execVslide (h : Hdr) (o : RegOps) (s : State) : Res :=
  let w := typeWidth o.t.toNat
  byIndex h o.d s w boundPerm
    (slideElem (o.sub.getLsbD 0) (s.srcE 1 o.a w) (s.srcE 3 o.c w) (elemCount w) (s.srcS 2 o.b).toNat)

/-- VBCAST: SUB 0 an s register, 1 an f register, 2 an element of a v register. -/
def execVbcast (h : Hdr) (o : RegOps) (s : State) : Res :=
  let w := typeWidth o.t.toNat
  let x := match o.sub.toNat with
    | 0 => (s.srcS 1 o.a).toNat
    | 1 => (s.srcF 1 o.a).toNat
    | _ => (s.srcE 1 o.a w).getD ((s.srcS 2 o.b).toNat % elemCount w) 0
  byIndex h o.d s w boundVint (fun _ => x % 2 ^ w)

def execVmov (h : Hdr) (o : RegOps) (s : State) : Res := vec1 h o s boundVint (fun a => a)

def execViota (h : Hdr) (o : RegOps) (s : State) : Res :=
  let w := typeWidth o.t.toNat
  byIndex h o.d s w boundVint (fun j => ((s.srcS 1 o.a).toNat + j * (s.srcS 2 o.b).toNat) % 2 ^ w)

/-- Active positions, ascending. -/
def activePositions (m : PWord) (w : Nat) : List Nat := (List.range (elemCount w)).filter (elemActive m w)

/-- VCPRS: the active elements first, then zeros; every position is written (R275). -/
def execVcprs (h : Hdr) (o : RegOps) (s : State) : Res :=
  let w := typeWidth o.t.toNat
  let a := s.srcE 1 o.a w
  let xs := (activePositions (s.mask h) w).map (fun j => a.getD j 0)
  .next (s.wrV o.d (vword w ((List.range (elemCount w)).map (fun k => xs.getD k 0))) boundPerm)

/-- VEXPD: each active position takes the next element (R275). -/
def execVexpd (h : Hdr) (o : RegOps) (s : State) : Res :=
  let w := typeWidth o.t.toNat
  let a := s.srcE 1 o.a w
  let act := activePositions (s.mask h) w
  byIndex h o.d s w boundPerm (fun j => a.getD (act.filter (fun i => decide (i < j))).length 0)

/-- VEXTR: an element to an s or an f register (R276). -/
def execVextr (h : Hdr) (o : RegOps) (s : State) : Res :=
  let t := o.t.toNat
  let w := typeWidth t
  plain h s (fun s =>
    let x := (s.srcE 1 o.a w).getD ((s.srcS 2 o.b).toNat % elemCount w) 0
    if t < 8 then s.wrS o.d (BitVec.ofInt 64 (intVal t x)) boundVint else s.wrF o.d (BitVec.ofNat 64 x) boundVint)

/-- VINS: one element from an s or an f register (R276). -/
def execVins (h : Hdr) (o : RegOps) (s : State) : Res :=
  let t := o.t.toNat
  let w := typeWidth t
  plain h s (fun s =>
    let k := (s.srcS 2 o.b).toNat % elemCount w
    let x := (if t < 8 then s.srcS 1 o.a else s.srcF 1 o.a).toNat % 2 ^ w
    s.wrV o.d (vword w ((elemsOf w (s.curV o.d)).set k x)) boundVint)

end Sys2Proof.Machine
end

