-- ==== Sys2Proof/Machine/VectorMemory.lean ====
section
/-! DEFINITION. Scratchpad and vector memory, opcodes 0x80 to 0x8B (11_vector.md R277 to R285). -/

namespace Sys2Proof.Machine

/-! ### Elements and their addresses -/

/-- Element width in bits, from SZ (R277). -/
def elemBits (sz : BitVec 3) : Nat := 8 * 2 ^ sz.toNat

/-- Active elements with their addresses: EA + j·w/8 (R277). -/
def contiguous (s : State) (h : Hdr) (o : MemOps) : List (Nat × Nat) :=
  let w := elemBits o.sz
  (activePositions (s.mask h) w).map (fun j => (j, (s.ea o + BitVec.ofNat 64 (j * (w / 8))).toNat))

/-- Active elements of a strided access: B + j·X (R277). -/
def strided (s : State) (h : Hdr) (o : MemOps) : List (Nat × Nat) :=
  let w := elemBits o.sz
  let b := s.srcS 1 o.base + offWord o.off
  let x := s.srcS 2 o.idx <<< o.sc.toNat
  (activePositions (s.mask h) w).map (fun j => (j, (b + BitVec.ofNat 64 j * x).toNat))

/-- Active elements of a gather or a scatter; predicate bit j governs element j (R279). -/
def indexed (s : State) (h : Hdr) (o : MemOps) : List (Nat × Nat) :=
  let w := elemBits o.sz
  let offs := s.srcE 2 o.idx 32
  ((List.range (min 32 (elemCount w))).filter (fun j => (s.mask h).getLsbD j)).map (fun j =>
    (j, (s.srcS 1 o.base + (BitVec.ofNat 64 (offs.getD j 0) <<< (o.sc.toNat % 4)) + offWord o.off).toNat))

/-- A v register with some elements replaced: number and value. -/
def replaceElems (w : Nat) (old : VWord) (new : List (Nat × Nat)) : VWord :=
  vword w (new.foldl (fun es jx => es.set jx.1 jx.2) (elemsOf w old))

/-- Writes loaded elements; the others keep what d holds (R278). -/
def writeLoaded (o : MemOps) (bound : Nat) (new : List (Nat × Nat)) : Op Unit :=
  modify (fun s => s.wrV o.d (replaceElems (elemBits o.sz) (s.curV o.d) new) bound)

/-! ### Scratchpad -/

/-- Reads the elements at addresses of the scratchpad: every address is checked before any is read. -/
def spadElems (n : Nat) (es : List (Nat × Nat)) : Op (List (Nat × Nat)) := do
  let spans ← es.mapM (fun e => laneSpan e.2 n false)
  let bs ← spadReadBy n (spans.flatten.flatten)
  return es.mapIdx (fun i e => (e.1, leNat ((bs.drop (i * n)).take n)))

/-- The core whose scratchpad holds a location. -/
def spadCore (loc : Nat) : Nat := (loc - 2 ^ 72) / 2 ^ 21

/-- Writes elements, in ascending order, to every target of each (R278, R282); the targets of a multicast window are
written independently (R94). `whole`: the elements make one access, else each makes its own (R89). -/
def spadStore (n : Nat) (es : List (Nat × Nat)) (data : List Nat) (bound : Nat) (whole : Bool) : Op Unit := do
  let spans ← es.mapM (fun e => laneSpan e.2 n true)
  let cells := (es.zip spans).flatMap (fun q => q.2.map (fun locs => locs.zip (bytesOf (data.getD q.1.1 0) n)))
  let core (g : List (Nat × Byte)) : Nat := spadCore ((g.map (·.1)).headD 0)
  ((cells.map core).foldl (fun m c => kvPut m c ()) []).forM (fun kc => do
    let mine := cells.filter (fun g => core g == kc.1)
    spadPut (if whole then rowGroups mine.flatten else mine.flatMap rowGroups) bound)

/-- VLD (R277, R278). -/
def execVld (h : Hdr) (o : MemOps) (s : State) : Res :=
  runOp s do
    writeLoaded o boundVspad (← spadElems (elemBits o.sz / 8) (contiguous s h o))

/-- VST (R277, R278). -/
def execVst (h : Hdr) (o : MemOps) (s : State) : Res :=
  runOp s (spadStore (elemBits o.sz / 8) (contiguous s h o) (s.srcE 0 o.d (elemBits o.sz)) boundVspad true)

/-- VLDX (R277, R278). -/
def execVldx (h : Hdr) (o : MemOps) (s : State) : Res :=
  runOp s do
    writeLoaded o boundVspad (← spadElems (elemBits o.sz / 8) (strided s h o))

/-- VSTX (R277, R278). -/
def execVstx (h : Hdr) (o : MemOps) (s : State) : Res :=
  runOp s (spadStore (elemBits o.sz / 8) (strided s h o) (s.srcE 0 o.d (elemBits o.sz)) boundVspad false)

/-- VLDB: one element for every active position; nothing is read when none is active (R278). -/
def execVldb (h : Hdr) (o : MemOps) (s : State) : Res :=
  runOp s do
    let act := activePositions (s.mask h) (elemBits o.sz)
    unless act.isEmpty do
      let x ← spadElems (elemBits o.sz / 8) [(0, (s.ea o).toNat)]
      writeLoaded o boundVspad (act.map (fun j => (j, (x.headD (0, 0)).2)))

/-- LDS (R280). -/
def execLds (h : Hdr) (o : MemOps) (s : State) : Res :=
  gateOp h s do
    let x ← spadElems (szBytes o.sz) [(0, (s.ea o).toNat)]
    modify (fun t => t.wrS o.d (extendLoad o.sz (x.headD (0, 0)).2) boundSspad)

/-- STS (R280). -/
def execSts (h : Hdr) (o : MemOps) (s : State) : Res :=
  gateOp h s (spadStore (szBytes o.sz) [(0, (s.ea o).toNat)] [(s.srcS 0 o.d).toNat] boundSspad true)

/-! ### Global memory -/

/-- Translates every active element before any is accessed (R283). -/
def checkElems (n : Nat) (write : Bool) (es : List (Nat × Nat)) : Op Unit := do
  let w := (← get).who
  es.forM (fun e => (pieces e.2 n).forM (fun p => do let _ ← xlat w write p.1))

/-- The lines that elements touch, ascending. -/
def linesOf (n : Nat) (es : List (Nat × Nat)) : List Nat :=
  ((es.flatMap (fun e => (pieces e.2 n).map (fun p => p.1 / 64))).foldl (fun m l => kvPut m l ()) []).map (·.1)

/-- Loads contiguous elements, one access for each aligned 64-byte piece (R109). -/
def loadPieces (n : Nat) (es : List (Nat × Nat)) : Op (List (Nat × Nat)) := do
  let w := (← get).who
  checkElems n false es
  let ls ← (linesOf n es).mapM (fun l => do return (l, ← loadPiece w (64 * l) 64))
  let byte := fun (a : Nat) => (((ls.find? (fun x => x.1 == a / 64)).map (·.2)).getD []).getD (a % 64) 0
  return es.map (fun e => (e.1, leNat ((List.range n).map (fun i => byte ((e.2 + i) % 2 ^ 64)))))

/-- VLDG (R277, R283, R284). -/
def execVldg (h : Hdr) (o : MemOps) (s : State) : Res :=
  runOp s do
    writeLoaded o interlocked (← loadPieces (elemBits o.sz / 8) (contiguous s h o))

/-- The bytes of contiguous elements of `n` bytes, from the first address on; none where an element is inactive. -/
def maskedBytes (n count : Nat) (es : List (Nat × Nat)) (data : List Nat) : List (Option Byte) :=
  (List.range count).flatMap (fun j =>
    if es.any (fun e => e.1 == j) then (bytesOf (data.getD j 0) n).map some else List.replicate n none)

/-- VSTG: the active bytes of each aligned 64-byte piece are one write (R277, R283, R284). -/
def execVstg (h : Hdr) (o : MemOps) (s : State) : Res :=
  runOp s do
    let n := elemBits o.sz / 8
    let es := contiguous s h o
    let data := s.srcE 0 o.d (elemBits o.sz)
    checkElems n true es
    storeMasked s.who (s.ea o).toNat (maskedBytes n (elemCount (elemBits o.sz)) es data) false

/-- VGATH: SC[2] selects the scratchpad (R279). -/
def execVgath (h : Hdr) (o : MemOps) (s : State) : Res :=
  runOp s do
    let n := elemBits o.sz / 8
    let es := indexed s h o
    if o.sc.getLsbD 2 then writeLoaded o interlocked (← spadElems n es)
    else
      checkElems n false es
      let xs ← es.mapM (fun e => do return (e.1, leNat (← loadBytes s.who e.2 n)))
      writeLoaded o interlocked xs

/-- VSCAT, in ascending order of elements (R279, R284). -/
def execVscat (h : Hdr) (o : MemOps) (s : State) : Res :=
  runOp s do
    let n := elemBits o.sz / 8
    let es := indexed s h o
    let data := s.srcE 0 o.d (elemBits o.sz)
    if o.sc.getLsbD 2 then spadStore n es data interlocked false
    else
      checkElems n true es
      es.forM (fun e => storeBytes s.who e.2 (bytesOf (data.getD e.1 0) n))

/-- A line is brought into the caches if it translates; nothing else changes (R281). The L1 takes what the die's copy
holds where there is one, so that no copy behind the L1's is older (R128). -/
def prefetchLine (w : Who) (l1 : Bool) (s : State) (va : Nat) : State :=
  let die := dieOfCore w.core
  match s.translate die w.asid w.priv false va with
  | (.error _, _) => s
  | (.ok x, t) =>
    let line := x.loc / 64
    if (t.poisoned [64 * line]).isSome then t
    else
      let d := ((if homeOf x.loc = die then none else copyFor (t.die die).rdc line).getD (t.homeLine line))
      let tag := (w.asid, va / 64)
      let t1 := if homeOf x.loc = die ∨ (copyFor (t.die die).rdc line).isSome then t else fillRdc t die line d tag
      if l1 && (copyFor (t1.core w.core).l1 line).isNone then fillL1 t1 w.core line d tag else t1

/-- PRFG (R281). -/
def execPrfg (h : Hdr) (o : MemOps) (s : State) : Res :=
  plain h s (fun s =>
    ((pieces (s.ea o).toNat 128).map (fun p => p.1)).foldl (prefetchLine s.who (o.sz == 0)) s)

end Sys2Proof.Machine
end

