-- ==== Sys2Proof/Machine/GlobalMemory.lean ====
section
/-! DEFINITION. Global loads and stores, atomics, fences, bindings and cache invalidation, opcodes 0x90 to
0x9A (13_sync_sequence.md R318 to R331). -/

namespace Sys2Proof.Machine

/-! ### Order and scope (R117) -/

def ordAcq (o : MemOps) : Bool := o.ord.getLsbD 0
def ordRel (o : MemOps) : Bool := o.ord.getLsbD 1

/-- The locations bound to the flag words at some addresses (R121). -/
def flagCover (s : State) (addrs : List Word) : Cover :=
  .obj (((s.bindsFor s.cur.ctx s.cur.lane).filter (fun b => addrs.contains b.obj)).map (fun b => { b with obj := 0 })) 0

/-- The release of an ordered access, before the access (R122). -/
def relFirst (o : MemOps) (addrs : List Word) : Op Unit := do
  let s ← get
  if ordRel o then releaseOp s.who (flagCover s addrs) else pure ()

/-- The acquire of an ordered access, after the access (R123). -/
def acqLast (o : MemOps) (addrs : List Word) : Op Unit := do
  let s ← get
  if ordAcq o then acquireOp s.who o.scope.toNat (flagCover s addrs) else pure ()

/-! ### Loads and stores (R321) -/

/-- LD. -/
def execLd (h : Hdr) (o : MemOps) (s : State) : Res :=
  gateOp h s do
    let ea := s.ea o
    if o.ord ≠ 0 then alignCheck ea.toNat (szBytes o.sz)
    let bs ← loadBytes s.who ea.toNat (szBytes o.sz)
    acqLast o [ea]
    modify (fun t => t.wrS o.d (extendLoad o.sz (leNat bs)) interlocked)

/-- ST. -/
def execSt (h : Hdr) (o : MemOps) (s : State) : Res :=
  gateOp h s do
    let ea := s.ea o
    if o.ord ≠ 0 then alignCheck ea.toNat (szBytes o.sz)
    relFirst o [ea]
    storeBytes s.who ea.toNat (bytesOf (s.srcS 0 o.d).toNat (szBytes o.sz))

/-! ### Atomics (R322 to R325) -/

/-- ATOM: the old value, sign-extended with SC[0]. -/
def execAtom (h : Hdr) (o : MemOps) (s : State) : Res :=
  gateOp h s do
    let ea := s.aopEa o
    let n := szBytes o.sz
    relFirst o [ea]
    let x ← atomicAt s.who ea.toNat n (aopCode o.off) (bits (s.srcS 2 o.idx).toNat 0 (8 * n))
      (bits (s.srcS 0 o.d).toNat 0 (8 * n))
    acqLast o [ea]
    modify (fun t => t.wrS o.d
      (if o.sc.getLsbD 0 then BitVec.ofInt 64 (toSigned x (8 * n)) else BitVec.ofNat 64 x) interlocked)

/-- A reduction with its translation is accepted into the write path (R325, R327). -/
def acceptRedm (w : Who) (ea : Word) (x : Xlat) (n aop b : Nat) : Op Unit := do
  alignCheck ea.toNat n
  hostCheck x ea.toNat (aop == 0)
  let _ ← acceptWrite w ea.toNat x (.redm aop n) ((bytesOf b n).map some) none

/-- REDM. -/
def execRedm (h : Hdr) (o : MemOps) (s : State) : Res :=
  gateOp h s do
    let ea := s.aopEa o
    alignCheck ea.toNat (szBytes o.sz)
    let x ← xlat s.who true ea.toNat
    relFirst o [ea]
    acceptRedm s.who ea x (szBytes o.sz) (aopCode o.off) (s.srcS 2 o.idx).toNat

/-! ### WAITA (R326) -/

/-- The condition of WAITA on X and B of `w` bits. -/
def waitCond (c w x b : Nat) : Bool :=
  match c with
  | 0 => x == b
  | 1 => x != b
  | 2 => decide (x < b)
  | 3 => decide (b ≤ x)
  | 4 => decide (toSigned x w < toSigned b w)
  | _ => decide (toSigned b w ≤ toSigned x w)

/-- WAITA: completes with a value that satisfies the condition, or parks. -/
def execWaita (h : Hdr) (o : MemOps) (s : State) : Res :=
  gateOp h s do
    let ea := s.aopEa o
    let n := szBytes o.sz
    let x ← readAtHome s.who ea.toNat n
    if waitCond (aopCode o.off) (8 * n) x (bits (s.srcS 2 o.idx).toNat 0 (8 * n)) then
      acqLast o [ea]
      modify (fun t => t.wrS o.d (BitVec.ofNat 64 x) interlocked)
    else
      let y ← xlat s.who false ea.toNat
      modify (fun t => t.park y.loc ea .addr)

/-! ### Vector atomics (R327, R328) -/

/-- Active elements and their addresses (R327). -/
def atomicElems (s : State) (h : Hdr) (o : MemOps) : List (Nat × Word) :=
  let offs := s.srcE 2 o.idx 32
  ((List.range (min 32 (elemCount (elemBits o.sz)))).filter (fun j => (s.mask h).getLsbD j)).map (fun j =>
    (j, s.srcS 1 o.base + (BitVec.ofNat 64 (offs.getD j 0) <<< (o.sc.toNat % 4)) + aopOff o.off))

def setVamask (s : State) (v : Word) : State :=
  s.updMe (fun c => { c with ctrl := { c.ctrl with vamask := v } })

/-- How a VATOM's elements end. -/
inductive VatomEnd where
  | done
  | trap (c : Cause) (detail : Nat) (addr : Word)
  | fatal (c : Cause) (detail : Nat) (addr : Word)
  | stall
  deriving DecidableEq, Repr

/-- The elements in ascending order: each old value reaches d and is recorded in VAMASK; the first that
fails ends the instruction with what has been performed (R328). -/
def vatomElems (w : Who) (o : MemOps) (data : List Nat) : List (Nat × Word) → State → VatomEnd × State
  | [], s => (.done, s)
  | (j, a) :: es, s =>
    let n := elemBits o.sz / 8
    match (atomicAt w a.toNat n (aopCode o.off) (data.getD j 0) 0).run.run s with
    | (.ok x, t) =>
      let t1 := t.wrV o.d (replaceElems (elemBits o.sz) (t.curV o.d) [(j, x)]) interlocked
      vatomElems w o data es (setVamask t1 (t1.me.ctrl.vamask ||| BitVec.ofNat 64 (2 ^ j)))
    | (.error (.trap c d b), t) => (.trap c d b, keepTranslations s t)
    | (.error (.fatal c d b), t) => (.fatal c d b, keepTranslations s t)
    | (.error .stall, t) => (.stall, keepTranslations s t)

/-- VATOM. -/
def execVatom (h : Hdr) (o : MemOps) (s : State) : Res :=
  let m := seenNow s s.cur.ctx s.cur.lane 0x01C
  let all := atomicElems s h o
  let todo := all.filter (fun e => !(m.getLsbD 32 && m.getLsbD e.1))
  let addrs := all.map (·.2)
  match (relFirst o addrs).run.run s with
  | (.error e, t) => .next (settleHalt (keepTranslations s t) e)
  | (.ok _, s1) =>
    match vatomElems s.who o (s.srcE 0 o.d (elemBits o.sz)) todo s1 with
    | (.done, t) => runOp (setVamask t 0) (acqLast o addrs)
    | (.trap c d a, t) => .next ((setVamask t (t.me.ctrl.vamask ||| BitVec.ofNat 64 (2 ^ 32))).setRes (.late c.code d a))
    | (.fatal c d a, t) => .next (raiseFatal t c d a)
    | (.stall, t) => .next (t.setRes .stalled)

/-- The elements of a VREDM in ascending order; a fatal fault leaves those before it accepted (R328). -/
def vredmElems (w : Who) (o : MemOps) (data : List Nat) : List ((Nat × Word) × Xlat) → Op Unit
  | [] => pure ()
  | ((j, a), x) :: es => do
    let s ← get
    match (acceptRedm w a x (elemBits o.sz / 8) (aopCode o.off) (data.getD j 0)).run.run s with
    | (.ok _, t) => set t; vredmElems w o data es
    | (.error (.fatal c d b), _) => raiseKept c d b
    | (.error e, _) => throw e

/-- VREDM: every address is translated before any element is accepted. -/
def execVredm (h : Hdr) (o : MemOps) (s : State) : Res :=
  runOp s do
    let es := atomicElems s h o
    let xs ← es.mapM (fun e => xlat s.who true e.2.toNat)
    relFirst o (es.map (·.2))
    vredmElems s.who o (s.srcE 0 o.d (elemBits o.sz)) (es.zip xs)

/-! ### Fences, bindings, invalidation (R329 to R331) -/

/-- FENCE: releases everything, then acquires everything, as ORD says (R122 to R125). -/
def execFence (h : Hdr) (o : MemOps) (s : State) : Res :=
  gateOp h s do
    if ordRel o then releaseOp s.who .all
    if ordAcq o then acquireOp s.who o.scope.toNat .all

/-- A region of global memory is canonical: every byte lies below 2^57. -/
def regionOk (base len : Nat) : Bool :=
  decide (1 ≤ len) && decide (len ≤ 2 ^ 48) && decide (base + len ≤ 2 ^ 57)

/-- The issuing lane adds bindings to its context's, or takes some of them away. Lanes that do not come after it may still
act without the change (R330). -/
def rebind (s : State) (added : Bool) (bs : List Binding) : State :=
  if bs.isEmpty then s
  else s.updMe (fun c =>
    { c.updLane s.cur.lane (fun x => { x with joined := mtcKey c.mtcs :: x.joined }) with
      binds := if added then c.binds ++ bs else c.binds.filter (fun b => !bs.contains b)
      mtcs := c.mtcs + 1
      rebinds := c.rebinds ++ [⟨added, bs, c.mtcs⟩] })

/-- BIND (R330). -/
def execBind (h : Hdr) (o : RegOps) (s : State) : Res :=
  plain h s (fun s =>
    let base := s.srcS 1 o.a
    let len := (s.srcS 2 o.b).toNat
    if 32 ≤ s.me.binds.length then s.wrS o.d 1 interlocked
    else if !regionOk base.toNat len then s.wrS o.d 2 interlocked
    else
      (rebind s true [⟨base, len, s.srcS 3 o.c, BitVec.ofNat 2 o.sub.toNat⟩]).wrS o.d 0 interlocked)

/-- UNBIND (R330). -/
def execUnbind (h : Hdr) (o : RegOps) (s : State) : Res :=
  plain h s (fun s =>
    let go := if o.sub.getLsbD 0 then s.me.binds
      else s.me.binds.filter (fun b => b.base == s.srcS 1 o.a && b.obj == s.srcS 3 o.c)
    (rebind s false go).wrS o.d (BitVec.ofNat 64 go.length) interlocked)

/-- CINV (R331). -/
def execCinv (h : Hdr) (o : MemOps) (s : State) : Res :=
  plain h s (fun s =>
    let base := s.srcS 1 o.base + offWord o.off
    let len := (s.srcS 2 o.idx).toNat
    let die := s.myDie
    let cut (c : Kv CacheLine) : Kv CacheLine :=
      if len = 0 then c else purge s c s.me.ctrl.asid.toNat (.obj [⟨base, len, 0, 0⟩] 0)
    match o.sz.toNat with
    | 0 => s.updCore s.myCore (fun c => { c with l1 := cut c.l1 })
    | 1 => (s.updCore s.myCore (fun c => { c with l1 := cut c.l1 })).updDie die (fun d => { d with rdc := cut d.rdc })
    | 2 => s.updCore s.myCore (fun c => { c with l1 := [] })
    | _ => (s.updCore s.myCore (fun c => { c with l1 := [] })).updDie die (fun d => { d with rdc := [] }))

end Sys2Proof.Machine
end

