-- ==== Sys2Proof/Machine/Matrix.lean ====
section
/-! DEFINITION. Accumulators, the matrix array and the plane look-up unit, opcodes 0xA0 to 0xA9
(12_matrix_engines.md R286 to R300). -/

namespace Sys2Proof.Machine

/-! ### Accumulators (R286, R287) -/

/-- Element `e` of width `w` of an accumulator. -/
def accGet (a : AccWord) (w e : Nat) : Nat := bits a.toNat (w * e) w

/-- Elements replaced: number and value. -/
def accSet (a : AccWord) (w : Nat) (new : List (Nat × Nat)) : AccWord :=
  BitVec.ofNat 131072 (new.foldl (fun v ex => putBits v (w * ex.1) w ex.2) a.toNat)

/-- Bits of an element of a view, and its format. -/
def viewBits (f64 : Bool) : Nat := if f64 then 64 else 32
def viewType (f64 : Bool) : Nat := if f64 then 11 else 10

/-- A write of the accumulator is pending (R216). -/
def State.accPending (s : State) (acc : Nat) : Bool :=
  (s.core s.myCore).accq.any (fun e => e.ctx == s.cur.ctx && e.acc == acc)

/-- Waits for pending writes of accumulators (R216). -/
def accWait (accs : List Nat) : Op Unit := do
  let s ← get
  if accs.any s.accPending then throw .stall

/-- A pending write of an accumulator; a fifth instruction waits for one of four to complete (R287). -/
def accPend (acc : Nat) (v : AccWord) : Op Unit := do
  let s ← get
  if 4 ≤ (s.core s.myCore).accq.length then throw .stall
  set (s.updCore s.myCore (fun c => { c with accq := c.accq ++ [⟨s.cur.ctx, acc, v⟩] }))

def State.acc (s : State) (acc : Nat) : AccWord := s.me.acc.getD acc 0

/-! ### Operands and shapes (R289 to R292) -/

/-- The swizzle of a local address (R291). -/
def swizzle (sw a : Nat) : Nat :=
  match sw with
  | 0 => a
  | 1 => Nat.xor a (Nat.land (a / 8) 0x70)
  | _ => Nat.xor a (Nat.land (a / 8) 0x1C0)

def ceilDiv (a b : Nat) : Nat := (a + b - 1) / b

/-- STR, or the packed stride (R289). -/
def strideOf (reg packed : Nat) : Nat := if bits reg 24 16 = 0 then packed else bits reg 24 16

/-- Byte addresses of `n` bytes from byte `off` of row `i`. -/
def rowAddrs (reg sw packed i off n : Nat) : List Nat :=
  (List.range n).map (fun b => swizzle sw (bits reg 0 24 + i * strideOf reg packed + off + b))

/-- Byte addresses of the scales of row `i` of K elements (R289). -/
def scaleAddrs (reg k i : Nat) : List Nat :=
  (List.range (ceilDiv k 32)).map (fun j => bits reg 40 24 + i * ceilDiv k 32 + j)

/-- A shape register's K, M and N (R290). -/
structure Shape where
  k : Nat
  m : Nat
  n : Nat
  deriving DecidableEq, Repr

def shapeOf (reg : Nat) (f64 : Bool) : Shape where
  k := bits reg 0 13
  m := if bits reg 16 7 = 0 then (if f64 then 32 else 64) else bits reg 16 7
  n := if bits reg 24 7 = 0 then 64 else bits reg 24 7

/-- Conditions 1, 2 and 7 of R292. -/
def shapeChecks (sh : Shape) (f64 usesK : Bool) : Checks :=
  [(1, usesK && (sh.k == 0 || decide (4096 < sh.k))), (2, f64 && decide (32 < sh.m)),
   (7, decide (64 < sh.m) || decide (64 < sh.n))]

/-- MATRIX_RANGE with the lowest code that holds (R292). -/
def rangeCheck (opc : Nat) (cs : Checks) : Op Unit :=
  match leastReason cs with
  | some c => fatalOp .matrixRange (opc + 256 * c) 0
  | none => pure ()

/-- Locations of bytes that must lie in the own share (R292). -/
def ownLocs (addrs : List Nat) : Op (List Nat) := do
  let s ← get
  addrs.mapM (fun a =>
    match s.shareLoc s.me a with
    | some x => pure x
    | none => spadFault a)

/-- The range scoreboard (R101). -/
def boardWait (locs : List Nat) : Op Unit := do
  let s ← get
  if s.boardHit s.cur.ctx locs then throw .stall

/-- Reads operand bytes of a matrix word, some of whose rows may have been read before (R293). -/
def operandRead (unit : Nat) (locs : List Nat) : Op (List Byte) := do
  let bs ← spadReadBy unit locs
  let early := (← get).myLane.ahead
  return (locs.zip bs).map (fun x => ((early.find? (fun e => e.1 == x.1)).map (·.2)).getD x.2)

/-- Groups that addresses of the own share touch (R90). -/
def groupsOf (s : State) (addrs : List Nat) : List Nat :=
  [0, 1, 2, 3].filter (fun g => addrs.any (fun a => a / bankShare (s.core s.myCore) s.me.bank == g))

/-! ### Decoding (R34, R39, R43) -/

/-- One narrow element: companding, then its block scale. -/
def decodeElem (t : Nat) (tab : Option (Option (List (Int × Int)))) (scale : Option Nat) (b : Nat) : Num :=
  let x := decodeNum t b
  let y := match tab with
    | none => x
    | some c => fpDecode (fpFmt 9) (roundCurve (fpFmt 9) 0 false (curveAt c true x)).1
  match scale with
  | none => y
  | some c => blockNum t c y

/-- A row of K elements from its bytes and, for a block-scaled operand, its scale bytes. -/
def decodeRow (t k : Nat) (tab : Option (Option (List (Int × Int)))) (bs : Bool) (data scales : List Byte) : List Num :=
  (chunks (typeWidth t / 8) k data).mapIdx (fun e c =>
    decodeElem t tab (if bs then some (scales.getD (e / 32) 0).toNat else none) (leNat c))

/-- The elements of a list of rows, each with `per` bytes, from the bytes of all. -/
def decodeRows (t k rows : Nat) (tab : Option (Option (List (Int × Int)))) (bs : Bool) (data scales : List Byte) :
    List (List Num) :=
  List.zipWith (decodeRow t k tab bs) (chunks (k * (typeWidth t / 8)) rows data)
    (chunks (ceilDiv k 32) rows (if bs then scales else List.replicate (rows * ceilDiv k 32) 0))

/-! ### Plane tensors (R41, R294) -/

/-- A plane tensor descriptor, from its 96 bytes. -/
structure Planes where
  base : List Nat
  sb   : Nat
  nr   : Nat
  ke   : Nat
  sp   : Bool
  np   : Nat
  deriving DecidableEq, Repr, Inhabited

def planesOf (bs : List Byte) : Planes :=
  let w (i : Nat) : Nat := leNat ((bs.drop (8 * i)).take 8)
  { base := (List.range 8).map w, sb := w 8, nr := bits (w 9) 0 32, ke := bits (w 9) 32 32
    sp := bits (w 10) 0 1 == 1, np := bits (w 10) 8 4 }

/-- Kp, the padded row length. -/
def Planes.kp (p : Planes) : Nat := ceilDiv p.ke 64 * 64

/-- What MMA and LUTMV require of a tile's descriptor (R294). -/
def planesOk (p : Planes) (n rows k : Nat) : Bool :=
  p.sp && decide (n ≤ p.np) && decide (1 ≤ p.np) && decide (p.np ≤ 8) && decide (rows ≤ p.nr)
    && decide (1 ≤ p.nr) && decide (k ≤ p.ke) && decide (1 ≤ p.ke)
    && ((p.base.take n) ++ [p.sb]).all (fun b => decide (b < 2 ^ 24))

/-- Byte addresses of the planes of row `j`, plane after plane, then of its scales. -/
def planeAddrs (p : Planes) (n k j : Nat) : List Nat :=
  (p.base.take n).flatMap (fun b => (List.range (ceilDiv k 8)).map (fun i => b + j * p.kp / 8 + i))

def planeScaleAddrs (p : Planes) (k j : Nat) : List Nat :=
  (List.range (ceilDiv k 64)).map (fun i => p.sb + j * (p.kp / 64) + i)

/-- Weights of one row from the bytes of its planes and scales. -/
def decodePlanes (n k : Nat) (data scales : List Byte) : List Num :=
  let ps := chunks (ceilDiv k 8) n data
  let planeBits := ps.map (fun p => p.flatMap (fun b => (List.range 8).map (fun i => bits b.toNat i 1)))
  let rec go : Nat → Nat → List (List Nat) → List Num
    | 0, _, _ => []
    | m + 1, e, cols =>
      planeScaled (scales.getD (e / 64) 0).toNat (cols.map (fun c => c.headD 0)) :: go m (e + 1) (cols.map List.tail)
  go k 0 planeBits

/-- The descriptor of a tile; a misaligned one fails R294. -/
def readPlanes (addr : Nat) : Op Planes := do
  let locs ← ownLocs ((List.range 96).map (addr + ·))
  boardWait locs
  return planesOf (← operandRead 1 locs)

/-- The rows of B: weights of `n` planes. Answers the addresses that B touches and its rows. -/
def planeRows (p : Planes) (n k rows : Nat) : Op (List (List Num)) :=
  (List.range rows).mapM (fun j => do
    let data ← operandRead 1 (← ownLocs (planeAddrs p n k j))
    let scales ← operandRead 1 (← ownLocs (planeScaleAddrs p k j))
    return decodePlanes n k data scales)

def planeTouched (p : Planes) (n k rows : Nat) : List Nat :=
  (List.range rows).flatMap (fun j => planeAddrs p n k j ++ planeScaleAddrs p k j)

/-! ### Rows of ordinary operands -/

/-- Addresses of the elements, and of the scales, of an operand of R289. -/
def operandAddrs (reg sw z k rows : Nat) : List Nat :=
  (List.range rows).flatMap (fun i => rowAddrs reg sw (k * z) i 0 (k * z))

def operandScales (reg k rows : Nat) (bs : Bool) : List Nat :=
  if bs then (List.range rows).flatMap (scaleAddrs reg k) else []

/-- Reads and decodes an operand. -/
def operandRows (t reg sw k rows : Nat) (bs : Bool) (tab : Option (Option (List (Int × Int)))) :
    Op (List (List Num)) := do
  let data ← operandRead (typeWidth t / 8) (← ownLocs (operandAddrs reg sw (typeWidth t / 8) k rows))
  let scales ← operandRead 1 (← ownLocs (operandScales reg k rows bs))
  return decodeRows t k rows tab bs data scales

/-! ### MMA (R295, R296) -/

/-- The accumulator after a multiply-accumulate of rows of A and rows of B, from row `r0` on. -/
def mmaAcc (acc : AccWord) (f64 : Bool) (rm r0 : Nat) (a b : List (List Num)) : AccWord :=
  let w := viewBits f64
  let f := fpFmt (viewType f64)
  accSet acc w (a.zipIdx.flatMap (fun ai => b.zipIdx.map (fun bj =>
    let e := 64 * (r0 + ai.2) + bj.2
    (e, (roundNum f 0 false (groupDot f rm (fpDecode f (accGet acc w e)) (ai.1.zip bj.1))).1))))

/-- The companding table that an operand uses: none without .cmp. -/
def mmaTable (s : State) (o : MatOps) (bit : Nat) : Option (Option (List (Int × Int))) :=
  if o.sub.getLsbD bit then some (cmpTable (s.me.table (bits o.sub.toNat 4 2))) else none

/-- MMA. -/
def execMma (h : Hdr) (o : MatOps) (s : State) : Res :=
  gateOp h s do
    let ta := o.ta.toNat
    let tb := o.tb.toNat
    let f64 := ta == 11
    let a := (s.srcS 1 o.a).toNat
    let b := (s.srcS 2 o.b).toNat
    let sh := shapeOf (s.srcS 3 o.k).toNat f64
    let cs := shapeChecks sh f64 true
    rangeCheck 0xA1 (cs.take 2)
    let swa := bits o.fl.toNat 3 2
    let swb := bits o.sub.toNat 6 2
    let bsa := o.fl.getLsbD 1
    let bsb := o.fl.getLsbD 2
    let n := tb - 15
    let p ← if 16 ≤ tb then readPlanes b else pure default
    rangeCheck 0xA1 ((3, decide (16 ≤ tb) && !(b % 32 == 0 && planesOk p n sh.n sh.k)) :: cs)
    let aAddrs := operandAddrs a swa (typeWidth ta / 8) sh.k sh.m ++ operandScales a sh.k sh.m bsa
    let bAddrs := if 16 ≤ tb then planeTouched p n sh.k sh.n
      else operandAddrs b swb (typeWidth tb / 8) sh.k sh.n ++ operandScales b sh.k sh.n bsb
    let al ← ownLocs aAddrs
    let bl ← ownLocs bAddrs
    if (groupsOf s aAddrs).any (fun g => (groupsOf s bAddrs).contains g) then fatalOp .bankConflict 0 0
    boardWait (al ++ bl)
    accWait [o.acc.toNat]
    let ra ← operandRows ta a swa sh.k sh.m bsa (mmaTable s o 2)
    let rb ← if 16 ≤ tb then planeRows p n sh.k sh.n else operandRows tb b swb sh.k sh.n bsb (mmaTable s o 3)
    accPend o.acc.toNat (mmaAcc (s.acc o.acc.toNat) f64 (o.sub.toNat % 4) 0 ra rb)

/-! ### Accumulator moves (R297, R298) -/

/-- MZERO. -/
def execMzero (h : Hdr) (o : MatOps) (s : State) : Res :=
  gateOp h s do
    accWait [o.acc.toNat]
    accPend o.acc.toNat 0

/-- Addresses of the element (i, j) of an MLD, MLDT or MST. -/
def tileAddrs (reg sw z n : Nat) (transposed : Bool) (i j : Nat) : List Nat :=
  if transposed then rowAddrs reg sw (n * z) j (i * z) z else rowAddrs reg sw (n * z) i (j * z) z

/-- The elements of a shape, row by row. -/
def tileElems (sh : Shape) : List (Nat × Nat) :=
  (List.range sh.m).flatMap (fun i => (List.range sh.n).map (fun j => (i, j)))

/-- MLD and MLDT. -/
def loadAcc (h : Hdr) (o : MatOps) (s : State) (opc : Nat) (transposed : Bool) : Res :=
  gateOp h s do
    let t := o.ta.toNat
    let z := typeWidth t / 8
    let f64 := t == 11
    let reg := (s.srcS 1 o.a).toNat
    let sh := shapeOf (s.srcS 3 o.k).toNat f64
    rangeCheck opc (shapeChecks sh f64 false)
    let es := tileElems sh
    let locs ← ownLocs (es.flatMap (fun e => tileAddrs reg (bits o.fl.toNat 3 2) z sh.n transposed e.1 e.2))
    boardWait locs
    accWait [o.acc.toNat]
    let xs := (chunks z es.length (← operandRead z locs)).map leNat
    let conv (x : Nat) : Nat := if t < 10 then convertBits t 10 0 false x else x
    accPend o.acc.toNat (accSet (s.acc o.acc.toNat) (viewBits f64)
      ((es.zip xs).map (fun p => (64 * p.1.1 + p.1.2, conv p.2))))

def execMld (h : Hdr) (o : MatOps) (s : State) : Res := loadAcc h o s 0xA2 false

def execMldt (h : Hdr) (o : MatOps) (s : State) : Res := loadAcc h o s 0xA4 true

/-- MST. -/
def execMst (h : Hdr) (o : MatOps) (s : State) : Res :=
  gateOp h s do
    let t := o.ta.toNat
    let z := typeWidth t / 8
    let f64 := t == 11
    let reg := (s.srcS 1 o.a).toNat
    let sh := shapeOf (s.srcS 3 o.k).toNat f64
    rangeCheck 0xA3 (shapeChecks sh f64 false)
    let es := tileElems sh
    let locs ← ownLocs (es.flatMap (fun e => tileAddrs reg (bits o.fl.toNat 3 2) z sh.n false e.1 e.2))
    boardWait locs
    accWait [o.acc.toNat]
    let conv (x : Nat) : Nat := if t < 10 then convertBits 10 t (o.sub.toNat % 4) (o.fl.getLsbD 1) x else x
    spadWrite locs
      (es.flatMap (fun e => bytesOf (conv (accGet (s.acc o.acc.toNat) (viewBits f64) (64 * e.1 + e.2))) z)) interlocked

/-- MACC: element by element of the view that SUB[4] names. -/
def execMacc (h : Hdr) (o : MatOps) (s : State) : Res :=
  gateOp h s do
    let m := o.sub.toNat % 4
    let f64 := o.sub.getLsbD 4
    let w := viewBits f64
    accWait [o.acc.toNat, m]
    let x := s.acc o.acc.toNat
    let y := s.acc m
    accPend o.acc.toNat (accSet x w ((List.range (131072 / w)).map (fun e =>
      (e, fpAdd (fpFmt (viewType f64)) (bits o.sub.toNat 2 2) (accGet x w e) (accGet y w e)))))

/-- MRED: VredTree down each of 32 columns. -/
def execMred (h : Hdr) (o : MatOps) (s : State) : Res :=
  gateOp h s do
    accWait [o.acc.toNat]
    let a := s.acc o.acc.toNat
    let half := bits o.sub.toNat 2 1
    -- SUB: 0 sum, 1 maximum, 2 minimum
    let op := [0, 2, 1].getD (o.sub.toNat % 4) 0
    let col (j : Nat) : Nat :=
      (redTree (redOp 10 op (bits o.sub.toNat 3 2) false) 6
        ((List.range 64).map (fun i => accGet a 32 (64 * i + 32 * half + j)))).headD 0
    modify (fun t => t.wrV o.a (vword 32 ((List.range 32).map col)) boundAccOut)

/-- MROW: one row, or a part of it. -/
def execMrow (h : Hdr) (o : MatOps) (s : State) : Res :=
  gateOp h s do
    accWait [o.acc.toNat]
    let a := s.acc o.acc.toNat
    let r := (s.srcS 2 o.b).toNat
    let q := o.sub.toNat % 4
    let v : VWord := match o.ta.toNat with
      | 10 => vword 32 ((List.range 32).map (fun j => accGet a 32 (64 * (r % 64) + 32 * q + j)))
      | 9 => vword 16 ((List.range 64).map (fun j =>
          convertBits 10 9 (bits o.sub.toNat 2 2) false (accGet a 32 (64 * (r % 64) + j))))
      | _ => vword 64 ((List.range 16).map (fun j => accGet a 64 (64 * (r % 32) + 16 * q + j)))
    modify (fun t => t.wrV o.a v boundAccOut)

/-! ### LUTLD and LUTMV (R299, R300) -/

/-- LUTLD: the tables hold the activations themselves, from which their exact entries follow (R46). -/
def execLutld (h : Hdr) (o : MatOps) (s : State) : Res :=
  gateOp h s do
    let t := o.ta.toNat
    let reg := (s.srcS 1 o.a).toNat
    let k := (shapeOf (s.srcS 3 o.k).toNat false).k
    let bsa := o.fl.getLsbD 1
    rangeCheck 0xA6 [(1, k == 0 || decide (4096 < k)), (4, k % 4 != 0)]
    let el ← ownLocs (operandAddrs reg 0 (typeWidth t / 8) k 1)
    let sl ← ownLocs (operandScales reg k 1 bsa)
    boardWait (el ++ sl)
    let acts ← operandRead (typeWidth t / 8) el
    let scal ← operandRead 1 sl
    modify (fun u => u.updMe (fun c => { c with lut := ⟨k, t, bsa, acts, scal⟩ }))

/-- The activations that the tables hold. -/
def LutSrc.row (l : LutSrc) : List Num := decodeRow l.ty l.k none l.bsa l.acts l.scal

/-- LUTMV: as MMA with one row, the activations of the last LUTLD. -/
def execLutmv (h : Hdr) (o : MatOps) (s : State) : Res :=
  gateOp h s do
    let b := (s.srcS 2 o.b).toNat
    let reg := (s.srcS 3 o.k).toNat
    let sh := shapeOf reg false
    let r := bits reg 16 7
    let n := o.tb.toNat - 15
    rangeCheck 0xA5 [(1, sh.k == 0 || decide (4096 < sh.k))]
    let p ← readPlanes b
    rangeCheck 0xA5 [(3, !(b % 32 == 0 && planesOk p n sh.n sh.k)), (5, sh.k % 4 != 0),
      (6, decide (s.me.lut.k < sh.k)), (7, decide (64 < sh.n) || decide (63 < r))]
    boardWait (← ownLocs (planeTouched p n sh.k sh.n))
    accWait [o.acc.toNat]
    let rb ← planeRows p n sh.k sh.n
    accPend o.acc.toNat (mmaAcc (s.acc o.acc.toNat) false (o.sub.toNat % 4) r [s.me.lut.row.take sh.k] rb)

/-! ### Landing (R216, R287) -/

/-- The oldest pending accumulator write of a core lands. -/
def execAccumulatorWriteLands (s : State) : Res :=
  let core := s.cur.ev.a
  match (s.core core).accq with
  | [] => .next s
  | e :: rest =>
    .next ((s.updCore core (fun c => { c with accq := rest })).updCtx e.ctx
      (fun c => { c with acc := c.acc.setIfInBounds e.acc e.val }))

end Sys2Proof.Machine
end

