-- ==== Sys2Proof/Machine/Engine.lean ====
section
/-! DEFINITION. Engine commands: what they touch, their issue, predecessors and overlap checks, how their
bytes move, what stops them, and how they complete (12_matrix_engines.md R301 to R310; 03_execution.md R75
to R84; 04_memory.md R100 to R102; 17_translation.md R390). -/

namespace Sys2Proof.Machine

/-! ### Names -/

def EngCmd.named (c : EngCmd) (k : Nat) (l : Lane) (n : BitVec 16) : Bool := c.ctx == k && c.lane == l && c.num == n

def State.cmdOf (s : State) (k : Nat) (l : Lane) (n : BitVec 16) : Option EngCmd := s.cmds.find? (fun c => c.named k l n)

/-- The command as it now is; which of its writes have reached every target is kept as the state has it. -/
def State.putCmd (s : State) (c : EngCmd) : State :=
  { s with cmds := s.cmds.map (fun d => if d.named c.ctx c.lane c.num then { c with landing := d.landing } else d) }

/-- A command's name as the lanes' lists of joined commands hold it. -/
def cmdKey (l : Lane) (n : BitVec 16) : Nat := 65536 * laneCode l + n.toNat

/-- On whose behalf a command makes its accesses: it holds privilege when its context does (R382). -/
def State.cmdWho (s : State) (c : EngCmd) : Who :=
  ⟨c.ctx, c.core, c.asid.toNat, match kvGet s.ctxs c.ctx with | some x => x.holdsPriv | none => c.priv, c.lane⟩

/-- The command is one of the copy engine's, whose writes a multicast window accepts (R94). -/
def EngCmd.isCopy (c : EngCmd) : Bool :=
  c.kind == .copy || c.kind == .copyt || c.kind == .fill || c.kind == .qcvt || c.kind == .plane

/-! ### Places in the processing order (R291, R304, R305, R307, R308) -/

/-- A byte's address: a local address, or a virtual one. -/
structure Spot where
  sp : Bool
  a  : Nat
  deriving DecidableEq, Repr, Inhabited

/-- An address with a signed offset, modulo 2^64. -/
def offsetBy (base : Word) (off : Int) : Nat := wrap ((base.toNat : Int) + off) 64

/-- The i-th 8-byte word of a block. -/
def blkWord (bs : List Byte) (i : Nat) : Nat := leNat ((bs.drop (8 * i)).take 8)

/-- ROWS and RB of a shape block. -/
def blkRows (bs : List Byte) : Nat := bits (blkWord bs 0) 0 32
def blkRb (bs : List Byte) : Nat := bits (blkWord bs 0) 32 32

/-- The command walks its block row by row. -/
def EngCmd.shaped (c : EngCmd) : Bool :=
  c.fl.getLsbD 4 && (c.kind == .copyt || c.kind == .fsend || c.kind == .frecv)

/-- .tr of COPYT. -/
def EngCmd.transposed (c : EngCmd) : Bool := c.kind == .copyt && c.sub.getLsbD 4

/-- Source row q, byte x in it, and destination offset of byte t (R305). -/
def shapeOffsets (c : EngCmd) (t : Nat) : Int × Int :=
  let sstr := toSigned (blkWord c.blk 1) 64
  let dstr := toSigned (blkWord c.blk 2) 64
  let rows := blkRows c.blk
  let rb := blkRb c.blk
  if c.transposed then
    let e := 2 ^ bits (blkWord c.blk 3) 0 2
    let col : Int := (t / (rows * e) : Nat)
    let q : Int := (t % (rows * e) / e : Nat)
    let b : Int := (t % e : Nat)
    (q * sstr + col * e + b, col * dstr + q * e + b)
  else
    let q : Int := (t / rb : Nat)
    let x : Int := (t % rb : Nat)
    (q * sstr + x, q * dstr + x)

/-- Planes that PLANE copies, its first row and its rows. -/
def EngCmd.planeCount (c : EngCmd) : Nat := c.sub.toNat % 8 + 1
def EngCmd.row0 (c : EngCmd) : Nat := bits c.desc.toNat 0 32
def EngCmd.planeNr (c : EngCmd) : Nat := bits c.desc.toNat 32 32

/-- The destination's descriptor, and the source's once it has been read. -/
def EngCmd.dstPlanes (c : EngCmd) : Planes := planesOf (c.blk.take 96)
def EngCmd.srcPlanes (c : EngCmd) : Planes := planesOf (c.blk.drop 96)

/-- Byte t of a PLANE in the planes of one side, from a row on. -/
def planeSpot (p : Planes) (n nr row0 t : Nat) : Nat :=
  let run := nr * p.kp / 8
  if t < n * run then p.base.getD (t / run) 0 + row0 * p.kp / 8 + t % run
  else p.sb + row0 * (p.kp / 64) + (t - n * run)

def EngCmd.dsp (c : EngCmd) : Bool := c.fl.getLsbD 2
def EngCmd.ssp (c : EngCmd) : Bool := c.fl.getLsbD 3

/-- The swizzle of a side: copies only (R305). -/
def EngCmd.swizzleOf (c : EngCmd) (dst : Bool) : Nat :=
  match c.kind with
  | .copy | .copyt => bits c.sub.toNat (if dst then 0 else 2) 2
  | _ => 0

def spotAt (sp : Bool) (sw a : Nat) : Spot := ⟨sp, if sp then swizzle sw a else a⟩

/-- Destination of byte t. -/
def EngCmd.dstSpot (c : EngCmd) (t : Nat) : Spot :=
  match c.kind with
  | .plane => ⟨true, planeSpot c.dstPlanes c.planeCount c.planeNr 0 t⟩
  | _ => spotAt c.dsp (c.swizzleOf true)
      (offsetBy c.dst (if c.shaped then (shapeOffsets c t).2 else (t : Nat)))

/-- Source of byte t. -/
def EngCmd.srcSpot (c : EngCmd) (t : Nat) : Spot :=
  match c.kind with
  | .plane => ⟨false, planeSpot c.srcPlanes c.planeCount c.planeNr c.row0 t % 2 ^ 64⟩
  | _ => spotAt c.ssp (c.swizzleOf false)
      (offsetBy c.src (if c.shaped then (shapeOffsets c t).1 else (t : Nat)))

/-- Bytes of the processing order that move together: a block of QCVT (R307), else one. -/
def EngCmd.unit (c : EngCmd) : Nat := if c.kind == .qcvt then 32 else 1

/-- Bytes of a QCVT source element. -/
def EngCmd.qsrc (c : EngCmd) : Nat := if c.sub.getLsbD 5 then 2 else 4

/-- What unit u reads and writes. -/
def EngCmd.unitSpots (c : EngCmd) (u : Nat) : List Spot × List Spot :=
  match c.kind with
  | .qcvt =>
    ((List.range (32 * c.qsrc)).map (fun i => ⟨c.ssp, offsetBy c.src (32 * c.qsrc * u + i : Nat)⟩),
     (List.range 32).map (fun i => c.dstSpot (32 * u + i))
       ++ [⟨c.dsp, offsetBy (BitVec.ofNat 64 (blkWord c.blk 1)) (u : Nat)⟩])
  | .fill | .frecv => ([], [c.dstSpot u])
  | .fsend => ([c.srcSpot u], [])
  | .fcoll => ([], [c.dstSpot u])
  | .copy | .copyt | .plane => ([c.srcSpot u], [c.dstSpot u])
  | .pref | .kvapp | .psel => ([], [])

/-! ### Scratchpad ranges and the scoreboard (R100, R102) -/

/-- One more byte of a list of ranges. -/
def addByte (write : Bool) (rs : List Range) (loc : Nat) : List Range :=
  if rs.any (fun r => r.write == write && decide (r.lo ≤ loc) && decide (loc < r.hi)) then rs
  else
    match rs with
    | r :: rest => if r.write = write ∧ r.hi = loc then { r with hi := loc + 1 } :: rest else ⟨loc, loc + 1, write⟩ :: rs
    | [] => [⟨loc, loc + 1, write⟩]

/-- Adds the scratchpad bytes among some places, at every target; an error is the address that has no
meaning. `multi`: a multicast window is accepted (R94). -/
def addSpots (s : State) (k : Nat) (write multi : Bool) : List Spot → List Range → Except Nat (List Range)
  | [], rs => .ok rs
  | p :: ps, rs =>
    if p.sp then
      match s.spadSpan (s.ctx k) p.a 1 multi with
      | none => .error p.a
      | some xs => addSpots s k write multi ps (xs.flatten.foldl (addByte write) rs)
    else addSpots s k write multi ps rs

/-- The ranges of units u, u + 1, …: their sources, or their destinations. -/
def unitRanges (s : State) (c : EngCmd) (dst : Bool) (u : Nat) : Nat → List Range → Except Nat (List Range)
  | 0, rs => .ok rs
  | n + 1, rs =>
    match addSpots s c.ctx dst (dst && c.isCopy) (if dst then (c.unitSpots u).2 else (c.unitSpots u).1) rs with
    | .error a => .error a
    | .ok r => unitRanges s c dst (u + 1) n r

/-- The operand of the command that names a byte without meaning: what FADDR records (R88; log 33). -/
def EngCmd.operandOf (c : EngCmd) (dst : Bool) (a : Nat) : Nat :=
  match c.kind, dst with
  | .plane, _ => a
  | .qcvt, true => if c.dst.toNat ≤ a ∧ a < c.dst.toNat + c.len then c.dst.toNat else blkWord c.blk 1
  | _, true => c.dst.toNat
  | _, false => c.src.toNat

/-- The scratchpad ranges of a command whose destination still has units from `u` on to be written. -/
def EngCmd.rangesFrom (c : EngCmd) (s : State) (u : Nat) : Except Nat (List Range) :=
  match unitRanges s c false 0 (c.len / c.unit) [] with
  | .error a => .error (c.operandOf false a)
  | .ok rs => (unitRanges s c true u (c.len / c.unit - u) rs).mapError (c.operandOf true)

/-- Ranges rounded out to whole rows; none for a command that touches no scratchpad. -/
def boardOf (rs : List Range) : Option (List Range) :=
  if rs.isEmpty then none else some (rs.map (fun r => { r with lo := rowOf r.lo, hi := rowOf (r.hi + 63) }))

/-! ### Predecessors and the overlap checker (R77, R84, R207) -/

/-- A named predecessor, classified as the waiting command issues. -/
def namePred (s : State) (k : Nat) (named : BitVec 18) : List Pred :=
  match laneOfCode (bits named.toNat 16 2) with
  | none => []
  | some x =>
    let n : BitVec 16 := BitVec.ofNat 16 named.toNat
    let d := ((s.lane k x).eseq - n).toNat
    if d < 32768 then [⟨x, n, true, (s.cmdOf k x n).isNone⟩] else [⟨x, n, false, false⟩]

/-- The lane's `m` previous commands. -/
def lastPreds (s : State) (k : Nat) (l : Lane) (m : Nat) : List Pred :=
  (List.range m).map (fun i =>
    let n := (s.lane k l).eseq - BitVec.ofNat 16 i
    ⟨l, n, true, (s.cmdOf k l n).isNone⟩)

/-- Every predecessor of a command that the lane issues now. -/
def predsNow (s : State) (k : Nat) (l : Lane) (seqf : BitVec 2) : List Pred :=
  (match (s.lane k l).edep with
    | some (a, b) => namePred s k a ++ namePred s k b
    | none => [])
  ++ (match seqf.toNat with
    | 1 => lastPreds s k l 1
    | 2 => lastPreds s k l 32
    | _ => [])

def EngCmd.predsDone (c : EngCmd) : Bool := c.preds.all (fun p => p.done)

/-- The commands of a context that the checker knows: name, predecessors, ranges. -/
def knownCmds (s : State) (k : Nat) : List (Lane × BitVec 16 × List Pred × List Range) :=
  (s.cmds.filter (fun c => c.ctx == k)).map (fun c => (c.lane, c.num, c.preds, c.ranges))
  ++ (s.doneCmds.filter (fun c => c.ctx == k)).map (fun c => (c.lane, c.num, c.preds, c.ranges))

def predKeys (ps : List Pred) : List Nat := ps.map (fun p => cmdKey p.lane p.num)

/-- Names reached from some names through predecessors. -/
def predClosure (known : List (Lane × BitVec 16 × List Pred × List Range)) : Nat → List Nat → List Nat
  | 0, ks => ks
  | n + 1, ks =>
    let more := (known.filter (fun c => ks.contains (cmdKey c.1 c.2.1))).flatMap (fun c => predKeys c.2.2.1)
    let new := more.filter (fun x => !ks.contains x)
    if new.isEmpty then ks else predClosure known n (ks ++ new)

def rangesClash (a b : List Range) : Bool :=
  a.any (fun r => b.any (fun q => (r.write || q.write) && decide (r.lo < q.hi) && decide (q.lo < r.hi)))

/-- The last 32 names that a lane has given to commands, oldest first. -/
def lastNames (s : State) (k : Nat) (l : Lane) : List (Lane × BitVec 16) :=
  (List.range 32).reverse.map (fun i => (l, (s.lane k l).eseq - BitVec.ofNat 16 i))

/-- The earlier command that the checker finds unordered and overlapping, if any, whether it has completed or not.
Of several, the report names the first by lane and number, which is the model's choice (log 105). -/
def overlapWith (s : State) (k : Nat) (l : Lane) (preds : List Pred) (ranges : List Range) : Option (BitVec 16) :=
  let known := knownCmds s k
  let before := predClosure known (known.length + 1) (predKeys preds) ++ (s.lane k l).joined
  ((lanes.flatMap (lastNames s k)).find? (fun a => !before.contains (cmdKey a.1 a.2)
    && known.any (fun b => b.1 == a.1 && b.2.1 == a.2 && rangesClash b.2.2.2 ranges))).map (fun a => a.2)

/-- A number that is used again no longer names the older command. -/
def LaneQ.forget (q : LaneQ) (key : Nat) : LaneQ :=
  let f := fun (t : Tok) => { t with joined := t.joined.filter (· != key) }
  { q with fromL := q.fromL.map f, fromR := q.fromR.map f }

def LaneSt.forget (x : LaneSt) (key : Nat) : LaneSt :=
  { x with joined := x.joined.filter (· != key), normal := x.normal.forget key, handler := x.handler.forget key }

def forgetName (s : State) (k : Nat) (l : Lane) (n : BitVec 16) : State :=
  { s.updCtx k (fun c => lanes.foldl (fun c m => c.updLane m (fun x => x.forget (cmdKey l n))) c) with
    doneCmds := s.doneCmds.filter (fun d => !(d.ctx == k && d.lane == l && d.num == n))
    incs := s.incs.map (fun i => if i.ctx = k ∧ i.name = some (l, n) then { i with name := none } else i) }

/-! ### Access by an engine (R106, R108, R130) -/

/-- Why a command goes no further: a page that is being moved holds its write (R394), a translation fails, a
window's target has left (R93), or a walk meets an uncorrectable error (R371). -/
inductive Stop where
  | hold
  | fault (f : TransFault) (write : Bool) (va : Nat)
  | lost (write : Bool) (a : Nat)
  | error (line : Nat)
  deriving DecidableEq, Repr

/-- A byte's place: its scratchpad locations, or its virtual address and translation. -/
inductive Place where
  | spad (locs : List Nat)
  | glob (va : Nat) (x : Xlat)
  deriving DecidableEq, Repr

/-- The state and the lines that a command has translated, to its own line starts. -/
structure Scan where
  s    : State
  memo : List ((Bool × Nat) × Xlat)

abbrev Finding (α : Type) : Type := ExceptT Stop (StateM Scan) α

/-- The translation of a 64-byte virtual line for the command. -/
def lineXlat (w : Who) (write : Bool) (va : Nat) : Finding Xlat := do
  let m ← get
  match m.memo.find? (fun e => e.1 == (write, va / 64)) with
  | some e => return e.2
  | none =>
    let (r, t) := m.s.translate (dieOfCore w.core) w.asid w.priv write va
    match (if (m.s.tlbHits (dieOfCore w.core) w.asid va).isEmpty then m.s.walkError w.asid va else none) with
    | some p => throw (.error p)
    | none =>
    match r with
    | .error f => set { m with s := t }; throw (.fault f write va)
    | .ok x =>
      let y := { x with loc := x.loc - va % 64 }
      set (Scan.mk t (((write, va / 64), y) :: m.memo))
      return y

/-- The place of a byte; `multi`: through a multicast window too (R94). -/
def findPlace (w : Who) (write multi : Bool) (p : Spot) : Finding Place := do
  if p.sp then
    let m ← get
    match m.s.spadSpan (m.s.ctx w.ctx) p.a 1 multi with
    | some xs => return .spad xs.flatten
    | none => throw (.lost write p.a)
  else
    let x ← lineXlat w write p.a
    if write && x.mg then throw .hold
    return .glob p.a { x with loc := x.loc + p.a % 64 }

/-- The places of units from `u` on, up to the first that cannot be reached. -/
def findUnits (c : EngCmd) (u : Nat) : Nat → Scan → List (List Place × List Place) × Option Stop × Scan
  | 0, m => ([], none, m)
  | n + 1, m =>
    let one : Finding (List Place × List Place) := do
      let a ← (c.unitSpots u).1.mapM (findPlace (m.s.cmdWho c) false false)
      let b ← (c.unitSpots u).2.mapM (findPlace (m.s.cmdWho c) true c.isCopy)
      return (a, b)
    match one.run.run m with
    | (.error e, m1) => ([], some e, m1)
    | (.ok r, m1) =>
      let (rs, e, m2) := findUnits c (u + 1) n m1
      (r :: rs, e, m2)

/-- Writes of the issuing core that are older than the command and go to the homes of some locations, and writes of
other cores to these locations that had been made known before the command issued, are performed first (R128,
R130). -/
def engineDrain (c : EngCmd) (locs : List Nat) : Op Unit := do
  let seen := ((← get).core c.core).seen
  drainWhere (fun x =>
    if x.1 = c.core then decide (x.2.id < c.wid) && locs.any (fun a => homeOf a == homeOf x.2.pa)
    else (match x.2.rel with | some r => decide (r ≤ seen) && decide (r ≤ c.wid) | none => false)
      && locs.any (fun a => decide (x.2.pa ≤ a) && decide (a < x.2.pa + x.2.bytes.length)))

/-- Reads a line for an engine: from the die's remote-data cache or from the home, never from an L1. -/
def engineLine (c : EngCmd) (x : Xlat) (line : Nat) (tag : Nat × Nat) : Op (BitVec 512) := do
  engineDrain c [x.loc]
  let s ← get
  let die := dieOfCore c.core
  let near := homeOf x.loc == die
  let home := s.homeLine line
  let copy := if near then none else copyFor (s.die die).rdc line
  let n ← if copy.all (· == home) then pure 0 else Op.free 10
  match (if n % 2 = 0 then copy else none) with
  | some d => return d
  | none =>
    match s.poisoned [64 * line] with
    | some p => fatalOp .uncorr (uncorrDetail p) p
    | none =>
      let t ← get
      set (countAccess (if near then t else fillRdc t die line home tag) (s.cmdWho c) x)
      return home

/-- Reads bytes at places of global memory, one access for each run of bytes in one line, and takes those of the
scratchpad from `sp`; none where there is no place. -/
def readGlobals (c : EngCmd) : Option (Nat × BitVec 512) → List Byte → List (Option Place) → Op (List (Option Byte))
  | _, _, [] => return []
  | m, sp, none :: ps => do return none :: (← readGlobals c m sp ps)
  | m, sp, some (.spad _) :: ps => do return some (sp.headD 0) :: (← readGlobals c m sp.tail ps)
  | m, sp, some (.glob va x) :: ps => do
    let line := x.loc / 64
    let d ← match m with
      | some (l, d) => if l = line then pure d else engineLine c x line (c.asid.toNat, va / 64)
      | none => engineLine c x line (c.asid.toNat, va / 64)
    return some (BitVec.ofNat 8 (d.toNat / 2 ^ (8 * (x.loc % 64)))) :: (← readGlobals c (some (line, d)) sp ps)

/-- The first location of each place of the scratchpad. -/
def spadPlaces (ps : List (Option Place)) : List Nat :=
  ps.filterMap (fun p => match p with
    | some (.spad locs) => some (locs.headD 0)
    | _ => none)

/-- Reads bytes at places; those of the scratchpad row by row (R89). -/
def readPlaces (c : EngCmd) (ps : List (Option Place)) : Op (List (Option Byte)) := do
  let sp ← spadSee none 1 (spadPlaces ps)
  readGlobals c none sp ps

/-- Global locations among places, with their translations. -/
def globalPlaces (ws : List (Place × Byte)) : List (Nat × Xlat × Byte) :=
  ws.filterMap (fun w => match w.1 with
    | .glob _ x => some (x.loc, x, w.2)
    | .spad _ => none)

/-- The scratchpad bytes among what is to be written, one list for each target (R94). -/
def spadTargetCells (ws : List (Place × Byte)) : List (List (Nat × Byte)) :=
  let sp := ws.filterMap (fun w => match w.1 with
    | .spad locs => some (locs, w.2)
    | .glob _ _ => none)
  (List.range ((sp.map (fun p => p.1.length)).foldl max 0)).map (fun j =>
    sp.filterMap (fun p => (p.1[j]?).map (fun a => (a, p.2))))

/-- Writes of a command through a multicast window, which reach their targets independently (R94). -/
def addLanding (s : State) (c : EngCmd) (ws : List ScratchWrite) : State :=
  { s with cmds := s.cmds.map (fun d =>
      if d.named c.ctx c.lane c.num then { d with landing := d.landing ++ ws } else d) }

/-- Puts an engine's scratchpad bytes in place. -/
def writeSpadCells (s : State) (c : EngCmd) (targets : List (List (Nat × Byte))) : State :=
  let s1 := targets.foldl (fun t cells => placeBytes t none cells) s
  if targets.length ≤ 1 then s1
  else addLanding s1 c (targets.map (fun cells => ⟨replacedBy s (rowGroups cells), 0, s.nextId⟩))

/-- Puts the bytes of an engine's write in place at their homes, and in the die's copies of the lines (R108). -/
def putGlobals (s : State) (c : EngCmd) (globs : List (Nat × Xlat × Byte)) : State :=
  (globs.foldl (fun t g => updateRdc (t.setByte g.1 g.2.2) (dieOfCore c.core) g.1 [g.2.2])
    (clearPoison s (globs.map (·.1)))).touchAll (globs.map (·.1))

/-- Writes bytes at places as an engine does: one access for each line (R111). -/
def writePlaces (c : EngCmd) (ws : List (Place × Byte)) : Op Unit := do
  let globs := globalPlaces ws
  engineDrain c (globs.map (·.1))
  modify (fun s =>
    (distinct (globs.map (fun g => g.1 / 64))).foldl (fun t l =>
      match globs.find? (fun g => g.1 / 64 == l) with
      | some g => countAccess t (t.cmdWho c) g.2.1
      | none => t) (putGlobals (writeSpadCells s c (spadTargetCells ws)) c globs))

/-! ### Movement -/

/-- What a QCVT block writes, and whether an element saturated (R35 to R37, R307). -/
def quantBlock (c : EngCmd) (src : List Byte) : List Byte × Bool :=
  let t := c.sub.toNat % 32
  let xs := (chunks c.qsrc 32 src).map (fun b => decodeNum (if c.qsrc = 2 then 9 else 10) (leNat b))
  let scale := if c.sub.getLsbD 6 then bits (blkWord c.blk 2) 0 8 else chooseScale t xs
  let codes := xs.map (blockEncode t scale (!c.sub.getLsbD 6))
  (codes.map (fun x => BitVec.ofNat 8 x.1) ++ [BitVec.ofNat 8 scale], codes.any (fun x => x.2))

/-- What unit u writes, from what it has read; none leaves the byte as it is. -/
def EngCmd.unitOut (c : EngCmd) (u : Nat) (src : List (Option Byte)) : List (Option Byte) × Bool :=
  match c.kind with
  | .qcvt =>
    let (bs, sat) := quantBlock c (src.map (fun b => b.getD 0))
    (bs.map some, sat)
  | .fill =>
    ([(bytesOf c.src.toNat 8)[u % 2 ^ (c.sub.toNat % 4)]?], false)
  | .copy | .copyt =>
    (match (c.data[u]?).join with
      | some b => [some b]
      | none => src, false)
  | .frecv | .fcoll => ([(c.data[u]?).join], false)
  | _ => (src, false)

/-- Moves the units whose places are given: every source is read before any destination is written. -/
def moveTogether (c : EngCmd) (rs : List (List Place × List Place)) : Op EngCmd := do
  let u0 := c.off / c.unit
  let k := match rs with
    | r :: _ => r.1.length
    | [] => 0
  let src ← readPlaces c (rs.flatMap (fun r => r.1.map some))
  let outs := rs.mapIdx (fun i r => (r.2, c.unitOut (u0 + i) ((src.drop (k * i)).take k)))
  let ws := outs.flatMap (fun o => (o.1.zip o.2.1).filterMap (fun pb => pb.2.map (fun b => (pb.1, b))))
  writePlaces c ws
  let sat := outs.any (fun o => o.2.2)
  if sat then
    modify (fun s => if (kvGet s.ctxs c.ctx).isSome then
      s.updCtx c.ctx (fun x => { x with ctrl := { x.ctrl with mode := x.ctrl.mode ||| 1 } }) else s)
  return { c with
    off := c.off + c.unit * rs.length
    sat := c.sat || sat
    data := if c.kind == .fsend then c.data ++ src else c.data
    lines := distinct (c.lines ++ (globalPlaces ws).map (fun g => g.1 / 64)) }

/-- Moves the units whose places are given; a block of QCVT is written whole, at every target, before the next is
read (R307). -/
def moveFound (c : EngCmd) (rs : List (List Place × List Place)) : Op EngCmd :=
  if c.kind = .qcvt then
    rs.foldlM (fun d r => do
      modify (fun s => { s with cmds := s.cmds.map (fun x =>
        if x.named c.ctx c.lane c.num then { x with landing := [] } else x) })
      moveTogether d [r]) c
  else moveTogether c rs

/-- How far a movement went: on, to a stop; to a fault of its context; or nowhere, for the time being. -/
inductive Moved where
  | go (c : EngCmd) (stop : Option Stop) (s : State)
  | dead (s : State)
  | wait

/-- A class-F fault that a command raises in its context; the command goes no further. -/
def cmdFatal (s : State) (c : EngCmd) (x : Cause) (detail : Nat) (addr : Word) : State :=
  recordFatal (s.putCmd { c with phase := .held }) c.ctx x (laneCode c.lane) detail addr none (some (c.lane, c.num))

/-- The translation fault that a cause stands for. -/
def transFaultOf (x : Cause) : TransFault :=
  match x with
  | .tfAbsent => .absent
  | .tfProt => .prot
  | _ => .noncanon

/-- The lane's scratchpad writes that come before the command's issue are performed before the command makes an
access (R130). -/
def performOlder (s : State) (c : EngCmd) : State :=
  if (s.lane c.ctx c.lane).scratchInflight.isEmpty then s
  else s.updLane c.ctx c.lane (fun x => { x with scratchInflight := x.scratchInflight.filter (fun w => decide (c.wid < w.num)) })

/-- Runs an operation of a command; a translation fault stops it. -/
def cmdOp {α : Type} (s0 : State) (c : EngCmd) (m : Op α) (k : α → State → Moved) : Moved :=
  let s := performOlder s0 c
  match m.run.run s with
  | (.ok a, t) => k a t
  | (.error (.fatal x d a), t) => .dead (cmdFatal (keepTranslations s t) c x d a)
  | (.error (.trap x d a), t) => .go c (some (.fault (transFaultOf x) (d % 2 == 1) a.toNat)) (keepTranslations s t)
  | (.error .stall, _) => .wait

/-- A movement has ended at a stop: a window whose target has left is SPAD_ADDR (R93), and an error that a walk meets is
UNCORR (R371). -/
def stopAt (c : EngCmd) (stop : Option Stop) (s : State) : Moved :=
  match stop with
  | some (.lost write a) => .dead (cmdFatal s c .spadAddr 0 (BitVec.ofNat 64 (c.operandOf write a)))
  | some (.error p) => .dead (cmdFatal s c .uncorr (uncorrDetail p) (BitVec.ofNat 64 p))
  | e => .go c e (s.putCmd c)

/-- The places of source bytes; none for one that does not translate or that is not wanted. -/
def findSources (c : EngCmd) (want : Nat → Bool) (t : Nat) : Nat → Scan → List (Option Place) × Scan
  | 0, m => ([], m)
  | n + 1, m =>
    let (p, m1) :=
      if want t then
        match (findPlace (m.s.cmdWho c) false false (c.srcSpot t)).run.run m with
        | (.ok p, m1) => (some p, m1)
        | (.error _, m1) => (none, m1)
      else (none, m)
    let (ps, m2) := findSources c want (t + 1) n m1
    (p :: ps, m2)

/-- Source bytes of an overlapping copy that could not be read when it started are read before it writes anything
further (R306). -/
def refreshData (s : State) (c : EngCmd) : Moved :=
  if (c.kind == .copy || c.kind == .copyt) && c.data.any (·.isNone) then
    let (ps, m) := findSources c (fun t => decide (c.off ≤ t) && ((c.data[t]?).join).isNone) 0 c.len ⟨s, []⟩
    cmdOp m.s c (readPlaces c ps) (fun bs t =>
      let d := { c with data := (c.data.zip bs).map (fun q => q.1 <|> q.2) }
      .go d none (t.putCmd d))
  else .go c none s

/-- Moves up to `n` units. -/
def moveUnits (s : State) (c : EngCmd) (n : Nat) : Moved :=
  match refreshData s c with
  | .go c none s1 =>
    let (rs, stop, m) := findUnits c (c.off / c.unit) (min n ((c.len - c.off) / c.unit)) ⟨s1, []⟩
    cmdOp m.s c (moveFound c rs) (fun d t => stopAt d stop t)
  | r => r

/-! ### Starting (R77, R306, R308) -/

/-- Source and destination overlap: by location in scratchpad, by virtual address in global memory (R306). -/
def EngCmd.overlaps (c : EngCmd) (s : State) : Bool :=
  let key (multi : Bool) (p : Spot) : List (Nat) :=
    if p.sp then ((s.spadSpan (s.ctx c.ctx) p.a 1 multi).getD []).flatten else [p.a]
  (c.kind == .copy || c.kind == .copyt) && c.ssp == c.dsp
    && (List.range c.len).any (fun t => (key false (c.srcSpot t)).any (fun a =>
      (List.range c.len).any (fun v => (key true (c.dstSpot v)).contains a)))

/-- The descriptor that PLANE reads first, and the cases of R308 in which it completes with RANGE; NP is 1 to 8
(R294). -/
def readSource (s : State) (c : EngCmd) : Moved :=
  let (ps, m) := (((List.range 96).mapM (fun i =>
    findPlace (s.cmdWho c) false false ⟨false, offsetBy c.src (i : Nat)⟩)).run.run ⟨s, []⟩)
  match ps with
  | .error e => stopAt c (some e) m.s
  | .ok ps => cmdOp m.s c (readPlaces c (ps.map some)) (fun bs t =>
      let d := { c with blk := c.blk ++ bs.map (fun b => b.getD 0) }
      let p := d.srcPlanes
      let ok := !p.sp && decide (d.row0 + d.planeNr ≤ p.nr) && p.ke == d.dstPlanes.ke && decide (d.planeCount ≤ p.np)
        && decide (p.np ≤ 8)
      let e := if ok then d else { d with code := 1, len := 0 }
      .go e none (t.putCmd e))

/-- What a command does once before its first byte moves. -/
def beginCmd (s : State) (c : EngCmd) : Moved :=
  let d := { c with phase := .started }
  if d.kind = .plane ∧ d.blk.length = 96 ∧ d.code = 0 then readSource s d
  else if c.phase = .queued ∧ c.overlaps s then
    let (ps, m) := findSources d (fun _ => true) 0 d.len ⟨s, []⟩
    cmdOp m.s d (readPlaces d ps) (fun bs t => .go { d with data := bs } none (t.putCmd { d with data := bs }))
  else .go d none (s.putCmd d)

/-- A stop between two lines of the destination or, where there is none, of the source (R109). -/
def lineEnd (c : EngCmd) (u : Nat) : Nat → Nat
  | 0 => u
  | n + 1 =>
    match (c.unitSpots u).2 ++ (c.unitSpots u).1 with
    | p :: _ => if p.a % 64 = 0 then u else lineEnd c (u + 1) n
    | [] => u

/-! ### Completing (R76, R120, R131, R302) -/

/-- The status word. -/
def EngCmd.statusWord (c : EngCmd) : Nat := c.code + 256 * c.sat.toNat + 2 ^ 16 * (c.off % 2 ^ 48)

/-- A command has `c` among its predecessors. -/
def EngCmd.follows (d c : EngCmd) : Bool :=
  d.ctx == c.ctx && d.preds.any (fun p => p.lane == c.lane && p.num == c.num && p.issued)

/-- The lines that a command and those before it have written. -/
def EngCmd.written (c : EngCmd) : List Nat := distinct (c.lines ++ c.before)

/-- The command is no longer in flight; `inc`: the counter to which it has added. What follows it inherits its
writes (R130). The checker of R84 knows it until its number is used again. -/
def retireCmd (s : State) (c : EngCmd) (inc : Option Nat) : State :=
  { s with
    cmds := (s.cmds.filter (fun d => !d.named c.ctx c.lane c.num)).map (fun d =>
      if d.follows c then
        { d with
          before := distinct (c.written ++ d.before)
          preds := d.preds.map (fun p =>
            if p.lane = c.lane ∧ p.num = c.num ∧ p.issued then { p with done := true } else p) }
      else d)
    doneCmds := s.doneCmds ++ [⟨c.ctx, c.lane, c.num, c.ranges, c.preds, c.written⟩]
    incs := match inc with
      | some loc => s.incs ++ [⟨loc, c.ctx, some (c.lane, c.num), c.lines, c.before⟩]
      | none => s.incs }

/-- The increment of a counter, an atomic add at its home, which is one access (R76, R111, R132). -/
def bumpCounter (c : EngCmd) (ctr : List Place) : Op Unit := do
  let new (old : Nat) : List Byte := bytesOf (old + c.inc.toNat) 8
  match globalPlaces (ctr.map (fun p => (p, 0))) with
  | [] =>
    let old ← spadSee none 8 (spadPlaces (ctr.map some))
    modify (fun s => placeAtomic s none ((spadPlaces (ctr.map some)).zip (new (leNat old))))
  | g :: gs =>
    let locs := (g :: gs).map (·.1)
    engineDrain c locs
    let s ← get
    match s.poisoned locs with
    | some p => fatalOp .uncorr (uncorrDetail p) p
    | none =>
      let bs := new (leNat (locs.map s.byteAt))
      set (countAccess (putGlobals s c (((g :: gs).zip bs).map (fun gb => (gb.1.1, gb.1.2.1, gb.2)))) (s.cmdWho c) g.2.1)

/-- The pending writes of a command's context that come before its issue and that a release of the command covers are
performed, and what comes before the command is known to who acquires from it (R121, R122, R128). -/
def engineRelease (c : EngCmd) (cov : Cover) : Op Unit := do
  drain c.core (fun e => decide (e.id < c.wid) && releaseDue c.ctx cov e)
  modify (fun s => publish s c.core (fun e => decide (e.id < c.wid)))

/-- The two steps at completion on a counter whose bytes lie at known places: the status word, then the increment, which is
a release of the counter with the bindings that the command holds (R120, R121). Answers the lines written. -/
def signalAt (c : EngCmd) (ctr : List Place) (st : Bool) : Op (List Nat) := do
  if c.inc = 0 then modify (fun s => publish s c.core (fun e => decide (e.id < c.wid)))
  else engineRelease c (.obj c.binds c.ctr)
  if st then writePlaces c ((ctr.drop 8).zip (bytesOf c.statusWord 8))
  if c.inc ≠ 0 then bumpCounter c (ctr.take 8)
  return if st then ctr.filterMap (fun p => match p with
    | .glob _ x => some (x.loc / 64)
    | .spad _ => none) else []

/-- The location that a place stands for. -/
def Place.loc : Place → Nat
  | .spad locs => locs.headD 0
  | .glob _ x => x.loc

/-- Completes a command whose bytes have all moved, if its counter can be reached. -/
def finishCmd (s : State) (c : EngCmd) : Moved :=
  let st := c.fl.getLsbD 5
  let csp := c.fl.getLsbD 1
  let n := if st then 16 else 8
  if c.ctr = 0 ∨ (c.inc = 0 ∧ !st) then .go c none (retireCmd s c none)
  else if c.ctr.toNat % n ≠ 0 then
    if csp then .dead (cmdFatal s c .spadAddr 0 c.ctr) else .go c (some (.fault .noncanon true c.ctr.toNat)) s
  else if csp && (s.spadSpan (s.ctx c.ctx) c.ctr.toNat n false).isNone then .dead (cmdFatal s c .spadAddr 0 c.ctr)
  else
    let (ps, m) := (((List.range n).mapM (fun i => do
      if csp then findPlace (s.cmdWho c) true false ⟨true, c.ctr.toNat + i⟩
      else findPlace (s.cmdWho c) true false ⟨false, c.ctr.toNat + i⟩)).run.run ⟨s, []⟩)
    match ps with
    | .error e => stopAt c (some e) m.s
    | .ok ps => cmdOp m.s c (signalAt c ps st) (fun ls t =>
        let loc := (ps.map Place.loc).headD 0
        .go c none (retireCmd t { c with lines := distinct (c.lines ++ ls) } (if c.inc = 0 then none else some loc)))

/-! ### Stopping at a translation fault (R310, R390) -/

/-- Fault kinds of R390. -/
def TransFault.kind : TransFault → Nat
  | .absent => 1
  | .prot => 2
  | .noncanon => 3

/-- A core's number within its die, as records hold it. The spec gives a service core none: the model's records hold 0
or 1 for one (log 98). -/
def localCore (core : Nat) : Nat := if isService core then (64 + (core - 1024) % 2) % 64 else core % 64

/-- The record of a held command goes to its die's engine-fault rod. -/
def recordEngineFault (s : State) (c : EngCmd) : State :=
  match c.fault with
  | none => s
  | some (kind, write, va) =>
    let die := dieOfCore c.core
    let d := s.die die
    let bytes := packNats 8
      [c.ctx % 2 ^ 32 + 2 ^ 32 * localCore c.core + 2 ^ 40 * c.bank + 2 ^ 41 * laneCode c.lane,
       c.num.toNat + 2 ^ 16 * kind + 2 ^ 19 * write.toNat + 2 ^ 32 * c.asid.toNat, va.toNat, c.off]
    match d.engRod with
    | none => endAsFault s c.ctx .killed (laneCode c.lane) 0 0
    | some rod =>
      let (st, t) := deviceEnq s die d.rodAsid.toNat rod bytes
      match st with
      | 0 => raiseIntp (t.putCmd { c with reportDue := false }) die 1
      | 2 | 7 => t.putCmd { c with reportDue := true }
      | _ => endAsFault t c.ctx .killed (laneCode c.lane) 0 0

/-- A Page Request for the page of an address is outstanding. -/
def pageAwaited (s : State) (asid va : Nat) : Bool :=
  match s.asidDesc asid with
  | none => false
  | some d => (s.vif (s.field (d + 16) 32 8)).pageReqs.contains
      (s.field (d + 16) 0 20, BitVec.ofNat 64 (va / 4096 * 4096))

/-- Holds a command at the first byte it could not move: the scoreboard entry of a copy or a transfer is trimmed
(R102, R310), and the fault is recorded unless a Page Request is to answer it. -/
def holdCmd (s : State) (c : EngCmd) (f : TransFault) (write : Bool) (va : Nat) : State :=
  let board := match c.board with
    | none => none
    | some old =>
      if c.isCopy || c.kind == .fsend || c.kind == .frecv then
        match c.rangesFrom s (c.off / c.unit) with
        | .ok rs => some ((boardOf rs).getD [])
        | .error _ => some old
      else some old
  let asked := pageAwaited s c.asid.toNat va
  let d := { c with phase := .held, fault := some (f.kind, write, BitVec.ofNat 64 va), board := board, asked := asked }
  let t := s.putCmd d
  if asked then t else recordEngineFault t d

/-- A held command goes on (R390). -/
def resumeCmd (s : State) (c : EngCmd) : State :=
  s.putCmd { c with phase := .started, fault := none, reportDue := false, asked := false }

/-! ### Issue (R75, R76, R100, R302, R303) -/

/-- What a command's entry determines when the command issues. A code other than 0 completes it at once. -/
structure Draft where
  kind : CmdKind
  blk  : List Byte
  len  : Nat
  code : Nat
  ends : Nat × Nat × Nat × Nat
  table : Nat
  grp  : Option Nat

/-- The lines written by those of some predecessors that have completed, and by those before them (R130). -/
def inherited (s : State) (k : Nat) (preds : List Pred) : List Nat :=
  distinct ((s.doneCmds.filter (fun d => d.ctx == k
    && preds.any (fun p => p.done && p.lane == d.lane && p.num == d.num))).flatMap (·.lines))

/-- The command as it issues. -/
def newCmd (s : State) (o : EngOps) (d : Draft) : EngCmd :=
  let k := s.cur.ctx
  let c := s.me
  { ctx := k, lane := s.cur.lane, num := s.myLane.eseq + 1, kind := d.kind, core := c.core, bank := c.bank
    asid := c.ctrl.asid, priv := c.holdsPriv
    dst := s.srcS 0 o.dst, src := s.srcS 1 o.src, desc := s.srcS 2 o.desc, ctr := s.srcS 3 o.ctr
    inc := o.inc, sub := o.sub, fl := o.fl, blk := d.blk
    preds := predsNow s k s.cur.lane o.seqf
    binds := s.bindsFor k s.cur.lane, ranges := [], board := none, phase := .queued, len := d.len, off := 0, code := d.code
    sat := false, landing := [], lines := [], before := inherited s k (predsNow s k s.cur.lane o.seqf), wid := s.nextId, runOn := c.core, data := [], acked := false, grp := d.grp, ends := d.ends
    fault := none, kvNapp := false, kvSet := none, kvNew := none, kvDone := false, kvPage := 0, pinned := none, table := d.table
    reportDue := false, asked := false }

/-- The issuing lane has issued a command: its number, its place in the order of the core's writes, and commands that
waited for this issue. -/
def countCmd (s : State) (c : EngCmd) : State :=
  let s1 := forgetName { s with nextId := s.nextId + 1 } c.ctx c.lane c.num
  let s2 := s1.updLane c.ctx c.lane (fun x => { x with eseq := c.num, edep := none })
  { s2 with cmds := (s2.cmds ++ [c]).map (fun d =>
      if d.ctx = c.ctx then
        { d with preds := d.preds.map (fun p =>
            if p.lane = c.lane ∧ p.num = c.num ∧ !p.issued then { p with issued := true } else p) }
      else d) }

/-- A class-F fault that the issue of a command raises names the command (R357, R371). -/
def asCommand (m : Op Unit) : Op Unit :=
  ExceptT.mk (fun s =>
    match m.run.run s with
    | (.error (.fatal c d a), t) =>
      (.ok (), recordFatal (keepTranslations s t) s.cur.ctx c (laneCode s.cur.lane) d a
        (some (s.cur.pc + s.cur.slot)) (some (s.cur.lane, s.myLane.eseq + 1)))
    | r => r)

/-- The address of a scratchpad counter that is misaligned or has no meaning (R88, R302). -/
def badCounter (s : State) (c : EngCmd) : Bool :=
  let st := c.fl.getLsbD 5
  let n := if st then 16 else 8
  c.fl.getLsbD 1 && c.ctr != 0 && (c.inc != 0 || st)
    && (c.ctr.toNat % n != 0 || (s.spadSpan (s.ctx c.ctx) c.ctr.toNat n false).isNone)

/-- Issues a command; `extra` are the ranges of one whose units do not name them. -/
def issueCmd (o : EngOps) (d : Draft) (extra : List (Nat × Nat × Bool)) : Op Unit := do
  let s ← get
  let c := newCmd s o d
  if 64 ≤ (s.cmds.filter (fun x => x.ctx == c.ctx)).length then throw .stall
  if badCounter s c then spadFault c.ctr.toNat
  if d.code ≠ 0 then
    let c1 := { c with len := 0, phase := .started, preds := c.preds.map (fun p => { p with done := true }) }
    let t := countCmd s c1
    match finishCmd t c1 with
    | .go _ none u => set u
    | .go e (some (.fault f w va)) u => set (holdCmd u e f w va)
    | .dead u => set u
    | _ => set t
  else
    let more : Except Nat (List Range) := extra.foldlM (fun rs e =>
      (addSpots s c.ctx e.2.2 false ((List.range e.2.1).map (fun i => ⟨true, e.1 + i⟩)) rs).mapError (fun _ => e.1)) []
    match c.rangesFrom s 0, more with
    | .error a, _ => spadFault a
    | _, .error a => spadFault a
    | .ok rs, .ok ms =>
      let c1 := { c with ranges := rs ++ ms, board := boardOf (rs ++ ms) }
      if c1.board.isSome && decide (16 ≤ (s.cmds.filter (fun x => x.core == c.core && x.board.isSome)).length) then
        throw .stall
      let t := countCmd s c1
      match (if s.me.ctrl.detm then overlapWith s c.ctx c.lane c1.preds c1.ranges else none) with
      | some n => set (recordFatal t c.ctx .orderOverlap (laneCode c.lane) n.toNat 0
          (some (s.cur.pc + s.cur.slot)) (some (c.lane, c.num)))
      | none => set t

/-- The block in the own share that Reg(desc) names. The command follows what its lane has written, so the lane's
scratchpad writes to it are performed first (R130). -/
def readBlock (a n align : Nat) : Op (List Byte) := do
  let locs ← ownBlock a n align
  modify (fun s => s.updMyLane (fun x => { x with scratchInflight := cutWrites locs x.scratchInflight }))
  spadRead locs

end Sys2Proof.Machine
end

