-- ==== Sys2Proof/Machine/Commands.lean ====
section
/-! DEFINITION. Engine-command instructions, opcodes 0xB0 to 0xBC: the copy engine, completion counters,
predecessors, and the issue of fabric commands (12_matrix_engines.md R301 to R317). -/

namespace Sys2Proof.Machine

/-- A code for a command that is out of range (R303). -/
def rangeCode (ok : Bool) : Nat := if ok then 0 else 1

/-- A draft of a command with no peer and no block table. -/
def draft (kind : CmdKind) (blk : List Byte) (len code : Nat) : Draft := ⟨kind, blk, len, code, (0, 0, 0, 0), 0, none⟩

/-- Issues an engine command, in lanes L and S. -/
def engineIssue (h : Hdr) (o : EngOps) (s : State) (d : Op Draft) : Res :=
  gateOp h s (asCommand do issueCmd o (← d) [])

/-! ### Copy-engine commands (R305 to R309) -/

/-- COPY. -/
def execCopy (h : Hdr) (o : EngOps) (s : State) : Res :=
  let n := (s.srcS 2 o.desc).toNat
  engineIssue h o s (pure (draft .copy [] n (rangeCode (decide (n < 2 ^ 40)))))

/-- The fields of a shape block are in range (R304). -/
def shapeOk (bs : List Byte) : Bool := decide (1 ≤ blkRows bs) && decide (1 ≤ blkRb bs)

/-- COPYT. -/
def execCopyt (h : Hdr) (o : EngOps) (s : State) : Res :=
  engineIssue h o s do
    let bs ← readBlock (s.srcS 2 o.desc).toNat 32 32
    let ok := shapeOk bs && (!o.sub.getLsbD 4 || blkRb bs % 2 ^ bits (blkWord bs 3) 0 2 == 0)
    return draft .copyt bs (blkRows bs * blkRb bs) (rangeCode ok)

/-- FILL. -/
def execFill (h : Hdr) (o : EngOps) (s : State) : Res :=
  let n := (s.srcS 2 o.desc).toNat
  engineIssue h o s
    (pure (draft .fill [] n (rangeCode (decide (n < 2 ^ 40) && n % 2 ^ (o.sub.toNat % 4) == 0))))

/-- QCVT. -/
def execQcvt (h : Hdr) (o : EngOps) (s : State) : Res :=
  engineIssue h o s do
    let bs ← readBlock (s.srcS 2 o.desc).toNat 32 32
    let n := bits (blkWord bs 0) 0 40
    return draft .qcvt bs n (rangeCode (n % 32 == 0))

/-- The destination descriptor of a PLANE is one of the scratchpad and names `nr` rows (R294, R308). -/
def planeDstOk (p : Planes) (n nr : Nat) : Bool :=
  p.sp && decide (1 ≤ p.nr) && decide (1 ≤ p.ke) && decide (n ≤ p.np) && decide (p.np ≤ 8) && p.nr == nr
    && ((p.base.take n) ++ [p.sb]).all (fun b => decide (b < 2 ^ 24))

/-- PLANE. -/
def execPlane (h : Hdr) (o : EngOps) (s : State) : Res :=
  engineIssue h o s do
    let bs ← readBlock (s.srcS 0 o.dst).toNat 96 32
    let p := planesOf bs
    let n := o.sub.toNat % 8 + 1
    let nr := bits (s.srcS 2 o.desc).toNat 32 32
    let ok := planeDstOk p n nr && (s.srcS 1 o.src).toNat % 32 == 0
    return draft .plane bs (n * (nr * p.kp / 8) + nr * p.kp / 64) (rangeCode ok)

/-- PREF. -/
def execPref (h : Hdr) (o : EngOps) (s : State) : Res :=
  engineIssue h o s (pure (draft .pref [] (s.srcS 2 o.desc).toNat 0))

/-! ### Completion counters (R131, R311 to R314) -/

/-- The place of a counter: its location, and its translation where it lies in memory. Misaligned or without meaning,
SPAD_ADDR or a translation fault (R311); under a recorded range of the context, a stall (R101). -/
def counterPlace (sp : Bool) (a : Nat) (write : Bool) : Op (Nat × Option Xlat) := do
  let s ← get
  if sp then
    if a % 8 ≠ 0 then spadFault a
    else return ((← laneSpan a 8 false).flatten.headD 0, none)
  else if a % 8 ≠ 0 then trapOp .tfNoncanon (if write then 1 else 0) a
  else
    let x ← xlat s.who write a
    if write && x.mg then throw .stall
    return (x.loc, some x)

/-- What every operation of a lane at a counter's home leaves: a forwarded one is counted (R111), and the core's L1 copy
goes (R106). -/
def leaveCounter (p : Nat × Option Xlat) : Op Unit := do
  let s ← get
  match p.2 with
  | some x =>
    modify (fun t => countAccess t s.who x)
    leaveHome s.who x.loc
  | none => pure ()

/-- The value of a counter, read at its home; `wait`: by an instruction that may park there (R112). -/
def counterRead (wait : Bool) (a : Nat) (p : Nat × Option Xlat) : Op Nat := do
  let s ← get
  match p.2 with
  | none => return leNat (← spadReadBy 8 ((List.range 8).map (p.1 + ·)))
  | some x =>
    if wait && x.host then fatalOp .fwdUnsup 0 a
    let v := leNat (← homeRead s.myCore x.loc 8)
    leaveCounter p
    return v

/-- The join of every command whose increment the counter's value includes: the lines that they wrote leave the
reader's caches, and the L1 of the core where each is located, and so do the lines of their predecessors where that is the
reader's core (R127, R131); the core has heard of what had been made known before (R128). -/
def joinCounter (s : State) (loc : Nat) : State :=
  let is := s.incs.filter (fun i => i.loc == loc)
  let names := is.filterMap (fun i => if i.ctx = s.cur.ctx then i.name.map (fun n => cmdKey n.1 n.2) else none)
  let s0 := (is.filter (fun i => (s.ctx i.ctx).core == s.myCore)).foldl (fun t i =>
    i.before.foldl (fun u l => dropLine u s.myCore l) t) s
  let s1 := is.foldl (fun t i => i.lines.foldl (fun u l => dropLine u (t.ctx i.ctx).core l) t)
    (removeLines s0 s.myCore (is.flatMap (fun i => i.lines)))
  (s1.updCore s.myCore (fun c => { c with seen := s.nextId })).updMyLane
    (fun x => { x with joined := distinct (names ++ x.joined) })

/-- A WAITC, or a TESTC that succeeds, at the counter at `a`: an acquire of the counter, which also joins the commands that
have added to it (R120, R121, R131). -/
def acquireCounter (a : Word) (loc : Nat) : Op Unit := do
  acquireOp (← get).who 4 ((← get).coverOf a)
  modify (fun t => joinCounter t loc)

/-- WAITC. -/
def execWaitc (h : Hdr) (o : RegOps) (s : State) : Res :=
  gateOp h s do
    let a := s.srcS 1 o.a
    let sp := o.sub.getLsbD 0
    let p ← counterPlace sp a.toNat false
    let v ← counterRead true a.toNat p
    if (s.srcS 2 o.b).toNat ≤ v then
      acquireCounter a p.1
      modify (fun t => t.wrS o.d (BitVec.ofNat 64 v) interlocked)
    else
      modify (fun t => t.park p.1 a .counter)

/-- TESTC. -/
def execTestc (h : Hdr) (o : RegOps) (s : State) : Res :=
  gateOp h s do
    let a := s.srcS 1 o.a
    let sp := o.sub.getLsbD 0
    let p ← counterPlace sp a.toNat false
    let v ← counterRead false a.toNat p
    if (s.srcS 2 o.b).toNat ≤ v then
      acquireCounter a p.1
      modify (fun t => t.wrS o.d 1 interlocked)
    else
      modify (fun t => t.wrS o.d 0 interlocked)

/-- TESTC.q (R302, R312). -/
def execTestcQ (h : Hdr) (o : RegOps) (s : State) : Res :=
  plain h s (fun s =>
    let a := (s.srcS 1 o.a).toNat
    let v : Nat := match laneOfCode (bits a 16 2) with
      | none => 0
      | some l => match s.cmdOf s.cur.ctx l (BitVec.ofNat 16 a) with
        | none => 0
        | some c => 2 ^ 10 + (if c.phase = .held ∧ c.fault.isSome then 2 ^ 9 else 0) + 2 ^ 16 * (c.off % 2 ^ 48)
    s.wrS o.d (BitVec.ofNat 64 v) interlocked)

/-- CSET (R311, R314). -/
def execCset (h : Hdr) (o : RegOps) (s : State) : Res :=
  gateOp h s do
    let a := (s.srcS 1 o.a).toNat
    let sp := o.sub.getLsbD 0
    let p ← counterPlace sp a true
    let bs := bytesOf (s.srcS 2 o.b).toNat 8
    if sp then spadWrite ((List.range 8).map (p.1 + ·)) bs interlocked
    else homeWrite s.myCore p.1 bs
    leaveCounter p
    modify (fun t => { t with incs := t.incs.filter (fun i => i.loc != p.1) })

/-- EDEP (R77, R312). -/
def execEdep (h : Hdr) (o : RegOps) (s : State) : Res :=
  plain h s (fun s =>
    s.updMyLane (fun x => { x with edep := some (BitVec.ofNat 18 (s.srcS 1 o.a).toNat, BitVec.ofNat 18 (s.srcS 2 o.b).toNat) }))

/-! ### Fabric commands (R315, R316) -/

/-- The group that a partition's contexts address, if any: one that is formed (R422), else one that is broken, whose peers
keep their ranks: a transfer with an unreachable one raises LINK_FAIL (R424; log 122). -/
def groupOfPart (s : State) (part : Nat) : Option (Nat × Group) :=
  let of (st : GroupState) := s.groups.find? (fun kg => kg.2.st == st && kg.2.part == part)
  match of .formed with
  | some kg => some kg
  | none => of .broken

/-- Bytes that an FSEND or FRECV names, and whether they are in range. -/
def fabricLen (o : EngOps) (desc : Word) : Op (List Byte × Nat × Bool) := do
  if o.fl.getLsbD 4 then
    let bs ← readBlock desc.toNat 32 32
    return (bs, blkRows bs * blkRb bs, shapeOk bs)
  else return ([], desc.toNat, true)

/-- The rank that stands for this module itself. -/
def selfRank : Nat := 8

/-- Issues an FSEND or FRECV with a peer: its number among the commands to or from that peer (R315). -/
def issueFabric (o : EngOps) (s : State) (kind : CmdKind) (peer : Word) : Op Unit := do
  let (bs, n, ok) ← fabricLen o (s.srcS 2 o.desc)
  let r := bits peer.toNat 20 3
  let die := bits peer.toNat 16 4
  let tag := bits peer.toNat 0 16
  let grp := groupOfPart s s.me.part
  let (g, me) := match grp with
    | some kg => (kg.2.g, kg.2.rank)
    | none => (1, 0)
  let key := tag + 2 ^ 16 * die + 2 ^ 20 * r
  let d := s.die s.myDie
  let k := (kvGet (if kind = .fsend then d.sends else d.recvs) key).getD 0
  let inRange := ok && decide (r < g)
  issueCmd o ⟨kind, bs, n, rangeCode inRange, (if r = me then selfRank else r, die, tag, k), 0, grp.map (·.1)⟩ []
  if inRange then
    modify (fun t => t.updDie s.myDie (fun x =>
      if kind = .fsend then { x with sends := kvPut x.sends key (k + 1) }
      else { x with recvs := kvPut x.recvs key (k + 1) }))

/-- FSEND. -/
def execFsend (h : Hdr) (o : EngOps) (s : State) : Res := gateOp h s (asCommand (issueFabric o s .fsend (s.srcS 0 o.dst)))

/-- FRECV. -/
def execFrecv (h : Hdr) (o : EngOps) (s : State) : Res := gateOp h s (asCommand (issueFabric o s .frecv (s.srcS 1 o.src)))

/-- Fields of a collective's block (R316). -/
def collOp (bs : List Byte) : Nat := bits (blkWord bs 0) 0 4
def collRed (bs : List Byte) : Nat := bits (blkWord bs 0) 4 4
def collType (bs : List Byte) : Nat := bits (blkWord bs 0) 8 5
def collRm (bs : List Byte) : Nat := bits (blkWord bs 0) 14 2
def collCnt (bs : List Byte) : Nat := bits (blkWord bs 1) 0 40
def collGrp (bs : List Byte) : Nat := blkWord bs 2
/-- Bytes of an element, and of a member's source. -/
def collSize (bs : List Byte) : Nat := typeWidth (collType bs) / 8
def collBytes (bs : List Byte) : Nat := collCnt bs * collSize bs

/-- The fields are in range for a group of `g` members. -/
def collOk (bs : List Byte) (g : Nat) : Bool :=
  decide (collOp bs ≤ 4) && decide (collRed bs ≤ 2) && [4, 5, 8, 9, 10].contains (collType bs)
    && (!(collOp bs == 2 || collOp bs == 4) || collCnt bs % g == 0)

/-- Bytes of a member's destination. -/
def collDst (bs : List Byte) (g : Nat) : Nat :=
  match collOp bs with
  | 1 => g * collBytes bs
  | 2 => collBytes bs / g
  | _ => collBytes bs

/-- The group that GRP names, FORMED or BROKEN on this module (R422). -/
def groupOfHandle (s : State) (h : Nat) : Option (Nat × Group) :=
  if 256 ≤ h then none
  else s.groups.find? (fun kg => (kg.2.st == .formed || kg.2.st == .broken) && kg.2.handle == h)

/-- FCOLL: on a broken handle it completes RING_BROKEN at once (R427). -/
def execFcoll (h : Hdr) (o : EngOps) (s : State) : Res :=
  gateOp h s <| asCommand do
    let bs ← readBlock (s.srcS 2 o.desc).toNat 32 32
    match groupOfHandle s (collGrp bs) with
    | none => issueCmd o (draft .fcoll bs 0 1) []
    | some (key, g) =>
      let ok := collOk bs g.g
      let code := if !ok then 1 else if g.st = .broken then 3 else 0
      let src := if o.fl.getLsbD 3 && code == 0 then [((s.srcS 1 o.src).toNat, collBytes bs, false)] else []
      issueCmd o ⟨.fcoll, bs, collDst bs g.g, code, (key, g.issued, 0, 0), 0, some key⟩ src
      if code = 0 then modify (fun t => t.updGroup key (fun x => { x with issued := x.issued + 1 }))

end Sys2Proof.Machine
end

