-- ==== Sys2Proof/Machine/Fabric.lean ====
section
/-! DEFINITION. How fabric commands proceed: transfers between endpoints, collectives, their decisions, and
groups that break (12_matrix_engines.md R315 to R317; 19_links_fabric.md R421 to R428). -/

namespace Sys2Proof.Machine

/-- `n` free values. -/
def State.freeList (s : State) (n : Nat) : List Nat × State :=
  ((List.range n).map (fun i => Config.free i s.fresh), { s with fresh := s.fresh + 1 })

/-- Goes on with what a movement left, if it has not stopped. -/
def Moved.andThen (m : Moved) (k : EngCmd → State → Moved) : Moved :=
  match m with
  | .go c none s => k c s
  | r => r

/-- Every byte of a command moves. -/
def moveAll (s : State) (c : EngCmd) : Moved :=
  (beginCmd s c).andThen (fun d t => moveUnits t d d.len)

/-! ### FSEND and FRECV (R315, R424) -/

/-- A command that is out of range, or issued on a broken handle: it has no part in a transfer and completes at once
(R303, R427). -/
def EngCmd.idle (c : EngCmd) : Bool := c.code != 0 && c.len == 0 && !c.acked

/-- The FSEND of this module that matches an FRECV. -/
def sendFor (s : State) (c : EngCmd) : Option EngCmd :=
  s.cmds.find? (fun m => m.kind == .fsend && !m.idle && !m.acked && c.ends.1 == selfRank && m.ends.1 == selfRank
    && dieOfCore m.core == c.ends.2.1 && m.ends.2.1 == dieOfCore c.core && m.ends.2.2 == c.ends.2.2)

/-- The lanes of a set, ascending. -/
def laneList (set_ : BitVec 16) : List Nat := (List.range 16).filter (fun i => set_.getLsbD i)

/-- The lane that carries the traffic of die `a` of one module to die `b` of a peer: λ_((16·a + b) mod n) of the peer's
set (R423); none for an empty set. -/
def pairLane (set_ : BitVec 16) (a b : Nat) : Option Nat :=
  let ls := laneList set_
  ls[(16 * a + b) % ls.length]?

/-- The lanes in use towards a peer. -/
def Group.laneSet (g : Group) (rank : Nat) : BitVec 16 := ((g.lanes.find? (fun l => l.1 == rank)).map (·.2)).getD 0

/-- The lane of a command's traffic with its peer, in the group that it addresses (R315, R423). -/
def cmdLane (s : State) (c : EngCmd) : Option Nat :=
  c.grp.bind (fun key => pairLane ((s.group key).laneSet c.ends.1) (dieOfCore c.core) c.ends.2.1)

/-- No lane is in use towards the peer of a command (R424). -/
def unreachable (s : State) (c : EngCmd) : Bool := c.ends.1 != selfRank && (cmdLane s c).isNone

/-- LINK_FAIL of a transfer whose peer cannot be reached: DETAIL is the lane of the peer's set that failed last. -/
def linkFail (s : State) (c : EngCmd) : State :=
  let last := c.grp.bind (fun key => ((s.group key).lost.find? (fun l => l.1 == c.ends.1)).map (fun l => l.2.1))
  cmdFatal s c .linkFail (last.getD s.module.lastLane) 0

/-- The data of an FRECV: what its FSEND has read, or what another module sends, which is free. -/
def receive (s : State) (c : EngCmd) : Moved :=
  if c.acked then .go c none s
  else if unreachable s c then .dead (linkFail s c)
  else if c.ends.1 = selfRank then
    match sendFor s c with
    | none => .wait
    | some m =>
      let n := min m.len c.len
      if m.off < n then .wait
      else
        let d := { c with data := m.data.take n, len := n, code := if m.len = c.len then 0 else 2, acked := true }
        .go d none (s.putCmd d)
  else
    let (k, s1) := s.free 40
    let (m, s2) := s1.free 41
    let sent := if k % 2 = 0 then c.len else m
    let n := min sent c.len
    let (bs, s3) := s2.freeList n
    let d := { c with
      data := bs.map (fun b => some (BitVec.ofNat 8 b)), len := n, code := if sent = c.len then 0 else 2, acked := true }
    .go d none (s3.putCmd d)

/-- The receiver acknowledges every byte to the FSEND (R315). -/
def acknowledge (s : State) (c : EngCmd) : State :=
  match sendFor s c with
  | some m => s.putCmd { m with acked := true, off := c.len, code := c.code }
  | none => s

/-- An FRECV, up to its completion. -/
def advanceRecv (s : State) (c : EngCmd) : Moved :=
  (receive s { c with phase := .started }).andThen (fun d t =>
    (moveUnits t d d.len).andThen (fun e u => finishCmd (acknowledge u e) e))

/-- An FSEND: its bytes are read, then acknowledged. -/
def advanceSend (s : State) (c : EngCmd) : Moved :=
  if unreachable s c then .dead (linkFail s c)
  else if c.acked then finishCmd s c
  else
    (moveAll s c).andThen (fun d t =>
      if d.ends.1 = selfRank then .wait
      else
        let (k, t1) := t.free 42
        let (m, t2) := t1.free 43
        let taken := if k % 2 = 0 then d.len else m
        let e := { d with acked := true, off := min taken d.len, code := if taken = d.len then 0 else 2 }
        finishCmd (t2.putCmd e) e)

/-! ### Collectives (R316, R425 to R428) -/

/-- The bytes of a member's source. -/
def collSource (s : State) (c : EngCmd) : Option Stop × State × Option (List Byte) :=
  let (ps, m) := (((List.range (collBytes c.blk)).mapM (fun i =>
    findPlace (s.cmdWho c) false false (c.srcSpot i))).run.run ⟨s, []⟩)
  match ps with
  | .error e => (some e, m.s, none)
  | .ok ps =>
    match (readPlaces c (ps.map some)).run.run m.s with
    | (.ok bs, t) => (none, t, some (bs.map (fun b => b.getD 0)))
    | (.error (.fatal x d a), t) => (none, cmdFatal (keepTranslations m.s t) c x d a, none)
    | (.error _, _) => (none, s, none)

/-- One pair of a list, chosen by a free number, is combined; a list of one stays. -/
def combineSome (op : Nat → Nat → Nat) (pick : Nat) (xs : List Nat) : List Nat :=
  let n := xs.length
  let i := pick % n
  let rest := xs.eraseIdx i
  let j := pick / n % rest.length
  if n ≤ 1 then xs else op (xs.getD i 0) (rest.getD j 0) :: rest.eraseIdx j

/-- Some binary tree over some arrangement of the values (R426). -/
def anyTree (op : Nat → Nat → Nat) (picks : List Nat) (xs : List Nat) : Nat :=
  (picks.foldl (fun l p => combineSome op p l) xs).headD 0

/-- One element of a reduction: the fixed tree in deterministic mode, else a free one. -/
def reduceElem (bs : List Byte) (detm : Bool) (picks : List Nat) (xs : List Nat) : Nat :=
  let op := redOp (collType bs) ([0, 2, 1].getD (collRed bs) 0) (collRm bs) false
  if detm then (redTree op 3 xs).headD 0 else anyTree op picks xs

/-- The elements of a buffer. -/
def collElems (bs : List Byte) (x : List Byte) : List Nat := (chunks (collSize bs) (collCnt bs) x).map leNat

/-- Elements `lo` to `lo + n − 1` of the reduction of all members' sources. -/
def reduceRange (bs : List Byte) (detm : Bool) (free : List Nat) (src : List (List Byte)) (lo n : Nat) : List Byte :=
  let rows := src.map (collElems bs)
  (List.range n).flatMap (fun i =>
    bytesOf (reduceElem bs detm ((free.drop (8 * i)).take 7) (rows.map (fun r => r.getD (lo + i) 0))) (collSize bs))

/-- The destination of member `r` from the sources of all members in rank order. -/
def collResult (bs : List Byte) (detm : Bool) (free : List Nat) (src : List (List Byte)) (r : Nat) : List Byte :=
  let g := src.length
  let seg := collCnt bs / g
  let b := seg * collSize bs
  match collOp bs with
  | 0 => reduceRange bs detm free src 0 (collCnt bs)
  | 1 => src.flatten
  | 2 => reduceRange bs detm free src (r * seg) seg
  | 3 => src.getD ((r + g - 1) % g) []
  | _ => src.flatMap (fun x => (x.drop (r * b)).take b)

/-- The collective of a group with an ordinal, if this module has it in flight. -/
def collCmd (s : State) (key n : Nat) : Option EngCmd :=
  s.cmds.find? (fun c => c.kind == .fcoll && !c.idle && c.grp == some key && c.ends.2.1 == n)

/-- A collective is decided: what its destination is to hold. -/
def decideCmd (s : State) (c : EngCmd) (code : Nat) (data : List (Option Byte)) : State :=
  s.putCmd { c with acked := true, code := code, data := data }

/-- A broken collective's destination: each element keeps its value or takes one that the command wrote,
which is free (R317). -/
def breakCmd (s : State) (c : EngCmd) : State :=
  let (xs, t) := s.freeList (2 * c.len)
  let z := max 1 (collSize c.blk)
  decideCmd t c 3 ((List.range c.len).map (fun i =>
    if xs.getD (i / z) 0 % 2 = 0 then none else some (BitVec.ofNat 8 (xs.getD (c.len + i) 0))))

/-- Writes a field of the 8-byte word at an offset of a group's record (R422); nothing where its page does not translate. -/
def putRecord (s : State) (g : Group) (off lo len v : Nat) : State :=
  match (s.translate 14 g.asid.toNat true true (g.record.toNat + off)).1 with
  | .ok x => (s.setField x.loc lo len v).touchWords x.loc 8
  | .error _ => s

/-- Writes the lanes in use to a group's record (R421 to R423). -/
def writeLanes (s : State) (g : Group) (lanes : List (Nat × BitVec 16)) : State :=
  lanes.foldl (fun t p => putRecord t g (0x10 + 8 * p.1) 0 16 p.2.toNat) s

/-- The STATE of a group, in this module and in its record. -/
def setGroupState (s : State) (key : Nat) (st : GroupState) (code : Nat) : State :=
  putRecord (s.updGroup key (fun x => { x with st := st })) (s.group key) 0 40 2 code

/-- A group breaks from the first collective not decided OK on (R427). -/
def breakGroup (s : State) (key : Nat) : State :=
  let s1 := setGroupState s key .broken 2
  (s1.cmds.filter (fun c => c.kind == .fcoll && c.grp == some key && !c.idle && !c.acked)).foldl breakCmd s1

/-- A collective, up to its completion. -/
def advanceColl (s : State) (c : EngCmd) : Moved :=
  if c.acked then
    (moveUnits s { c with phase := .started } c.len).andThen (fun d t => finishCmd t d)
  else
    match collSource s { c with phase := .started } with
    | (some e, t, _) => stopAt { c with phase := .started } (some e) t
    | _ => .wait

/-- A member has done its part of the collective to be decided next, and reports (R427). -/
def addReport (s : State) (key rank : Nat) (bs : List Byte) : State :=
  s.updGroup key (fun g =>
    if g.reports.any (fun r => r.1 == rank) then g else { g with reports := g.reports ++ [(rank, bs)] })

/-- FCOLL_MEMBER_REPORT: this module reports what its command has read; a peer's report brings its
source, which comes from outside. -/
def execFcollMemberReport (s : State) : Res :=
  let key := s.cur.ev.a
  let g := s.group key
  if g.st ≠ .formed then .next s
  else if s.cur.ev.b = g.rank then
    match collCmd s key g.decided with
    | none => .next s
    | some c =>
      if !c.predsDone ∨ c.phase = .held then .next s
      else match collSource s c with
        | (none, t, some bs) => .next (addReport (t.putCmd { c with phase := .started }) key g.rank bs)
        | (none, t, none) => .next t
        | _ => .next s
  else if s.cur.ev.b < g.g then .next (addReport s key s.cur.ev.b s.cur.ev.bytes)
  else .next s

/-- This module has a collective of a group in flight that has no decision. -/
def undecided (s : State) (key : Nat) : Bool :=
  s.cmds.any (fun c => c.kind == .fcoll && !c.idle && c.grp == some key && !c.acked)

/-- The collective to be decided next is decided OK, which answers what this module may have asked the home (R428). -/
def decideOk (s : State) (key : Nat) : State :=
  let g := s.group key
  let s1 := s.updGroup key (fun x => { x with decided := x.decided + 1, reports := [], breakReq := false })
  match collCmd s key g.decided with
  | none => s1
  | some c =>
    let n := collBytes c.blk
    let src := (List.range g.g).map (fun r =>
      padTo n (((g.reports.find? (fun x => x.1 == r)).map (·.2)).getD []))
    let (xs, t) := s1.freeList (8 * collCnt c.blk)
    decideCmd t c 0 ((collResult c.blk (s.ctx c.ctx).ctrl.detm xs src g.rank).map some)

/-- FCOLL_DECISION: the home decides by R427; a member takes the decision that reaches it, `ev.b` 3 for
RING_BROKEN. -/
def execFcollDecision (s : State) : Res :=
  let key := s.cur.ev.a
  let g := s.group key
  let all := (List.range g.g).all (fun r => g.reports.any (fun x => x.1 == r))
  if g.st ≠ .formed then .next s
  else if (if g.rank = 0 then g.breakReq else s.cur.ev.b == 3) then .next (breakGroup s key)
  else if all then .next (decideOk s key)
  else .next s

/-- FCOLL_RTO_EXPIRY: a member whose collective has no decision asks for a break; at the home, the request of a peer
counts too (R427, R428). -/
def execFcollRtoExpiry (s : State) : Res :=
  let key := s.cur.ev.a
  let g := s.group key
  if g.st = .formed ∧ (undecided s key ∨ g.rank = 0) then .next (s.updGroup key (fun x => { x with breakReq := true }))
  else .next s

/-- FCOLL_HOME_SILENT_EXPIRY: the home has not answered, so the member completes RING_BROKEN by itself
(R428). -/
def execFcollHomeSilentExpiry (s : State) : Res :=
  let key := s.cur.ev.a
  let g := s.group key
  if g.st = .formed ∧ g.breakReq ∧ g.rank ≠ 0 ∧ undecided s key then .next (breakGroup s key)
  else .next s

end Sys2Proof.Machine
end

