-- ==== Sys2Proof/Machine/Tables.lean ====
section
/-! DEFINITION. Key-value pages, block tables and the prefix index as structures in memory: pools, page
states, versions, pins, index nodes, eviction, rows in the three page formats (07_kv_pages.md R157 to R178,
R182; 02_numbers.md R48 to R51). -/

namespace Sys2Proof.Machine

/-! ### Access at homes -/

/-- Reads bytes at their homes, piece by piece; a forwarded access is counted (R111). -/
def homeLoad (w : Who) (va n : Nat) : Op (List Byte) :=
  (pieces (va % 2 ^ 64) n).foldlM (fun acc p => do
    let x ← xlat w false p.1
    let bs ← homeRead w.core x.loc p.2
    modify (fun s => countAccess s w x)
    return acc ++ bs) []

/-- Writes bytes at their homes, piece by piece; a forwarded access is counted (R111). -/
def homeStore (w : Who) (va : Nat) (bs : List Byte) : Op Unit := do
  let _ ← (pieces (va % 2 ^ 64) bs.length).foldlM (fun o p => do
    let x ← xlat w true p.1
    if x.mg then throw .stall
    homeWrite w.core x.loc ((bs.drop o).take p.2)
    modify (fun s => countAccess s w x)
    return o + p.2) 0

def hNat (w : Who) (va n : Nat) : Op Nat := do return leNat (← homeLoad w va n)
def hPut (w : Who) (va n v : Nat) : Op Unit := homeStore w va (bytesOf v n)

/-- Adds to a 64-bit word at its home: one atomic access (R111, R132). -/
def homeAdd (w : Who) (va n : Nat) : Op Unit := do
  if va % 8 ≠ 0 then hPut w va 8 ((← hNat w va 8) + n)
  else
    let x ← xlat w true va
    if x.mg then throw .stall
    let v := leNat (← homeRead w.core x.loc 8)
    modify (fun s => countAccess (homeWriteLoc s w.core x.loc (bytesOf (v + n) 8)) w x)

/-- KV_CORRUPT with the address of the structure (R182). -/
def kvBad {α : Type} (a : Nat) : Op α := fatalOp .kvCorrupt 0 a

/-- The value that stands for a hole, no page, no node and no entry. -/
def noEntry : Nat := 0xFFFFFFFF

/-! ### The index descriptor (R171) -/

/-- The registered index, and on whose behalf its structures are named. -/
def indexOf (w : Who) : Op (Nat × Who) := do
  match (← get).index with
  | none => kvBad 0
  | some (a, asid) => return (a.toNat, deviceWho (dieOfCore w.core) asid.toNat)

def poolCount (w : Who) : Op Nat := do
  let (a, iw) ← indexOf w
  hNat iw (a + 0x208) 2

/-! ### Pools (R157 to R161) -/

/-- A pool descriptor: its address, and its fields with the counts in full. -/
structure Pool where
  a : Nat
  id : Nat
  fmt : Nat
  ng : Nat
  lgl : Nat
  nh : Nat
  d : Nat
  base : Nat
  npages : Nat
  stride : Nat
  t2base : Nat
  t2stride : Nat
  psa : Nat
  freer : Nat
  deriving DecidableEq, Repr, Inhabited

/-- An address of the device half, 64 KiB aligned (R157). -/
def storageOk (a : Nat) : Bool := decide (2 ^ 56 ≤ a) && decide (a < 2 ^ 57) && a % 65536 == 0

/-- Reads and checks a pool descriptor. Its number is compared with NPOOL where an index is registered. -/
def poolAt (w : Who) (a : Nat) : Op Pool := do
  let bs ← homeLoad w a 64
  let q := blkWord bs 0
  let p : Pool :=
    { a := a, id := bits q 16 16, fmt := bits q 32 1, ng := bits q 36 4 + 1, lgl := bits q 40 4 + 1
      nh := bits q 44 7 + 1, d := 64 * bits q 52 4, base := blkWord bs 1
      npages := bits (blkWord bs 2) 0 32, stride := bits (blkWord bs 2) 32 32
      t2base := blkWord bs 3, t2stride := bits (blkWord bs 4) 0 32
      psa := blkWord bs 5, freer := blkWord bs 6 }
  let most ← if (← get).index.isSome then poolCount w else pure 65536
  if bits q 0 16 = 0x9A6E ∧ 64 ≤ p.d ∧ p.d ≤ 512 ∧ storageOk p.base ∧ storageOk p.t2base ∧ 1 ≤ p.npages
      ∧ p.npages ≤ 2 ^ 24 ∧ p.id < most then return p
  else kvBad a

/-- Storage of a page's group in the stacks (tier 0) or the second tier. -/
def Pool.store (p : Pool) (pn g tier : Nat) : Nat :=
  if tier = 0 then p.base + (pn * p.ng + g) * p.stride * 64
  else p.t2base + (pn * p.ng + g) * p.t2stride * 64

def Pool.sections (p : Pool) : Nat := 2 * p.lgl * p.nh

/-- Size of a section in a page format: 0 KVB16, 1 KVBP8, 2 KVBP4. -/
def sectionSize (d pf : Nat) : Nat :=
  match pf with
  | 0 => 32 * d
  | 1 => 16 * d + 64 * ceilDiv d 128
  | _ => 8 * d + 64 * ceilDiv d 128

def Pool.pageBytes (p : Pool) (pf : Nat) : Nat := p.sections * sectionSize p.d pf

/-- A page-state word (R159). -/
structure PageState where
  state : Nat
  pf : Nat
  tier : Nat
  node : Nat
  deriving DecidableEq, Repr, Inhabited

def pageState (w : Who) (p : Pool) (pn : Nat) : Op PageState := do
  let v ← hNat w (p.psa + 8 * pn) 8
  return ⟨bits v 0 2, bits v 2 2, bits v 4 1, bits v 32 32⟩

def setPageState (w : Who) (p : Pool) (pn : Nat) (x : PageState) : Op Unit :=
  hPut w (p.psa + 8 * pn) 8 (x.state + 4 * x.pf + 16 * x.tier + 2 ^ 32 * x.node)

/-- The state of a page that a table's entry names (R182). -/
def entryState (w : Who) (p : Pool) (bt pn : Nat) : Op PageState := do
  if p.npages ≤ pn then kvBad bt
  let x ← pageState w p pn
  if x.state = 0 then kvBad bt
  return x

/-- The free-page rod (R161): a rod operation like any other, which a page move holds (R394), which is counted (R111), and
which a host-owned line does not support (R112, R142). -/
def freeRod (w : Who) (p : Pool) : Op RodRef := do
  let x ← xlat w true p.freer
  hostCheck x p.freer false
  if x.mg then throw .stall
  drainFor w.core x.loc 64
  modify (fun s => countAccess s w x)
  return ⟨x.loc, BitVec.ofNat 64 p.freer, false⟩

/-- Frees a page (R161). -/
def freePage (w : Who) (p : Pool) (pn : Nat) : Op Unit := do
  setPageState w p pn { (← pageState w p pn) with state := 0 }
  match ← rodEnq w (← freeRod w p) (bytesOf pn 8) 8 false false with
  | .done 0 _ _ => pure ()
  | _ => kvBad p.freer

/-! ### Index nodes (R172, R173) -/

structure Node where
  page : Nat
  parent : Nat
  next : Nat
  ref : Nat
  nch : Nat
  valid : Bool
  stamp : Nat
  pool : Nat
  tok : Nat
  deriving DecidableEq, Repr, Inhabited

def nodeAddr (w : Who) (nn : Nat) : Op Nat := do
  let (a, iw) ← indexOf w
  let sh := a + 32 * (nn / 2 ^ 28 % 16)
  let nodes ← hNat iw sh 8
  let n ← hNat iw (sh + 0x10) 4
  if bits n 0 27 ≤ nn % 2 ^ 28 then kvBad a
  return nodes + 64 * (nn % 2 ^ 28)

def nodeAt (w : Who) (nn : Nat) : Op Node := do
  let (_, iw) ← indexOf w
  let bs ← homeLoad iw (← nodeAddr w nn) 64
  let q (i : Nat) := blkWord bs i
  return { page := bits (q 0) 0 32, parent := bits (q 0) 32 32, next := bits (q 1) 0 32, ref := bits (q 1) 32 16
           nch := bits (q 1) 48 15, valid := bits (q 1) 63 1 == 1, stamp := bits (q 2) 0 48, pool := bits (q 2) 48 16
           tok := leNat (bs.drop 0x18) }

/-- A node of the tree; one whose pool does not exist is corrupt (R182). -/
def treeNode (w : Who) (nn : Nat) : Op Node := do
  let n ← nodeAt w nn
  if (← poolCount w) ≤ n.pool then kvBad (← nodeAddr w nn)
  return n

def setNode (w : Who) (nn : Nat) (n : Node) : Op Unit := do
  let (_, iw) ← indexOf w
  homeStore iw (← nodeAddr w nn)
    (packNats 8 [n.page + 2 ^ 32 * n.parent,
      n.next + 2 ^ 32 * n.ref + 2 ^ 48 * n.nch + 2 ^ 63 * n.valid.toNat, n.stamp + 2 ^ 48 * n.pool]
     ++ bytesOf n.tok 40)

/-- One bit step of CRC-32C, least significant bit first. -/
def crc32cShift (c : Nat) : Nat := if c % 2 = 1 then Nat.xor (c / 2) 0x82F63B78 else c / 2

def crc32cByte (c : Nat) (b : Byte) : Nat :=
  crc32cShift (crc32cShift (crc32cShift (crc32cShift (crc32cShift (crc32cShift (crc32cShift (crc32cShift
    (Nat.xor c b.toNat))))))))

def crc32c (bs : List Byte) : Nat := Nat.xor (bs.foldl crc32cByte 0xFFFFFFFF) 0xFFFFFFFF

/-- H of an edge, and the shard in which its node lives. -/
def edgeHash (parent tok : Nat) : Nat := crc32c (bytesOf parent 4 ++ bytesOf tok 40)
def edgeShard (parent h : Nat) : Nat := if 0xFFFF0000 ≤ parent then h / 2 ^ 28 else parent / 2 ^ 28

/-- PARENT of a first edge of a pool. -/
def rootOf (p : Pool) : Nat := 0xFFFF0000 + p.id

/-- The TOK field of sixteen tokens. -/
def edgeTokens : List Nat → Nat
  | [] => 0
  | t :: ts => t % 2 ^ 20 + 2 ^ 20 * edgeTokens ts

/-- The address of an edge's bucket. -/
def bucketAddr (w : Who) (d h : Nat) : Op Nat := do
  let (a, iw) ← indexOf w
  let n ← hNat iw (a + 32 * d + 0x10) 4
  return (← hNat iw (a + 32 * d + 8) 8) + 4 * (h % 2 ^ bits n 27 5)

/-- The node with a key in a bucket chain; a chain longer than the shard has nodes is corrupt. -/
def chainFind (w : Who) (npool parent tok : Nat) : Nat → Nat → Op (Option Nat)
  | 0, nn => do kvBad (← nodeAddr w nn)
  | k + 1, nn => do
    if nn = noEntry then return none
    let n ← nodeAt w nn
    if !n.valid ∨ npool ≤ n.pool then kvBad (← nodeAddr w nn)
    if n.parent = parent ∧ n.tok = tok then return some nn
    chainFind w npool parent tok k n.next

def findEdge (w : Who) (parent tok : Nat) : Op (Option Nat) := do
  let h := edgeHash parent tok
  let d := edgeShard parent h
  let (a, iw) ← indexOf w
  let first ← hNat iw (← bucketAddr w d h) 4
  let n ← hNat iw (a + 32 * d + 0x10) 4
  chainFind w (← poolCount w) parent tok (bits n 0 27 + 1) first

/-- Stamps a node (R173). -/
def stampNode (w : Who) (nn : Nat) : Op Unit := do
  let (a, iw) ← indexOf w
  let at_ := a + 32 * (nn / 2 ^ 28 % 16) + 0x18
  let v ← hNat iw at_ 6
  setNode w nn { (← treeNode w nn) with stamp := v }
  hPut iw at_ 6 (v + 1)

/-- The valid nodes of a shard, ascending. -/
def shardNodes (w : Who) (d : Nat) : Op (List (Nat × Node)) := do
  let (a, iw) ← indexOf w
  let n ← hNat iw (a + 32 * d + 0x10) 4
  let ns ← (List.range (bits n 0 27)).mapM (fun i => do return (d * 2 ^ 28 + i, ← nodeAt w (d * 2 ^ 28 + i)))
  return ns.filter (fun x => x.2.valid)

/-! ### Eviction and allocation (R161, R178) -/

/-- Takes a node out of its bucket chain; a node of the chain that is not in the tree is corrupt (R182). -/
def unlinkNode (w : Who) (nn next : Nat) : Nat → Nat → Op Unit
  | 0, cur => do kvBad (← nodeAddr w cur)
  | k + 1, cur => do
    let n ← treeNode w cur
    if !n.valid then kvBad (← nodeAddr w cur)
    if n.next = nn then setNode w cur { n with next := next }
    else if n.next = noEntry then pure ()
    else unlinkNode w nn next k n.next

/-- Removes a node from the tree, and frees its page in its own pool. -/
def evictNode (w : Who) (nn : Nat) : Op Unit := do
  let n ← treeNode w nn
  let (a, iw) ← indexOf w
  let h := edgeHash n.parent n.tok
  let d := nn / 2 ^ 28 % 16
  let bucket ← bucketAddr w d h
  let first ← hNat iw bucket 4
  let count ← hNat iw (a + 32 * d + 0x10) 4
  if first = nn then hPut iw bucket 4 n.next else unlinkNode w nn n.next (bits count 0 27 + 1) first
  if n.parent < 0xFFFF0000 then
    let m ← treeNode w n.parent
    setNode w n.parent { m with nch := m.nch - 1 }
  let head ← hNat iw (a + 32 * d + 0x14) 4
  setNode w nn { n with valid := false, next := head }
  hPut iw (a + 32 * d + 0x14) 4 nn
  let table ← hNat iw (a + 0x200) 8
  let pool ← poolAt iw (← hNat iw (table + 8 * n.pool) 8)
  freePage iw pool n.page

/-- Evicts one node that a condition admits, any one of them (R6, R178). -/
def evictSome (w : Who) (shards : List Nat) (ok : Nat → Node → Bool) : Op Bool := do
  let all ← shards.mapM (shardNodes w)
  let victims := all.flatten.filter (fun x => x.2.ref == 0 && x.2.nch == 0 && ok x.1 x.2)
  match victims with
  | [] => return false
  | v :: vs =>
    let k ← if vs.isEmpty then pure 0 else Op.free 51
    evictNode w ((v :: vs).getD (k % (vs.length + 1)) v).1
    return true

def allShards : List Nat := List.range 16

/-- Takes a page number from the free-page rod; none if it is empty. Any other status is a corrupt pool (R182; for checks 3 to 7
of R144 DESIGN CHOICE, log 121). -/
def takeFree (w : Who) (p : Pool) : Op (Option Nat) := do
  match ← rodDeq w (← freeRod w p) 8 false with
  | .done 0 _ bead => return some (leNat (bead.take 4))
  | .done 1 _ _ => return none
  | _ => kvBad p.freer

/-- AllocPage. -/
def allocPage (w : Who) (p : Pool) : Op (Option Nat) := do
  match ← takeFree w p with
  | some n => return some n
  | none =>
    if (← get).index.isSome then
      if ← evictSome w allShards (fun _ n => n.pool == p.id) then takeFree w p else return none
    else return none

/-! ### Block tables (R163, R164) -/

structure Btd where
  a : Nat
  loc : Nat
  cap : Nat
  ent : Nat
  pool : Nat
  ver : Nat
  len : Nat
  pins : List Nat
  rets : List Nat
  sete : Nat
  napp : Nat
  deriving DecidableEq, Repr, Inhabited

def btdAt (w : Who) (a : Nat) : Op Btd := do
  let x ← xlat w false a
  hostCheck x a false
  let bs ← homeLoad w a 64
  let q (i : Nat) := blkWord bs i
  if bits (q 0) 0 16 ≠ 0xB7AB then kvBad a
  return { a := a, loc := x.loc, cap := bits (q 0) 32 32, ent := q 1, pool := q 2, ver := bits (q 3) 0 32
           len := bits (q 3) 32 32, pins := (List.range 4).map (fun i => bits (q 4) (16 * i) 16)
           rets := [bits (q 5) 0 32, bits (q 5) 32 32, bits (q 6) 0 32, bits (q 6) 32 32]
           sete := bits (q 7) 0 32, napp := bits (q 7) 32 16 }

def setPin (w : Who) (b : Btd) (slot v : Nat) : Op Unit := hPut w (b.a + 0x20 + 2 * (slot % 4)) 2 v
def setRet (w : Who) (b : Btd) (slot v : Nat) : Op Unit := hPut w (b.a + 0x28 + 4 * (slot % 4)) 4 v
def setLen (w : Who) (b : Btd) (v : Nat) : Op Unit := hPut w (b.a + 0x1C) 4 v
def setSete (w : Who) (b : Btd) (v : Nat) : Op Unit := hPut w (b.a + 0x38) 4 v
def setNapp (w : Who) (b : Btd) (v : Nat) : Op Unit := hPut w (b.a + 0x3C) 2 v

def entryAt (w : Who) (b : Btd) (e : Nat) : Op Nat := hNat w (b.ent + 4 * e) 4
def setEntry (w : Who) (b : Btd) (e v : Nat) : Op Unit := hPut w (b.ent + 4 * e) 4 v

/-- A version is drained: it and every older one have no pins (R164). -/
def Btd.drained (b : Btd) (v : Nat) : Bool :=
  let age := (b.ver + 2 ^ 32 - v) % 2 ^ 32
  if 3 < age then true else (List.range (4 - age)).all (fun i => b.pins.getD ((b.ver + 1 + i) % 4) 0 == 0)

/-- A change to the mapping need not wait: the version that leaves is drained. -/
def Btd.canAdvance (b : Btd) : Bool := b.pins.getD ((b.ver + 1) % 4) 0 == 0

/-- Every version is drained. -/
def Btd.allDrained (b : Btd) : Bool := b.pins.all (· == 0)

/-- Drops a reference to an indexed page. -/
def dropRef (w : Who) (p : Pool) (pn : Nat) : Op Unit := do
  let x ← pageState w p pn
  if x.state = 2 ∨ x.state = 3 then
    let n ← treeNode w x.node
    setNode w x.node { n with ref := n.ref - 1 }

/-- Drops the references that RET names for versions whose predecessor is drained (R164). -/
def settleRets (w : Who) (a : Nat) : Op Unit := do
  let b ← btdAt w a
  if b.rets.any (· != noEntry) then
    let p ← poolAt w b.pool
    [2, 1, 0].forM (fun age => do
      let v := b.ver + 2 ^ 32 - age
      let r := b.rets.getD (v % 4) noEntry
      if r ≠ noEntry ∧ b.drained ((v + 2 ^ 32 - 1) % 2 ^ 32) then
        dropRef w p r
        setRet w b v noEntry)

/-- The storage of every page that a table maps, as a cover (R120, R164). -/
def tableCover (w : Who) (b : Btd) (p : Pool) : Op Cover := do
  let regions ← (List.range b.cap).mapM (fun e => do
    let pn ← entryAt w b e
    if pn = noEntry then return none
    else
      let x ← entryState w p b.a pn
      let len := p.ng * (if x.tier = 0 then p.stride else p.t2stride) * 64
      return some (Binding.mk (BitVec.ofNat 64 (p.store pn 0 x.tier)) len 0 0))
  return .obj (regions.filterMap id) 0

/-- What the table's present mapping covers; where that cannot be read, every location. -/
def mappedCover (w : Who) (b : Btd) : Op Cover := do
  return ((← get).tryOp (do tableCover w b (← poolAt w b.pool))).1.getD .all

/-- A change to a table's mapping is a release of the context that makes it, which covers the pages that the new version
maps (R120, R164). The device's own changes follow no writes of a context. -/
def releaseTable (w : Who) (b : Btd) : Op Unit := do
  if (kvGet (← get).ctxs w.ctx).isSome then releaseOp w (← mappedCover w b)

/-- A new version (R164); the caller has seen that it need not wait. -/
def newVersion (w : Who) (b : Btd) (ret : Nat) : Op Unit := do
  hPut w (b.a + 0x18) 4 (b.ver + 1)
  setRet w b (b.ver + 1) ret
  settleRets w b.a

/-- The reference count of a page (R160). -/
def refCount (w : Who) (x : PageState) : Op Nat := do
  if x.state = 1 then return 1 else return (← treeNode w x.node).ref + 1

/-! ### Rows (R48, R49, R158, R195) -/

def planesIn (pf : Nat) : Nat := if pf = 1 then 8 else 4

/-- Offset and length of each run of bytes of row `t` in a section. -/
def sectionSpans (d pf t : Nat) : List (Nat × Nat) :=
  if pf = 0 then [(2 * t * d, 2 * d)]
  else (List.range (planesIn pf)).map (fun k => (2 * d * k + t * d / 8, d / 8))
    ++ [(2 * d * planesIn pf + t * (d / 32), d / 32)]

/-- The same, for row `t` of a page. -/
def Pool.rowSpans (p : Pool) (pf t : Nat) : List (Nat × Nat) :=
  (List.range p.sections).flatMap (fun x => (sectionSpans p.d pf t).map (fun s => (x * sectionSize p.d pf + s.1, s.2)))

/-- Bytes of a row of a section. -/
def sectionRow (d pf : Nat) : Nat := if pf = 0 then 2 * d else planesIn pf * (d / 8) + d / 32

/-- The values of a section's row, from its bytes, read with all the planes it has. -/
def decodeSection (d pf : Nat) (bs : List Byte) : List Num :=
  if pf = 0 then (chunks 2 d bs).map (fun x => decodeNum 9 (leNat x))
  else
    let n := planesIn pf
    let byte (i : Nat) : Nat := (bs.getD i 0).toNat
    (List.range d).map (fun e =>
      planeScaled (byte (n * (d / 8) + e / 32)) ((List.range n).map (fun k => bits (byte (k * (d / 8) + e / 8)) (e % 8) 1)))

/-- The bytes of a section's row, from its values. -/
def encodeSection (d pf : Nat) (xs : List Num) : List Byte :=
  if pf = 0 then xs.flatMap (fun x => bytesOf (roundNum (fpFmt 9) 0 false x).1 2)
  else
    let blocks := (List.range (d / 32)).map (fun j => kvEncode ((xs.drop (32 * j)).take 32))
    let codes := blocks.flatMap (fun b => b.2)
    let plane (k : Nat) : List Byte := (List.range (d / 8)).map (fun j =>
      BitVec.ofNat 8 ((List.range 8).foldl (fun v i => v + 2 ^ i * bits (codes.getD (8 * j + i) 0) (7 - k) 1) 0))
    (List.range (planesIn pf)).flatMap plane ++ blocks.map (fun b => BitVec.ofNat 8 b.1)

/-- A section's row in another format (R50, R195). -/
def convertSection (d src dst : Nat) (bs : List Byte) : List Byte :=
  if src = dst then bs
  else if src = 1 ∧ dst = 2 then bs.take (d / 2) ++ bs.drop d
  else encodeSection d dst (decodeSection d src bs)

/-- A page's row in another format. -/
def Pool.convertRow (p : Pool) (src dst : Nat) (bs : List Byte) : List Byte :=
  (chunks (sectionRow p.d src) p.sections bs).flatMap (convertSection p.d src dst)

def Pool.rowBytes (p : Pool) (pf : Nat) : Nat := p.sections * sectionRow p.d pf

/-- How pages are read and written: at homes by the sequence manager, through an engine by a command. -/
structure PageAccess where
  load : Nat → Nat → Op (List Byte)
  store : Nat → List Byte → Op Unit

def homeAccess (w : Who) : PageAccess := ⟨homeLoad w, homeStore w⟩

def loadRow (x : PageAccess) (p : Pool) (pn g : Nat) (st : PageState) (t : Nat) : Op (List Byte) := do
  let at_ := p.store pn g st.tier
  (p.rowSpans st.pf t).foldlM (fun acc s => do return acc ++ (← x.load (at_ + s.1) s.2)) []

def storeRow (x : PageAccess) (p : Pool) (pn g : Nat) (st : PageState) (t : Nat) (bs : List Byte) : Op Unit := do
  let at_ := p.store pn g st.tier
  let _ ← (p.rowSpans st.pf t).foldlM (fun o s => do
    x.store (at_ + s.1) ((bs.drop o).take s.2)
    return o + s.2) 0

/-- The state of a fresh page that replaces the entry `old` (R169). -/
def freshState (w : Who) (p : Pool) (old new : Nat) (st : PageState) : Op Unit :=
  setPageState w p new ⟨1, if old = noEntry then p.fmt else st.pf, 0, 0⟩

/-- A fresh page takes the contents of the page that it replaces (R169). -/
def copyFresh (x : PageAccess) (p : Pool) (old new : Nat) (st : PageState) : Op Unit :=
  if old = noEntry then pure ()
  else (List.range p.ng).forM (fun g => do
    let bs ← x.load (p.store old g st.tier) (p.pageBytes st.pf)
    x.store (p.store new g 0) bs)

/-! ### Waiting on a table (R165, R168, R177) -/

/-- A waiter on a table that releases entries: PFXREL, or the sequence operations that act as it does. -/
def isPfxrelWait (s : State) (q : Waiter) : Bool :=
  q.kind == .table && (match (s.lane q.ctx q.lane).parked with
    | some p => match p.instr with
      | .pfxrel _ _ => true
      | .sqparkMigdone _ _ => true
      | .sqparkRetire _ _ => true
      | _ => false
    | none => false)

/-- A commit whose release of entries waits at the table (R195, step 4). -/
def commitReleaseWaits (s : State) (loc : Nat) : Bool :=
  s.dies.any (fun kd => kd.2.seqs.any (fun q =>
    match q.commit with
    | some c => c.stage == 1 && (match (s.translate kd.1 q.asid.toNat true false (s.readNat (q.seq + 0x10) 8)).1 with
      | .ok x => x.loc == loc
      | .error _ => false)
    | none => false))

/-- A release of another party waits on the table. -/
def pfxrelWaits (s : State) (loc ctx : Nat) (l : Lane) : Bool :=
  commitReleaseWaits s loc
    || s.waiters.any (fun q => q.obj == loc && isPfxrelWait s q && !(q.ctx == ctx && q.lane == l))

/-! ### The page of a row, and the release of entries (R169, R177, R195) -/

/-- The page that takes a row at an entry: the one there, or a fresh one, which is entered (R169). None when
no page is to be had; it waits behind an append that sets up an entry, and behind a release (R169, R195). -/
def ownPage (w : Who) (x : PageAccess) (p : Pool) (a e : Nat) : Op (Option Nat) := do
  let b ← btdAt w a
  if b.sete ≠ noEntry ∨ pfxrelWaits (← get) b.loc (2 ^ 40) .L then throw .stall
  let pn ← entryAt w b e
  let st ← if pn = noEntry then pure default else entryState w p a pn
  let shared ← if pn = noEntry then pure true else pure (decide (1 < (← refCount w st)))
  if !shared then return some pn
  else
    if !b.canAdvance then throw .stall
    match ← allocPage w p with
    | none => return none
    | some new =>
      freshState w p pn new st
      copyFresh x p pn new st
      setEntry w b e new
      newVersion w b pn
      return some new

/-- Releases the entries from `f` on (R177); everything it waits for has come about. -/
def releaseFrom (w : Who) (b : Btd) (f : Nat) : Op Unit := do
  let p ← poolAt w b.pool
  let lo := min f b.cap
  (List.range (b.cap - lo)).forM (fun i => do
    let e := lo + i
    let pn ← entryAt w b e
    if pn ≠ noEntry then
      let st ← entryState w p b.a pn
      if st.state = 1 then freePage w p pn else dropRef w p pn
      setEntry w b e noEntry)
  setLen w b (min b.len (16 * f))
  releaseTable w b
  newVersion w b noEntry

/-- A release of entries need not wait (R177). -/
def Btd.quiet (b : Btd) : Bool := b.napp == 0 && b.sete == noEntry && b.allDrained

end Sys2Proof.Machine
end

