-- ==== Sys2Proof/Machine/Pages.lean ====
section
/-! DEFINITION. Block-table instructions and commands: KVMAP, KVUNPIN, BTINV, KVAPP and PSEL
(07_kv_pages.md R164 to R170, R179; 13_sync_sequence.md R343, R344). -/

namespace Sys2Proof.Machine

/-- A result word with a status and a field in [63:32] (R319). -/
def resultHigh (status hi : Nat) : Word := BitVec.ofNat 64 (status + 2 ^ 32 * (hi % 2 ^ 32))

/-- Writes the result word of the issuing instruction. -/
def putResult (d : BitVec 6) (v : Word) : Op Unit := modify (fun s => s.wrS d v interlocked)

/-- The issuing lane parks on a table. -/
def waitTable_ (loc : Nat) (a : Word) : Op Unit := modify (fun s => s.park loc a .table)

/-! ### KVMAP and KVUNPIN (R165, R166, R343) -/

/-- Committed rows of an entry. -/
def committedRows (len e : Nat) : Nat := min 16 (len - 16 * e)

/-- The record that KVMAP writes for an entry. -/
def mapRecord (w : Who) (b : Btd) (p : Pool) (g e : Nat) : Op (List Byte) := do
  let pn ← entryAt w b e
  let rows := committedRows b.len e
  if pn = noEntry then return packNats 8 [0, 3 + 2 ^ 8 * rows + 2 ^ 32 * noEntry]
  else
    let x ← entryState w p b.a pn
    return packNats 8 [p.store pn g x.tier % 2 ^ 64, x.pf + 2 ^ 8 * rows + 2 ^ 32 * pn]

/-- KVMAP. -/
def execKvmap (h : Hdr) (o : RegOps) (s : State) : Res :=
  gateOp h s do
    let a := s.srcS 1 o.a
    let c := (s.srcS 3 o.c).toNat
    let e0 := bits c 0 16
    let n := bits c 16 7
    let short := n == 0 || decide (64 < n)
    let locs ← if short then pure [] else ownBlock (s.srcS 2 o.b).toNat (16 * n) 16
    let w := s.who
    let b ← btdAt w a.toNat
    if short then putResult o.d (resultHigh 3 0)
    else
      let p ← poolAt w b.pool
      if b.cap < e0 + n ∨ p.ng ≤ bits c 24 4 then putResult o.d (resultHigh 3 0)
      else if pfxrelWaits s b.loc s.cur.ctx s.cur.lane then waitTable_ b.loc a
      else if 8 ≤ s.me.tablePins.length ∨ b.pins.getD (b.ver % 4) 0 = 65535 then putResult o.d (resultHigh 2 0)
      else
        let recs ← (List.range n).mapM (fun j => mapRecord w b p (bits c 24 4) (e0 + j))
        setPin w b b.ver (b.pins.getD (b.ver % 4) 0 + 1)
        acquireOp w 3 (← tableCover w b p)
        spadWrite locs recs.flatten interlocked
        modify (fun t => t.updMe (fun x => { x with tablePins := x.tablePins ++ [(b.loc, b.a, BitVec.ofNat 32 b.ver)] }))
        putResult o.d (resultHigh 0 b.ver)

/-- Releases one pin on a version (R164, R166). -/
def unpinVersion (w : Who) (a v : Nat) : Op Unit := do
  let b ← btdAt w a
  setPin w b v (b.pins.getD (v % 4) 0 - 1)
  settleRets w a

/-- KVUNPIN. -/
def execKvunpin (h : Hdr) (o : RegOps) (s : State) : Res :=
  gateOp h s do
    let a := (s.srcS 1 o.a).toNat
    let v : BitVec 32 := BitVec.ofNat 32 (s.srcS 2 o.b).toNat
    let x ← xlat s.who true a
    if let some p := s.me.tablePins.find? (fun p => p.1 == x.loc && p.2.2 == v) then
      unpinVersion s.who a v.toNat
      modify (fun t => t.updMe (fun c => { c with tablePins := c.tablePins.erase p }))
      putResult o.d 0x100
    else putResult o.d 0

/-! ### BTINV (R168) -/

/-- BTINV: waits for the slot of its version, creates it, and leaves the signal with the home. It is a release on the
table, and what its signal covers is performed with it (R120, R168). -/
def execBtinv (h : Hdr) (o : SysOps) (s : State) : Res :=
  privileged s 0xE7 (fun s => gateOp h s do
    let a := s.srcS 1 o.a
    let w := s.who
    let b ← btdAt w a.toNat
    if !b.canAdvance then waitTable_ b.loc a
    else
      releaseTable w b
      releaseOp w (s.coverOf (s.srcS 0 o.d))
      newVersion w b noEntry
      modify (fun t => { t with signals := t.signals ++
        [⟨a.toNat, s.me.ctrl.asid, s.me.holdsPriv, BitVec.ofNat 32 b.ver, s.srcS 0 o.d⟩] }))

/-- BTINV_SIGNAL (`ev.a` the table, `ev.b` its address space): the table's first signal adds 1 to its counter once its
version is drained. -/
def execBtinvSignal (s : State) : Res :=
  match s.signals.find? (fun g => g.table == s.cur.ev.a && g.asid.toNat == s.cur.ev.b) with
  | none => .next s
  | some g =>
    let w : Who := ⟨2 ^ 40, 1024, g.asid.toNat, g.priv, .L⟩
    match s.tryOp (do
      let b ← btdAt w g.table
      if !b.drained g.ver.toNat then throw .stall
      homeAdd w g.ctr.toNat 1) with
    | (some _, t) => .next { t with signals := t.signals.erase g }
    | (none, t) => .next t

/-! ### KVAPP (R169, R344) -/

def EngCmd.kvPos (c : EngCmd) : Nat := bits c.desc.toNat 0 32
def EngCmd.kvCount (c : EngCmd) : Nat := bits c.desc.toNat 32 5
def EngCmd.kvGroup (c : EngCmd) : Nat := bits c.desc.toNat 40 4

/-- Bytes of one token's source rows. -/
def Pool.tokenBytes (p : Pool) : Nat := p.sections * (2 * p.d)

/-- KVAPP: its source is the token rows in the own share. Their size follows the pool; where that cannot
be read when the command issues, the entry covers the share from the source on. -/
def execKvapp (h : Hdr) (o : EngOps) (s : State) : Res :=
  gateOp h s <| asCommand do
    let bt := (s.srcS 0 o.dst).toNat
    let src := (s.srcS 1 o.src).toNat
    let desc := (s.srcS 2 o.desc).toNat
    let n := bits desc 32 5
    let ok := decide (1 ≤ n) && decide (n ≤ 16) && decide (bits desc 0 4 + n ≤ 16)
    let (size, _) := s.tryOp (do
      let b ← btdAt s.who bt
      let p ← poolAt s.who b.pool
      return n * p.tokenBytes)
    let share := 4 * bankShare (s.core s.myCore) s.me.bank
    let len := size.getD (share - src)
    if ok && !(decide (src < share) && decide (src + len ≤ share)) then spadFault src
    issueCmd o (draft .kvapp [] (size.getD n) (rangeCode ok)) (if ok then [(src, len, false)] else [])

/-- Finds places for an operation of a command; a stop ends it. -/
def opFind {α : Type} (m : Finding α) : Op α := do
  let s ← get
  match m.run.run ⟨s, []⟩ with
  | (.ok a, t) => set t.s; return a
  | (.error .hold, _) => throw .stall
  | (.error (.lost _ a), _) => spadFault a
  | (.error (.error p), _) => fatalOp .uncorr (uncorrDetail p) p
  | (.error (.fault f w va), t) => set t.s; trapOp f.cause (if w then 1 else 0) va

/-- The places of `n` bytes. -/
def placesOf (c : EngCmd) (write sp : Bool) (a n : Nat) : Op (List Place) := do
  let w := (← get).cmdWho c
  opFind ((List.range n).mapM (fun i => findPlace w write false ⟨sp, (a + i) % 2 ^ 64⟩))

def engineLoad (c : EngCmd) (sp : Bool) (a n : Nat) : Op (List Byte) := do
  let ps ← placesOf c false sp a n
  return (← readPlaces c (ps.map some)).map (fun b => b.getD 0)

def engineStore (c : EngCmd) (sp : Bool) (a : Nat) (bs : List Byte) : Op Unit := do
  let ps ← placesOf c true sp a bs.length
  writePlaces c (ps.zip bs)

/-- The lines of memory that hold `n` bytes which a command has written (R131). -/
def engineLines (c : EngCmd) (a n : Nat) : Op (List Nat) := do
  return distinct ((← placesOf c true false a n).map (fun x => x.loc / 64))

def engineAccess (c : EngCmd) : PageAccess := ⟨engineLoad c false, engineStore c false⟩

/-- The home step that begins an append. -/
def kvEnter (s : State) (c : EngCmd) : Op EngCmd := do
  let w := s.cmdWho c
  let b ← btdAt w c.dst.toNat
  let p ← poolAt w b.pool
  let e := c.kvPos / 16
  if b.cap ≤ e ∨ p.ng ≤ c.kvGroup then return { c with code := 1, len := 0 }
  else if b.sete ≠ noEntry ∨ pfxrelWaits s b.loc (2 ^ 40) .L then throw .stall
  else if c.kvPos < b.len then return { c with code := 16, len := 0 }
  else
    let pn ← entryAt w b e
    let st ← if pn = noEntry then pure default else entryState w p b.a pn
    let fresh ← if pn = noEntry then pure true else pure (decide (1 < (← refCount w st)))
    setNapp w b (b.napp + 1)
    if fresh then setSete w b e
    return { c with
      kvNapp := true
      kvSet := if fresh then some e else none
      kvPage := pn
      len := c.kvCount * p.rowBytes (if pn = noEntry then p.fmt else st.pf) }

/-- The fresh page of an append is allocated. -/
def kvAlloc (c : EngCmd) (e : Nat) : Op EngCmd := do
  let w := (← get).cmdWho c
  let b ← btdAt w c.dst.toNat
  let p ← poolAt w b.pool
  let pn ← entryAt w b e
  match ← allocPage w p with
  | none =>
    setSete w b noEntry
    setNapp w b (b.napp - 1)
    return { c with kvNapp := false, kvSet := none, code := 17, len := 0 }
  | some new =>
    let st ← if pn = noEntry then pure default else entryState w p b.a pn
    freshState w p pn new st
    return { c with kvNew := some new }

/-- The fresh page of an append is filled from the page that it replaces. -/
def kvFill (c : EngCmd) (e new : Nat) : Op EngCmd := do
  let w := (← get).cmdWho c
  let b ← btdAt w c.dst.toNat
  let p ← poolAt w b.pool
  let pn ← entryAt w b e
  let st ← if pn = noEntry then pure default else entryState w p b.a pn
  copyFresh (engineAccess c) p pn new st
  let lines ← if pn = noEntry then pure []
    else (List.range p.ng).mapM (fun g => engineLines c (p.store new g 0) (p.pageBytes st.pf))
  return { c with kvDone := true, lines := distinct (c.lines ++ lines.flatten) }

/-- A cover with what a command's bindings bind to an address. -/
def Cover.andBound (cov : Cover) (binds : List Binding) (a : Word) : Cover :=
  match cov with
  | .all => .all
  | .obj bs x => .obj (bs ++ (binds.filter (fun b => b.obj == a)).map (fun b => { b with obj := x })) x

/-- The update of a table's entry by a command is a release of the context that issued it: of the pages that the table
maps, and of what the command's bindings bind to the table (R120, R121, R137). -/
def commandRelease (c : EngCmd) (b : Btd) : Op Unit := do
  let s ← get
  if (kvGet s.ctxs c.ctx).isSome then
    engineRelease c ((← mappedCover (s.cmdWho c) b).andBound c.binds c.dst)

/-- The home step that enters the fresh page. -/
def kvUpdate (c : EngCmd) (e new : Nat) : Op EngCmd := do
  let w := (← get).cmdWho c
  let b ← btdAt w c.dst.toNat
  if !b.canAdvance then throw .stall
  let pn ← entryAt w b e
  setEntry w b e new
  setSete w b noEntry
  commandRelease c b
  newVersion w b pn
  return { c with kvSet := none, kvNew := none, kvPage := new }

/-- One token's row; OFF counts the row bytes written (R344). -/
def kvRow (c : EngCmd) : Op EngCmd := do
  let w := (← get).cmdWho c
  let b ← btdAt w c.dst.toNat
  let p ← poolAt w b.pool
  let st ← entryState w p b.a c.kvPage
  let t := c.off / p.rowBytes st.pf
  let row := c.kvPos % 16 + t
  let src ← engineLoad c true (c.src.toNat + t * p.tokenBytes) p.tokenBytes
  storeRow (engineAccess c) p c.kvPage c.kvGroup st row (p.convertRow 0 st.pf src)
  let at_ := p.store c.kvPage c.kvGroup st.tier
  let lines ← (p.rowSpans st.pf row).mapM (fun x => engineLines c (at_ + x.1) x.2)
  return { c with off := c.off + p.rowBytes st.pf, lines := distinct (c.lines ++ lines.flatten) }

/-- Runs a step of a command that leaves the command changed. -/
def cmdStep (s : State) (c : EngCmd) (m : Op EngCmd) (k : EngCmd → State → Moved) : Moved :=
  cmdOp s c m (fun d t => k d (t.putCmd d))

/-- The rows that an append has still to write; `n` bounds them. -/
def kvRows (s : State) (c : EngCmd) : Nat → Moved
  | 0 => .go c none s
  | n + 1 => if c.len ≤ c.off then .go c none s else cmdStep s c (kvRow c) (fun d t => kvRows t d n)

/-- The end of an append at its table. -/
def kvLeave (c : EngCmd) : Op EngCmd := do
  let w := (← get).cmdWho c
  let b ← btdAt w c.dst.toNat
  setNapp w b (b.napp - 1)
  return { c with kvNapp := false }

/-- An append as far as the fresh page, if it needs one. -/
def kvBegin (s : State) (c : EngCmd) : Moved :=
  let c := { c with phase := .started }
  let entered := if c.kvNapp || c.code != 0 || (c.len != 0 && c.off == c.len) then Moved.go c none (s.putCmd c)
    else cmdStep s c (kvEnter s c) (fun d t => .go d none t)
  entered.andThen (fun d t =>
    match d.kvSet, d.kvNew with
    | some e, none => cmdStep t d (kvAlloc d e) (fun f u => .go f none u)
    | _, _ => .go d none t) |>.andThen (fun d t =>
    match d.kvSet, d.kvNew with
    | some e, some new => if d.kvDone then .go d none t else cmdStep t d (kvFill d e new) (fun f u => .go f none u)
    | _, _ => .go d none t)

/-- An append, up to its completion. -/
def advanceKv (s : State) (c : EngCmd) : Moved :=
  (kvBegin s c).andThen (fun d t =>
    if d.kvSet.isSome then .wait
    else if !d.kvNapp then finishCmd t d
    else (kvRows t d 16).andThen (fun e u => cmdStep u e (kvLeave e) (fun f v => finishCmd v f)))

/-- KVAPP_ENTRY_UPDATE. -/
def execKvappEntryUpdate (s : State) : Res :=
  match s.cmdOf s.cur.ev.ctx s.cur.ev.lane (BitVec.ofNat 16 s.cur.ev.num) with
  | none => .next s
  | some c =>
    match c.kvSet, c.kvNew with
    | some e, some new =>
      if c.phase = .held ∨ !c.kvDone then .next s
      else match cmdStep s c (kvUpdate c e new) (fun d t => .go d none t) with
        | .go _ none t => .next t
        | .go d (some (.fault f w va)) t => .next (holdCmd t d f w va)
        | .dead t => .next t
        | _ => .next s
    | _, _ => .next s

/-! ### PSEL (R179, R344) -/

/-- The fields of a PSEL's block. -/
structure SelBlk where
  bt : Nat
  g : Nat
  l : Nat
  h : Nat
  k : Nat
  e0 : Nat
  ne : Nat

def selBlk (bs : List Byte) : SelBlk :=
  let x := blkWord bs 1
  let y := blkWord bs 2
  ⟨blkWord bs 0, bits x 0 4, bits x 4 4, bits x 8 7, bits x 16 9, bits y 0 16, bits y 32 17⟩

/-- PSEL. The size of its query follows the pool's D; where that cannot be read when the command issues, the entry covers
the share from the query on, as far as a query can reach (log 49). -/
def execPsel (h : Hdr) (o : EngOps) (s : State) : Res :=
  gateOp h s <| asCommand do
    let bs ← readBlock (s.srcS 2 o.desc).toNat 32 32
    let q := selBlk bs
    let dst := (s.srcS 0 o.dst).toNat
    let src := (s.srcS 1 o.src).toNat
    let ok := decide (1 ≤ q.k) && decide (q.k ≤ 256) && decide (1 ≤ q.ne) && decide (q.ne ≤ 65536)
    let (d, _) := s.tryOp (do
      let b ← btdAt s.who q.bt
      let p ← poolAt s.who b.pool
      return p.d)
    let n := 8 * min q.k q.ne
    let share := 4 * bankShare (s.core s.myCore) s.me.bank
    let qn := match d with
      | some d => 2 * d
      | none => max 128 (min 1024 (share - src))
    if ok then
      if dst % 8 ≠ 0 ∨ (s.ownSpan s.me dst n).isNone then spadFault dst
      if (s.ownSpan s.me src qn).isNone then spadFault src
    issueCmd o (draft .psel bs n (rangeCode ok)) (if ok then [(src, qn, false), (dst, n, true)] else [])

/-- The home step of a PSEL: its pin, the table's length and its candidate entries. -/
def selPin (c : EngCmd) : Op EngCmd := do
  let w := (← get).cmdWho c
  let q := selBlk c.blk
  let b ← btdAt w q.bt
  let p ← poolAt w b.pool
  if b.cap < q.e0 + q.ne ∨ p.ng ≤ q.g ∨ p.lgl ≤ q.l ∨ p.nh ≤ q.h then return { c with code := 1, len := 0 }
  else if b.pins.getD (b.ver % 4) 0 = 65535 then return { c with code := 18, len := 0 }
  else
    let es ← (List.range q.ne).mapM (fun j => entryAt w b (q.e0 + j))
    setPin w b b.ver (b.pins.getD (b.ver % 4) 0 + 1)
    return { c with
      pinned := some (BitVec.ofNat 32 b.ver)
      blk := c.blk.take 32 ++ bytesOf b.len 4 ++ packNats 4 es }

/-- Offset and length of what a draft pass reads of row `t` of a section: planes 0 and 1 and the scales, and nothing
else (R51). -/
def keySpans (d pf t : Nat) : List (Nat × Nat) :=
  if pf = 0 then sectionSpans d 0 t
  else (List.range 2).map (fun k => (2 * d * k + t * d / 8, d / 8)) ++ [(2 * d * planesIn pf + t * (d / 32), d / 32)]

/-- The values of a key row read with two planes (R51). -/
def decodeKey (d pf : Nat) (bs : List Byte) : List Num :=
  if pf = 0 then decodeSection d 0 bs
  else
    let byte (i : Nat) : Nat := (bs.getD i 0).toNat
    (List.range d).map (fun e =>
      planeScaled (byte (2 * (d / 8) + e / 32)) ((List.range 2).map (fun k => bits (byte (k * (d / 8) + e / 8)) (e % 8) 1)))

/-- The f32 score of a row. -/
def rowScore (query key : List Num) : Nat :=
  (roundNum (fpFmt 10) 0 false (groupDot (fpFmt 10) 0 .zero (query.zip key))).1

/-- The largest of some scores that is no NaN, else the first NaN, which is already quiet (R26, R179; log 118). -/
def bestScore (xs : List Nat) : Nat :=
  let val (x : Nat) : Num := fpDecode (fpFmt 10) x
  match xs.filter (fun x => !(val x).isNan) with
  | [] => xs.headD (defaultNan (fpFmt 10))
  | y :: ys => ys.foldl (fun m x => if cmpNum (val m) (val x) = .lt then x else m) y

/-- Entry `a` ranks before entry `b`: by descending score, NaN last, ties to the lower entry. -/
def ranksBefore (a b : Nat × Nat) : Bool :=
  let x := fpDecode (fpFmt 10) a.2
  let y := fpDecode (fpFmt 10) b.2
  if x.isNan then y.isNan && decide (a.1 < b.1)
  else if y.isNan then true
  else match cmpNum x y with
    | .gt => true
    | .lt => false
    | .eq => decide (a.1 < b.1)

def rankInsert (a : Nat × Nat) : List (Nat × Nat) → List (Nat × Nat)
  | [] => [a]
  | b :: l => if ranksBefore a b then a :: b :: l else b :: rankInsert a l

/-- The scores of the candidate entries that have committed rows. -/
def selScores (c : EngCmd) (p : Pool) (query : List Num) (len : Nat) (es : List Nat) : Op (List (Nat × Nat)) := do
  let q := selBlk c.blk
  let w := (← get).cmdWho c
  let rs ← es.mapIdxM (fun j pn => do
    let e := q.e0 + j
    let rows := committedRows len e
    if pn = noEntry ∨ rows = 0 then return none
    else
      let st ← entryState w p q.bt pn
      let base := p.store pn q.g st.tier + (q.l * 2 * p.nh + q.h) * sectionSize p.d st.pf
      let scores ← (List.range rows).mapM (fun t => do
        let bs ← (keySpans p.d st.pf t).mapM (fun x => engineLoad c false (base + x.1) x.2)
        return rowScore query (decodeKey p.d st.pf bs.flatten))
      return some (e, bestScore scores))
  return rs.filterMap id

/-- The rest of a PSEL: the scores, the records, and the pin's release. -/
def selWrite (c : EngCmd) (v : BitVec 32) : Op EngCmd := do
  let w := (← get).cmdWho c
  let q := selBlk c.blk
  let b ← btdAt w q.bt
  let p ← poolAt w b.pool
  let len := leNat ((c.blk.drop 32).take 4)
  let es := (chunks 4 q.ne (c.blk.drop 36)).map leNat
  let qs ← engineLoad c true c.src.toNat (2 * p.d)
  let query := (chunks 2 p.d qs).map (fun x => decodeNum 9 (leNat x))
  let ranked := (← selScores c p query len es).foldl (fun l a => rankInsert a l) []
  let best := ranked.take q.k
  engineStore c true c.dst.toNat (best.flatMap (fun a => packNats 4 [a.1, a.2]))
  unpinVersion w q.bt v.toNat
  return { c with pinned := none, acked := true, off := 8 * best.length }

/-- A PSEL as far as its pin. -/
def selBegin (s : State) (c : EngCmd) : Moved :=
  let c := { c with phase := .started }
  if c.pinned.isSome || c.code != 0 || c.acked then .go c none (s.putCmd c)
  else cmdStep s c (selPin c) (fun d t => .go d none t)

/-- A PSEL, up to its completion. -/
def advanceSel (s : State) (c : EngCmd) : Moved :=
  (selBegin s c).andThen (fun d t =>
    match d.pinned with
    | none => finishCmd t d
    | some v => cmdStep t d (selWrite d v) (fun e u => finishCmd u e))

/-! ### What an ended context leaves at a table (R166, R169, R372) -/

/-- The table is settled in one step, as the ended context would have done. -/
def settleDebt (d : TableDebt) : Op Unit := do
  let w : Who := ⟨2 ^ 40, d.core, d.asid, d.priv, .L⟩
  let b ← btdAt w d.table
  if d.napp then setNapp w b (b.napp - 1)
  if d.sete then setSete w b noEntry
  match d.page with
  | some new => freePage w (← poolAt w b.pool) new
  | none => pure ()
  match d.pin with
  | some v => unpinVersion w d.table v.toNat
  | none => pure ()

/-- Settles a table; where a page that is being moved, one that does not translate, or an uncorrectable line prevents it,
the home settles it later. A page that the free-page rod does not take leaves the rest to be settled all the same; a
table that is corrupt leaves nothing to be settled. -/
def payDebt (s : State) (d : TableDebt) : State :=
  let later (t : State) (e : TableDebt) : State := { keepTranslations s t with debts := s.debts ++ [e] }
  match (settleDebt d).run.run s with
  | (.ok _, t) => t
  | (.error (.fatal c _ _), t) =>
    match (settleDebt { d with page := none }).run.run (keepTranslations s t) with
    | (.ok _, u) =>
      if c = .uncorr then { u with debts := u.debts ++ [{ d with pin := none, napp := false, sete := false }] } else u
    | (.error (.fatal c2 _ _), u) => if c2 = .uncorr then later u d else keepTranslations s u
    | (.error _, u) => later u d
  | (.error _, t) => later t d

/-- Tables that could not be settled before are tried again. -/
def payDebts (s : State) : State :=
  if s.debts.isEmpty then s else s.debts.foldl payDebt { s with debts := [] }

/-- What an unfinished command leaves at a block table is settled. -/
def settleTables (s : State) (c : EngCmd) : State :=
  let w := s.cmdWho c
  if c.kvNapp then
    payDebt s { core := w.core, asid := w.asid, priv := w.priv, table := c.dst.toNat, pin := none
                napp := true, sete := c.kvSet.isSome, page := c.kvNew }
  else if c.pinned.isSome then
    payDebt s { core := w.core, asid := w.asid, priv := w.priv, table := (selBlk c.blk).bt, pin := c.pinned
                napp := false, sete := false, page := none }
  else s

end Sys2Proof.Machine
end

