-- ==== Sys2Proof/Machine/RodInstrs.lean ====
section
/-! DEFINITION. The rod instructions and RODADM, and the events of rods and their waits (06_rods.md R139 to
R155; 13_sync_sequence.md R332 to R334). -/

namespace Sys2Proof.Machine

/-! ### Naming a rod (R332) -/

/-- The rod that Reg(a) names: a local scratchpad address, or a virtual address; a host-owned line raises
FWD_UNSUP (R142). The core's earlier writes towards its home come first (R135). -/
def rodAt (sp : Bool) (a : Word) : Op RodRef := do
  let s ← get
  if sp then
    let xs ← laneSpan a.toNat (if a.toNat % 64 = 0 then 64 else 1) false
    return ⟨xs.flatten.headD 0, a, true⟩
  else
    let x ← xlat s.who true a.toNat
    hostCheck x a.toNat false
    if x.mg then throw .stall
    drainFor s.myCore x.loc 64
    modify (fun t => countAccess t s.who x)
    leaveHome s.who x.loc
    return ⟨x.loc, a, false⟩

/-- ROD_CORRUPT with the RCB address and the cause code; what the operation has changed stays (R145). -/
def rodCorrupt (r : RodRef) (code : Nat) : Op Unit := raiseKept .rodCorrupt code r.addr

/-- The acquire of a rod operation (R120). -/
def rodAcquire (r : RodRef) : Op Unit := do
  let s ← get
  acquireOp s.who (if r.sp then 1 else 4) (s.coverOf r.addr)

/-- The result of a rod instruction, with the acquire that a status CLOSED makes. -/
def rodResult (r : RodRef) (d : BitVec 6) (status upper : Nat) : Op Unit := do
  if status = 3 then rodAcquire r
  putResult d (resultWord status upper)

/-- Locations of a bead in the issuer's share or a sibling window (R333). No share is longer than 2 MiB. -/
def beadSpan (a n : Nat) (write : Bool) : Op (List Nat) := do
  if 2 ^ 21 < n then spadFault a
  return (← laneSpan a n write).flatten

/-! ### ENQ and DEQ (R333) -/

/-- What ENQ and DEQ share once the home has answered. -/
def rodAnswer (r : RodRef) (d : BitVec 6) (kind : WaitKind) (dst : List Nat) : RodOut → Op Unit
  | .done 0 idx bead => do
    if !bead.isEmpty then
      spadWrite dst bead interlocked
      rodAcquire r
    putResult d (resultWord 0 (idx % 2 ^ 56))
  | .done st _ _ => rodResult r d st 0
  | .wait => modify (fun s => let t := s.park r.loc r.addr kind
                              if t.isRetrying t.cur.ctx t.cur.lane then t else mirrorWaitq t r.loc)
  | .reserved k => modify (fun s => { s.unwait s.cur.ctx s.cur.lane with
      waiters := (s.unwait s.cur.ctx s.cur.lane).waiters
        ++ [(⟨r.loc, r.addr, s.cur.ctx, s.cur.lane, .commit k, 2 ^ 20, 0, false, 0⟩ : Waiter)] }.setRes .parked)
  | .corrupt code => rodCorrupt r code

/-- ENQ: the bead is read when the instruction issues. Whether the home answers before its slot write is
acknowledged is its choice (R146). -/
def execEnq (h : Hdr) (o : RegOps) (s : State) : Res :=
  gateOp h s do
    let a := s.srcS 1 o.a
    let n := (s.srcS 3 o.c).toNat
    releaseOp s.who (s.coverOf a)
    let bead ← spadRead (← beadSpan (s.srcS 2 o.b).toNat n false)
    let r ← rodAt (o.sub.getLsbD 0) a
    let late ← Op.free 12
    onBlock r.loc (do rodAnswer r o.d (.enq bead) [] (← rodEnq s.who r bead n (!o.mod.getLsbD 0) (late % 2 == 1)))

/-- DEQ: the bead is written before the instruction retires. -/
def execDeq (h : Hdr) (o : RegOps) (s : State) : Res :=
  gateOp h s do
    let a := s.srcS 1 o.a
    let dst := (s.srcS 2 o.b).toNat
    let n := (s.srcS 3 o.c).toNat
    let locs ← beadSpan dst n false
    let r ← rodAt (o.sub.getLsbD 0) a
    onBlock r.loc (do rodAnswer r o.d (.deq dst n) locs (← rodDeq s.who r n (!o.mod.getLsbD 0)))

/-! ### RODINIT, RODQRY, RODCLOSE (R153, R334) -/

/-- The fields that RODINIT takes from Reg(c): ELSZ, CAPL, and the flags that the issuer may set. -/
def rodInitFields (c : Nat) (priv : Bool) : Nat × Nat × Nat :=
  (bits c 0 8, bits c 8 8, if priv then bits c 16 3 else 0)

/-- The slots lie in the share that holds the RCB (R142). -/
def slotsInShare (s : State) (loc base size : Nat) : Bool :=
  match s.shareOf loc with
  | some (c, _) => decide (base + size ≤ 4 * bankShare (s.core c.core) c.bank)
  | none => false

/-- RODINIT's operands break no rule of check 4. -/
def rodInitOk (s : State) (r : RodRef) (base elsz capl flags : Nat) : Bool :=
  decide (3 ≤ elsz) && decide (elsz ≤ 8) && decide (1 ≤ capl) && decide (capl ≤ 24) && base % 64 == 0
    && (!r.sp || (flags == 0 && slotsInShare s r.loc base (2 ^ (capl + elsz))))

/-- A whole RCB, as RODINIT writes it. -/
def writeRcb (s : State) (r : RodRef) (base elsz capl flags : Nat) : State :=
  let s1 := s.writeBytes r.loc (packNats 8
    [0xB0D5 + 2 ^ 16 * r.sp.toNat + 2 ^ 17 * flags + 2 ^ 32 * elsz + 2 ^ 40 * capl + 2 ^ 48 * (rodHome r.loc % 256),
     base, 0, 0, 0, 2 ^ capl, 0x7FF + 2 ^ 16 * 0x7FF, 0])
  (setRodCheck (dropBeads s1 r.loc) r.loc).touch r.loc

/-- RODINIT. -/
def execRodinit (h : Hdr) (o : RegOps) (s : State) : Res :=
  gateOp h s do
    let r ← rodAt (o.sub.getLsbD 0) (s.srcS 1 o.a)
    let base := (s.srcS 2 o.b).toNat
    let (elsz, capl, flags) := rodInitFields (s.srcS 3 o.c).toNat s.me.holdsPriv
    if r.addr.toNat % 64 ≠ 0 then rodCorrupt r 1
    else if !rodInitOk s r base elsz capl flags then putResult o.d (resultWord 5 0)
    else onBlock r.loc do
      modify (fun t => settleSlots t r)
      if !((← get).waitersOn r.loc).isEmpty then putResult o.d (resultWord 6 0)
      else
        modify (fun t => writeRcb t r base elsz capl flags)
        putResult o.d (resultWord 0 0)

/-- The block of RODQRY. -/
def rodQuery (s : State) (r : Nat) : List Byte :=
  packNats 8 [rodHead s r, rodTail s r, rodRsv s r,
    rodStatus s r + 2 ^ 8 * s.field (r + 0x38) 8 4 + 2 ^ 32 * ((s.rodWaiters r).length % 2 ^ 16)]

/-- RODQRY. -/
def execRodqry (h : Hdr) (o : RegOps) (s : State) : Res :=
  gateOp h s do
    let dst := (s.srcS 2 o.b).toNat
    if dst % 8 ≠ 0 then spadFault dst
    let locs ← beadSpan dst 32 false
    let r ← rodAt (o.sub.getLsbD 0) (s.srcS 1 o.a)
    onBlock r.loc do
    match ← rodMeet r with
    | .bad c => rodCorrupt r c
    | x =>
      spadWrite locs (rodQuery (← get) r.loc) interlocked
      putResult o.d (resultWord (if x = .quarantined then 4 else 0) 0)

/-- RODCLOSE. -/
def execRodclose (h : Hdr) (o : RegOps) (s : State) : Res :=
  gateOp h s do
    let a := s.srcS 1 o.a
    releaseOp s.who (s.coverOf a)
    let r ← rodAt (o.sub.getLsbD 0) a
    onBlock r.loc do
    match ← rodEnter r with
    | .bad c => rodCorrupt r c
    | .quarantined => rodResult r o.d 4 0
    | .ok =>
      if rodStatus (← get) r.loc = 1 then rodResult r o.d 3 0
      else
        modify (fun t => wakeAll ((settleSlots t r).setField (r.loc + 0x38) 0 2 1) r 3)
        putResult o.d (resultWord 0 0)

/-! ### RODADM (R154, R155) -/

/-- The common part of RODADM: privilege, checks 1 and 2, and slots whose write is under way. `act` answers
the status, the count and the state. -/
def rodAdmin (h : Hdr) (o : SysOps) (s : State) (act : RodRef → State → Nat × Nat × State) : Res :=
  privileged s 0xEB (fun s => gateOp h s do
    let r ← rodAt false (s.srcS 1 o.a)
    onBlock r.loc do
    match ← rodMeet r with
    | .bad c => rodCorrupt r c
    | x =>
      if x = .ok then modify (fun t => settleSlots t r)
      let (st, n, t) := act r (← get)
      set t
      putResult o.d (resultWord st n))

/-- DRAIN. A STATUS of 3 stands as OPEN or CLOSED here, which is the model's choice (log 115). -/
def rodDrain (r : RodRef) (s : State) : Nat × Nat × State :=
  if rodStatus s r.loc = 2 then (4, 0, s)
  else
    let t := rodTail s r.loc
    let s1 := (((dropBeads s r.loc).writeNat (r.loc + 0x10) 8 t).writeNat (r.loc + 0x28) 8 (rodCap s r.loc)).touch r.loc
    (0, dist64 (rodHead s r.loc) t % 2 ^ 56, serveAll s1 r)

/-- REOPEN. -/
def rodReopen (r : RodRef) (s : State) : Nat × Nat × State :=
  if rodStatus s r.loc = 2 then (4, 0, s) else (0, 0, (s.setField (r.loc + 0x38) 0 2 0).touch r.loc)

/-- The first check of REPAIR that fails (R155): 4, then 5 where RSV differs from TAIL, 6 where TAIL − HEAD exceeds
the capacity; the codes of the last two are the model's choice (log 100). -/
def repairCheck (s : State) (r : RodRef) : Option Nat :=
  let h := rodHead s r.loc
  let t := rodTail s r.loc
  let v := rodRsv s r.loc
  if !rodFieldsOk s r then some 4
  else if v ≠ t then some 5
  else if rodCap s r.loc < dist64 h t then some 6
  else none

/-- REPAIR. -/
def rodRepair (r : RodRef) (s : State) : Nat × Nat × State :=
  if rodStatus s r.loc ≠ 2 then (0, 0, s)
  else
    match repairCheck s r with
    | some c => (4, 0, s.setField (r.loc + 0x38) 8 4 c)
    | none =>
      let n := dist64 (rodHead s r.loc) (rodTail s r.loc)
      let s1 := s.writeNat (r.loc + 0x28) 8 (rodCap s r.loc - n)
      let s2 := (s1.setField r.loc 48 8 (rodHome r.loc)).writeNat (r.loc + 0x30) 8 (0x7FF + 2 ^ 16 * 0x7FF)
      let s3 := (s2.setField (r.loc + 0x38) 8 4 0).setField (r.loc + 0x38) 0 2 0
      (0, n, (setRodCheck s3 r.loc).touch r.loc)

/-- RETIRE. -/
def rodRetire (r : RodRef) (s : State) : Nat × Nat × State :=
  (0, 0, ((dropBeads (wakeAll s r 3) r.loc).setField r.loc 0 16 0).touch r.loc)

def execRodadmDrain (h : Hdr) (o : SysOps) (s : State) : Res := rodAdmin h o s rodDrain
def execRodadmReopen (h : Hdr) (o : SysOps) (s : State) : Res := rodAdmin h o s rodReopen
def execRodadmRepair (h : Hdr) (o : SysOps) (s : State) : Res := rodAdmin h o s rodRepair
def execRodadmRetire (h : Hdr) (o : SysOps) (s : State) : Res := rodAdmin h o s rodRetire

/-! ### Events (R146, R151, R152) -/

/-- ROD_COMMIT (`ev.a` the RCB's location): the oldest reserved slot commits. An enqueuer whose slot no
reservation covers any more, because software has written the counts, completes as well. -/
def execRodCommit (s : State) : Res :=
  match s.waiters.find? (fun q => q.obj == s.cur.ev.a && (match q.kind with | .commit _ => true | _ => false)) with
  | none => .next s
  | some q =>
    let r : RodRef := ⟨q.obj, q.addr, decide (2 ^ 72 ≤ q.obj)⟩
    if (s.committer r.loc).isSome then .next (rodCommit s r)
    else if rodTail s r.loc = rodRsv s r.loc then .next (completeRod s r q 0 0 [])
    else .next s

/-- ROD_WAIT_CANCEL: a lane's wait is cancelled, and it will issue its instruction again; a wait that has been
completed is not found (R151). -/
def execRodWaitCancel (s : State) : Res :=
  if (kvGet s.ctxs s.cur.ev.ctx).isSome then .next (cancelWait s s.cur.ev.ctx s.cur.ev.lane) else .next s

/-- The cause that a code names. -/
def causeOf (n : Nat) : Option Cause :=
  [Cause.trap, .bkpt, .stackLimit, .loopDepth, .sampleSpill, .illegal, .privilege, .overlayInvalid, .tfAbsent, .tfProt,
   .tfNoncanon, .timer, .uncorr, .rodCorrupt, .slateCorrupt, .kvCorrupt, .sqCorrupt, .barCorrupt, .bankConflict,
   .orderOverlap, .checkMismatch, .linkFail, .spadAddr, .matrixRange, .memAlign, .fwdUnsup, .laneDeadlock,
   .killed].find? (fun c => c.code == n)

/-- WAIT_TABLE_RETRY: a lane that found no wait entry issues its operation again at its next step; a report
that found its rod full is sent again (R152, R364, R390). -/
def execWaitTableRetry (s : State) : Res :=
  let k := s.cur.ev.ctx
  let l := s.cur.ev.lane
  if (kvGet s.ctxs k).isNone then .next s
  else
    let s1 := s.updLane k l (fun x => { x with parked := x.parked.map (fun p => { p with retry := false }) })
    let s2 := match s1.cmdOf k l (BitVec.ofNat 16 s.cur.ev.num) with
      | some c => if c.reportDue then recordEngineFault s1 c else s1
      | none => s1
    let c := s2.ctx k
    if c.reportDue then
      .next (serviceReport s2 k ((causeOf (bits c.ctrl.cause.toNat 0 8)).getD .killed) (bits c.ctrl.cause.toNat 8 2)
        (bits c.ctrl.finfo.toNat 0 16) c.ctrl.faddr)
    else .next s2

end Sys2Proof.Machine
end

