-- ==== Sys2Proof/Machine/Barriers.lean ====
section
/-! DEFINITION. Barriers and slates (13_sync_sequence.md R335 to R339; 04_memory.md R95 to R99). -/

namespace Sys2Proof.Machine

/-- A parked instruction completes with a result and an acquire: its lane goes on. -/
def completeWait (s : State) (q : Waiter) (d : BitVec 6) (v : Word) (scope : Option Nat) : State :=
  let w := s.whoOf q.ctx q.lane
  let s1 := match scope with
    | some k => (acquireState s w.core w.asid k (s.coverFor q.ctx q.lane q.addr)).joinMtcs q.ctx q.lane
    | none => s
  let s2 := s1.updLane q.ctx q.lane (fun x => x.putS d.toNat v 0)
  (s2.unwait q.ctx q.lane).finishParked q.ctx q.lane

/-- The parked instruction of a waiter. -/
def State.parkedInstr (s : State) (q : Waiter) : Option Instr := (s.lane q.ctx q.lane).parked.map (·.instr)

/-- A register as a parked instruction read it. -/
def State.parkedReg (s : State) (q : Waiter) (r : BitVec 6) : Word :=
  match (s.lane q.ctx q.lane).parked with
  | some p => ((parkedSnap (s.ctx q.ctx) q.lane p).lane q.lane).srcS r.toNat 0
  | none => 0

/-! ### Barriers (R335, R336) -/

def barCount (s : State) (l : Nat) : Nat := s.field l 32 32
def barArrived (s : State) (l : Nat) : Nat := s.field (l + 8) 0 32
def barPhaseAt (s : State) (l : Nat) : Nat := s.field (l + 8) 32 32

/-- The location of the BCB that Reg(a) names. -/
def barAt (a : Word) : Op Nat := do
  let s ← get
  let x ← xlat s.who true a.toNat
  hostCheck x a.toNat false
  if x.mg then throw .stall
  drainFor s.myCore x.loc 64
  modify (fun t => countAccess t s.who x)
  leaveHome s.who x.loc
  return x.loc

/-- The checks of every operation but BAR.init. -/
def barOk (s : State) (l : Nat) : Bool :=
  s.field l 0 16 == 0xBA5E && decide (1 ≤ barCount s l) && decide (barArrived s l < barCount s l)

def barCheck (a : Word) (l : Nat) : Op Unit := do
  if !barOk (← get) l then fatalOp .barCorrupt 0 a.toNat
  modify (fun s => mirrorBar s l)

/-- BAR.wt's phase has passed: (PHASE − p) mod 2^32 lies in 1 to 2^31. -/
def phasePassed (phase p : Nat) : Bool :=
  let d := (phase + 2 ^ 32 - p % 2 ^ 32) % 2 ^ 32
  decide (1 ≤ d) && decide (d ≤ 2 ^ 31)

/-- What a parked BAR waits for: its destination and phase, if the phase lets it go on. -/
def barDone (s : State) (q : Waiter) (phase : Nat) : Option (BitVec 6 × Nat) :=
  match s.parkedInstr q with
  | some (.barW _ o) =>
    match ((s.ctx q.ctx).queues q.lane).barPhase with
    | some p => if p.toNat = phase then none else some (o.d, p.toNat)
    | none => none
  | some (.barWt _ o) =>
    let p := (s.parkedReg q o.b).toNat % 2 ^ 32
    if phasePassed phase p then some (o.d, p) else none
  | _ => none

/-- Wakes the waiters that a new phase lets go on. -/
def wakeBar (s : State) (l : Nat) : State :=
  mirrorBar ((s.waiters.filter (fun q => q.obj == l && q.kind == .barrier)).foldl (fun t q =>
    match barDone t q (barPhaseAt t l) with
    | some (d, p) => completeWait t q d (resultHigh 0 p) (some 3)
    | none => t) s) l

/-- One arrival: the state, whose phase has changed if the arrival completed it. -/
def barArrive (s : State) (l : Nat) : State :=
  let p := barPhaseAt s l
  if barArrived s l + 1 = barCount s l then
    wakeBar ((s.writeNat (l + 8) 8 (2 ^ 32 * ((p + 1) % 2 ^ 32))).touch l) l
  else mirrorBar (s.writeNat (l + 8) 8 (barArrived s l + 1 + 2 ^ 32 * p)) l

/-- The phase for which a reissued BAR.w still waits (R337). -/
def State.barWaits (s : State) : Option (BitVec 32) :=
  if s.myLane.rslot.isSome then (s.me.queues s.cur.lane).barPhase else none

def setBarPhase (s : State) (p : Option (BitVec 32)) : State :=
  s.updMe (fun c => c.setQueues s.cur.lane { c.queues s.cur.lane with barPhase := p })

/-- The wait of a BAR: it returns `p` once it may, with the acquire, else it parks. -/
def barWait (a : Word) (l : Nat) (d : BitVec 6) (p : Nat) (ok : Bool) : Op Unit := do
  let s ← get
  if ok then
    acquireOp s.who 3 (s.coverOf a)
    modify (fun t => setBarPhase t none)
    putResult d (resultHigh 0 p)
  else
    modify (fun t => mirrorBar (t.park l a .barrier) l)

/-- BAR.w: arrives, unless it has, and waits. -/
def execBarW (h : Hdr) (o : RegOps) (s : State) : Res :=
  gateOp h s do
    let a := s.srcS 1 o.a
    let l ← barAt a
    onBlock l do
    barCheck a l
    match s.barWaits with
    | some p => barWait a l o.d p.toNat (p.toNat != barPhaseAt (← get) l)
    | none =>
      releaseOp s.who (s.coverOf a)
      let p := barPhaseAt (← get) l
      modify (fun t => setBarPhase (barArrive t l) (some (BitVec.ofNat 32 p)))
      barWait a l o.d p (p != barPhaseAt (← get) l)

/-- BAR.arr. -/
def execBarArr (h : Hdr) (o : RegOps) (s : State) : Res :=
  gateOp h s do
    let a := s.srcS 1 o.a
    let l ← barAt a
    onBlock l do
    barCheck a l
    releaseOp s.who (s.coverOf a)
    let p := barPhaseAt (← get) l
    modify (fun t => barArrive t l)
    putResult o.d (resultHigh 0 p)

/-- BAR.wt. -/
def execBarWt (h : Hdr) (o : RegOps) (s : State) : Res :=
  gateOp h s do
    let a := s.srcS 1 o.a
    let l ← barAt a
    onBlock l do
    barCheck a l
    let p := (s.srcS 2 o.b).toNat % 2 ^ 32
    barWait a l o.d p (phasePassed (barPhaseAt (← get) l) p)

/-- BAR.init. -/
def execBarInit (h : Hdr) (o : RegOps) (s : State) : Res :=
  gateOp h s do
    let l ← barAt (s.srcS 1 o.a)
    let n := (s.srcS 2 o.b).toNat % 2 ^ 32
    onBlock l do
    if n = 0 ∨ !(s.waitersOn l).isEmpty then putResult o.d (resultHigh 6 0)
    else
      modify (fun t =>
        mirrorBar ((((t.setField l 0 16 0xBA5E).setField l 32 32 n).writeNat (l + 8) 8 0).touch l) l)
      putResult o.d (resultHigh 0 0)

/-! ### Slate control blocks (R95, R98) -/

def slNver (s : State) (l : Nat) : Nat := s.field l 16 3
def slMask (s : State) (l : Nat) : Nat := s.field l 20 4
def slBase (s : State) (l : Nat) : Nat := s.field l 32 32
def slVsz (s : State) (l : Nat) : Nat := s.field (l + 8) 0 32
def slCur (s : State) (l : Nat) : Nat := s.field (l + 0x10) 0 32
def slOpen (s : State) (l : Nat) : Bool := s.field (l + 0x10) 32 1 == 1
def slPin (s : State) (l k : Nat) : Nat := s.readNat (l + 0x18 + 2 * k) 2
def slStatus (s : State) (l : Nat) : Nat := s.field (l + 0x28) 16 2
def slWriter (s : State) (l : Nat) : Nat := s.field (l + 0x30) 0 32

/-- The invariants of R98. -/
def slOk (s : State) (l : Nat) : Bool :=
  s.field l 0 16 == 0x5A7E && s.field (l + 0x28) 0 16 == crc16 (s.readBytes l 12)
    && decide (2 ≤ slNver s l) && decide (slNver s l ≤ 4)
    && (List.range 4).all (fun k => decide (k < slNver s l) || slPin s l k == 0)

/-- The slot of a version, and its local address. -/
def slSlot (s : State) (l v : Nat) : Nat := v % slNver s l
def slAddr (s : State) (l v : Nat) : Nat := slBase s l + slSlot s l v * slVsz s l

/-- The result word of a slate instruction (R338). -/
def slResult (status addr ver : Nat) : Word :=
  BitVec.ofNat 64 (status + 2 ^ 8 * (addr % 2 ^ 24) + 2 ^ 32 * (ver % 2 ^ 32))

/-- How a context records a slate: the serial of the context in whose share the SCB lies, and its offset
there, which a move of that share does not change (R99). -/
def State.slateKey (s : State) (l : Nat) : Nat :=
  let core := s.core ((l - 2 ^ 72) / 2 ^ 21)
  let p := (l - 2 ^ 72) % 524288
  let owner := (if p < 32768 * core.h0 then core.bank0.or core.last0 else core.bank1.or core.last1).getD 0
  owner * 2 ^ 21 + ((s.shareOf l).map (·.2)).getD 0

/-- Where the SCB that a record names lies now. -/
def State.slateLoc (s : State) (key : Nat) : Option Nat :=
  let c := s.ctx (key / 2 ^ 21)
  if s.holdsShare (key / 2 ^ 21) then s.shareLoc c (key % 2 ^ 21) else none

/-! ### Slate operations (R96) -/

def slReadReady (s : State) (l : Nat) : Bool := decide (slPin s l (slSlot s l (slCur s l)) < 65535)
/-- The slot of version CUR + 1 is free; where CUR + 1 wraps to 0 the slot is that of 2^32 mod NVER, the next in turn,
which is the model's choice (log 101). -/
def slWriteReady (s : State) (l : Nat) : Bool :=
  !slOpen s l && slPin s l (slSlot s l (slCur s l + 1)) == 0

/-- A context pins the published version. -/
def slTakeRead (s : State) (l k : Nat) : State :=
  let v := slCur s l
  let j := slSlot s l v
  (s.writeNat (l + 0x18 + 2 * j) 2 (slPin s l j + 1)).updCtx k (fun c =>
    { c with slatePins := c.slatePins ++ [(s.slateKey l, BitVec.ofNat 32 v)] })

/-- A context opens the slot of the next version. -/
def slTakeWrite (s : State) (l k : Nat) : State :=
  ((s.setField (l + 0x10) 32 1 1).setField (l + 0x30) 0 32 k).updCtx k (fun c =>
    { c with slateWrites := c.slateWrites ++ [s.slateKey l] })

/-- The oldest waiter goes on if it can (R96, R338); a reader that has come to hold 8 pins has PINLIM. -/
def slServeOne (s : State) (l : Nat) (q : Waiter) : State :=
  match s.parkedInstr q with
  | some (.slacqRd _ o) =>
    if slStatus s l = 2 then completeWait s q o.d (slResult 4 0 0) none
    else if 8 ≤ (s.ctx q.ctx).slatePins.length then completeWait s q o.d (slResult 3 0 0) none
    else if slReadReady s l then
      completeWait (slTakeRead s l q.ctx) q o.d (slResult 0 (slAddr s l (slCur s l)) (slCur s l)) (some 1)
    else s
  | some (.slacqWr _ o) =>
    if slStatus s l = 2 then completeWait s q o.d (slResult 4 0 0) none
    else if slWriteReady s l then
      completeWait (slTakeWrite s l q.ctx) q o.d (slResult 0 (slAddr s l (slCur s l + 1)) (slCur s l + 1)) none
    else s
  | _ => s

/-- Waiters are served first in, first out. -/
def slServe (s : State) (l : Nat) : State :=
  let ws := s.waiters.filter (fun q => q.obj == l && (q.kind == .slateRd || q.kind == .slateWr))
  if ws.isEmpty then s.touch l else slWaitq (ws.foldl (fun t q => slServeOne t l q) (s.touch l)) l

/-- The SCB that Reg(a) names (R88, R338). -/
def slAt (a : Word) : Op Nat := do
  if a.toNat % 64 ≠ 0 then spadFault a.toNat
  return (← laneSpan a.toNat 64 false).flatten.headD 0

/-- The checks of R98: true if the slate is quarantined. A violation quarantines it and raises SLATE_CORRUPT;
`k` is what the operation does otherwise. -/
def slEnter (a : Word) (d : BitVec 6) (k : Nat → Op Unit) : Op Unit := do
  let l ← slAt a
  let s ← get
  if slStatus s l = 2 then putResult d (slResult 4 0 0)
  else if !slOk s l then
    modify (fun t => slServe (t.setField (l + 0x28) 16 2 2) l)
    raiseKept .slateCorrupt 0 a
  else k l

/-- SLACQ.rd. -/
def execSlacqRd (h : Hdr) (o : RegOps) (s : State) : Res :=
  gateOp h s do
    let a := s.srcS 1 o.a
    slEnter a o.d (fun l => do
      let t ← get
      if 8 ≤ t.me.slatePins.length then putResult o.d (slResult 3 0 0)
      else if slReadReady t l then
        acquireOp t.who 1 (t.coverOf a)
        modify (fun u => slTakeRead u l u.cur.ctx)
        putResult o.d (slResult 0 (slAddr t l (slCur t l)) (slCur t l))
      else if o.mod.getLsbD 0 then putResult o.d (slResult 1 0 0)
      else modify (fun u => slWaitq (u.park l a .slateRd) l))

/-- SLACQ.wr. -/
def execSlacqWr (h : Hdr) (o : RegOps) (s : State) : Res :=
  gateOp h s do
    let a := s.srcS 1 o.a
    slEnter a o.d (fun l => do
      let t ← get
      if slWriteReady t l then
        modify (fun u => slTakeWrite u l u.cur.ctx)
        putResult o.d (slResult 0 (slAddr t l (slCur t l + 1)) (slCur t l + 1))
      else if o.mod.getLsbD 0 then putResult o.d (slResult 1 0 0)
      else modify (fun u => slWaitq (u.park l a .slateWr) l))

/-- Every scratchpad write that the context has issued is performed before an SLPUB retires (R96). -/
def landScratch (s : State) (k : Nat) : State :=
  s.updCtx k (fun c => lanes.foldl (fun c m => c.updLane m (fun x => { x with scratchInflight := [] })) c)

/-- SLPUB. -/
def execSlpub (h : Hdr) (o : RegOps) (s : State) : Res :=
  gateOp h s do
    let a := s.srcS 1 o.a
    slEnter a o.d (fun l => do
      let t ← get
      if !slOpen t l ∨ slWriter t l ≠ t.cur.ctx % 2 ^ 32 then putResult o.d (slResult 2 0 0)
      else
        releaseOp t.who (t.coverOf a)
        let v := (slCur t l + 1) % 2 ^ 32
        let key := t.slateKey l
        modify (fun u =>
          let u1 := ((landScratch u u.cur.ctx).setField (l + 0x10) 0 32 v).setField (l + 0x10) 32 1 0
          slServe (u1.updMe (fun c => { c with slateWrites := c.slateWrites.filter (· != key) })) l)
        putResult o.d (slResult 0 0 v))

/-- One pin of a version is released. -/
def slUnpin (s : State) (l v : Nat) : State :=
  let j := slSlot s l v
  s.writeNat (l + 0x18 + 2 * j) 2 (slPin s l j - 1)

/-- SLREL. -/
def execSlrel (h : Hdr) (o : RegOps) (s : State) : Res :=
  gateOp h s do
    let a := s.srcS 1 o.a
    let v : BitVec 32 := BitVec.ofNat 32 (s.srcS 2 o.b).toNat
    slEnter a o.d (fun l => do
      let t ← get
      let key := t.slateKey l
      if t.me.slatePins.contains (key, v) then
        modify (fun u => slServe ((slUnpin u l v.toNat).updMe (fun c =>
          { c with slatePins := c.slatePins.erase (key, v) })) l)
        putResult o.d (slResult 0 0 0)
      else putResult o.d (slResult 2 0 0))

/-! ### SLINIT (R96, R339) -/

/-- Every slot of every replica lies in the replica's share. -/
def slotsFit (s : State) (c : Ctx) (base size mask : Nat) : Bool :=
  ((List.range 4).filter (fun q => bits mask q 1 == 1)).all (fun q =>
    match s.windowCtx c q with
    | some x => decide (base + size ≤ 4 * bankShare (s.core x.core) x.bank)
    | none => false)

/-- SLINIT's fields are valid. -/
def slFieldsOk (s : State) (base vsz nver mask : Nat) : Bool :=
  decide (2 ≤ nver) && decide (nver ≤ 4) && mask != 0 && base % 64 == 0
    && vsz % 64 == 0 && decide (64 ≤ vsz) && decide (vsz ≤ 0x100000)
    && slotsFit s s.me base (nver * vsz) mask

/-- The SCB as SLINIT writes it; pins that contexts had recorded on it become void. -/
def writeScb (s : State) (l base vsz nver mask : Nat) : State :=
  let s1 := s.writeBytes l (packNats 8 [0x5A7E + 2 ^ 16 * nver + 2 ^ 20 * mask + 2 ^ 32 * base, vsz, 0, 0, 0, 0, 0, 0])
  let key := s1.slateKey l
  let s2 := slWaitq (s1.setField (l + 0x28) 0 16 (crc16 (s1.readBytes l 12))) l
  { s2 with ctxs := s2.ctxs.map (fun kc => (kc.1, { kc.2 with
      slatePins := kc.2.slatePins.filter (fun p => p.1 != key)
      slateWrites := kc.2.slateWrites.filter (· != key) })) }

/-- SLINIT. -/
def execSlinit (h : Hdr) (o : RegOps) (s : State) : Res :=
  gateOp h s do
    let a := (s.srcS 1 o.a).toNat
    let base := (s.srcS 2 o.b).toNat
    let c := (s.srcS 3 o.c).toNat
    let l := (← ownBlock a 64 64).headD 0
    let busy := slOk s l && slStatus s l == 0
      && (slOpen s l || (List.range 4).any (fun k => slPin s l k != 0))
    if !slFieldsOk s base (bits c 0 32) (bits c 32 3) (bits c 36 4) then putResult o.d (slResult 5 0 0)
    else if busy ∨ !(s.waitersOn l).isEmpty then putResult o.d (slResult 6 0 0)
    else
      modify (fun t => (writeScb t l base (bits c 0 32) (bits c 32 3) (bits c 36 4)).touch l)
      putResult o.d (slResult 0 0 0)

/-! ### The end of a context (R99) -/

/-- A record names a slate that is still one. -/
def State.slateLive (s : State) (key : Nat) : Option Nat :=
  match s.slateLoc key with
  | some l => if slOk s l && slStatus s l == 0 then some l else none
  | none => none

/-- Releases a pin on a version, or with none the write that context `k` held, of the slate that a record names. -/
def releaseSlate (s : State) (key : Nat) (v : Option (BitVec 32)) (k : Nat) : State :=
  match s.slateLive key with
  | none => s
  | some l =>
    match v with
    | some v => slServe (slUnpin s l v.toNat) l
    | none => if slOpen s l ∧ slWriter s l = k % 2 ^ 32 then slServe (s.setField (l + 0x10) 32 1 0) l else s

/-- Releases it at once, or, where the share that holds the SCB has been spilled, when that share is filled again. -/
def releaseOrOwe (s : State) (key : Nat) (v : Option (BitVec 32)) (k : Nat) : State :=
  if (s.slateLoc key).isNone && (s.ctx (key / 2 ^ 21)).res == .spilled then
    s.updCtx (key / 2 ^ 21) (fun c => { c with slateOwed := c.slateOwed ++ [(key, v, k)] })
  else releaseSlate s key v k

/-- Releases a context's pins and held writes. -/
def releaseSlates (s : State) (k : Nat) : State :=
  let c := s.ctx k
  let s1 := c.slatePins.foldl (fun t p => releaseOrOwe t p.1 (some p.2) k) s
  let s2 := c.slateWrites.foldl (fun t key => releaseOrOwe t key none k) s1
  s2.updCtx k (fun c => { c with slatePins := [], slateWrites := [] })

/-- A share is back in its bank: what other contexts, which have ended meanwhile, held on its slates is released. -/
def payOwed (s : State) (k : Nat) : State :=
  ((s.ctx k).slateOwed.foldl (fun t o => releaseSlate t o.1 o.2.1 o.2.2) s).updCtx k (fun c => { c with slateOwed := [] })

end Sys2Proof.Machine
end

