-- ==== Sys2Proof/Machine/Sampling.lean ====
section
/-! DEFINITION. Sequence records, the generator, lists of probabilities, and SAMPLE and RNGDRAW
(08_speculation.md R183, R184, R192, R193, R198, R199; 13_sync_sequence.md R345, R346). -/

namespace Sys2Proof.Machine

/-! ### The generator (R192) -/

/-- One round of Philox on the four words of its counter. -/
def philoxRound (c : Nat × Nat × Nat × Nat) (k0 k1 : Nat) : Nat × Nat × Nat × Nat :=
  let a := 0xD2511F53 * c.1
  let b := 0xCD9E8D57 * c.2.2.1
  (Nat.xor (Nat.xor (b / 2 ^ 32) c.2.1) k0, b % 2 ^ 32, Nat.xor (Nat.xor (a / 2 ^ 32) c.2.2.2) k1, a % 2 ^ 32)

/-- `n` rounds, the key advancing between them. -/
def philoxRounds : Nat → Nat × Nat × Nat × Nat → Nat → Nat → Nat × Nat × Nat × Nat
  | 0, c, _, _ => c
  | n + 1, c, k0, k1 =>
    philoxRounds n (philoxRound c k0 k1) ((k0 + 0x9E3779B9) % 2 ^ 32) ((k1 + 0xBB67AE85) % 2 ^ 32)

/-- Philox-4×32-10 (R192). -/
def philox (seed n m : Nat) : Nat :=
  (philoxRounds 10 (bits n 0 32, bits n 32 32, m % 2 ^ 32, 0) (bits seed 0 32) (bits seed 32 32)).1

/-- Uniform, as an f32. -/
def uniform (seed n m : Nat) : Nat := (roundNum (fpFmt 10) 0 false (.fin false (philox seed n m / 256) (-24))).1

/-! ### Lists (R186, R193) -/

def f32Add : Nat → Nat → Nat := fpAdd (fpFmt 10) 0
def f32Sub : Nat → Nat → Nat := fpSub (fpFmt 10) 0
def f32Mul : Nat → Nat → Nat := fpMul (fpFmt 10) 0
def f32Div : Nat → Nat → Nat := fpDiv (fpFmt 10) 0
def f32Val (x : Nat) : Num := fpDecode (fpFmt 10) x

/-- x < y for two f32 numbers; false if either is a NaN. -/
def f32Lt (x y : Nat) : Bool :=
  !(f32Val x).isNan && !(f32Val y).isNan && cmpNum (f32Val x) (f32Val y) == .lt

/-- A list of tokens with f32 probabilities. -/
abbrev ProbList := List (Nat × Nat)

/-- An entry ranks before another: the greater number first, ties to the lower token. -/
def probBefore (a b : Nat × Nat) : Bool :=
  match cmpNum (f32Val a.2) (f32Val b.2) with
  | .gt => true
  | .lt => false
  | .eq => decide (a.1 < b.1)

def probInsert (a : Nat × Nat) : ProbList → ProbList
  | [] => [a]
  | b :: l => if probBefore a b then a :: b :: l else b :: probInsert a l

/-- Sorted(L). -/
def sortedProbs (l : ProbList) : ProbList :=
  (l.filter (fun e => f32Lt 0 e.2)).foldl (fun acc e => probInsert e acc) []

/-- Total(L). -/
def totalProb (l : ProbList) : Nat := (sortedProbs l).foldl (fun c e => f32Add c e.2) 0

/-- The first entry whose running sum passes `t`, or the last entry's token. -/
def pickRunning (t : Nat) : Nat → ProbList → Option Nat
  | _, [] => none
  | _, [e] => some e.1
  | c, e :: l => if f32Lt t (f32Add c e.2) then some e.1 else pickRunning t (f32Add c e.2) l

/-- SampleFrom(L, u). -/
def sampleFrom (l : ProbList) (u : Nat) : Option Nat :=
  if (f32Val (totalProb l)).isZero then none else pickRunning (f32Mul u (totalProb l)) 0 (sortedProbs l)

/-- Argmax(L). -/
def argmaxProb (l : ProbList) : Option Nat := (sortedProbs l).head?.map (·.1)

/-- P(x): 0 for a token that is absent. -/
def probOf (l : ProbList) (x : Nat) : Nat := ((l.find? (fun e => e.1 == x)).map (·.2)).getD 0

def tokenInsert (a : Nat × Nat) : ProbList → ProbList
  | [] => [a]
  | b :: l => if a.1 ≤ b.1 then a :: b :: l else b :: tokenInsert a l

/-- Residual(P, Q). -/
def residual (p q : ProbList) : ProbList :=
  let asc := p.foldl (fun acc e => tokenInsert e acc) []
  let r := asc.map (fun e =>
    let d := f32Sub e.2 (probOf q e.1)
    (e.1, if f32Lt 0 d then d else 0))
  let s := r.foldl (fun c e => f32Add c e.2) 0
  if (f32Val s).isZero then [] else (r.filter (fun e => f32Lt 0 e.2)).map (fun e => (e.1, f32Div e.2 s))

/-! ### Sequence records (R183, R184) -/

structure SeqRec where
  a : Nat
  loc : Nat
  state : Nat
  pend : Bool
  reason : Nat
  rule : Nat
  tree : Bool
  accm : Bool
  replay : Bool
  dp4 : Nat
  seqid : Nat
  iter : Nat
  btd : Nat
  tbt : Nat
  treeAt : Nat
  hist : Nat
  hlen : Nat
  hcap : Nat
  seed : Nat
  draw : Nat
  gen : Nat
  maxnew : Nat
  eos : Option Nat
  depth : Nat
  nmax : Nat
  crod : Nat
  part : Nat
  homed : Nat
  deriving DecidableEq, Repr, Inhabited

/-- The fields of a record from its bytes. -/
def seqOf (a loc : Nat) (bs : List Byte) : SeqRec :=
  let q (o : Nat) := blkWord bs (o / 8)
  let h := q 0
  { a := a, loc := loc, state := bits h 16 3, pend := bits h 19 1 == 1, reason := bits h 20 4, rule := bits h 24 2
    tree := bits h 26 1 == 1, accm := bits h 27 1 == 1, replay := bits h 28 1 == 1, dp4 := bits h 29 1
    seqid := bits h 32 32, iter := q 8, btd := q 0x10, tbt := q 0x18, treeAt := q 0x20, hist := q 0x28
    hlen := bits (q 0x30) 0 32, hcap := bits (q 0x30) 32 32, seed := q 0x38, draw := q 0x40
    gen := bits (q 0x48) 0 32, maxnew := bits (q 0x48) 32 32
    eos := if bits (q 0x50) 31 1 = 1 then some (bits (q 0x50) 0 20) else none
    depth := bits (q 0x50) 32 5, nmax := bits (q 0x50) 40 6, crod := q 0x58
    part := bits (q 0x68) 0 8, homed := bits (q 0x68) 16 4 }

/-- A record that every operation admits: MAGIC, RULE and DEPTH. -/
def seqValid (bs : List Byte) (r : SeqRec) : Bool :=
  bits (blkWord bs 0) 0 16 == 0x5E0C && decide (r.rule ≤ 1) && decide (1 ≤ r.depth) && decide (r.depth ≤ 16)

/-- Reads a record at its home, and whether it is valid. An operation that changes the record translates it anew for its
writes (R382). -/
def seqRead (w : Who) (a : Nat) : Op (SeqRec × Bool) := do
  let x ← xlat w false a
  hostCheck x a false
  let bs ← homeLoad w a 0x80
  let r := seqOf a x.loc bs
  return (r, seqValid bs r)

/-- Reads a record; an invalid one raises SQ_CORRUPT. -/
def seqAt (w : Who) (a : Nat) : Op SeqRec := do
  let (r, ok) ← seqRead w a
  if ok then return r else fatalOp .sqCorrupt 0 a

/-! ### RNGDRAW (R346) -/

/-- RNGDRAW. -/
def execRngdraw (h : Hdr) (o : RegOps) (s : State) : Res :=
  gateOp h s do
    let r ← seqAt s.who (s.srcS 1 o.a).toNat
    let n := (s.srcS 2 o.b).toNat
    let m := o.sub.toNat % 2
    putResult o.d (BitVec.ofNat 64 (philox r.seed n m + 2 ^ 32 * uniform r.seed n m))

/-! ### SAMPLE (R198, R199, R345) -/

/-- The sampler parameter block. -/
structure SamplePar where
  nv : Nat
  gen : Bool
  mode : Nat
  topk : Nat
  temp : Nat
  topp : Nat
  minp : Nat
  repp : Nat
  gmask : Nat
  pen : Nat
  npen : Nat
  rec_ : Nat
  didx : Nat

def sampleParOf (bs : List Byte) : SamplePar :=
  let q (i : Nat) := blkWord bs i
  ⟨bits (q 0) 0 21, bits (q 0) 24 1 == 1, bits (q 0) 25 2, bits (q 0) 32 9, bits (q 1) 0 32, bits (q 1) 32 32,
   bits (q 2) 0 32, bits (q 2) 32 32, q 3, q 4, bits (q 5) 0 12, q 6, q 7⟩

/-- An f32 is finite. -/
def f32Finite (x : Nat) : Bool := decide (x % 2 ^ 31 < 0x7F800000)

/-- Every operand is in range. -/
def SamplePar.ok (p : SamplePar) : Bool :=
  decide (1 ≤ p.nv) && decide (p.nv ≤ 2 ^ 20) && decide (p.mode ≤ 2) && decide (p.topk ≤ 256)
    && f32Finite p.temp && f32Lt 0 p.temp
    && f32Finite p.topp && f32Lt 0 p.topp && !f32Lt 0x3F800000 p.topp
    && f32Finite p.minp && !f32Lt p.minp 0 && !f32Lt 0x3F800000 p.minp
    && f32Finite p.repp && f32Lt 0 p.repp

/-- z of an eligible token (R199, step 1). -/
def tokenZ (p : SamplePar) (logit : Nat) (pen : Bool) : Option Nat :=
  let neg (x : Nat) : Bool := (f32Val x).isInf && decide (2 ^ 31 ≤ x)
  if (f32Val logit).isNan || neg logit then none
  else
    let z := f32Div logit p.temp
    let y := if !pen then z else if f32Lt 0 z then f32Div z p.repp else f32Mul z p.repp
    if neg y then none
    else if (f32Val y).isInf then some 0x7F7FFFFF
    else some y

/-- e^δ of an f32 δ that is not above 0, rounded once (R199, step 3; log 13). -/
def f32Exp (d : Nat) : Nat :=
  (roundNum (fpFmt 10) 0 false
    (match f32Val d with
     | .fin _ m e =>
       if m = 0 then .fin false 1 0
       else
         let y := ((Num.fin false m e).scaled (-(fixBits : Int))).toNat
         if 128 * 2 ^ fixBits ≤ y then .fin false 1 (-4000)
         else
           let i := y / ln2Fix
           .fin false (2 * (2 ^ (2 * fixBits) / expSum (y % ln2Fix) 80 0 (2 ^ fixBits)) + 1)
             (-(fixBits : Int) - 1 - i)
     | _ => .zero)).1

/-- Inserts in the heap of the 256 largest. -/
def heapInsert (a : Nat × Nat) (l : ProbList) : ProbList := (probInsert a l).take 256

/-- The shortest prefix whose running sum reaches `p`; every entry if none does. -/
def topPrefix (p : Nat) : Nat → ProbList → ProbList
  | _, [] => []
  | c, e :: l => if f32Lt (f32Add c e.2) p then e :: topPrefix p (f32Add c e.2) l else [e]

/-- The entries that the filters keep (R199, step 4). -/
def filterProbs (p : SamplePar) (heap : ProbList) : ProbList :=
  let k := if p.topk = 0 then heap else heap.take p.topk
  let t := if p.topp = 0x3F800000 then k else topPrefix p.topp 0 k
  let floor := f32Mul p.minp ((heap.head?.map (·.2)).getD 0)
  if p.minp % 2 ^ 31 = 0 then t else t.filter (fun e => !f32Lt e.2 floor)

/-- The eligible tokens, ascending, with z. -/
def eligible (p : SamplePar) (logits mask pens : List Nat) : ProbList :=
  ((List.range p.nv).zip logits).filterMap (fun tl =>
    if p.gen ∧ bits (mask.getD (tl.1 / 8) 0) (tl.1 % 8) 1 = 0 then none
    else (tokenZ p tl.2 (pens.contains tl.1)).map (fun z => (tl.1, z)))

/-- The kept list before it is renormalised, and whether SAMPLE spills; none with no eligible token. -/
def sampleKept (p : SamplePar) (el : ProbList) : Option (ProbList × Bool) :=
  let heap := el.foldl (fun l e => heapInsert e l) []
  match heap with
  | [] => none
  | top :: _ =>
    let e (z : Nat) := f32Exp (f32Sub z top.2)
    let sum := el.foldl (fun c x => f32Add c (e x.2)) 0
    let kept := filterProbs p (heap.map (fun x => (x.1, f32Div (e x.2) sum)))
    some (kept, decide (256 ≤ kept.length) && p.topk == 0 && decide (256 < el.length))

/-- Bytes that SAMPLE reads, in scratchpad or in memory. -/
def sampleLoad (s : State) (sp : Bool) (a n : Nat) : Op (List Byte) := do
  if sp then
    let locs ← beadSpan' a n
    spadRead locs
  else loadBytes s.who a n
where
  beadSpan' (a n : Nat) : Op (List Nat) := do
    if 2 ^ 23 < n then spadFault a
    return (← laneSpan a n false).flatten

/-- The result word of SAMPLE. -/
def sampleResult (status count : Nat) (tok : Option Nat) : Word :=
  BitVec.ofNat 64 (status + 2 ^ 8 * count + (match tok with | some t => 2 ^ 32 * t | none => 2 ^ 63))

/-- SAMPLE. The list is Sorted(kept), which leaves out an entry whose probability is +0 (R193), and the count is the
number of its entries, which is the model's choice (log 119). -/
def execSample (h : Hdr) (o : RegOps) (s : State) : Res :=
  gateOp h s do
    let dst := (s.srcS 3 o.c).toNat
    let p := sampleParOf (← sampleLoad s (o.sub.getLsbD 0) (s.srcS 1 o.a).toNat 64)
    if !p.ok then putResult o.d (sampleResult 6 0 none)
    else
      let lb ← sampleLoad s (o.sub.getLsbD 1) (s.srcS 2 o.b).toNat (4 * p.nv)
      let mask ← if p.gen then loadBytes s.who p.gmask ((p.nv + 7) / 8) else pure []
      let pens ← if p.npen = 0 then pure [] else loadBytes s.who p.pen (4 * p.npen)
      let r ← seqAt s.who p.rec_
      let el := eligible p ((chunks 4 p.nv lb).map leNat) (mask.map (·.toNat)) ((chunks 4 p.npen pens).map leNat)
      match sampleKept p el with
      | none => putResult o.d (sampleResult 8 0 none)
      | some (kept, spill) =>
        if spill then trapOp .sampleSpill 0 (s.srcS 1 o.a).toNat
        let total := totalProb kept
        let list := sortedProbs (kept.map (fun e => (e.1, f32Div e.2 total)))
        if dst ≠ 0 then
          let locs ← ownBlock dst (8 * list.length) 8
          spadWrite locs (list.flatMap (fun e => packNats 4 [e.1, e.2])) interlocked
        let tok := match p.mode with
          | 0 => sampleFrom list (uniform r.seed p.didx 1)
          | 1 => argmaxProb list
          | _ => none
        putResult o.d (sampleResult 0 list.length tok)

end Sys2Proof.Machine
end

