-- ==== Sys2Proof/Machine/Sequence.lean ====
section
/-! DEFINITION. The sequence manager: its table of records, work rods, trees, acceptance, commits and
completion slots (08_speculation.md R186 to R191, R194 to R197; 18_launch_scheduling.md R408, R409). -/

namespace Sys2Proof.Machine

/-! ### The manager's table -/

/-- The entry of a record, and its die. -/
def State.seqEnt (s : State) (loc : Nat) : Option (Nat × SeqEnt) :=
  s.dies.findSome? (fun kd => (kd.2.seqs.find? (fun q => q.seq == loc)).map (fun q => (kd.1, q)))

/-- Puts an entry in its die's table. -/
def State.putSeq (s : State) (die : Nat) (e : SeqEnt) : State :=
  s.updDie die (fun d =>
    let new := if d.seqs.any (fun q => q.seq == e.seq) then d.seqs.map (fun q => if q.seq = e.seq then e else q)
      else d.seqs ++ [e]
    { d with seqs := new })

def State.dropSeq (s : State) (loc : Nat) : State :=
  { s with dies := s.dies.map (fun kd => (kd.1, { kd.2 with seqs := kd.2.seqs.filter (fun q => q.seq != loc) })) }

/-- A new entry. -/
def newSeq (s : State) (r : SeqRec) (asid : BitVec 13) (part vif : Nat) : SeqEnt :=
  { (default : SeqEnt) with seq := r.loc, va := BitVec.ofNat 64 r.a, asid := asid, part := part, vif := vif
                            holder := none, commit := none, prefill := decide (s.field r.loc 16 3 = 1) }

/-- The entry of a record, or one made for a record that has none. -/
def entOf (s : State) (r : SeqRec) : Nat × SeqEnt :=
  (s.seqEnt r.loc).getD (r.homed, newSeq s r s.me.ctrl.asid r.part s.me.vif)

/-- Changes a record's entry. -/
def updEnt (r : SeqRec) (f : SeqEnt → SeqEnt) : Op Unit :=
  modify (fun s => let e := entOf s r; s.putSeq e.1 (f e.2))

/-- The bead has left the sequence's hands: it is neither in flight nor held. -/
def SeqEnt.idle (e : SeqEnt) : SeqEnt := { e with inFlight := false, taken := false, holder := none }

/-- On whose behalf the manager of a record's die acts. -/
def seqWho (s : State) (r : SeqRec) : Who := let e := entOf s r; deviceWho e.1 e.2.asid.toNat

/-- Writes a bit field of a record's 8-byte word. -/
def seqPut (w : Who) (a off lo len v : Nat) : Op Unit := do
  let q ← hNat w (a + off) 8
  hPut w (a + off) 8 (putBits q lo len v)

def setSeqState (w : Who) (r : SeqRec) (st : Nat) : Op Unit := seqPut w r.a 0 16 3 st
def setSeqReason (w : Who) (r : SeqRec) (x : Nat) : Op Unit := seqPut w r.a 0 20 4 x
def setSeqPend (w : Who) (r : SeqRec) (x : Nat) : Op Unit := seqPut w r.a 0 19 1 x

/-- LEN of a block table, as the manager reads it. -/
def lenOf (w : Who) (btd : Nat) : Op Nat := hNat w (btd + 0x1C) 4

/-- The partition of a die. -/
def partOfDie (s : State) (die : Nat) : Option Nat := (s.parts.find? (fun kp => kp.2.dies.getLsbD die)).map (·.1)

/-- DRAFT_SHARE of a die (R17); 0 for one in no partition. -/
def shareOfDie (s : State) (die : Nat) : Nat :=
  match partOfDie s die with
  | some p => ((s.part p).dsh.toList.getD die 0).toNat
  | none => 0

/-- A core's role (R17): true for draft; none for a core that has none. -/
def roleOf (s : State) (core : Nat) : Option Bool :=
  if isService core then none
  else (partOfDie s (core / 64)).map (fun _ => decide (core % 64 / 4 < shareOfDie s (core / 64)))

/-! ### The tree block (R186, R187, R352) -/

structure TreeNode where
  tok : Nat
  par : Nat
  dep : Nat
  q : Nat
  nq : Nat
  np : Nat
  pv : Bool
  deriving DecidableEq, Repr, Inhabited

def nodeOf (bs : List Byte) : TreeNode :=
  let x := blkWord bs 0
  let y := blkWord bs 1
  ⟨bits x 0 20, bits x 20 6, bits x 26 5, bits x 32 32, bits y 0 9, bits y 16 9, bits y 32 1 == 1⟩

/-- NN and the nodes. -/
def readTree (w : Who) (t : Nat) : Op (Nat × List TreeNode) := do
  let bs ← homeLoad w t 0x440
  let nn := bits (blkWord bs 0) 0 7
  return (nn, ((chunks 16 64 (bs.drop 0x40)).take nn).map nodeOf)

/-- A q list (`p` false) or p list of a node. -/
def readList (w : Who) (t : Nat) (p : Bool) (i n : Nat) : Op ProbList := do
  let bs ← homeLoad w (t + (if p then 0x20800 else 0x800) + 2048 * i) (8 * n)
  return (chunks 8 n bs).map (fun b => (bits (leNat b) 0 32, bits (leNat b) 32 32))

/-- The list condition. -/
def listOk (n : Nat) (l : ProbList) : Bool :=
  decide (n ≤ 256) && l.all (fun e => decide (e.1 < 2 ^ 20) && f32Finite e.2 && !f32Lt e.2 0)
    && (distinct (l.map (·.1))).length == l.length

/-- The tree conditions; `qs` are the q lists. -/
def treeOk (r : SeqRec) (nn : Nat) (ns : List TreeNode) (qs : List ProbList) : Bool :=
  decide (1 ≤ nn) && decide (nn ≤ r.nmax + 1)
    && (ns.zipIdx).all (fun ni =>
      let n := ni.1
      let i := ni.2
      let m := ns.getD n.par default
      let q := f32Val (probOf (qs.getD n.par []) n.tok)
      i == 0 || (decide (n.par < i) && n.dep == m.dep + 1 && decide (n.dep ≤ r.depth)
        && !(f32Val n.q).isNan && cmpNum (f32Val n.q) q == .eq))
    && (r.tree || (List.range nn).all (fun v =>
      decide (((ns.drop 1).filter (fun n => n.par == v)).length ≤ 1)))

/-- A submitted tree is valid for SQACC.q. -/
def submitOk (w : Who) (r : SeqRec) : Op Bool := do
  let (nn, ns) ← readTree w r.treeAt
  if 64 < nn then return false
  if ns.any (fun n => decide (256 < n.nq)) then return false
  let qs ← (ns.zipIdx).mapM (fun ni => readList w r.treeAt false ni.2 ni.1.nq)
  return treeOk r nn ns qs && (ns.zip qs).all (fun nl => listOk nl.1.nq nl.2)

/-- What the manager writes before the bead of a new iteration (R352). -/
def writeTree (w : Who) (r : SeqRec) (iter : Nat) : Op Unit := do
  let last ← if r.hlen = 0 then pure 0 else hNat w (r.hist + 4 * (r.hlen - 1)) 4
  hPut w r.treeAt 8 (1 + 2 ^ 32 * (iter % 2 ^ 32))
  homeStore w (r.treeAt + 0x40) (packNats 8 [last % 2 ^ 20, 0])
  (List.range 63).forM (fun i => seqPut w r.treeAt (0x40 + 16 * (i + 1) + 8) 32 1 0)

/-! ### What a sequence covers (R190) -/

/-- The record, the tree block and the pages that TBT maps. A table that cannot be read covers nothing. -/
def seqCover (s : State) (w : Who) (r : SeqRec) : Cover :=
  let pages := match (s.tryOp (do
      let b ← btdAt w r.tbt
      tableCover w b (← poolAt w b.pool))).1 with
    | some (.obj bs _) => bs
    | _ => []
  .obj ([⟨BitVec.ofNat 64 r.a, 512, 0, 0⟩, ⟨BitVec.ofNat 64 r.treeAt, 0x40800, 0, 0⟩] ++ pages) 0

/-! ### Work rods (R18, R156, R189) -/

/-- The work rods of a die and partition are initialised: 2,048 beads of 64 bytes. -/
def initWork (s : State) (die part : Nat) : State :=
  [true, false].foldl (fun t draft =>
    let r := workRef die part draft
    writeRcb t r (workSlots r.loc) 6 11 0) s

/-- The work rods of a die and partition are no more. -/
def dropWork (s : State) (die part : Nat) : State :=
  [true, false].foldl (fun t draft => t.writeBytes (workLoc die part draft) (List.replicate 64 0)) s

/-- A bead's record, KIND and ITER. -/
def beadRec (b : List Byte) : Nat := blkWord b 2
def beadKind (b : List Byte) : Nat := bits (blkWord b 0) 32 2
def beadIter (b : List Byte) : Nat := blkWord b 1

/-- The STATE that a KIND matches. -/
def kindState (k : Nat) : Nat := if k = 0 then 1 else if k = 1 then 2 else if k = 2 then 3 else 8

/-- What SQGET finds in a work rod: a status of R150 other than OK, a current bead, an invalid record, or a rod that fails
a check. -/
inductive Got where
  | status (st : Nat)
  | bead (b : List Byte) (r : SeqRec)
  | corrupt (a : Nat)
  | badRod (code : Nat)
  deriving DecidableEq, Repr

/-- Takes the first current bead, and discards the others before it. -/
def takeBead (w : Who) (rod : RodRef) : Nat → Op Got
  | 0 => return .status 1
  | n + 1 => do
    match ← rodDeq w rod 64 false with
    | .done 0 _ b =>
      let (r, ok) ← seqRead w (beadRec b)
      if !ok then return .corrupt (beadRec b)
      else if beadIter b = r.iter ∧ kindState (beadKind b) = r.state then return .bead b r
      else takeBead w rod n
    | .done st _ _ => return .status st
    | .corrupt code => return .badRod code
    | _ => return .status 1

/-- The most beads that a work rod can hold, and so the most that SQGET may discard. -/
def workCap : Nat := 2048

/-- The context takes the bead: it holds the sequence (R409), and acquires it (R190). -/
def holdSeq (w : Who) (r : SeqRec) : Op Unit := do
  updEnt r (fun e => { e with taken := true, holder := some w.ctx })
  let s ← get
  acquireOp w 3 (seqCover s w r)

/-- Gives beads to the SQGETs that wait at a work rod, oldest first. One whose record or destination does not translate is
released, and finds the fault itself when it re-executes. -/
def serveWork (s : State) (die part : Nat) (draft : Bool) : State :=
  let rod := workRef die part draft
  mirrorWaitq ((s.rodWaiters rod.loc).foldl (fun t q =>
    match t.parkedInstr q, q.kind with
    | some (.sqget _ o), .deq dst _ =>
      let w := t.whoOf q.ctx q.lane
      match t.tryOp (do
        let g ← takeBead w rod (workCap + 1)
        match g with
        | .bead b r =>
          match (← get).ownSpan ((← get).ctx q.ctx) dst 64 with
          | some xs => locsWrite xs b
          | none => spadFault dst
          holdSeq w r
        | _ => pure ()
        return g) with
      | (some (.bead _ _), u) => completeWait u q o.d (resultWord 0 0) none
      | (some (.corrupt a), u) =>
        let u1 := recordFatal u q.ctx .sqCorrupt (laneCode q.lane) 0 (BitVec.ofNat 64 a) none none
        (u1.unwait q.ctx q.lane).finishParked q.ctx q.lane
      | (some _, u) => u
      | (none, _) => t.unwait q.ctx q.lane
    | _, _ => t) s) rod.loc

/-! ### Enqueuing work (R189, R408) -/

/-- Sequences of a die in flight. -/
def inFlightCount (d : Die) : Nat := (d.seqs.filter (fun q => q.inFlight)).length

/-- A bead's bytes. -/
def beadBytes (r : SeqRec) (kind len : Nat) : List Byte :=
  packNats 8 [r.seqid + 2 ^ 32 * kind + 2 ^ 34 * r.dp4, r.iter, r.a, r.treeAt, r.btd, r.tbt,
    r.hlen + 2 ^ 32 * (len % 2 ^ 32), 0]

/-- BMAX as a die applies it. -/
def bmaxOf (s : State) (die part : Nat) : Nat := (s.part part).bmax.toList.getD die 0

/-- The bead is of the record's current iteration and state, so that its sequence is in flight (R408). -/
def beadCurrent (s : State) (loc : Nat) (bead : List Byte) : Bool :=
  s.readNat (loc + 8) 8 == beadIter bead && s.field loc 16 3 == kindState (beadKind bead)

/-- Enqueues a bead with the trying form; false where the rod does not take it. -/
def enqueueBead (s : State) (die part : Nat) (draft : Bool) (bead : List Byte) (loc : Nat) : Bool × State :=
  match s.tryOp (rodEnq (deviceWho die 0) (workRef die part draft) bead 64 false false) with
  | (some (.done 0 _ _), t) =>
    let u := if beadCurrent t loc bead then
        t.updDie die (fun d => { d with seqs := d.seqs.map (fun q => if q.seq = loc then { q with inFlight := true } else q) })
      else t
    (true, serveWork u die part draft)
  | (_, t) => (false, t)

/-- Puts a bead in a work rod, or defers it: for BMAX if `limited`, or for a full rod. A bead does not pass those that
have been deferred before it for the same cause. -/
def putBead (s : State) (die part : Nat) (draft : Bool) (bead : List Byte) (loc : Nat) (limited : Bool) : State :=
  let d := s.die die
  let defer (t : State) (full : Bool) : State :=
    t.updDie die (fun d => { d with deferred := d.deferred ++ [⟨part, draft, bead, loc, full⟩] })
  if limited && (decide (bmaxOf s die part ≤ inFlightCount d) || d.deferred.any (fun x => !x.full && x.part == part)) then
    defer s false
  else if d.deferred.any (fun x => x.full && x.part == part && x.draft == draft) then defer s true
  else
    match enqueueBead s die part draft bead loc with
    | (true, t) => t
    | (false, t) => defer t true

/-- The manager enqueues a bead of a KIND for a record, read anew. -/
def enqueueWork (a : Nat) (r0 : SeqRec) (kind : Nat) (limited : Bool) : Op Unit := do
  let s ← get
  let (die, e) := entOf s r0
  let w := deviceWho die e.asid.toNat
  let (r, _) ← seqRead w a
  let len ← lenOf w r.btd
  let part := (partOfDie s die).getD e.part
  updEnt r (fun x => { x.idle with prefill := kind == 0 })
  modify (fun t => putBead t die part (kind == 1) (beadBytes r kind len) r.loc limited)

/-- "Next iteration" of R188. -/
def nextIteration (w : Who) (r : SeqRec) : Op Unit := do
  let s ← get
  let die := (entOf s r).1
  let it := (r.iter + 1) % 2 ^ 64
  hPut w (r.a + 8) 8 it
  writeTree w r it
  let draft := shareOfDie s die != 0
  setSeqState w r (if draft then 2 else 3)
  updEnt r (fun e => { e with commit := none, preempt := false })
  enqueueWork r.a r (if draft then 1 else 2) true

/-! ### The acceptance rules (R194) -/

/-- What the rule walks: nodes and their lists. -/
structure Walk where
  nodes : List TreeNode
  ps : List ProbList
  qs : List ProbList
  seed : Nat
  draw : Nat

def Walk.kids (k : Walk) (v : Nat) : List Nat :=
  (List.range k.nodes.length).filter (fun i => i != 0 && (k.nodes.getD i default).par == v)

def Walk.u (k : Walk) (d : Nat) : Nat := uniform k.seed ((k.draw + d) % 2 ^ 64) 0

/-- The children of a node under RATIO: the first that is accepted, the draws used, and what is left of P. -/
def Walk.tryKids (k : Walk) (v : Nat) : List Nat → ProbList → Nat → Option Nat × ProbList × Nat
  | [], p, d => (none, p, d)
  | y :: ys, p, d =>
    let n := k.nodes.getD y default
    if f32Lt (f32Mul (k.u d) n.q) (probOf p n.tok) then (some y, p, d + 1)
    else k.tryKids v ys (residual p (k.qs.getD v [])) (d + 1)

/-- Accept(rule): the path, the new tokens, the draws used, and whether the status is EMPTY. Each pass goes
to a child, so as many passes as there are nodes are enough for a tree. -/
def Walk.accept (k : Walk) (greedy : Bool) : Nat → Nat → List Nat → List Nat → Nat → List Nat × List Nat × Nat × Bool
  | 0, _, path, new, d => (path, new, d, true)
  | f + 1, v, path, new, d =>
    let p := k.ps.getD v []
    let tok (y : Nat) : Nat := (k.nodes.getD y default).tok
    let stop (t : Option Nat) (d : Nat) (path new : List Nat) : List Nat × List Nat × Nat × Bool :=
      match t with
      | some t => (path, new ++ [t], d, false)
      | none => (path, new, d, true)
    if greedy then
      match argmaxProb p with
      | none => (path, new, d, true)
      | some a =>
        match (k.kids v).find? (fun y => tok y == a) with
        | none => (path, new ++ [a], d, false)
        | some x => k.accept greedy f x (path ++ [x]) (new ++ [tok x]) d
    else
      match k.tryKids v (k.kids v) p d with
      | (none, q, d1) =>
        let l := if (f32Val (totalProb q)).isZero then p else q
        stop (sampleFrom l (k.u d1)) (d1 + 1) path new
      | (some x, _, d1) =>
        if (k.kids x).isEmpty then
          stop (sampleFrom (k.ps.getD x []) (k.u d1)) (d1 + 1) (path ++ [x]) (new ++ [tok x])
        else k.accept greedy f x (path ++ [x]) (new ++ [tok x]) d1

/-- Runs a record's rule. -/
def runRule (w : Who) (r : SeqRec) : Op (List Nat × List Nat × Nat × Bool) := do
  let (_, ns) ← readTree w r.treeAt
  let ps ← (ns.zipIdx).mapM (fun ni => readList w r.treeAt true ni.2 (min ni.1.np 256))
  let qs ← (ns.zipIdx).mapM (fun ni => readList w r.treeAt false ni.2 (min ni.1.nq 256))
  let k : Walk := ⟨ns, ps, qs, r.seed, r.draw⟩
  return k.accept (r.rule == 0) (ns.length + 1) 0 [0] [] 0

/-! ### Commits (R195) -/

/-- k′ of step 1. -/
def keptTokens (r : SeqRec) (toks : List Nat) (len cap : Nat) : Nat :=
  let k := toks.length
  let k1 := match r.eos with
    | some e => match toks.findIdx? (· == e) with
      | some j => min k (j + 1)
      | none => k
    | none => k
  let k2 := if r.maxnew = 0 then k1 else min k1 (r.maxnew - r.gen)
  min (min k2 (r.hcap - r.hlen)) (16 * cap - len)

/-- The source row of a node for a group, in the format of the target page (R195). -/
def treeRow (w : Who) (p : Pool) (t : Btd) (g node pf : Nat) : Op (List Byte) := do
  let pn ← entryAt w t (node / 16)
  if pn = noEntry then return List.replicate (p.rowBytes pf) 0
  else
    let st ← entryState w p t.a pn
    return p.convertRow st.pf pf (← loadRow (homeAccess w) p pn g st (node % 16))

/-- Moves the rows of the path (step 2); false where no page is to be had. -/
def moveRows (w : Who) (r : SeqRec) (len : Nat) : List Nat → Op Bool
  | [] => return true
  | node :: nodes => do
    let b ← btdAt w r.btd
    let p ← poolAt w b.pool
    match ← ownPage w (homeAccess w) p r.btd (len / 16) with
    | none => return false
    | some pn =>
      let t ← btdAt w r.tbt
      let st ← pageState w p pn
      (List.range p.ng).forM (fun g => do
        storeRow (homeAccess w) p pn g st (len % 16) (← treeRow w p t g node st.pf))
      moveRows w r (len + 1) nodes

/-- STATE and REASON that a commit leads to whatever PEND is; 0 where PEND decides (R188). -/
def commitEnd (r : SeqRec) (toks : List Nat) (k len cap : Nat) (empty : Bool) : Nat × Nat :=
  if k ≠ 0 ∧ r.eos.isSome ∧ toks[k - 1]? = r.eos then (6, 5)
  else if r.maxnew ≠ 0 ∧ r.maxnew ≤ r.gen + k then (6, 6)
  else if r.hcap ≤ r.hlen + k ∨ 16 * cap ≤ len + k then (6, 7)
  else if empty then (5, 2)
  else (0, 0)

/-- STATE and REASON that follow a commit, with PEND as it is when the commit completes; `share`: the die's DRAFT_SHARE is
nonzero (R188, R410). -/
def commitOutcome (c : Commit) (pend preempt share : Bool) : Nat × Nat :=
  if c.next ≠ 0 then (c.next, c.reason)
  else if pend then (5, if preempt then 8 else 1)
  else (if share then 2 else 3, 0)

/-- Steps 1 to 3 of R195, and the new LEN; false for NOPAGE. -/
def commitRows (w : Who) (r : SeqRec) (path toks : List Nat) (d : Nat) (empty : Bool) : Op Bool := do
  let b ← btdAt w r.btd
  let k := keptTokens r toks b.len b.cap
  let ok ← if r.tree then moveRows w r b.len (path.take k) else pure true
  if !ok then return false
  homeStore w (r.hist + 4 * r.hlen) (packNats 4 (toks.take k))
  hPut w (r.a + 0x30) 4 (r.hlen + k)
  hPut w (r.a + 0x48) 4 (r.gen + k)
  hPut w (r.a + 0x40) 8 (r.draw + d)
  let b1 ← btdAt w r.btd
  setLen w b1 (b.len + k)
  let (st, why) := commitEnd r toks k b.len b.cap empty
  let c : Commit := ⟨path, toks, d, empty, k, r.hlen, st, why, if r.tree then 2 else 1⟩
  updEnt r (fun e => { e with commit := some c })
  return true

/-- The release of step 4, if it need not wait. -/
def commitRelease (w : Who) (r : SeqRec) (c : Commit) : Op Unit := do
  let b ← btdAt w r.btd
  if !b.quiet then throw .stall
  releaseFrom w b ((b.len + 15) / 16)
  updEnt r (fun e => { e with commit := some { c with stage := 2 } })

/-! ### Completion slots (R197) -/

/-- A progress slot. -/
def progressSlot (r : SeqRec) (st why k a hlen : Nat) : List Byte :=
  packNats 8 [r.seqid + 2 ^ 40 * st + 2 ^ 44 * why + 2 ^ 48 * k + 2 ^ 56 * a, hlen + 2 ^ 32 * (r.iter % 2 ^ 32)]

/-- The seed slot of a prefill commit: as its progress slot `p`, but for KIND and SEED. -/
def seedSlot (r : SeqRec) (p : List Byte) : List Byte := packNats 8 [putBits (blkWord p 0) 32 4 1, r.seed]

/-- Gathers slots for a record's rod. -/
def gatherSlots (s : State) (die : Nat) (r : SeqRec) (e : SeqEnt) (new : List Slot) : State :=
  let crod := BitVec.ofNat 64 r.crod
  s.updDie die (fun d =>
    let all := if d.gathered.any (fun g => g.crod == crod && g.asid == e.asid) then
        d.gathered.map (fun g => if g.crod == crod && g.asid == e.asid then { g with slots := g.slots ++ new } else g)
      else d.gathered ++ [⟨crod, e.asid, e.part, new, none⟩]
    { d with gathered := all })

/-- The commit that waits for a slot, if it still does: the record has not left that iteration. -/
def awaitsSlot (s : State) (x : Slot) : Option (Nat × SeqEnt × Commit) :=
  match s.seqEnt x.seq with
  | none => none
  | some (die, e) =>
    match e.commit with
    | none => none
    | some c =>
      if x.commit && c.stage == 3 && s.readNat (x.seq + 8) 8 == x.iter then some (die, e, c) else none

/-- A slot is lost: the commit that waits for it is to park its record with NOCROD, and an abort that has parked it gives
way to that REASON. -/
def loseSlot (s : State) (x : Slot) : State :=
  match awaitsSlot s x with
  | some (die, e, c) => s.putSeq die { e with commit := some { c with stage := 5 } }
  | none =>
    if !x.commit && s.field x.seq 16 3 == 5 && s.readNat (x.seq + 8) 8 == x.iter then s.setField x.seq 20 4 4 else s

/-- A slot has been posted, and with it perhaps the last that a commit waits for. -/
def slotPosted (s : State) (x : Slot) : State :=
  match awaitsSlot s x with
  | some (die, e, c) =>
    if (s.die die).gathered.any (fun g => g.slots.any (fun y => y.seq == x.seq && y.commit && y.iter == x.iter)) then s
    else s.putSeq die { e with commit := some { c with stage := 4 } }
  | none => s

/-- Step 5 of R195: the commit's slot, with a seed slot before it for a prefill commit; lost where the record names no
rod. -/
def commitPost (r : SeqRec) (c : Commit) : Op Unit :=
  modify (fun s =>
    let (die, e) := entOf s r
    let slot (bs : List Byte) : Slot := ⟨bs, r.loc, r.iter, true⟩
    let p := progressSlot r c.next c.reason c.kept (c.path.length - 1) c.hlen
    let t := s.putSeq die { e with commit := some { c with stage := if r.crod = 0 then 5 else 3 } }
    if r.crod = 0 then t else gatherSlots t die r e (if e.prefill then [slot (seedSlot r p), slot p] else [slot p]))

/-- STATE and REASON of a slot. -/
def withOutcome (bs : List Byte) (st why : Nat) : List Byte :=
  packNats 8 [putBits (putBits (blkWord bs 0) 40 3 st) 44 4 why, blkWord bs 1]

/-- Slots of a record's commit that wait to be posted, when an abort ends the commit: what follows it is the abort's
outcome (log 120). -/
def abortSlots (s : State) (r : SeqRec) (why : Nat) : State :=
  { s with dies := s.dies.map (fun kd => (kd.1, { kd.2 with gathered := kd.2.gathered.map (fun g =>
      { g with slots := g.slots.map (fun x =>
          if x.seq = r.loc ∧ x.commit = true ∧ bits (blkWord x.bytes 0) 40 3 = 0 then
            { x with bytes := withOutcome x.bytes 5 why } else x) }) })) }

/-- The progress slot of an abort that has left ITER one higher; lost where the record names no rod. -/
def abortPost (r : SeqRec) (why : Nat) : Op Unit :=
  modify (fun s0 =>
    let s := abortSlots s0 r why
    let (die, e) := entOf s r
    let x : Slot := ⟨progressSlot r 5 why 0 0 r.hlen, r.loc, (r.iter + 1) % 2 ^ 64, false⟩
    if r.crod = 0 then loseSlot s x else gatherSlots s die r e [x])

/-- A commit's slot as it is posted: with the STATE and REASON that follow. -/
def fillSlot (s : State) (x : Slot) : List Byte :=
  match awaitsSlot s x with
  | some (die, e, c) =>
    let (st, why) := commitOutcome c (s.field x.seq 19 1 == 1) e.preempt (shareOfDie s die != 0)
    withOutcome x.bytes st why
  | none => x.bytes

/-! ### Carrying a commit out -/

/-- A commit has met a condition of R182: the sequence parks with REASON CORRUPT. -/
def parkSeq (s : State) (w : Who) (r : SeqRec) (why : Nat) : State :=
  (s.tryOp (do
    setSeqState w r 5
    setSeqReason w r why
    updEnt r (fun e => { e.idle with commit := none }))).2

/-- What an attempt at part of a commit comes to: a condition of R182 parks the sequence, and what must wait
leaves the state as it was. -/
def commitTry {α : Type} (s : State) (w : Who) (r : SeqRec) (m : Op α) (k : α → State → State) : State :=
  match m.run.run s with
  | (.ok a, t) => k a t
  | (.error (.fatal _ _ _), t) => parkSeq t w r 9
  | (.error _, t) => keepTranslations s t

/-- Goes on with a commit as far as it can: rows, entries, slot. -/
def advanceCommit (s : State) (w : Who) (r : SeqRec) : State :=
  let rows := match (entOf s r).2.commit with
    | some c =>
      if c.stage = 0 then
        commitTry s w r (commitRows w r c.path c.toks c.draws c.empty) (fun ok t => if ok then t else parkSeq t w r 3)
      else s
    | none => s
  let freed := match (entOf rows r).2.commit with
    | some c => if c.stage = 1 then commitTry rows w r (commitRelease w r c) (fun _ t => t) else rows
    | none => rows
  match (entOf freed r).2.commit with
  | some c => if c.stage = 2 then (freed.tryOp (commitPost r c)).2 else freed
  | none => freed

/-- Begins a commit with its path. -/
def beginCommit (s : State) (w : Who) (r : SeqRec) (path toks : List Nat) (d : Nat) (empty : Bool) : State :=
  advanceCommit (let e := entOf s r
                 s.putSeq e.1 { e.2 with commit := some ⟨path, toks, d, empty, 0, 0, 0, 0, 0⟩ }) w r

/-- Runs the rule of a record in COMMIT, and its commit. -/
def commitByRule (s : State) (w : Who) (r : SeqRec) : State :=
  match s.tryOp (runRule w r) with
  | (some (path, toks, d, empty), t) => beginCommit t w r path toks d empty
  | (none, t) => t

/-- A commit whose slot has been posted moves STATE (R188), with PEND as it now is. -/
def finishCommit (s : State) (die : Nat) (w : Who) (r : SeqRec) (e : SeqEnt) (c : Commit) : State :=
  let (st, why) := commitOutcome c r.pend e.preempt (shareOfDie s die != 0)
  if st = 5 ∨ st = 6 then
    (s.tryOp (do
      setSeqState w r st
      setSeqReason w r why
      updEnt r (fun x => { x.idle with commit := none, preempt := false }))).2
  else (s.tryOp (nextIteration w r)).2

/-- What a record's commit has still to do: one that had to wait goes on; one whose slot has been posted moves STATE; one
whose slot is lost parks with NOCROD. -/
def goOnWith (s : State) (die : Nat) (e : SeqEnt) : State :=
  let w := deviceWho die e.asid.toNat
  match s.tryOp (seqRead w e.va.toNat) with
  | (none, t) => t
  | (some (r, _), t) =>
    match e.commit with
    | none => if r.state = 4 ∧ !r.accm then commitByRule t w r else t
    | some c =>
      match c.stage with
      | 5 => parkSeq t w r 4
      | 4 => finishCommit t die w r e c
      | 3 => t
      | _ => advanceCommit t w r

/-- COMMIT_COMPLETE (`ev.a` the die, `ev.b` the record's location). -/
def execCommitComplete (s : State) : Res :=
  match (s.die s.cur.ev.a).seqs.find? (fun q => q.seq == s.cur.ev.b) with
  | none => .next s
  | some e => .next (goOnWith s s.cur.ev.a e)

/-- No commit of a die's sequences has still to gather its slot (R197). -/
def noCommitPending (d : Die) : Bool :=
  d.seqs.all (fun q => match q.commit with | some c => decide (3 ≤ c.stage) | none => true)

/-- A completion record. -/
def recordBytes (s : State) (die : Nat) (g : Gathered) (slots : List (List Byte)) (n : Nat) : List Byte :=
  packNats 8 [0xC7E8 + 2 ^ 16 * slots.length + 2 ^ 24 * die + 2 ^ 32 * g.part, n, (s.core (1024 + 2 * die)).cycle.toNat]
    ++ List.replicate 40 0 ++ padTo 192 slots.flatten

/-- What the rest of a posting's step does for a record: its commit leaves COMMIT (R195, R197). -/
def leaveCommit (s : State) (seq : Nat) : State :=
  match s.seqEnt seq with
  | some (die, e) => if e.commit.any (fun c => decide (4 ≤ c.stage)) then goOnWith s die e else s
  | none => s

/-- Records that a die's manager has posted to a rod. -/
def postedTo (s : State) (die rod : Nat) : Nat := (((s.die die).posted.find? (fun p => p.1 == rod)).map (·.2)).getD 0

/-- What the posting of the first `k` slots that are gathered for a rod has come to: status 0, or another for a record that
is lost. -/
def settlePost (s : State) (die : Nat) (g : Gathered) (k rod st : Nat) : State :=
  let now := g.slots.take k
  let rest := g.slots.drop k
  let t1 := s.updDie die (fun x => { x with
    gathered := if rest.isEmpty then x.gathered.filter (fun y => !(y == g))
      else x.gathered.map (fun y => if y == g then { y with slots := rest, posting := none } else y)
    posted := if st = 0 then (rod, postedTo s die rod + 1) :: x.posted.filter (fun p => p.1 != rod) else x.posted })
  let t2 := now.foldl (if st = 0 then slotPosted else loseSlot) t1
  (distinct (now.map (·.seq))).foldl leaveCommit t2

/-- The record of the first `k` slots that are gathered for a rod, the `n`-th there. -/
def recordOf (s : State) (die : Nat) (g : Gathered) (k n : Nat) : List Byte :=
  recordBytes s die g ((g.slots.take k).map (fillSlot s)) n

/-- The record parks as a waiter of its rod (R149, R156); with no wait entry for it, it is tried again later (R152). -/
def parkPost (s t : State) (die : Nat) (g : Gathered) (k : Nat) (r : RodRef) (bytes : List Byte) : State :=
  let wait := deviceCtx 0 die true s.nextId
  match t.parkFor wait .L r.loc r.addr (.enq bytes) with
  | (true, u) => mirrorWaitq ({ u.updDie die (fun d => { d with gathered := d.gathered.map (fun y =>
      if y == g then { y with posting := some ⟨wait, k, r.loc, none⟩ } else y) }) with nextId := u.nextId + 1 }) r.loc
  | (false, _) => s

/-- The manager's blocking enqueue of a record (R197): it is there, lost, or waits in the rod's list; a page move holds
it (R394). A CROD that is out of the device's reach loses it (DESIGN CHOICE, log 128). -/
def postFor (s : State) (die : Nat) (g : Gathered) : State :=
  let k := min 12 g.slots.length
  match deviceReach s die g.asid.toNat g.crod with
  | .error st => if st = heldStatus then s else settlePost s die g k 0 st
  | .ok (r, t) =>
    let bytes := recordOf s die g k (postedTo s die r.loc + 1)
    let w := { deviceWho die g.asid.toNat with ctx := deviceCtx 0 die true s.nextId }
    match (rodEnq w r bytes bytes.length true false).run.run t with
    | (.ok (.done st _ _), u) => settlePost u die g k r.loc st
    | (.ok .wait, u) => parkPost s u die g k r bytes
    | (.ok _, u) => settlePost u die g k r.loc 4
    | (.error .stall, _) => s
    | (.error _, _) => settlePost s die g k r.loc 4

/-- COMPLETION_RECORD_POST (`ev.a` the die): a record goes to the first rod for which 12 slots have been
gathered, or any if no commit is pending. -/
def execCompletionRecordPost (s : State) : Res :=
  let die := s.cur.ev.a
  let d := s.die die
  match d.gathered.find? (fun g => g.posting.isNone && (decide (12 ≤ g.slots.length) || noCommitPending d)) with
  | none => .next s
  | some g => .next (postFor s die g)

/-- Records that wait before a waiter in the list of its rod, from the same die's manager. -/
def postsBefore (s : State) (q : Waiter) : Nat :=
  ((s.waiters.takeWhile (fun p => !(p == q))).filter (fun p =>
    isPostCtx p.ctx && p.obj == q.obj && deviceDie p.ctx == deviceDie q.ctx)).length

/-- A record that waits at its rod says what its slots have come to meanwhile. -/
def refreshPost (s : State) (die : Nat) (g : Gathered) (p : Posting) : State :=
  { s with waiters := s.waiters.map (fun q =>
      match q.kind with
      | .enq _ => if q.ctx = p.wait then
          { q with kind := .enq (recordOf s die g p.slots (postedTo s die p.rod + 1 + postsBefore s q)) } else q
      | _ => q) }

/-- Records in posting: one that its rod has answered is settled in the step of the answer, and one that waits is brought up to
date. -/
def settlePosts (s : State) : State :=
  s.dies.foldl (fun t kd => kd.2.gathered.foldl (fun u g =>
    match g.posting with
    | none => u
    | some p =>
      match p.answer with
      | some st => settlePost u kd.1 g p.slots p.rod st
      | none => refreshPost u kd.1 g p) t) s

/-! ### Aborts, deferred beads, shares (R188, R189, R19, R408, R409) -/

/-- The effect of SQPARK.abort with a REASON. -/
def abortSeq (w : Who) (r : SeqRec) (why : Nat) : Op Unit := do
  hPut w (r.a + 8) 8 (r.iter + 1)
  setSeqState w r 5
  setSeqReason w r why
  updEnt r (fun e => { e.idle with commit := none, preempt := false })
  abortPost r why

/-- Sequences that a context holds are aborted with REASON PREEMPT (R409). -/
def abortHeld (s : State) (k : Nat) : State :=
  s.dies.foldl (fun t kd =>
    (kd.2.seqs.filter (fun q => q.holder == some k)).foldl (fun u q =>
      let w := deviceWho kd.1 q.asid.toNat
      (u.tryOp (do
        let (r, _) ← seqRead w q.va.toNat
        abortSeq w r 8)).2) t) s

/-- Contexts that have ended by a fault and still hold a sequence, whose record could not be reached: the abort is tried
again (R394, R409). -/
def settleHeld (s : State) : State :=
  (distinct (s.dies.flatMap (fun kd => kd.2.seqs.filterMap (·.holder)))).foldl (fun t k =>
    if (t.ctx k).res = .gone ∧ (t.ctx k).fatal.isSome then abortHeld t k else t) s

/-- The cause of a deferral has cleared. -/
def deferralOver (s : State) (die : Nat) (x : Deferred) : Bool :=
  if x.full then rodFree s (workLoc die x.part x.draft) != 0
  else decide (inFlightCount (s.die die) < bmaxOf s die x.part)

/-- DEFERRED_BEAD_ENQUEUE (`ev.a` the die): the first deferred bead whose cause has cleared. One that then finds its rod
full stays where it is, deferred for that. -/
def execDeferredBeadEnqueue (s : State) : Res :=
  let die := s.cur.ev.a
  match (s.die die).deferred.find? (fun x => deferralOver s die x) with
  | none => .next s
  | some x =>
    match enqueueBead s die x.part x.draft x.bead x.seq with
    | (true, t) => .next (t.updDie die (fun d => { d with deferred := d.deferred.erase x }))
    | (false, t) => .next (t.updDie die (fun d =>
        { d with deferred := d.deferred.map (fun y => if y == x then { y with full := true } else y) }))

/-- The sequences that leave DRAFT when the share becomes 0: their beads are not taken (R189). -/
def leaveDraft (s : State) (die : Nat) : State :=
  ((s.die die).seqs.filter (fun q => !q.taken)).foldl (fun t q =>
    let w := deviceWho die q.asid.toNat
    (t.tryOp (do
      let (r, _) ← seqRead w q.va.toNat
      if r.state = 2 then
        seqPut w r.treeAt 0 0 7 1
        setSeqState w r 3
        enqueueWork r.a r 2 false)).2) s

/-- SQGETs that wait at a die's work rods look again (R19). -/
def reopenWork (s : State) (die part : Nat) : State :=
  [true, false].foldl (fun t draft =>
    let loc := workLoc die part draft
    mirrorWaitq ({ t with waiters := t.waiters.filter (fun q => !(q.kind.isDeq && q.obj == loc)) }.touch loc) loc) s

/-- The sequence manager of a die performs no commit of a sequence of a partition (R19). -/
def atBoundary (s : State) (die part : Nat) : Bool :=
  (s.die die).seqs.all (fun q => q.part != part
    || (q.commit.isNone && !(s.field q.seq 16 3 == 4 && s.field q.seq 27 1 == 0)))

/-- A share or a BMAX waits for a die's next iteration boundary. -/
def pendingShare (s : State) (die part : Nat) : Bool :=
  let x := s.part part
  (x.dshNew.toList.getD die none).isSome || (x.bmaxNew.toList.getD die none).isSome

/-- What waits for a die's next iteration boundary takes effect: DRAFT_SHARE and BMAX. -/
def applyPending (s : State) (die part : Nat) : State :=
  let x := s.part part
  let share := x.dshNew.toList.getD die none
  let bmax := x.bmaxNew.toList.getD die none
  let s1 := s.updPart part (fun x => { x with
    dsh := match share with | some v => x.dsh.setIfInBounds die v | none => x.dsh
    dshNew := x.dshNew.setIfInBounds die none
    bmax := match bmax with | some v => x.bmax.setIfInBounds die v | none => x.bmax
    bmaxNew := x.bmaxNew.setIfInBounds die none })
  if share.isSome then reopenWork s1 die part else s1

/-- DRAFT_SHARE_APPLY (`ev.a` the die): at the die's next iteration boundary (R19). While the share is 0, a sequence that
could not leave DRAFT then, because its record did not translate, leaves it when it can. -/
def execDraftShareApply (s : State) : Res :=
  let die := s.cur.ev.a
  match partOfDie s die with
  | none => .next s
  | some p =>
    if !atBoundary s die p then .next s
    else
      let s1 := applyPending s die p
      .next (if shareOfDie s1 die = 0 then leaveDraft s1 die else s1)

end Sys2Proof.Machine
end

