-- ==== Sys2Proof/Machine/SeqInstrs.lean ====
section
/-! DEFINITION. The sequence instructions: SQGET, SQACC, SQCOMMIT and SQPARK (08_speculation.md R188 to R191,
R195; 13_sync_sequence.md R340 to R342). -/

namespace Sys2Proof.Machine

/-! ### SQGET (R18, R189, R340) -/

/-- SQGET: the next current bead of the core's role. -/
def execSqget (h : Hdr) (o : RegOps) (s : State) : Res :=
  gateOp h s do
    let die := s.myDie
    match roleOf s s.myCore, partOfDie s die with
    | some draft, some part =>
      let locs ← ownBlock (s.srcS 1 o.a).toNat 64 64
      let rod := workRef die part draft
      match ← takeBead s.who rod (workCap + 1) with
      | .bead b r =>
        spadWrite locs b interlocked
        holdSeq s.who r
        putResult o.d (resultWord 0 0)
      | .corrupt a => raiseKept .sqCorrupt 0 (BitVec.ofNat 64 a)
      | .badRod code => rodCorrupt rod code
      | .status st =>
        if st = 1 && !o.mod.getLsbD 0 then
          rodAnswer rod o.d (.deq (s.srcS 1 o.a).toNat 64) [] .wait
        else putResult o.d (resultWord st 0)
    | _, _ => putResult o.d (resultWord 7 0)

/-! ### SQACC and SQCOMMIT (R191, R195, R341) -/

/-- The record that Reg(a) names, with the release that the instruction makes (R190). -/
def seqEnter (s : State) (a : Nat) : Op SeqRec := do
  let r ← seqAt s.who a
  releaseOp s.who (seqCover s s.who r)
  seqAt s.who a

/-- SQACC.q. -/
def execSqaccQ (h : Hdr) (o : RegOps) (s : State) : Res :=
  gateOp h s do
    let r ← seqEnter s (s.srcS 1 o.a).toNat
    let w := seqWho (← get) r
    if r.iter ≠ (s.srcS 2 o.b).toNat then putResult o.d (resultWord 1 0)
    else if r.state ≠ 2 then putResult o.d (resultWord 2 0)
    else if ← submitOk w r then
      setSeqState w r 3
      enqueueWork r.a r 2 false
      putResult o.d (resultWord 0 0)
    else putResult o.d (resultWord 3 0)

/-- PV is set on nodes i0 to i0 + n − 1. -/
def markNodes (w : Who) (r : SeqRec) (i0 n : Nat) : Op Unit :=
  (List.range n).forM (fun i => seqPut w r.treeAt (0x40 + 16 * (i0 + i) + 8) 32 1 1)

/-- The p lists of some nodes meet the list condition. -/
def plistsOk (w : Who) (r : SeqRec) (ns : List TreeNode) (i0 n : Nat) : Op Bool := do
  let sel := (ns.drop i0).take n
  if sel.any (fun x => decide (256 < x.np)) then return false
  let ls ← (sel.zipIdx).mapM (fun xi => readList w r.treeAt true (i0 + xi.2) xi.1.np)
  return (sel.zip ls).all (fun xl => listOk xl.1.np xl.2)

/-- SQACC.p: the marks that complete the tree move the sequence to COMMIT, and with ACCM = 0 the commit
begins. -/
def execSqaccP (h : Hdr) (o : RegOps) (s : State) : Res :=
  gateOp h s do
    let r ← seqEnter s (s.srcS 1 o.a).toNat
    let w := seqWho (← get) r
    let i0 := bits (s.srcS 3 o.c).toNat 0 6
    let n := bits (s.srcS 3 o.c).toNat 8 7
    if r.iter ≠ (s.srcS 2 o.b).toNat then putResult o.d (resultWord 1 0)
    else if r.state ≠ 1 ∧ r.state ≠ 3 then putResult o.d (resultWord 2 0)
    else
      let (nn, ns) ← readTree w r.treeAt
      if n = 0 ∨ min nn 64 < i0 + n then putResult o.d (resultWord 6 0)
      else if ((ns.drop i0).take n).any (fun x => x.pv) then putResult o.d (resultWord 5 0)
      else if ← plistsOk w r ns i0 n then
        markNodes w r i0 n
        putResult o.d (resultWord 0 0)
        let (_, ms) ← readTree w r.treeAt
        if ms.all (fun x => x.pv) then
          setSeqState w r 4
          updEnt r (fun e => { e.idle with commit := none, prefill := r.state == 1 })
          if !r.accm then
            let (q, _) ← seqRead w r.a
            modify (fun t => commitByRule t w q)
      else putResult o.d (resultWord 3 0)

/-- The path of a commit block: each node a child of the one before. -/
def pathFrom (ns : List TreeNode) : Nat → List Nat → Option (List Nat)
  | _, [] => some []
  | v, x :: xs =>
    if x = 0 ∨ ns.length ≤ x ∨ (ns.getD x default).par ≠ v then none
    else (pathFrom ns x xs).map (fun l => x :: l)

/-- SQCOMMIT. -/
def execSqcommit (h : Hdr) (o : RegOps) (s : State) : Res :=
  gateOp h s do
    let blk ← readBlock (s.srcS 3 o.c).toNat 32 8
    let r ← seqEnter s (s.srcS 1 o.a).toNat
    let t ← get
    let w := seqWho t r
    let n := bits (blkWord blk 0) 0 5
    let fin := bits (blkWord blk 0) 32 32
    let du := bits (blkWord blk 1) 0 32
    if r.iter ≠ (s.srcS 2 o.b).toNat then putResult o.d (resultWord 1 0)
    else if r.state ≠ 4 ∨ !r.accm ∨ (entOf t r).2.commit.isSome then putResult o.d (resultWord 2 0)
    else
      let (_, ns) ← readTree w r.treeAt
      let nodes := ((blk.drop 16).take n).map (·.toNat)
      let ok := decide (n ≤ r.depth) && decide (n ≤ 16) && (decide (fin < 2 ^ 20) || fin == 0xFFFFFFFF)
        && decide (du ≤ 65536)
      match pathFrom ns 0 nodes with
      | none => putResult o.d (resultWord 4 0)
      | some path =>
        if !ok then putResult o.d (resultWord 4 0)
        else
          putResult o.d (resultWord 0 0)
          let toks := path.map (fun x => (ns.getD x default).tok) ++ (if fin = 0xFFFFFFFF then [] else [fin])
          modify (fun u => beginCommit u w r (0 :: path) toks du (fin == 0xFFFFFFFF))

/-! ### SQPARK (R188, R342) -/

/-- The result of SQPARK: the status, and ITER after the operation where it is OK. -/
def parkResult (d : BitVec 6) (a : Nat) (status : Nat) : Op Unit := do
  if status = 0 then
    let (r, _) ← seqRead (← get).who a
    putResult d (resultHigh 0 r.iter)
  else putResult d (resultHigh status 0)

/-- What the SQPARK operations share: the record, the release, and the result. -/
def parkOp (h : Hdr) (o : RegOps) (s : State) (act : State → SeqRec → Who → Op Nat) : Res :=
  gateOp h s do
    let a := (s.srcS 1 o.a).toNat
    let r ← seqEnter s a
    let t ← get
    parkResult o.d a (← act t r (seqWho t r))

/-- ADMIT and IMPORT: the record becomes active on the issuing core's die. -/
def activate (s : State) (r : SeqRec) : Op Who := do
  let die := s.myDie
  let w := deviceWho die s.me.ctrl.asid.toNat
  seqPut w r.a 0x68 0 8 s.me.part
  seqPut w r.a 0x68 8 8 s.me.vif
  seqPut w r.a 0x68 16 4 die
  modify (fun t => t.putSeq die { newSeq t r s.me.ctrl.asid s.me.part s.me.vif with prefill := false })
  return w

/-- The die has no room for another active record. -/
def tableFull (s : State) : Bool := decide (1024 ≤ (s.die s.myDie).seqs.length)

/-- A prefill bead is enqueued on the check rod, after node 0 has been written. -/
def startPrefill (w : Who) (r : SeqRec) : Op Unit := do
  let (q, _) ← seqRead w r.a
  writeTree w q q.iter
  setSeqState w r 1
  enqueueWork r.a r 0 false

/-- SQPARK.admit. -/
def parkAdmit (s : State) (r : SeqRec) (w : Who) : Op Nat := do
  if r.state ≠ 0 then return 2
  else if tableFull s then return 7
  else if r.hlen = 0 ∨ r.hlen - 1 < (← lenOf w r.btd) then return 6
  else
    let w1 ← activate s r
    if !r.replay then hPut w1 (r.a + 0x38) 8 (← Op.free 14)
    hPut w1 (r.a + 8) 8 0
    hPut w1 (r.a + 0x40) 8 0
    hPut w1 (r.a + 0x48) 4 0
    startPrefill w1 r
    return 0

/-- SQPARK.import. -/
def parkImport (s : State) (r : SeqRec) (_ : Who) : Op Nat := do
  if r.state ≠ 0 then return 2
  else if tableFull s then return 7
  else
    let w1 ← activate s r
    setSeqState w1 r 5
    return 0

/-- The record is in an iteration. -/
def SeqRec.running (r : SeqRec) : Bool := decide (1 ≤ r.state) && decide (r.state ≤ 4)

/-- SQPARK.park, and SQPARK.preempt: a REASON that the scheduler has set stands. -/
def parkAtEnd (preempt : Bool) (_ : State) (r : SeqRec) (w : Who) : Op Nat := do
  if !r.running then return 2
  else
    setSeqPend w r 1
    updEnt r (fun e => { e with preempt := preempt || (e.preempt && r.pend) })
    return 0

/-- SQPARK.abort. -/
def parkAbort (_ : State) (r : SeqRec) (w : Who) : Op Nat := do
  if !r.running then return 2
  else
    abortSeq w r 1
    return 0

/-- SQPARK.resume. -/
def parkResume (_ : State) (r : SeqRec) (w : Who) : Op Nat := do
  if r.state ≠ 5 then return 2
  else
    setSeqPend w r 0
    setSeqReason w r 0
    updEnt r (fun e => { e.idle with preempt := false, commit := none })
    if (← lenOf w r.btd) < r.hlen - 1 then startPrefill w r
    else if r.reason = 3 then
      setSeqState w r 4
      if !r.accm then
        let (q, _) ← seqRead w r.a
        modify (fun t => commitByRule t w q)
    else nextIteration w r
    return 0

/-- SQPARK.migout. -/
def parkMigout (_ : State) (r : SeqRec) (w : Who) : Op Nat := do
  if r.state ≠ 5 then return 2
  else
    setSeqState w r 7
    return 0

/-- SQPARK.migabort. -/
def parkMigabort (_ : State) (r : SeqRec) (w : Who) : Op Nat := do
  if r.state ≠ 7 then return 2
  else
    setSeqState w r 5
    return 0

/-- The record is FREE, and no longer active. -/
def freeSeq (w : Who) (r : SeqRec) : Op Unit := do
  setSeqState w r 0
  modify (fun s => s.dropSeq r.loc)

/-- Releases every entry of some tables, then frees the record; it waits on a table that is not quiet. -/
def releaseAndFree (o : RegOps) (w : Who) (r : SeqRec) (tables : List Nat) : Op Unit := do
  let bs ← tables.mapM (fun t => btdAt w t)
  match bs.find? (fun b => !b.quiet) with
  | some b => waitTable_ b.loc (BitVec.ofNat 64 b.a)
  | none =>
    tables.forM (fun t => do releaseFrom w (← btdAt w t) 0)
    freeSeq w r
    parkResult o.d r.a 0

/-- What SQPARK.migdone and SQPARK.retire share. -/
def parkFree (h : Hdr) (o : RegOps) (s : State) (ok : Nat → Bool) (tables : SeqRec → List Nat) : Res :=
  gateOp h s do
    let a := (s.srcS 1 o.a).toNat
    let r ← seqEnter s a
    if ok r.state then releaseAndFree o (seqWho (← get) r) r (tables r)
    else putResult o.d (resultHigh 2 0)

def execSqparkAdmit (h : Hdr) (o : RegOps) (s : State) : Res := parkOp h o s parkAdmit
def execSqparkImport (h : Hdr) (o : RegOps) (s : State) : Res :=
  privileged s 0xD3 (fun s => parkOp h o s parkImport)
def execSqparkPark (h : Hdr) (o : RegOps) (s : State) : Res := parkOp h o s (parkAtEnd false)
def execSqparkAbort (h : Hdr) (o : RegOps) (s : State) : Res := parkOp h o s parkAbort
def execSqparkResume (h : Hdr) (o : RegOps) (s : State) : Res := parkOp h o s parkResume
def execSqparkMigout (h : Hdr) (o : RegOps) (s : State) : Res :=
  privileged s 0xD3 (fun s => parkOp h o s parkMigout)
/-- SQPARK.migdone: retires when the entries of BTD and of TBT have been released. -/
def execSqparkMigdone (h : Hdr) (o : RegOps) (s : State) : Res :=
  privileged s 0xD3 (fun s => parkFree h o s (fun st => st == 7) (fun r => [r.btd, r.tbt]))
def execSqparkMigabort (h : Hdr) (o : RegOps) (s : State) : Res :=
  privileged s 0xD3 (fun s => parkOp h o s parkMigabort)
/-- SQPARK.retire: the tree pages are released. -/
def execSqparkRetire (h : Hdr) (o : RegOps) (s : State) : Res :=
  parkFree h o s (fun st => st == 5 || st == 6) (fun r => [r.tbt])
def execSqparkPreempt (h : Hdr) (o : RegOps) (s : State) : Res :=
  privileged s 0xD3 (fun s => parkOp h o s (parkAtEnd true))

end Sys2Proof.Machine
end

