-- ==== Sys2Proof/Machine/Prefix.lean ====
section
/-! DEFINITION. The prefix index: PFXLK, PFXINS, PFXREL and PFXADM (07_kv_pages.md R171 to R181;
13_sync_sequence.md R343). -/

namespace Sys2Proof.Machine

/-! ### PFXLK (R174) -/

/-- A block of sixteen tokens, from token `j` of a list. -/
def tokenBlock (ts : List Nat) (j : Nat) : List Nat := (ts.drop (16 * j)).take 16

/-- A matched node is taken: a reference, a stamp, and its page in the table. -/
def takeNode (w : Who) (p : Pool) (b : Btd) (e nn : Nat) : Op Unit := do
  let n ← treeNode w nn
  let st ← pageState w p n.page
  if st.state = 3 then throw .stall
  setNode w nn { n with ref := n.ref + 1 }
  stampNode w nn
  setEntry w b e n.page

/-- The full matches from entry `j` on: how many, and the last node. -/
def matchFull (w : Who) (p : Pool) (b : Btd) (ts : List Nat) : Nat → Nat → Nat → Op (Nat × Nat)
  | 0, j, cur => return (j, cur)
  | k + 1, j, cur => do
    if ts.length - 1 < 16 * j + 16 then return (j, cur)
    match ← findEdge w cur (edgeTokens (tokenBlock ts j)) with
    | none => return (j, cur)
    | some nn =>
      if 65535 ≤ (← treeNode w nn).ref then return (j, cur)
      takeNode w p b j nn
      matchFull w p b ts k (j + 1) nn

/-- Leading tokens of a TOK field that equal those of a list. -/
def commonRun (tok : Nat) : List Nat → Nat
  | [] => 0
  | t :: ts => if tok % 2 ^ 20 = t then 1 + commonRun (tok / 2 ^ 20) ts else 0

/-- The child with the longest run, ties to the lowest node number. -/
def bestChild (rest : List Nat) (kids : List (Nat × Node)) : Option (Nat × Nat) :=
  kids.foldl (fun best x =>
    let m := commonRun x.2.tok rest
    if m = 0 then best
    else match best with
      | none => some (x.1, m)
      | some (nn, m0) => if m0 < m ∨ (m0 = m ∧ x.1 < nn) then some (x.1, m) else best) none

/-- The partial match after `j` full ones: its tokens. -/
def matchPart (w : Who) (p : Pool) (b : Btd) (ts : List Nat) (j cur : Nat) : Op Nat := do
  let rest := ((ts.drop (16 * j)).take (ts.length - 1 - 16 * j)).take 16
  let shards := if 0xFFFF0000 ≤ cur then allShards else [cur / 2 ^ 28]
  let all ← shards.mapM (shardNodes w)
  let kids := all.flatten.filter (fun x => x.2.parent == cur && decide (x.2.ref < 65535))
  kids.forM (fun x => do let _ ← treeNode w x.1)
  match bestChild rest kids with
  | none => return 0
  | some (nn, m) =>
    takeNode w p b j nn
    return m

/-- PFXLK. -/
def execPfxlk (h : Hdr) (o : RegOps) (s : State) : Res :=
  gateOp h s do
    let a := s.srcS 1 o.a
    let w := s.who
    let n := (s.srcS 3 o.c).toNat
    let b ← btdAt w a.toNat
    if b.len ≠ 0 then putResult o.d (resultHigh 5 0)
    else if n = 0 ∨ 16 * b.cap < n then putResult o.d (resultHigh 3 0)
    else
      let ts := (chunks 4 n (← loadBytes w (s.srcS 2 o.b).toNat (4 * n))).map leNat
      if ts.any (fun t => decide (2 ^ 20 ≤ t)) then putResult o.d (resultHigh 6 0)
      else if !b.canAdvance then waitTable_ b.loc a
      else
        let p ← poolAt w b.pool
        let (j, cur) ← matchFull w p b ts (n / 16 + 1) 0 (rootOf p)
        let m ← matchPart w p b ts j cur
        setLen w b (16 * j + m)
        releaseTable w b
        newVersion w b noEntry
        acquireOp w 3 .all
        putResult o.d (resultHigh 0 (16 * j + m))

/-! ### PFXINS (R175) -/

/-- Takes a node of a shard from its free chain, evicting one for it if the chain is empty. The node that the walk stands
on is not evicted for it, which is the model's choice (log 117). -/
def takeNodeFrom (w : Who) (d cur : Nat) : Op (Option Nat) := do
  let (a, iw) ← indexOf w
  let at_ := a + 32 * d + 0x14
  let head ← hNat iw at_ 4
  let head ← if head = noEntry then do
      let _ ← evictSome w [d] (fun nn _ => nn != cur)
      hNat iw at_ 4
    else pure head
  if head = noEntry then return none
  hPut iw at_ 4 (← nodeAt w head).next
  return some head

/-- The children of a node that gets one more. The field has 15 bits, and R172 gives no number of children after 32,767:
the field is then a free value (log 116). -/
def oneMoreChild (n : Nat) : Op Nat := do
  if n < 32767 then return n + 1
  else return (← Op.free 207) % 32768

/-- Links a new node for an edge, and indexes its page. -/
def insertNode (w : Who) (p : Pool) (pn cur tok nn : Nat) : Op Unit := do
  let (_, iw) ← indexOf w
  let h := edgeHash cur tok
  let bucket ← bucketAddr w (edgeShard cur h) h
  setNode w nn ⟨pn, cur, ← hNat iw bucket 4, 1, 0, true, 0, p.id, tok⟩
  hPut iw bucket 4 nn
  if cur < 0xFFFF0000 then
    let m ← treeNode w cur
    setNode w cur { m with nch := ← oneMoreChild m.nch }
  stampNode w nn
  let st ← pageState w p pn
  setPageState w p pn { st with state := 2, node := nn }

/-- Walks the entries: the status, and how many have been walked. An entry that is a hole stops the walk with RANGE,
whatever its tokens are, which is the model's choice (log 108). -/
def insertWalk (w : Who) (p : Pool) (b : Btd) (hist cur : Nat) : Nat → Nat → Op (Nat × Nat)
  | 0, e => return (0, e)
  | k + 1, e => do
    let pn ← entryAt w b e
    if pn = noEntry then return (3, e)
    let st ← entryState w p b.a pn
    let ts := (chunks 4 16 (← loadBytes w (hist + 64 * e) 64)).map leNat
    if ts.any (fun t => decide (2 ^ 20 ≤ t)) then return (6, e)
    let tok := edgeTokens ts
    match ← findEdge w cur tok with
    | some nn =>
      stampNode w nn
      insertWalk w p b hist nn k (e + 1)
    | none =>
      match ← takeNodeFrom w (edgeShard cur (edgeHash cur tok)) cur with
      | none => return (9, e)
      | some nn =>
        if st.state ≠ 1 then kvBad b.a
        insertNode w p pn cur tok nn
        insertWalk w p b hist nn k (e + 1)

/-- PFXINS. -/
def execPfxins (h : Hdr) (o : RegOps) (s : State) : Res :=
  gateOp h s do
    let w := s.who
    releaseOp w .all
    let b ← btdAt w (s.srcS 1 o.a).toNat
    let p ← poolAt w b.pool
    let (st, n) ← insertWalk w p b (s.srcS 2 o.b).toNat (rootOf p) (min (b.len / 16) b.cap) 0
    putResult o.d (resultHigh st n)

/-! ### PFXREL (R177) -/

/-- PFXREL. -/
def execPfxrel (h : Hdr) (o : RegOps) (s : State) : Res :=
  gateOp h s do
    let a := s.srcS 1 o.a
    let b ← btdAt s.who a.toNat
    if !b.quiet then waitTable_ b.loc a
    else
      releaseFrom s.who b (s.srcS 2 o.b).toNat
      putResult o.d (resultHigh 0 0)

/-! ### PFXADM (R180, R181) -/

/-- The common part of PFXADM: privilege, the block, and a result with a status and a count. -/
def pfxAdmin (h : Hdr) (o : SysOps) (s : State) (act : Who → Nat → Nat → Op (Nat × Nat)) : Res :=
  privileged s 0xEA (fun s => gateOp h s do
    let w := s.who
    releaseOp w .all
    let bs ← loadBytes w (s.srcS 1 o.a).toNat 16
    let (st, n) ← act w (blkWord bs 0) (blkWord bs 1)
    putResult o.d (resultWord st (n % 2 ^ 56)))

/-- Chains a shard's nodes, and empties its buckets. -/
def initShard (w : Who) (a d : Nat) : Op Unit := do
  let sh := a + 32 * d
  let nodes ← hNat w sh 8
  let buck ← hNat w (sh + 8) 8
  let v ← hNat w (sh + 0x10) 4
  let nn := bits v 0 27
  (List.range nn).forM (fun i => do
    let q ← hNat w (nodes + 64 * i + 8) 8
    let next := if i + 1 < nn then d * 2 ^ 28 + i + 1 else noEntry
    hPut w (nodes + 64 * i + 8) 8 (putBits (putBits q 0 32 next) 63 1 0))
  (List.range (2 ^ bits v 27 5)).forM (fun i => hPut w (buck + 4 * i) 4 noEntry)
  hPut w (sh + 0x14) 4 (if nn = 0 then noEntry else d * 2 ^ 28)
  hPut w (sh + 0x18) 6 0

/-- PFXADM.init. -/
def pfxInit (w : Who) (a _ : Nat) : Op (Nat × Nat) := do
  modify (fun s => { s with index := some (BitVec.ofNat 64 a, BitVec.ofNat 13 w.asid) })
  let (b, iw) ← indexOf w
  allShards.forM (initShard iw b)
  return (0, 0)

/-- PFXADM.demote. -/
def pfxDemote (w : Who) (a pn : Nat) : Op (Nat × Nat) := do
  let p ← poolAt w a
  if p.npages ≤ pn then return (3, 0)
  let st ← pageState w p pn
  if st.state ≠ 2 then return (8, 0)
  if (← treeNode w st.node).ref ≠ 0 then return (8, 0)
  if st.pf ≠ 1 then return (7, 0)
  if st.tier ≠ 0 then return (8, 0)
  (List.range p.ng).forM (fun g => (List.range p.sections).forM (fun x => do
    let src := p.store pn g 0 + x * sectionSize p.d 1
    let planes ← homeLoad w src (8 * p.d)
    let scales ← homeLoad w (src + 16 * p.d) (sectionSize p.d 1 - 16 * p.d)
    homeStore w (p.store pn g 1 + x * sectionSize p.d 2) (planes ++ scales)))
  setPageState w p pn { st with pf := 2, tier := 1 }
  return (0, 1)

/-- PFXADM.promote. The count 1 on OK, and RANGE for a page that the pool has not, are the model's choices (log 107). -/
def pfxPromote (w : Who) (a pn : Nat) : Op (Nat × Nat) := do
  let p ← poolAt w a
  if p.npages ≤ pn then return (3, 0)
  let st ← pageState w p pn
  if st.state ≠ 2 ∨ st.tier = 0 then return (8, 0)
  (List.range p.ng).forM (fun g => do
    homeStore w (p.store pn g 0) (← homeLoad w (p.store pn g 1) (p.pageBytes st.pf)))
  setPageState w p pn { st with tier := 0 }
  return (0, 1)

/-- Evicts up to `n` nodes of a pool: how many. -/
def evictUpTo (w : Who) (id : Nat) : Nat → Nat → Op Nat
  | 0, k => return k
  | n + 1, k => do
    if ← evictSome w allShards (fun _ x => x.pool == id) then evictUpTo w id n (k + 1) else return k

/-- Nodes in the index. -/
def indexSize (w : Who) : Op Nat := do
  return ((← allShards.mapM (shardNodes w)).map List.length).sum

/-- PFXADM.evict. -/
def pfxEvict (w : Who) (a n : Nat) : Op (Nat × Nat) := do
  let p ← poolAt w a
  return (0, ← evictUpTo w p.id (min n (← indexSize w)) 0)

/-- PFXADM.flush. -/
def pfxFlush (w : Who) (a _ : Nat) : Op (Nat × Nat) := do
  let p ← poolAt w a
  return (0, ← evictUpTo w p.id (← indexSize w) 0)

def execPfxadmInit (h : Hdr) (o : SysOps) (s : State) : Res := pfxAdmin h o s pfxInit
def execPfxadmDemote (h : Hdr) (o : SysOps) (s : State) : Res := pfxAdmin h o s pfxDemote
def execPfxadmPromote (h : Hdr) (o : SysOps) (s : State) : Res := pfxAdmin h o s pfxPromote
def execPfxadmEvict (h : Hdr) (o : SysOps) (s : State) : Res := pfxAdmin h o s pfxEvict
def execPfxadmFlush (h : Hdr) (o : SysOps) (s : State) : Res := pfxAdmin h o s pfxFlush

end Sys2Proof.Machine
end

