-- ==== Sys2Proof/Machine/CommandEvents.lean ====
section
/-! DEFINITION. The events of engine commands: start, relocation, completion, and a stop at a translation
fault (03_execution.md R77 to R79; 12_matrix_engines.md R302, R309, R310). -/

namespace Sys2Proof.Machine

/-- The command that the event concerns. -/
def State.evCmd (s : State) : Option EngCmd := s.cmdOf s.cur.ev.ctx s.cur.ev.lane (BitVec.ofNat 16 s.cur.ev.num)

/-- A command may proceed: its predecessors have completed, nothing holds it, and its context is resident in
the bank from which it issued. -/
def EngCmd.mayProceed (c : EngCmd) : Bool := c.predsDone && c.phase != .held

/-- PREF: the fills of its lines in the remote-data cache; a line that cannot be read is dropped (R309). -/
def prefLines (s : State) (c : EngCmd) : State :=
  (pieces c.src.toNat c.len).foldl (fun t p => prefetchLine (t.cmdWho c) false t (p.1 % 2 ^ 64)) s

/-- How far a started command gets before it must complete or stop; one that completes with a code and no effect has only
its counter left to reach (R303). -/
def advanceCmd (s : State) (c : EngCmd) : Moved :=
  if c.idle then finishCmd s c
  else match c.kind with
  | .frecv => advanceRecv s c
  | .fsend => advanceSend s c
  | .fcoll => advanceColl s c
  | .kvapp => advanceKv s c
  | .psel => advanceSel s c
  | .pref => finishCmd (prefLines s c) c
  | _ => (moveAll s c).andThen (fun d t => finishCmd t d)

/-- Units that a start moves: a free number of those left, extended to the end of a line (R109; log 16). -/
def startUnits (c : EngCmd) (pick : Nat) : Nat :=
  let u := c.off / c.unit
  let left := (c.len - c.off) / c.unit
  let n := pick % (left + 1)
  if n = 0 then 0 else lineEnd c (u + n) (left - n) - u

/-- A movement that goes on leaves its state; one that must wait or would stop leaves the state before it. -/
def settleStart (s : State) : Moved → State
  | .go _ none t => t
  | .go _ (some _) _ => s
  | .dead t => t
  | .wait => s

/-- ENGINE_COMMAND_START: a command whose predecessors have completed starts, or a started one moves further
bytes before it completes. -/
def execEngineCommandStart (s : State) : Res :=
  match s.evCmd with
  | none => .next s
  | some c =>
    if !c.mayProceed || c.idle then .next s
    else
      let (pick, s1) := s.free 15
      let d := { c with phase := .started }
      match c.kind with
      | .frecv => .next (settleStart s1 (receive s1 d))
      | .kvapp => .next (settleStart s1 (kvBegin s1 c))
      | .psel => .next (settleStart s1 (selBegin s1 c))
      | .fcoll => .next (s1.putCmd d)
      | .pref => .next (s1.putCmd d)
      | _ => .next (settleStart s1 ((beginCmd s1 c).andThen (fun e t => moveUnits t e (startUnits e pick))))

/-- ENGINE_COMMAND_COMPLETE: the command moves what is left and completes: status, lines, then the increment
of its counter (R302). -/
def execEngineCommandComplete (s : State) : Res :=
  match s.evCmd with
  | none => .next s
  | some c =>
    if !c.mayProceed then .next s else .next (settleStart s (advanceCmd s c))

/-- ENGINE_TRANSLATION_FAULT: the command goes as far as the byte whose translation fails, and is held there
(R310). -/
def execEngineTranslationFault (s : State) : Res :=
  match s.evCmd with
  | none => .next s
  | some c =>
    if !c.mayProceed then .next s
    else match advanceCmd s c with
      | .go d (some (.fault f w va)) t => .next (holdCmd t d f w va)
      | .dead t => .next t
      | _ => .next s

/-- A core's engine has no command of its own queued or running, and runs none of another core. -/
def engineIdle (s : State) (core : Nat) : Bool :=
  s.cmds.all (fun c => !(c.core == core && c.phase != .held) && c.runOn != core)

/-- RELOC_STEAL: a queued command with the hint goes to the idle engine of the lowest-numbered sibling core;
its effects are the same (R78). -/
def execRelocSteal (s : State) : Res :=
  match s.evCmd with
  | none => .next s
  | some c =>
    let sibs := if isService c.core then [] else (List.range 4).map (fun i => c.core / 4 * 4 + i)
    match sibs.find? (fun k => k != c.core && engineIdle s k) with
    | some k =>
      if c.fl.getLsbD 0 ∧ c.phase = .queued ∧ c.predsDone then .next (s.putCmd { c with runOn := k }) else .next s
    | none => .next s

end Sys2Proof.Machine
end

