-- ==== Sys2Proof/Machine/Control.lean ====
section
/-! DEFINITION. The control group, opcodes 0x00 to 0x0D (10_control_scalar.md R226 to R237). -/

namespace Sys2Proof.Machine

/-! ### Where a lane goes -/

/-- OFF as a signed count of words (R206). -/
def brOff (o : BrOps) : Int := o.off.toInt

/-- PC + OFF; the word is ILLEGAL unless it lies in 0 to 16,383 (R206). -/
def relTarget (s : State) (o : BrOps) : Nat := ((s.cur.pc : Int) + brOff o).toNat

/-- The lane goes to a PC; a branch that is no call first leaves the loops that the target lies outside
(R229, R233). The target bundle issues two cycles after the branch, so every bound is a cycle nearer (R67, R70). -/
def goTo (s : State) (target : Nat) (exits : Bool) : State :=
  let l := s.cur.lane
  (s.updMe (fun c =>
    let c1 := if exits then c.setQueues l { c.queues l with loops := loopExit target (c.queues l).loops } else c
    c1.updLane l (fun x => { x.age with pc := target }))).setRes .redirected

/-- The lane goes to its target if the branch is taken, else to the next word (R229). -/
def branchEnd (s : State) (taken : Bool) (target : Nat) (exits : Bool) : State :=
  if taken then goTo s target exits else (s.updMyLane (fun x => { x with pc := s.cur.pc + 1 })).setRes .redirected

/-- The link write of CALL and CALLX. -/
def linkWrite (s : State) : State := s.wrS 1 (BitVec.ofNat 64 (s.cur.pc + 1)) boundInt

/-- CheckTarget fails: OVERLAY_INVALID at the branch (R230, R361). -/
def badTarget (s : State) (t : Word) : Res := .next (trapHere s .overlayInvalid 1 t)

/-- The lane that OWN names (R70). -/
def ownerLane (o : BrOps) : Lane := (laneOfCode o.own.toNat).getD .L

/-- Cond(CK, CC, CR) (R206). -/
def branchCond (s : State) (o : BrOps) : Bool :=
  if o.ck = 1 then (s.srcP 0 (o.cr.toNat % 8)).getLsbD 0 != o.cc.getLsbD 0
  else
    let x := (s.srcS 0 o.cr).toInt
    match o.cc.toNat with
    | 0 => decide (x = 0)
    | 1 => decide (x ≠ 0)
    | 2 => decide (x < 0)
    | 3 => decide (0 ≤ x)
    | 4 => decide (0 < x)
    | _ => decide (x ≤ 0)

/-- PopOutcome: the oldest outcome and the state without it (R70). -/
def popOutcome (s : State) : Option (BranchOut × State) :=
  let l := s.cur.lane
  match (s.me.queues l).outs with
  | [] => none
  | o :: rest => some (o, s.updMe (fun c => c.setQueues l { c.queues l with outs := rest }))

/-- The issuing lane comes after the MTCs that a lane comes after, by whose outcome it goes on (R119, R366). -/
def hearOwner (s : State) (own : Lane) : State :=
  if s.me.unseen.isEmpty then s
  else s.updMyLane (fun x => { x with
    joined := distinct ((s.me.lane own).joined.filter (fun j => decide (2 ^ 20 ≤ j)) ++ x.joined) })

/-- A branch with an owner: the owner decides and pushes, the others pop and follow (R229). `link` writes
s1, `exits` leaves loops. `dec` is what the owner decides; none for a target that fails CheckTarget. -/
def ownedBranch (s : State) (o : BrOps) (link exits : Bool) (dec : Bool × Nat) (bad : Option Word) : Res :=
  let finish (t : State) (taken : Bool) (target : Nat) : Res :=
    .next (branchEnd (if link then linkWrite t else t) taken target exits)
  if s.cur.lane = ownerLane o then
    match bad with
    | some w => badTarget s w
    | none =>
      if !s.me.outcomeRoom s.cur.lane then .next (s.setRes .stalled)
      else finish (s.updMe (fun c => c.pushOutcome s.cur.lane ⟨dec.1, dec.2⟩)) dec.1 dec.2
  else
    match popOutcome s with
    | none => .next (s.setRes .stalled)
    | some (b, t) => finish (hearOwner t (ownerLane o)) b.taken b.target

/-- A register target that CheckTarget refuses (R230). -/
def targetFault (t : Word) : Option Word := if 16384 ≤ t.toNat then some t else none

/-! ### The instructions -/

/-- NOP (R227). -/
def execNop (_ : Hdr) (_ : RegOps) (s : State) : Res := .next s

/-- BR (R229). -/
def execBr (_ : Hdr) (o : BrOps) (s : State) : Res := .next (goTo s (relTarget s o) true)

/-- BRC (R229). -/
def execBrc (_ : Hdr) (o : BrOps) (s : State) : Res :=
  ownedBranch s o false true (branchCond s o, relTarget s o) none

/-- BRX (R229, R230). -/
def execBrx (_ : Hdr) (o : BrOps) (s : State) : Res :=
  let t := s.srcS 0 o.cr
  ownedBranch s o false true (true, t.toNat) (targetFault t)

/-- CALL (R229). -/
def execCall (_ : Hdr) (o : BrOps) (s : State) : Res := .next (goTo (linkWrite s) (relTarget s o) false)

/-- CALLX (R229, R230). -/
def execCallx (_ : Hdr) (o : BrOps) (s : State) : Res :=
  let t := s.srcS 0 o.cr
  ownedBranch s o true false (true, t.toNat) (targetFault t)

/-- RET: each lane returns to its own register's PC (R229, R230). -/
def execRet (_ : Hdr) (o : BrOps) (s : State) : Res :=
  let t := s.srcS 0 o.cr
  match targetFault t with
  | some w => badTarget s w
  | none => .next (goTo s t.toNat true)

/-- Count() and the loop-table entry it comes from (R231). -/
def loopCount (s : State) (o : BrOps) : Nat × Option Nat :=
  let e := 8 * o.cr.toNat + o.cc.toNat
  match o.ck.toNat with
  | 0 => (e, none)
  | 1 => (((s.snap.lane s.cur.lane).i.getD o.cc.toNat 0).toNat, none)
  | _ => (s.me.loopTab.getD e 0, some e)

/-- LOOP (R232). A zero count goes to the word after the body, and no word that is skipped counts (DESIGN CHOICE, log 126). -/
def execLoop (_ : Hdr) (o : BrOps) (s : State) : Res :=
  let l := s.cur.lane
  let (n, tab) := loopCount s o
  if n = 0 then .next ((s.updMyLane (fun x => { x with pc := relTarget s o + 1 })).setRes .redirected)
  else if 8 ≤ (s.me.queues l).loops.length then .next (trapHere s .loopDepth 0 0)
  else
    let e : LoopEnt := ⟨s.cur.pc + 1, relTarget s o, n, 0, tab⟩
    let levels := (s.nest s.me.nest).levels
    .next ((s.updMe (fun c =>
      (c.setQueues l { c.queues l with loops := e :: (c.queues l).loops }).updLane l
        (fun x => { setIndex levels e x with pc := s.cur.pc + 1 }))).setRes .redirected)

/-- SYNC (R71). -/
def execSync (_ : Hdr) (_ : RegOps) (s : State) : Res :=
  .next (atMeeting s (fun t => leaveMeeting t t.cur.ctx t.cur.pc))

/-- END: the lane issues nothing further (R74). Lanes that wait at a meeting point look again, since the
lane now counts as having reached it (R71). -/
def execEndLane (_ : Hdr) (_ : RegOps) (s : State) : Res :=
  .next ((s.updMe (fun c =>
    (lanes.foldl (fun c m => c.updLane m (fun x => { x with arrived := false })) c).updLane s.cur.lane
      (fun x => { x with ended := true, rslot := none }))).setRes .redirected)

/-- A software trap taken at its meeting point, past its word (R234); EndCheck of the word comes first (DESIGN CHOICE,
log 127). -/
def softTrap (s : State) (c : Cause) (o : RiOps) : Res :=
  .next (atMeeting s (fun t =>
    trapInPlace (leaveMeeting t t.cur.ctx t.cur.pc) t.cur.ctx c 0 (o.imm.toNat % 65536) 0))

/-- TRAP (R234). -/
def execTrap (_ : Hdr) (o : RiOps) (s : State) : Res := softTrap s .trap o

/-- BKPT (R234). -/
def execBkpt (_ : Hdr) (o : RiOps) (s : State) : Res := softTrap s .bkpt o

/-- STK (R235). -/
def execStk (_ : Hdr) (o : RiOps) (s : State) : Res :=
  let new := s.srcS 0 2 + immWord o.imm
  let (limit, t) := seenCtrl s (0x00F + laneCode s.cur.lane)
  if o.imm.toInt < 0 ∧ new.toNat < limit.toNat then .next (trapHere t .stackLimit 0 new)
  else .next (t.wrS 2 new boundInt)

/-- The operands of OVL name an image (R237). Canonical addresses lie below 2^57. -/
def ovlOperandsOk (addr len : Word) : Bool :=
  decide (addr.toNat < 2 ^ 57) && addr.toNat % 64 == 0 && decide (1 ≤ len.toNat) && decide (len.toNat ≤ 8192)

/-- The slot expects a new image, and its fill begins; an earlier wait of the same flow is over, and one of
the flow that a handler interrupted stands (R237). -/
def ovlBegin (s : State) (k slot : Nat) (addr len : Word) (wait : Bool) : State :=
  startFill (s.updCtx k (fun c =>
    { c.setOvl slot ⟨.loading, addr, len.toNat⟩ with
      ovlWait := (if wait then [(c.ctrl.hnd.toNat, slot)] else [])
        ++ c.ovlWait.filter (fun q => q.1 != c.ctrl.hnd.toNat) })) k slot

/-- OVL (R236, R237); a and b are read from lane L's registers. -/
def execOvl (_ : Hdr) (o : RegOps) (s : State) : Res :=
  let addr := s.me.laneL.land.srcS o.a.toNat 0
  let len := s.me.laneL.land.srcS o.b.toNat 0
  if s.allMet ∧ !ovlOperandsOk addr len then
    .next ((takeTrap s s.cur.ctx .overlayInvalid 0 2 addr).setRes .trapped)
  else
    .next (atMeeting s (fun t =>
      ovlBegin (leaveMeeting t t.cur.ctx t.cur.pc) t.cur.ctx (o.sub.toNat % 2) addr len (o.sub.getLsbD 1)))

end Sys2Proof.Machine
end

