-- ==== Sys2Proof/Machine/Translation.lean ====
section
/-! DEFINITION. TLBINV and MIGR, the host's invalidations and page responses (17_translation.md R377 to R395). -/

namespace Sys2Proof.Machine

/-! ### Removing translations (R384, R388) -/

/-- Every pending write that a condition names is performed, on every core. -/
def drainAll (p : PendWrite → Bool) : Op Unit := do
  (← get).cores.forM (fun kc => drain kc.1 p)

/-- Pending writes of an address space. -/
def writesOf (asid : Nat) (e : PendWrite) : Bool := e.asid.toNat == asid

/-- TLBINV over a range: accesses that translated through what goes are performed, then it goes. -/
def tlbinvRange (asid va n : Nat) : Op Unit := do
  drainAll (fun e => writesOf asid e && overlap e.va.toNat (e.bytes.length) va n)
  modify (fun s => dropRange s asid va n)

/-! ### TLBINV (R387, R388) -/

/-- The common part: privilege, the block, and the result. -/
def tlbAdmin (h : Hdr) (o : SysOps) (s : State) (act : Nat → List Byte → Op (Nat × Nat)) : Res :=
  privileged s 0xE6 (fun s => gateOp h s do
    let bs ← loadBytes s.who (s.srcS 1 o.a).toNat 32
    let asid := bits (blkWord bs 0) 0 16
    let (st, gen) ← if 8192 ≤ asid then pure (1, 0) else act asid bs
    putResult o.d (BitVec.ofNat 64 (st + 2 ^ 32 * gen)))

/-- TLBINV.va. -/
def tlbVa (asid : Nat) (bs : List Byte) : Op (Nat × Nat) := do
  let n := blkWord bs 2
  if n = 0 ∨ 2 ^ 48 < n then return (1, 0)
  tlbinvRange asid (blkWord bs 1) n
  return (0, 0)

/-- TLBINV.asid. -/
def tlbAsid (asid : Nat) (_ : List Byte) : Op (Nat × Nat) := do
  drainAll (writesOf asid)
  modify (fun s => dropAsid s asid)
  return (0, 0)

/-- TLBINV.all. -/
def tlbAll (_ : Nat) (_ : List Byte) : Op (Nat × Nat) := do
  drainAll (fun _ => true)
  modify (fun s => { s with tlb := [], walks := [] })
  return (0, 0)

/-- A context that is placed. -/
def placed (c : Ctx) : Bool := c.res != .gone

/-- A placed context or a command in flight uses an address space. -/
def asidBusy (s : State) (asid : Nat) : Bool :=
  s.ctxs.any (fun kc => placed kc.2 && kc.2.ctrl.asid.toNat == asid) || s.cmds.any (fun c => c.asid.toNat == asid)

/-- TLBINV.bind. With no table registered there is no descriptor to write: RANGE. -/
def tlbBind (asid : Nat) (bs : List Byte) : Op (Nat × Nat) := do
  let s ← get
  match s.asidDesc asid with
  | none => return (1, 0)
  | some d =>
    let root := blkWord bs 1
    if root % 131072 ≠ 0 ∨ 2 ^ 48 ≤ root then return (1, 0)
    else if asidBusy s asid then return (2, 0)
    else
      let gen := (s.field d 16 16 + 1) % 65536
      modify (fun t =>
        let t1 := t.writeBytes d (packNats 8 [1 + 2 * bits (blkWord bs 0) 16 1 + 2 ^ 16 * gen, root,
          bits (blkWord bs 2) 0 20 + 2 ^ 32 * bits (blkWord bs 2) 32 8])
        if gen = 0 then dropAsid t1 asid else t1)
      return (0, gen)

/-- TLBINV.unbind. -/
def tlbUnbind (asid : Nat) (_ : List Byte) : Op (Nat × Nat) := do
  let s ← get
  match s.asidDesc asid with
  | none => return (1, 0)
  | some d =>
    if asidBusy s asid then return (2, 0)
    else
      drainAll (writesOf asid)
      modify (fun t => dropAsid (t.setField d 0 2 0) asid)
      return (0, 0)

/-- TLBINV.init: the issuing context is itself placed, and is not counted (log 31). -/
def tlbInit (_ : Nat) (bs : List Byte) : Op (Nat × Nat) := do
  let s ← get
  let base := blkWord bs 1
  if base % 32 ≠ 0 ∨ !paValid base then return (1, 0)
  else if s.ctxs.any (fun kc => placed kc.2 && kc.1 != s.cur.ctx) then return (2, 0)
  else
    drainAll (fun _ => true)
    modify (fun t => { t with asidTable := some base, aperBase := blkWord bs 2, aperSize := blkWord bs 3, tlb := [], walks := [] })
    return (0, 0)

def execTlbinvVa (h : Hdr) (o : SysOps) (s : State) : Res := tlbAdmin h o s tlbVa
def execTlbinvAsid (h : Hdr) (o : SysOps) (s : State) : Res := tlbAdmin h o s tlbAsid
def execTlbinvAll (h : Hdr) (o : SysOps) (s : State) : Res := tlbAdmin h o s tlbAll
def execTlbinvBind (h : Hdr) (o : SysOps) (s : State) : Res := tlbAdmin h o s tlbBind
def execTlbinvUnbind (h : Hdr) (o : SysOps) (s : State) : Res := tlbAdmin h o s tlbUnbind
def execTlbinvInit (h : Hdr) (o : SysOps) (s : State) : Res := tlbAdmin h o s tlbInit

/-! ### MIGR.move (R394, R395) -/

/-- The location of a leaf entry: the walk of R382, without what a leaf allows. -/
def leafFrom (s : State) (va t : Nat) : List (Nat × Nat × Nat × Nat) → Option Nat
  | [] => none
  | (sh, w, _, _) :: lvls =>
    let at_ := t + 8 * bits va sh w
    let e := s.readNat at_ 8
    if bits e 0 1 = 0 then none
    else if bits e 1 1 = 1 then some at_
    else leafFrom s va (bits e 8 40 * 256) lvls

def leafAt (s : State) (asid va : Nat) : Option Nat :=
  (s.asidDesc asid).bind (fun d => leafFrom s va (s.readNat (d + 8) 8 % 2 ^ 48) walkLevels)

/-- The common part of MIGR: privilege, a block of `n` bytes, and the result. -/
def migrAdmin (h : Hdr) (o : SysOps) (s : State) (n : Nat) (act : List Byte → Op (Nat × Nat)) : Res :=
  privileged s 0xE9 (fun s => gateOp h s do
    let bs ← loadBytes s.who (s.srcS 1 o.a).toNat n
    let (st, c) ← act bs
    putResult o.d (resultWord st (c % 2 ^ 56)))

/-- A move goes on: it copies a free number of lines, at least one; its lane waits for the last (log 36). -/
def moveOn (d : BitVec 6) (m : PageMove) : Op Unit := do
  let n ← Op.free 16
  let (r, t) := goOnMove (← get) m (1 + n)
  set t
  match r with
  | .status st => putResult d (resultWord st 0)
  | .error line => raiseKept .uncorr (uncorrDetail line) (BitVec.ofNat 64 line)
  | .more => modify (fun u => u.setRes .parked)

/-- A second move of a page: it returns LOST, and a device's own loses its counts; but one that the device makes goes
before a first that the host asked for (R395). Answers whether it proceeds. -/
def arbitrate (at_ asid org : Nat) (e : TlbEnt) : Op Bool := do
  let s ← get
  match s.moves.find? (fun m => m.leaf == at_ && !m.lost) with
  | some m =>
    if m.org = 1 ∧ org = 0 then
      set (putMove s { m with lost := true })
      return true
    else
      if org = 0 then set (clearCounts s asid e.va e.size)
      return false
  | none =>
    if org = 0 then set (clearCounts s asid e.va e.size)
    return false

/-- What has used the page's translations is performed, and they go. A page that is being moved already has no such
access left: its writes are held since the first invalidation (R394). -/
def quiesceLeaf (asid : Nat) (e : TlbEnt) : Op Unit := do
  if e.mg then modify (fun s => dropRange s asid e.va e.size)
  else
    drainAll (fun x => decide (e.pa ≤ x.pa) && decide (x.pa < e.pa + e.size))
    tlbinvRange asid e.va e.size

/-- The first step of a move: what has used the page's translations is performed, waits at the page are cancelled, and the
leaf is marked. -/
def markMoving (s : State) (asid new org at_ : Nat) (e : TlbEnt) : Op Unit := do
  quiesceLeaf asid e
  modify (fun t =>
    let t0 := cancelWaits t (waitersIn t e.pa e.size)
    let t1 := t0.writeNat at_ 8 (putBits (t0.readNat at_ 8) 4 1 1)
    { t1 with moves := t1.moves ++ [⟨s.cur.ctx, s.cur.lane, asid, e.va, e.size, at_, e.pa, new, org, 0, false⟩] })

/-- The leaf entry by which an address is read, and its place: ABSENT or RANGE where the walk ends in TF_ABSENT or in
TF_PROT, which an address outside the ranges of R374 raises too (R394). -/
def leafRead (s : State) (asid va : Nat) : Except Nat (TlbEnt × Nat) :=
  match s.walk asid va, leafAt s asid va with
  | .error .absent, _ => .error 4
  | .error _, _ => .error 1
  | .ok _, none => .error 1
  | .ok e, some at_ =>
    match useEnt s e va true false with
    | .error _ => .error 1
    | .ok _ => .ok (e, at_)

/-- MIGR.move as it issues: a status that it returns at once, or none for a move that has begun. -/
def migrBegin (bs : List Byte) : Op (Option Nat) := do
  let s ← get
  let asid := bits (blkWord bs 0) 0 13
  let org := bits (blkWord bs 0) 16 1
  let va := blkWord bs 1
  let new := blkWord bs 2
  if bits va 56 1 = 0 ∨ 2 ^ 57 ≤ va then return some 1
  match leafRead s asid va with
  | .error st => return some st
  | .ok (e, at_) =>
    if new % e.size ≠ 0 ∨ !paValid new ∨ !paValid (new + e.size - 1) then return some 1
    else if e.mg then
      if ← arbitrate at_ asid org e then
        markMoving s asid new org at_ e
        return none
      else return some 3
    else
      markMoving s asid new org at_ e
      return none

/-- The base and size of the page that holds an address: in the device half of a walk; in the host half of a count that
is kept for it, else of a cached translation. -/
def pageOf (s : State) (asid va : Nat) : Nat × Nat :=
  match s.walk asid va with
  | .ok e => (e.va, e.size)
  | .error _ =>
    let counted := (s.dies.flatMap (fun kd => kd.2.counts)).filter (fun p =>
      p.asid == asid && decide (p.va ≤ va) && decide (va < p.va + p.size))
    let cached := s.tlb.filter (fun e => e.asid == asid && decide (e.va ≤ va) && decide (va < e.va + e.size))
    match counted.map (fun p => (p.va, p.size)) ++ cached.map (fun e => (e.va, e.size)) with
    | p :: _ => p
    | [] => (va / 4096 * 4096, 4096)

/-- MIGR.cnt. -/
def migrCnt (bs : List Byte) : Op (Nat × Nat) := do
  let s ← get
  let asid := bits (blkWord bs 0) 0 13
  let (va, size) := pageOf s asid (blkWord bs 1)
  let n := (s.dies.map (fun kd =>
    ((kd.2.counts.filter (fun p => p.asid == asid && overlap p.va p.size va size)).map (fun p => p.count.toNat)).sum)).sum
  set (clearCounts s asid va size)
  return (0, n)

/-- MIGR.retry. -/
def migrRetry (bs : List Byte) : Op (Nat × Nat) := do
  let s ← get
  let q := blkWord bs 0
  match s.cmds.find? (fun c => c.phase == .held && c.fault.isSome && dieOfCore c.core == s.myDie
      && localCore c.core == bits q 0 6 && c.bank == bits q 8 1 && laneCode c.lane == bits q 9 2
      && c.num.toNat == bits q 16 16) with
  | some c => set (resumeCmd s c); return (0, 0)
  | none => return (5, 0)

/-- MIGR.init. -/
def migrInit (bs : List Byte) : Op (Nat × Nat) := do
  let s ← get
  let m := bits (blkWord bs 2) 0 16
  if m = 0 then return (1, 0)
  let rod (i : Nat) : Option Word := some (BitVec.ofNat 64 (blkWord bs i))
  set (s.updDie s.myDie (fun d => { d with
    engRod := rod 0, hintRod := rod 1, mthr := m, repRod := rod 3, saveRod := rod 4, rodAsid := s.me.ctrl.asid }))
  return (0, 0)

/-- MIGR.move: its lane stays with it until the page has moved. -/
def execMigrMove (h : Hdr) (o : SysOps) (s : State) : Res :=
  privileged s 0xE9 (fun s => gateOp h s do
    match s.moves.find? (fun m => m.ctx == s.cur.ctx && m.lane == s.cur.lane) with
    | some m => moveOn o.d m
    | none =>
      match ← migrBegin (← loadBytes s.who (s.srcS 1 o.a).toNat 32) with
      | some st => putResult o.d (resultWord st 0)
      | none => modify (fun t => t.setRes .parked))
def execMigrCnt (h : Hdr) (o : SysOps) (s : State) : Res := migrAdmin h o s 32 migrCnt
def execMigrRetry (h : Hdr) (o : SysOps) (s : State) : Res := migrAdmin h o s 32 migrRetry
def execMigrInit (h : Hdr) (o : SysOps) (s : State) : Res := migrAdmin h o s 48 migrInit

/-! ### The host's side (R383, R384, R390, R395) -/

/-- The address spaces that a function's PASID serves. -/
def asidsOf (s : State) (vif pasid : Nat) : List Nat :=
  (distinct (s.tlb.map (·.asid) ++ s.cmds.map (fun c => c.asid.toNat)
    ++ (s.cores.flatMap (fun kc => kc.2.wpath)).map (fun e => e.asid.toNat)
    ++ (s.dies.flatMap (fun kd => kd.2.counts)).map (·.asid))).filter (fun a =>
    match s.asidDesc a with
    | some d => s.field (d + 16) 32 8 == vif && s.field (d + 16) 0 20 == pasid
    | none => false)

/-- ATS_INVALIDATION (`ev.ctx` the function, `ev.num` the PASID, `ev.a` and `ev.b` the range): it completes
once every access that used what it removes has been performed. -/
def execAtsInvalidation (s : State) : Res :=
  let e := s.cur.ev
  let as := asidsOf s e.ctx e.num
  let hostHalf (va : Nat) : Bool := bits va 56 1 == 0
  let (r, t) := s.tryOp (drainAll (fun x => as.contains x.asid.toNat && hostHalf x.va.toNat
    && overlap x.va.toNat x.bytes.length e.a e.b))
  match r with
  | none => .next t
  | some _ =>
    let u := dropTlb t (fun x => as.contains x.asid && x.host && overlap x.va x.size e.a e.b
      || (as.contains x.asid && hostHalf x.va && overlap x.va x.size e.a e.b))
    .next { u with dies := u.dies.map (fun kd => (kd.1, { kd.2 with
      counts := kd.2.counts.filter (fun p => !(p.hinted && as.contains p.asid && overlap p.va p.size e.a e.b)) })) }

/-- PAGE_REQUEST_RESPONSE (`ev.ctx` the function, `ev.num` the PASID, `ev.a` the page, `ev.b` 1 for Success): commands
that wait for an outstanding request go on, or their faults are recorded. -/
def execPageRequestResponse (s : State) : Res :=
  let e := s.cur.ev
  let page := e.a / 4096 * 4096
  let req := (e.num, BitVec.ofNat 64 page)
  if !(s.vif e.ctx).pageReqs.contains req then .next s
  else
    let s1 := s.updVif e.ctx (fun f => { f with pageReqs := f.pageReqs.erase req })
    let as := asidsOf s e.ctx e.num
    let held := s.cmds.filter (fun c => c.phase == .held && c.asked && as.contains c.asid.toNat
      && (match c.fault with | some (_, _, va) => va.toNat / 4096 * 4096 == page | none => false))
    .next (held.foldl (fun t c =>
      if e.b = 1 then resumeCmd t c
      else recordEngineFault (t.putCmd { c with asked := false }) { c with asked := false }) s1)

end Sys2Proof.Machine
end

