-- ==== Sys2Proof/Machine/Bundle.lean ====
section
/-! DEFINITION. Fetching, reading and checking a bundle, the queues it pops, and when a lane may take a step
at all (03_execution.md R60 to R66; 04_memory.md R104; 09_encoding.md R212). -/

namespace Sys2Proof.Machine

/-! ### Fetching (R103, R104) -/

/-- What a fetch finds. -/
inductive Fetch where
  | word (w : Word)
  | wait (s : State)
  | invalid (pc : Nat)
  deriving DecidableEq, Repr

/-- Fetches the word at a PC (R104). -/
def fetchWord (s : State) (k pc : Nat) : Fetch :=
  let c := s.ctx k
  let slot := pc / 8192
  let o := c.ovl slot
  let m := (s.core c.core).imem slot
  if 16384 ≤ pc ∨ o.st = .empty ∨ o.len ≤ pc % 8192 then .invalid pc
  else if !tagMatches c m o then .wait (startFill s k slot)
  else if !m.full then .wait s
  else .word (m.words.getD (pc % 8192) 0)

/-! ### Bundles (R61, R212) -/

def wordStop (w : Word) : Bool := w.getLsbD 61
def wordOpc (w : Word) : Nat := bits w.toNat 49 8

/-- The words that a lane reads to form a bundle (R212). -/
inductive Read where
  | words (ws : List Word)
  | wait (s : State)
  | invalid (pc : Nat)
  deriving DecidableEq, Repr

/-- Reads on after a word with STOP = 0; `n` words are left before the one beyond the lane's limit. -/
def readMore (s : State) (k pc : Nat) (f : LaneF) : Nat → Read
  | 0 => .words []
  | n + 1 =>
    match fetchWord s k pc with
    | .invalid p => .invalid p
    | .wait t => .wait t
    | .word w =>
      if wordStop w ∨ wordLane w ≠ f then .words [w]
      else match readMore s k (pc + 1) f n with
        | .words ws => .words (w :: ws)
        | r => r

/-- Words per bundle (R61). -/
def bundleLimit : LaneF → Nat
  | .A => 1
  | .C => 4
  | _ => 3

/-- The bundle that begins with `w` at `pc`. -/
def readBundle (s : State) (k pc : Nat) (w : Word) : Read :=
  if wordLane w = .A ∨ wordStop w then .words [w]
  else match readMore s k (pc + 1) (wordLane w) (bundleLimit (wordLane w)) with
    | .words ws => .words (w :: ws)
    | r => r

/-- The issue slot of an opcode: 0 scalar, 1 vector ALU, 2 the M slot, 3 alone (R210). -/
def slotOf (w : Word) : Nat :=
  let op := wordOpc w
  if wordLane w = .A then 3
  else if op < 0x50 then 0
  else if op < 0x80 then 1
  else 2

/-- The registers a word writes, each with its file: 0 s, 1 f, 2 v, 3 p (R61, R202). s0 and p0 do not
count. -/
def destsOf (w : Word) : List (Nat × Nat) :=
  let n := w.toNat
  let op := wordOpc w
  let d := bits n 39 6
  let t := bits n 16 5
  let sub := bits n 6 8
  let s (r : Nat) : List (Nat × Nat) := if r = 0 then [] else [(0, r)]
  let p (r : Nat) : List (Nat × Nat) := if r = 0 then [] else [(3, r)]
  if op < 0x10 then []
  else if op < 0x30 then s d
  else if op = 0x38 ∨ op = 0x3B then s d
  else if op = 0x39 then (if t < 8 then s d else [(1, d)])
  else if op = 0x3C then (if bits n 0 6 = 1 then s d else [(1, d)])
  else if op < 0x40 then [(1, d)]
  else if op ≤ 0x44 then p d
  else if op = 0x45 then [(2, d)]
  else if op = 0x46 then ((List.range 8).filter (fun j => bits sub j 1 == 1)).flatMap p
  else if op = 0x47 ∨ op = 0x49 ∨ op = 0x4B then s d
  else if op < 0x50 then []
  else if op = 0x57 then (if bits sub 3 1 = 0 then p d else [(2, d)])
  else if op = 0x5A then (2, d) :: s (bits n 21 6)
  else if op = 0x71 then (if t < 8 then s d else [(1, d)])
  else if op < 0x80 then [(2, d)]
  else if op = 0x80 ∨ op = 0x82 ∨ op = 0x84 ∨ op = 0x87 ∨ op = 0x89 ∨ op = 0x94 then [(2, d)]
  else if op = 0x85 ∨ op = 0x90 ∨ op = 0x92 ∨ op = 0x96 ∨ op = 0x98 ∨ op = 0x99 then s d
  else if op = 0xA8 ∨ op = 0xA9 then [(2, bits n 37 6)]
  else if op = 0xB5 ∨ op = 0xB6 then s d
  else if op < 0xC0 then []
  else if op = 0xD6 ∨ op = 0xDA ∨ op = 0xE1 ∨ op = 0xE7 then []
  else s d

/-- The first word at which a bundle breaks R61 (R212, reason 10). `seen` are the words before. -/
def bundleBreak (f : LaneF) : List Word → List Word → Option Nat
  | _, [] => none
  | seen, w :: ws =>
    let j := seen.length
    let n (k : Nat) := (seen.filter (fun x => slotOf x == k)).length
    let bad :=
      decide (bundleLimit f ≤ j) || wordLane w != f || (f == .A && !wordStop w)
      || (slotOf w == 0 && decide (2 ≤ n 0)) || (slotOf w == 1 && decide (1 ≤ n 1))
      || (slotOf w == 2 && decide (1 ≤ n 2))
      || (seen.flatMap destsOf).any (fun r => (destsOf w).contains r)
    if bad then some j else bundleBreak f (seen ++ [w]) ws

/-- The reason why one word at a PC is ILLEGAL, or its instruction (R212). -/
def checkWord (pc : Nat) (w : Word) : Except Nat Instr :=
  match decodeWord w with
  | .error r => .error r
  | .ok i => if targetOutside pc i then .error 9 else .ok i

/-- Decodes the words of a bundle in order; an error is a reason and the index of its word. -/
def decodeAll (pc j : Nat) : List Word → Except (Nat × Nat) (List Instr)
  | [] => .ok []
  | w :: ws =>
    match checkWord (pc + j) w with
    | .error r => .error (r, j)
    | .ok i => match decodeAll pc (j + 1) ws with
      | .ok is => .ok (i :: is)
      | .error e => .error e

/-- The instructions of a bundle, or the ILLEGAL reason and word index (R212). A word of another lane that ends the
read is not decoded (R213). -/
def decodeBundle (pc : Nat) (ws : List Word) : Except (Nat × Nat) (List Instr) :=
  match ws with
  | [] => .ok []
  | w :: _ =>
    match decodeAll pc 0 (ws.takeWhile (fun x => wordLane x == wordLane w || wordLane x == .A)) with
    | .error e => .error e
    | .ok is => match bundleBreak (wordLane w) [] ws with
      | some j => .error (10, j)
      | none => .ok is

/-! ### Tokens (R63, R251) -/

/-- An XGET, and the side it takes from: true for the right neighbour. -/
def xgetSide : Instr → Option Bool
  | .xget _ o => some (o.sub.getLsbD 0)
  | _ => none

/-- Entries that a word pops from a side. -/
def popsOf (i : Instr) (right : Bool) : Nat :=
  (if xgetSide i = some right then 1 else 0)
  + (match hdrOf i with
     | some h => if (if right then h.pr else h.pl) then 1 else 0
     | none => 0)

/-- Every queue holds the entries that the bundle pops (R63). -/
def tokensReady (c : Ctx) (l : Lane) (is : List Instr) : Bool :=
  [false, true].all (fun r => decide ((is.map (fun i => popsOf i r)).sum ≤ (c.queueFrom l r).length))

/-- What the bundle pops counts as joined for the commands that it issues itself (R84). -/
def Ctx.seeTokens (c : Ctx) (l : Lane) (is : List Instr) : Ctx :=
  [false, true].foldl (fun c r =>
    c.updLane l (fun x => x.join ((c.queueFrom l r).take (is.map (fun i => popsOf i r)).sum))) c

/-- The PL and PR pops of a word. -/
def popTokens (s : State) (k : Nat) (l : Lane) (i : Instr) : State :=
  match hdrOf i with
  | none => s
  | some h => s.updCtx k (fun c =>
      let c1 := if h.pl then c.popQueue l false 1 else c
      if h.pr then c1.popQueue l true 1 else c1)

/-- An XPUT adds its entries, GL and GR among them, itself (R251). -/
def isXput : Instr → Bool
  | .xput _ _ => true
  | _ => false

/-- GL and GR of a word that retires. -/
def giveTokens (s : State) (k : Nat) (l : Lane) (i : Instr) : State :=
  match hdrOf i with
  | none => s
  | some h => if isXput i then s else s.updCtx k (fun c => c.addGives l (giveList h none))

/-! ### When a lane may step (R65, R71, R371) -/

/-- Who spills, or kills, the context of a bank. -/
def CoreSt.spillOf (c : CoreSt) (bank : Nat) : Option (Nat × Lane) := if bank = 0 then c.spill0 else c.spill1

/-! ### Readiness (R404) -/

/-- An instruction that waits at no home: its lane is stalled by it, but not parked (R404). -/
def staysInLane : Instr → Bool
  | .ctxspill _ _ => true
  | .ctxspillKill _ _ => true
  | .migrMove _ _ => true
  | _ => false

/-- A lane is parked at a home, or dormant and about to issue its instruction again. A lane of a handler does
neither (R363). -/
def LaneSt.blocked (x : LaneSt) : Bool :=
  (match x.parked with | some p => !p.retry && !staysInLane p.instr | none => false) || (x.dormant && x.rslot.isSome)

/-- The context is resident, and a lane that has not ended is not blocked. -/
def Ctx.ready (c : Ctx) : Bool := c.res == .resident && c.liveLanes.any (fun l => !(c.lane l).blocked)

/-- The context that a bank holds. -/
def CoreSt.bankCtx (c : CoreSt) (bank : Nat) : Option Nat := if bank = 0 then c.bank0 else c.bank1

def CoreSt.setBank (c : CoreSt) (bank : Nat) (k : Option Nat) : CoreSt :=
  if bank = 0 then { c with bank0 := k } else { c with bank1 := k }

/-- The bank that is not active. -/
def CoreSt.other (c : CoreSt) : Nat := 1 - c.active

/-- The ready context of the other bank. -/
def otherReady (s : State) (core : Nat) : Option Nat :=
  let c := s.core core
  match c.bankCtx c.other with
  | some k => if (s.ctx k).ready && (c.spillOf c.other).isNone then some k else none
  | none => none

/-- A trigger of R404 holds for what is active against the ready context `j` of the other bank. -/
def swapDue (s : State) (core j : Nat) : Bool :=
  match (s.core core).bankCtx (s.core core).active with
  | none => true
  | some k => !(s.ctx k).ready || decide ((s.ctx k).prio < (s.ctx j).prio)

/-- The active context has run for the quantum beside a ready one of equal PRIO (R404). -/
def quantumOver (s : State) (core j : Nat) : Bool :=
  let c := s.core core
  match c.bankCtx c.active with
  | none => false
  | some k => (s.ctx k).ready && (s.ctx k).prio == (s.ctx j).prio && c.qnt != 0 && decide (c.qnt ≤ (s.ctx k).quantum)

/-- A core is to swap its banks: its lanes stand at their bundle boundaries until it has (R404). -/
def State.swapping (s : State) (core : Nat) : Bool :=
  match otherReady s core with
  | some j => swapDue s core j || quantumOver s core j
  | none => false

/-! ### When a lane may take a step -/

/-- The slip window of `window` words allows a bundle of `n` words (R65). -/
def slipAllows (c : Ctx) (window : Nat) (l : Lane) (n : Nat) : Bool :=
  let others := (lanes.filter (fun m => m != l && !(c.lane m).isOut)).map (fun m => (c.lane m).lcnt)
  match others with
  | [] => true
  | x :: xs => decide ((c.lane l).lcnt + n ≤ window + xs.foldl min x)

/-- An OVL.w of the flow that now runs still waits for its slot (R237). A trap may be taken meanwhile, and each flow keeps its
own wait (DESIGN CHOICE, log 129). -/
def Ctx.ovlWaits (c : Ctx) : Bool :=
  c.ovlWait.any (fun q => q.1 == c.ctrl.hnd.toNat && (c.ovl q.2).st != .valid)

/-- Further instructions that a lane may issue once a class-F fault is recorded (R371). -/
def Fatal.skid (f : Fatal) : Lane → Nat
  | .L => f.skidL
  | .C => f.skidC
  | .S => f.skidS

/-- The lane may take a step at all: its context is resident, active and not stopped, and the lane has
neither ended, nor arrived at a meeting point, nor parked where the home completes it. -/
def laneRuns (s : State) (k : Nat) (l : Lane) : Bool :=
  let c := s.ctx k
  let x := c.lane l
  (kvGet s.ctxs k).isSome && c.res == .resident && (s.core c.core).active == c.bank
    && ((s.core c.core).spillOf c.bank).isNone && !s.swapping c.core
    && !x.ended && !x.arrived && !c.ovlWaits
    && (match c.fatal with | some f => decide (0 < f.skid l) | none => true)
    && (match x.parked with
        | some p => !p.retry && !(s.waiters.any (fun q => q.ctx == k && q.lane == l
            && (q.kind.isEnq || q.kind.isDeq || (match q.kind with | .commit _ => true | _ => false))))
        | none => true)

/-- The words left of the skid allow a bundle of `n` words (R371). -/
def skidAllows (c : Ctx) (l : Lane) (n : Nat) : Bool :=
  match c.fatal with
  | some f => decide (n ≤ f.skid l)
  | none => true

end Sys2Proof.Machine
end

