-- ==== Sys2Proof/Machine/Residency.lean ====
section
/-! DEFINITION. Where a context stands on its core: readiness, bank swaps, the end of a context, and the
records that report it (16_contexts_traps.md R367, R369, R372; 18_launch_scheduling.md R401, R404). -/

namespace Sys2Proof.Machine

/-! ### Swapping banks (R138, R367, R369) -/

/-- A context stops to leave the active bank: its waits are cancelled, its fixed-latency results land, and
the spill engine begins to write its image, which is PARTIAL until it is complete. -/
def swapOut (s : State) (k : Nat) : State :=
  if (s.ctx k).res = .resident then
    let s1 := (stopLanes (atBundles s k) k).updCtx k (fun c => { c.land with image := 0 })
    deviceWrite s1 (dieOfCore (s1.ctx k).core) (saveAsid s1 k) (s1.ctx k).ctrl.savea.toNat
      (imageHeader s1 k 0 false 0 (s1.ctx k).resumePoints)
  else s

/-- The other bank becomes active, and its quantum starts (R404, R407). -/
def swapBanks (s : State) (core : Nat) : State :=
  let c := s.core core
  let s1 := match c.bankCtx c.active with
    | some k => (swapOut s k).updCtx k (fun x => { x with quantum := 0 })
    | none => s
  match c.bankCtx c.other with
  | some k =>
    let s2 := (s1.updCtx k (fun x => { x with quantum := 0 })).updCore core (fun x =>
      { x with active := c.other, qnt := (s1.part (s1.ctx k).part).qnt })
    settleSlot (settleSlot s2 k 0) k 1
  | none => s1

/-- BANK_SWAP (`ev.a` the core). -/
def execBankSwap (s : State) : Res :=
  let core := s.cur.ev.a
  match otherReady s core with
  | some j => if swapDue s core j then .next (swapBanks s core) else .next s
  | none => .next s

/-- QUANTUM_EXPIRY (`ev.a` the core): both contexts are ready with equal PRIO, and the active one has run for
the quantum. -/
def execQuantumExpiry (s : State) : Res :=
  let core := s.cur.ev.a
  match otherReady s core with
  | some j => if quantumOver s core j then .next (swapBanks s core) else .next s
  | none => .next s

/-- BACKGROUND_SPILL_DONE (`ev.ctx`): the outgoing image is complete, accumulators last, and is CLEAN. -/
def execBackgroundSpillDone (s : State) : Res :=
  let k := s.cur.ev.ctx
  let c := s.ctx k
  let co := s.core c.core
  if (kvGet s.ctxs k).isSome && c.res == .resident && co.active != c.bank && c.image == 0
      && co.accq.all (fun e => e.ctx != k) then
    .next ((writeImage s k 1 false 0 c.resumePoints).updCtx k (fun x => { x with image := 1 }))
  else .next s

/-- A value of SPLIT is to take effect on a core: neither bank holds a context (R85). -/
def splitDue (s : State) (core : Nat) : Bool :=
  let c := s.core core
  c.pend != 0 && c.bank0.isNone && c.bank1.isNone
    && !s.ctxs.any (fun kc => kc.2.res == .resident && kc.2.ctrl.chk && kc.2.core + 64 == core)

/-- SPLIT_APPLY (`ev.a` the core). -/
def execSplitApply (s : State) : Res :=
  let core := s.cur.ev.a
  let c := s.core core
  if splitDue s core then
    .next (s.updCore core (fun x => { x with h0 := c.pend, pend := 0, last0 := none, last1 := none }))
  else .next s

/-! ### Wake notices (R405) -/

/-- The lane is no longer dormant. -/
def wake (s : State) (k : Nat) (l : Lane) : State := s.updLane k l (fun x => { x with dormant := false })

/-- WAKE_NOTICE (`ev.ctx`, `ev.lane`): the home has an event that ends the dormancy, and drops its entry. -/
def execWakeNotice (s : State) : Res :=
  let k := s.cur.ev.ctx
  let l := s.cur.ev.lane
  match s.waiters.find? (fun q => q.ctx == k && q.lane == l && q.kind == .wake && q.due) with
  | some q => .next (wake { s with waiters := s.waiters.erase q } k l)
  | none => .next s

/-- WAKE_FALLBACK_EXPIRY (`ev.ctx`, `ev.lane`): a dormant lane for which no home keeps an entry. -/
def execWakeFallbackExpiry (s : State) : Res :=
  let k := s.cur.ev.ctx
  let l := s.cur.ev.lane
  if (kvGet s.ctxs k).isSome && (s.lane k l).dormant
      && !(s.waiters.any (fun q => q.ctx == k && q.lane == l && q.kind == .wake)) then .next (wake s k l)
  else .next s

/-! ### Partitions and their walkers (R399, R406) -/

/-- The dies of a partition, ascending. -/
def Partition.dieList (p : Partition) : List Nat := (List.range 16).filter (fun d => p.dies.getLsbD d)

/-- The lead die of a partition. -/
def State.leadDie (s : State) (part : Nat) : Option Nat := (s.part part).dieList.head?

/-! ### Launch records (R397, R401) -/

/-- What a blocking enqueue of the device's own came to. -/
def afterPost (s : State) (vif die : Nat) (r : RodRef) (bytes : List Byte) (out : RodOut) (t : State) : Option State :=
  match out with
  | .done 0 _ _ => some t
  | .wait =>
    let k := deviceCtx vif die false s.nextId
    let (ok, u) := t.parkFor k .L r.loc r.addr (.enq bytes)
    if ok then some (mirrorWaitq { u with nextId := u.nextId + 1 } r.loc) else none
  | _ => some (t.updVif vif (fun x => raiseFlag x 2))

/-- One blocking attempt to put a record on a VIF's completion rod (R401): it is there, or lost with the flag, or it
parks at the rod's home as a waiter of the device's own (R149); `none`: there is no wait entry for it (R152), or the
rod's page is being moved (R394). A partition that has lost its dies has no walker: die 0 posts for it (log 113). -/
def tryRecord (s : State) (vif : Nat) (bytes : List Byte) : Option State :=
  let f := s.vif vif
  let lost : Option State := some (s.updVif vif (fun x => raiseFlag x 2))
  let die := (s.leadDie f.part).getD 0
  if f.crod = 0 then lost
  else match deviceReach s die f.asidb f.crod with
    | .error st => if st = heldStatus then none else lost
    | .ok (r, t) =>
      let w := { deviceWho die f.asidb with ctx := deviceCtx vif die false s.nextId }
      match (rodEnq w r bytes bytes.length true false).run.run t with
      | (.ok out, u) => afterPost s vif die r bytes out u
      | (.error .stall, _) => none
      | (.error _, _) => lost

/-- The walker's blocking enqueue of a record: behind those that look for a wait entry. -/
def postRecord (s : State) (vif : Nat) (bytes : List Byte) : State :=
  let hold := s.updVif vif (fun f => { f with recq := f.recq ++ [bytes] })
  if (s.vif vif).recq.isEmpty then (tryRecord s vif bytes).getD hold else hold

/-- A waiting record goes once its rod has room. -/
def flushRecord (s : State) (vif : Nat) : State :=
  match (s.vif vif).recq with
  | [] => s
  | r :: rest =>
    match tryRecord s vif r with
    | some t => t.updVif vif (fun f => { f with recq := rest })
    | none => s

/-- A launch record. -/
def launchRecord (kind reason tag nestid vif : Nat) (about : List Nat) : List Byte :=
  padTo 256 (packNats 8
    ([0xC7E9 + 2 ^ 16 * kind + 2 ^ 24 * (reason % 256) + 2 ^ 32 * tag, nestid + 2 ^ 32 * vif] ++ about))

/-! ### The end of a context (R74, R99, R166, R372) -/

/-- A context's pins on block tables are released; one that cannot be released now is released later. -/
def unpinTables (s : State) (k : Nat) : State :=
  let w := s.whoOf k .L
  let t := (s.ctx k).tablePins.foldl (fun t p => payDebt t
    { core := w.core, asid := w.asid, priv := w.priv, table := p.2.1, pin := some p.2.2, napp := false, sete := false
      page := none }) s
  t.updCtx k (fun c => { c with tablePins := [] })

/-- A member's part in a collective that has begun is lost with its context: the group is to break (R317, R427). -/
def breakFor (s : State) (c : EngCmd) : State :=
  match c.grp with
  | some key => if c.kind = .fcoll ∧ !c.idle ∧ !c.acked then s.updGroup key (fun g => { g with breakReq := true }) else s
  | none => s

/-- A context's commands stop where they are; what they leave at block tables is settled, and the collectives that they
had a part in break. -/
def dropCommands (s : State) (k : Nat) : State :=
  let t := (s.cmds.filter (fun c => c.ctx == k)).foldl (fun t c => breakFor (settleTables t c) c) s
  { t with cmds := t.cmds.filter (fun c => c.ctx != k), doneCmds := t.doneCmds.filter (fun d => d.ctx != k) }

/-- A bank is free again; where its context has completed, its share stays as it is (log 32). -/
def freeBank (s : State) (k : Nat) (complete : Bool) : State :=
  let left := if complete then some k else none
  s.updCore (s.ctx k).core (fun c => { c with
    last0 := if c.bank0 = some k then left else c.last0
    last1 := if c.bank1 = some k then left else c.last1
    bank0 := if c.bank0 = some k then none else c.bank0
    bank1 := if c.bank1 = some k then none else c.bank1
    accq := c.accq.filter (fun e => e.ctx != k) })

/-- Save areas that are to go back to a die's rod, in order: one that the rod's page move holds, and those behind it, stay
with the die until the move has ended (R394, R400). -/
def giveBackAreas (s : State) (die : Nat) (rod : Word) : List Word → State
  | [] => s.updDie die (fun d => { d with areas := [] })
  | a :: as =>
    let (st, t) := deviceEnq s die (s.die die).rodAsid.toNat rod (bytesOf a.toNat 8)
    if st = heldStatus then s.updDie die (fun d => { d with areas := a :: as }) else giveBackAreas t die rod as

/-- A die's save areas that wait for their rod are given back. -/
def flushAreas (s : State) (die : Nat) : State :=
  match (s.die die).saveRod with
  | some rod => giveBackAreas s die rod (s.die die).areas
  | none => s

/-- The save area goes back to the die's rod (R400). -/
def returnSaveArea (s : State) (k : Nat) : State :=
  let die := dieOfCore (s.ctx k).core
  let a := (s.ctx k).ctrl.savea
  if a = 0 then s else flushAreas (s.updDie die (fun d => { d with areas := d.areas ++ [a] })) die

/-- A spill or kill that a context had begun is no longer under way. -/
def dropSpills (s : State) (k : Nat) : State :=
  let gone (q : Option (Nat × Lane)) : Option (Nat × Lane) := q.filter (fun p => p.1 != k)
  { s with cores := s.cores.map (fun kc => (kc.1, { kc.2 with spill0 := gone kc.2.spill0, spill1 := gone kc.2.spill1 })) }

/-- What the end of a context does; `fault`: it ends by a fault (R372, R409). -/
def endContext (s : State) (k : Nat) (fault : Bool) : State :=
  let s1 := lanes.foldl (fun t l => cancelWait t k l) s
  let s2 := { s1 with waiters := s1.waiters.filter (fun q => q.ctx != k) }
  let s3 := dropCommands (unpinTables (releaseSlates s2 k) k) k
  let s4 := dropSpills (freeBank (if fault then abortHeld s3 k else s3) k (!fault)) k
  returnSaveArea (s4.updCtx k (fun c => { c with res := .gone })) k

/-- Writes that a context still has in the write path of its core. -/
def pendingWrites (s : State) (k : Nat) : Bool := (s.core (s.ctx k).core).wpath.any (fun e => e.ctx == k)

/-- A point of a nest has ended. -/
def nestDone (s : State) (n : Nat) : State :=
  if (kvGet s.nests n).isSome then s.updNest n (fun x => { x with done := x.done + 1 }) else s

/-- CONTEXT_COMPLETE (`ev.ctx`): every lane has ended, every command has signalled, and every store has been
acknowledged (R74). -/
def execContextComplete (s : State) : Res :=
  let k := s.cur.ev.ctx
  let c := s.ctx k
  if (kvGet s.ctxs k).isSome && c.res != .gone && c.fatal.isNone && c.liveLanes.isEmpty
      && s.cmds.all (fun m => m.ctx != k) && !pendingWrites s k then
    .next (nestDone (endContext (landAll s k) k false) c.nest)
  else .next s

/-- The first fault of a nest: no further point is placed, and a FAULTED record is posted (R372, R401). -/
def faultNest (s : State) (k : Nat) : State :=
  let c := s.ctx k
  match kvGet s.nests c.nest with
  | none => s
  | some n =>
    if n.faulted then s
    else
      let s1 := s.updNest c.nest (fun x => { x with faulted := true })
      postRecord s1 n.vif (launchRecord 2 c.ctrl.cause.toNat n.tag.toNat n.nestid.toNat n.vif
        [(readCtrl s k 0x020).toNat, c.ctrl.cause.toNat, c.ctrl.finfo.toNat, c.ctrl.faddr.toNat])

/-- CONTEXT_FAULT_END (`ev.ctx`): a context with a recorded class-F fault ends, its writes performed first
(R371, R372). -/
def execContextFaultEnd (s : State) : Res :=
  let k := s.cur.ev.ctx
  let c := s.ctx k
  if (kvGet s.ctxs k).isSome && c.res != .gone && c.fatal.isSome then
    match s.tryOp (drain c.core (fun e => e.ctx == k)) with
    | (some _, t) => .next (nestDone (endContext (faultNest t k) k true) c.nest)
    | (none, t) => .next t
  else .next s

end Sys2Proof.Machine
end

