-- ==== Sys2Proof/Machine/System.lean ====
section
/-! DEFINITION. The system instructions MFC, MTC, ERET, CTXSW, CTXSPILL, CTXFILL and WAITI
(16_contexts_traps.md R354, R366 to R370). -/

namespace Sys2Proof.Machine

/-! ### Control registers (R356, R366) -/

/-- MFC: a register that is not marked for users needs privilege. -/
def execMfc (h : Hdr) (o : SysOps) (s : State) : Res :=
  let n := o.ctrl.toNat
  let go (s : State) : Res := gateOp h s (do
    let (v, t) := seenCtrl (← get) n
    set t
    putResult o.d v)
  if userReadable n then go s else privileged s 0xE0 go

/-- MTC: any register but MODE needs privilege. -/
def execMtc (h : Hdr) (o : SysOps) (s : State) : Res :=
  let n := o.ctrl.toNat
  let go (s : State) : Res := plain h s (fun s => writeMtc s n (s.srcS 1 o.a))
  if n = 0x01B then go s else privileged s 0xE1 go

/-! ### Meeting points (R367, R368, R370) -/

/-- ERET: outside a handler it takes PRIVILEGE, whatever PRV holds. -/
def execEret (_ : Hdr) (_ : SysOps) (s : State) : Res :=
  if s.me.ctrl.hnd = 0 then .next (trapHere s .privilege 0xE2 0)
  else .next (atMeeting s (fun t => returnFromHandler t t.cur.ctx))

/-- CTXSW: swaps banks if the other one holds a ready context. -/
def execCtxsw (_ : Hdr) (_ : SysOps) (s : State) : Res :=
  privileged s 0xE3 (fun s => .next (atMeeting s (fun t =>
    let u := leaveMeeting t t.cur.ctx t.cur.pc
    if (otherReady u u.myCore).isSome then swapBanks u u.myCore else u)))

/-- The bits of INTP for which a WAITI waits; a is read from lane L's registers. -/
def waitiMask (s : State) (o : SysOps) : Word := s.me.laneL.land.srcS o.a.toNat 0

/-- WAITI: once every lane has arrived, it waits for an INTP bit. -/
def execWaiti (_ : Hdr) (o : SysOps) (s : State) : Res :=
  privileged s 0xE8 (fun s =>
    if s.allMet ∧ readCtrl s s.cur.ctx 0x030 &&& waitiMask s o = 0 then .next (s.setRes .stalled)
    else .next (atMeeting s (fun t => leaveMeeting t t.cur.ctx t.cur.pc)))

/-! ### Spilling (R369, R370) -/

/-- The bank that a block names, on the issuing core's die. -/
def targetBank (s : State) (q : Nat) : Nat × Nat := (64 * s.myDie + bits q 0 6, bits q 8 1)

/-- An address of the device half, aligned. -/
def deviceHalf (a align : Nat) : Bool := a % align == 0 && bits a 56 1 == 1 && decide (a < 2 ^ 57)

def setSpill (s : State) (core bank : Nat) (q : Option (Nat × Lane)) : State :=
  s.updCore core (fun c => if bank = 0 then { c with spill0 := q } else { c with spill1 := q })

/-- Translates every page of a range, for the trap that a page may take. -/
def touchPages (w : Who) (write : Bool) (a n : Nat) : Op Unit :=
  (List.range ((a % 65536 + n + 65535) / 65536)).forM (fun i => do
    let _ ← xlat w write (a / 65536 * 65536 + 65536 * i))

/-- A command that a spill waits for: one with a scoreboard entry, or that signals a scratchpad counter. -/
def EngCmd.blocksSpill (c : EngCmd) : Bool :=
  c.board.isSome || (c.fl.getLsbD 1 && c.ctr != 0 && c.inc != 0)

/-- The target stops as at a swap. -/
def beginSpill (s : State) (core bank k : Nat) : State :=
  if (s.core core).active = bank ∧ (otherReady s core).isSome then swapBanks s core else swapOut s k

/-- Waits at objects of a share that is to be spilled. -/
def waitersOfShare (s : State) (locs : List Nat) : List Waiter := s.waiters.filter (fun q => locs.contains q.obj)

/-- The waits of other contexts at objects of the share are cancelled (R149), the image and the share are written, and
the bank is free. -/
def completeSpill (s : State) (core bank k asid share : Nat) : State :=
  let s0 := landAll s k
  let locs := (s0.ownSpan (s0.ctx k) 0 (4 * bankShare (s0.core core) bank)).getD []
  let qs := waitersOfShare s0 locs
  let s1 := wakeWaits (cancelWaits s0 qs) qs
  let c := s1.ctx k
  let stop := c.res == .stopped
  let s2 := deviceWrite s1 (dieOfCore core) asid share (locs.map s1.byteAt)
  let s3 := writeImage s2 k 2 stop share (if stop then c.resume else c.resumePoints)
  setSpill ((freeBank s3 k false).updCtx k (fun x => { x with res := .spilled, image := 2 })) core bank none

/-- The share holds an uncorrectable row (R371). -/
def spillPoison (s : State) (k bank : Nat) : Option Nat :=
  s.poisoned ((s.ownSpan (s.ctx k) 0 (4 * bankShare (s.core (s.ctx k).core) bank)).getD [])

/-- The issuing lane waits for the spill engine. -/
def waitSpill : Op Unit := modify (fun s => s.setRes .parked)

/-- A spill that the issuing lane has begun: it completes, or waits. A context that has ended meanwhile leaves
an empty bank. -/
def goOnSpill (d : BitVec 6) (core bank share : Nat) : Op Unit := do
  let s ← get
  match (s.core core).bankCtx bank with
  | none =>
    set (setSpill s core bank none)
    putResult d 1
  | some k =>
    if (s.ctx k).fatal.isSome || s.cmds.any (fun c => c.ctx == k && c.blocksSpill) then waitSpill
    else
      match spillPoison s k bank with
      | some p =>
        set (recordFatal s k .uncorr 0 2 (BitVec.ofNat 64 p) none none)
        waitSpill
      | none =>
        set (completeSpill s core bank k s.me.ctrl.asid.toNat share)
        putResult d 0

/-- CTXSPILL (R370); which status comes first where several hold is a DESIGN CHOICE (log 130). -/
def execCtxspill (h : Hdr) (o : SysOps) (s : State) : Res :=
  privileged s 0xE4 (fun s => gateOp h s do
    let bs ← loadBytes s.who (s.srcS 1 o.a).toNat 16
    let (core, bank) := targetBank s (blkWord bs 0)
    let share := blkWord bs 1
    let me := (s.cur.ctx, s.cur.lane)
    if !deviceHalf share 65536 then putResult o.d 5
    else
      match (s.core core).spillOf bank, (s.core core).bankCtx bank with
      | some q, _ => if q = me then goOnSpill o.d core bank share else putResult o.d 6
      | none, none => putResult o.d 1
      | none, some k =>
        touchPages s.who true share (4 * bankShare (s.core core) bank)
        modify (fun t => setSpill (beginSpill t core bank k) core bank (some me))
        goOnSpill o.d core bank share)

/-- CTXSPILL.kill: the target ends with cause KILLED, and the lane waits until its bank is free. -/
def execCtxspillKill (h : Hdr) (o : SysOps) (s : State) : Res :=
  privileged s 0xE4 (fun s => gateOp h s do
    let bs ← loadBytes s.who (s.srcS 1 o.a).toNat 16
    let (core, bank) := targetBank s (blkWord bs 0)
    let me := (s.cur.ctx, s.cur.lane)
    match (s.core core).spillOf bank, (s.core core).bankCtx bank with
    | some q, none =>
      if q = me then
        modify (fun t => setSpill t core bank none)
        putResult o.d 0
      else putResult o.d 6
    | some q, some _ => if q = me then waitSpill else putResult o.d 6
    | none, none => putResult o.d 1
    | none, some k =>
      modify (fun t => setSpill (endAsFault t k .killed 0 0 0) core bank (some me))
      waitSpill)

/-! ### Filling and resuming (R138, R370) -/

/-- A lane goes to a resume point, unless it has ended. -/
def LaneSt.resumeAt (x : LaneSt) (r : Word) : LaneSt :=
  if x.ended then { x with parked := none, arrived := false, rslot := none }
  else { x with
    pc := bits r.toNat 0 14
    rslot := if r.getLsbD 16 then some (bits r.toNat 14 2) else none
    parked := none
    arrived := false }

/-- The lanes go to the resume points of an image. -/
def resumeLanes (s : State) (k : Nat) (image : List Byte) : State :=
  let r (i : Nat) : Word := BitVec.ofNat 64 (blkWord image (2 + i))
  s.updCtx k (fun c => { c with
    laneL := c.laneL.resumeAt (r 0), laneC := c.laneC.resumeAt (r 1), laneS := c.laneS.resumeAt (r 2) })

/-- The placement serial that an image holds. -/
def imageSerial (image : List Byte) : Nat :=
  leNat ((image.drop (0x100 + 8 * contextRegs.idxOf 0x020)).take 4)

/-- The image belongs in the bank's core, under its SPLIT. -/
def imageFits (s : State) (core : Nat) (image : List Byte) : Bool :=
  let w := blkWord image 0
  bits w 0 16 == 0xC7A5 && bits w 16 2 == 2 && bits w 20 6 == core % 64 && bits w 26 4 == dieOfCore core
    && bits w 32 4 == (s.core core).h0 % 16

/-- The key of the context that an image makes: that of the spilled context which the image names, or, for an image that
names none, a key that no context has had, with the same serial (log 110). -/
def fillKey (s : State) (image : List Byte) : Nat :=
  let k := imageSerial image
  if (s.ctx k).res = .spilled then k
  else k + 2 ^ 32 * (((List.range (s.ctxs.length + 1)).find? (fun m => (kvGet s.ctxs (k + 2 ^ 32 * m)).isNone)).getD 0)

/-- The context as it is before its image is loaded: what an image does not hold is as placement leaves it where the
image names no spilled context. -/
def fillBase (s : State) (die k : Nat) (image : List Byte) : Ctx :=
  if (kvGet s.ctxs k).isSome then s.ctx k
  else
    let status := leNat ((image.drop 0x100).take 8)
    { Ctx.reset with
      nest := 2 ^ 40
      part := (partOfDie s die).getD 0
      ctrl := { Ctrl.reset with prv := status % 2 == 1, chk := bits status 3 1 == 1 } }

/-- The core has no other context, and neither has the upper core of a CHECKED one. -/
def upperFree (s : State) (core : Nat) : Bool :=
  let u := s.core (core + 64)
  u.bank0 == none && u.bank1 == none

/-- The context is resident in a bank from its image and its share. -/
def completeFill (s : State) (core bank k asid area : Nat) (image share : List Byte) : State :=
  let w := blkWord image 0
  let stop := bits w 18 1 == 1
  let die := dieOfCore core
  let r (i : Nat) : Word := BitVec.ofNat 64 (blkWord image (2 + i))
  let s0 := s.setCtx k { fillBase s die k image with core := core, bank := bank }
  let s1 := (loadImage s0 k (image.drop 0x100)).updCtx k (fun c => { c with
    res := if stop then .stopped else .resident
    image := 1
    quantum := 0
    resume := (r 0, r 1, r 2) })
  let s2 := resumeLanes s1 k image
  let locs := (s2.ownSpan (s2.ctx k) 0 share.length).getD []
  let s3 := (locs.zip share).foldl (fun t ab => t.setByte ab.1 ab.2) (clearPoison s2 locs)
  let s4 := deviceWrite s3 die asid area (bytesOf (putBits w 16 2 1) 8)
  let s5 := s4.updCore core (fun c =>
    let alone := (c.bankCtx c.active).isNone
    { c.setBank bank (some k) with active := if alone then bank else c.active })
  payOwed (acquireState (settleSlot (settleSlot s5 k 0) k 1) core asid 4 .all) k

/-- What the spill engine reads at a virtual address: an uncorrectable line is a fault of the context that asked for the
fill (R371). -/
def spillRead (die asid a n : Nat) : Op (Option (List Byte)) := do
  let s ← get
  match devicePoison s die asid a n with
  | some p => fatalOp .uncorr (uncorrDetail p) p
  | none => return deviceRead s die asid a n

/-- A CTXFILL whose image has been read. -/
def fillFrom (d : BitVec 6) (core bank area : Nat) (image : List Byte) : Op Unit := do
  let s ← get
  let asid := s.me.ctrl.asid.toNat
  let k := fillKey s image
  if !imageFits s core image then putResult d 3
  else if (fillBase s (dieOfCore core) k image).ctrl.chk && !upperFree s core then putResult d 2
  else
    let n := 4 * bankShare (s.core core) bank
    touchPages s.who false (blkWord image 1) n
    drain (s.ctx k).core (fun e => e.ctx == k)
    let share ← spillRead (dieOfCore core) asid (blkWord image 1) n
    modify (fun t => completeFill t core bank k asid area image (share.getD []))
    putResult d 0

/-- CTXFILL (R370); which status comes first where several hold is a DESIGN CHOICE (log 130). -/
def execCtxfill (h : Hdr) (o : SysOps) (s : State) : Res :=
  privileged s 0xE5 (fun s => gateOp h s do
    let bs ← loadBytes s.who (s.srcS 1 o.a).toNat 16
    let (core, bank) := targetBank s (blkWord bs 0)
    let area := blkWord bs 1
    if !deviceHalf area 4096 then putResult o.d 5
    else if ((s.core core).spillOf bank).isSome then putResult o.d 6
    else if ((s.core core).bankCtx bank).isSome then putResult o.d 2
    else
      touchPages s.who true area imageSize
      let image ← spillRead (dieOfCore core) s.me.ctrl.asid.toNat area imageSize
      fillFrom o.d core bank area (image.getD []))

/-- A context that is stopped for service goes on from its save area. -/
def resumeFrom (s : State) (k area : Nat) (image : List Byte) : State :=
  let t1 := resumeLanes (loadImage s k (image.drop 0x100)) k image
  let t2 := t1.updCtx k (fun c => { c with res := .resident, reportDue := false })
  deviceWrite t2 (dieOfCore (s.ctx k).core) (saveAsid s k) area (bytesOf (putBits (blkWord image 0) 18 1 0) 8)

/-- CTXFILL.resume: a context that is stopped for service goes on from its save area (R370); the order of the statuses, and
BADIMAGE where the area cannot be read, are a DESIGN CHOICE (log 130). -/
def execCtxfillResume (h : Hdr) (o : SysOps) (s : State) : Res :=
  privileged s 0xE5 (fun s => gateOp h s do
    let bs ← loadBytes s.who (s.srcS 1 o.a).toNat 16
    let (core, bank) := targetBank s (blkWord bs 0)
    match (s.core core).bankCtx bank with
    | none => putResult o.d 4
    | some k =>
      if ((s.core core).spillOf bank).isSome then putResult o.d 6
      else if (s.ctx k).res != .stopped then putResult o.d 4
      else
        let area := (s.ctx k).ctrl.savea.toNat
        match ← spillRead (dieOfCore core) (saveAsid s k) area imageSize with
        | none => putResult o.d 3
        | some image =>
          modify (fun t => resumeFrom t k area image)
          putResult o.d 0)

end Sys2Proof.Machine
end

