-- ==== Sys2Proof/Machine/Launch.lean ====
section
/-! DEFINITION. The nest walkers: launch beads, nest records, configuration beads, the placing of points, and
the completion of nests (03_execution.md R52 to R59; 18_launch_scheduling.md R396 to R407; 19_links_fabric.md
R422). -/

namespace Sys2Proof.Machine

/-! ### Partitions and their walkers (R399, R406) -/

/-- Nests of a VIF that are pending. -/
def pendingNests (s : State) (vif : Nat) : Nat :=
  (s.nests.filter (fun kn => kn.2.vif == vif && !kn.2.complete && !kn.2.faulted)).length

/-- The module places and launches. -/
def State.walking (s : State) : Bool := s.module.ready && !s.module.outOfService

/-- The walker's DEQ.t of a VIF's launch rod: its status, the bead, and the state after it; none where no walker looks at
the rod. -/
def walkerDeq (s : State) (vif : Nat) : Option (Nat × List Byte × State) :=
  let f := s.vif vif
  match s.leadDie f.part with
  | none => none
  | some die =>
    if f.valid && decide (pendingNests s vif < f.npend) then some (deviceDeq s die f.asidb f.lrod 64) else none

/-- What the walker finds in a VIF's launch rod: a bead, and the state in which it has been taken. -/
def takeLaunch (s : State) (vif : Nat) : Option (List Byte × State) :=
  match walkerDeq s vif with
  | some (0, bead, t) => some (bead, t)
  | _ => none

/-- The walker has looked and found no bead: what its DEQ.t did stands, and a rod that is CLOSED or QUARANTINED sets
IFLAG.RODQ (R145, R147, R397). A page move holds the DEQ.t, which is tried again (R394). -/
def missLaunch (s : State) (vif : Nat) : State :=
  if s.walking then
    match walkerDeq s vif with
    | some (0, _, _) => s
    | some (1, _, t) => t
    | some (7, _, _) => s
    | some (_, _, t) => t.updVif vif (fun f => raiseFlag f 2)
    | none => s
  else s

/-- Of some VIFs, the one that follows the last served, with wrap-around (R399, R403). -/
def followVif (last : Nat) (vs : List Nat) : Option Nat :=
  vs.foldl (fun best v =>
    match best with
    | none => some v
    | some b => if (v + 255 - last) % 256 < (b + 255 - last) % 256 then some v else best) none

/-- The VIF that a lead die's walker serves next. -/
def servedVif (s : State) (die : Nat) : Option Nat :=
  followVif (s.die die).lastLaunch
    ((s.vifs.filter (fun kv => s.leadDie kv.2.part == some die && (takeLaunch s kv.1).isSome)).map (·.1))

/-! ### Launch beads (R398) -/

/-- A bead, the interface it came from, and the address space of its addresses. -/
structure LaunchBead where
  vif  : Nat
  die  : Nat
  asid : Nat
  kind : Nat
  prq  : Bool
  note : Bool
  free : Bool
  tag  : Nat
  addr : Nat
  utv  : Nat
  tv   : Nat
  cmpi : Nat
  aoff : Nat
  deriving DecidableEq, Repr

def launchBeadOf (f : Vif) (vif die : Nat) (bs : List Byte) : LaunchBead :=
  let w := blkWord bs
  { vif := vif, die := die, asid := (f.asidb + bits (w 5) 0 13) % 8192
    kind := bits (w 0) 0 4, prq := bits (w 0) 4 1 == 1, note := bits (w 0) 5 1 == 1, free := bits (w 0) 6 1 == 1
    tag := bits (w 0) 32 32, addr := w 1, utv := w 2, tv := w 3, cmpi := w 4, aoff := bits (w 5) 0 13 }

/-- The bead that the walker takes from the VIF of the event, if it is that VIF's turn and the bead is of the
sort that the event concerns. -/
def launchOf (s : State) (sort : LaunchBead → Bool) : Option (LaunchBead × State) :=
  let vif := s.cur.ev.a
  let f := s.vif vif
  match s.leadDie f.part with
  | none => none
  | some die =>
    if s.walking && servedVif s die == some vif then
      match takeLaunch s vif with
      | none => none
      | some (bs, t) =>
        let b := launchBeadOf f vif die bs
        if sort b then some (b, t.updDie die (fun d => { d with lastLaunch := vif })) else none
    else none

/-- Who reads what a bead names. -/
def LaunchBead.who (b : LaunchBead) : Who := ⟨2 ^ 40, 1024 + 2 * b.die, b.asid, b.prq, .L⟩

/-- Bytes that a bead or a record names; none if an address does not translate. -/
def walkerRead (s : State) (w : Who) (a n : Nat) : Option (List Byte) × State :=
  s.tryOp (homeLoad w a n)

/-- A REFUSED record. -/
def refuse (s : State) (b : LaunchBead) (reason nestid : Nat) : State :=
  postRecord s b.vif (launchRecord 1 reason b.tag nestid b.vif [])

/-- A CONFIG record. -/
def confirm (s : State) (b : LaunchBead) : State := postRecord s b.vif (launchRecord 3 0 b.tag 0 b.vif [])

/-! ### Nest records (R52 to R56) -/

/-- A level descriptor (R53). -/
def levelOf (bs : List Byte) : Level :=
  let x := blkWord bs 0
  let y := blkWord bs 1
  { kind := bits x 0 2, ireg := bits x 2 3, iregEn := bits x 5 1 == 1, ltidx := bits x 8 8, count := bits x 32 32
    start := BitVec.ofInt 64 (toSigned (bits y 0 32) 32), step := BitVec.ofInt 64 (toSigned (bits y 32 32) 32) }

def recNlev (r : List Byte) : Nat := bits (blkWord r 0) 16 3
def recLevels (r : List Byte) : List Level := ((chunks 16 6 (r.drop 0x70)).take (recNlev r)).map levelOf
def recChecked (r : List Byte) : Bool := bits (blkWord r 0) 23 1 == 1
def recLtn (r : List Byte) : Nat := bits (blkWord r 6) 0 9
def recBtn (r : List Byte) : Nat := bits (blkWord r 6) 16 6
def recStk (r : List Byte) (i : Nat) : Nat := bits (blkWord r 7) (8 * i) 8
def recNestid (r : List Byte) : Nat := bits (blkWord r 0) 32 32

/-- Counts of the spatial levels. -/
def spatialCounts (ls : List Level) : List Nat := (ls.filter (fun l => l.kind == 1 || l.kind == 2)).map (·.count)

def spatialTotal (ls : List Level) : Nat := (spatialCounts ls).foldl (· * ·) 1

/-- A spatial level stands after a TEMPORAL one. -/
def spatialAfterTemporal : List Level → Bool
  | [] => false
  | l :: ls => (l.kind == 0 && ls.any (fun x => x.kind == 1 || x.kind == 2)) || spatialAfterTemporal ls

/-- An address is canonical and aligned. -/
def addrOk (a align : Nat) : Bool := decide (a < 2 ^ 57) && a % align == 0

/-- As `addrOk`; 0 means none. -/
def addrOkOrNone (a align : Nat) : Bool := a == 0 || addrOk a align

/-- The dies on which a nest may have points (R58). -/
def eligibleDies (p : Partition) (checked : Bool) : List Nat :=
  p.dieList.filter (fun d => !checked || d % 2 == 0)

/-- The binding table can be read: its address is in order, as 0 always is. -/
def bindsReadable (r : List Byte) : Bool := decide (recBtn r ≤ 32) && addrOk (blkWord r 5) 32

def loopsReadable (r : List Byte) : Bool := decide (recLtn r ≤ 256) && addrOk (blkWord r 4) 8

/-- The conditions of R56 in the order of its list; `addr` is the record's address, `binds` its binding table. -/
def recordFaults (dies : Nat) (addr : Nat) (r : List Byte) (binds : List Binding) : List Bool :=
  let w := blkWord r
  let ls := recLevels r
  let en := (ls.filter (·.iregEn)).map (·.ireg)
  let ovlw := bits (w 2) 0 14
  let slip := bits (w 6) 32 13
  [ bits (w 0) 0 16 != 0xE8A5,
    recNlev r == 0 || recNlev r == 7,
    ls.any (fun l => l.kind == 3),
    spatialAfterTemporal ls,
    decide (1 < (ls.filter (fun l => l.kind == 2)).length),
    (spatialCounts ls).any (· == 0),
    decide (2 ^ 32 - 1 < spatialTotal ls),
    ls.any (fun l => l.kind == 2 && decide (dies < l.count)),
    (distinct en).length != en.length,
    ls.any (fun l => l.kind == 0 && decide (recLtn r ≤ l.ltidx)),
    decide (ovlw = 0) || decide (8192 < ovlw) || decide (ovlw ≤ bits (w 2) 16 13),
    decide (256 < recLtn r) || decide (32 < recBtn r),
    binds.any (fun b => b.len == 0 || decide (2 ^ 48 < b.len)),
    decide (slip < 16) || decide (4096 < slip),
    decide (1920 < recStk r 0 + recStk r 1 + recStk r 2),
    !(addrOk addr 64 && addrOk (w 1) 64 && addrOk (w 3) 1 && loopsReadable r && bindsReadable r
      && addrOkOrNone (w 8) 8 && addrOkOrNone (w 10) 8 && addrOkOrNone (w 12) 8) ]

/-- The number of the first condition that holds. -/
def firstFault (fs : List Bool) : Option Nat := (fs.findIdx? (· == true)).map (· + 1)

/-- A binding-table entry (R55). -/
def bindingOf (bs : List Byte) : Binding :=
  ⟨BitVec.ofNat 64 (blkWord bs 0), blkWord bs 1, BitVec.ofNat 64 (blkWord bs 2), BitVec.ofNat 2 (blkWord bs 3)⟩

/-- The nest that a bead and its record make. -/
def nestOf (b : LaunchBead) (f : Vif) (dies : List Nat) (r : List Byte) (binds : List Binding) (cmpi : List Byte) : Nest :=
  let w := blkWord r
  let ls := recLevels r
  let used := match (ls.filter (fun l => l.kind == 2)).head? with
    | some l => dies.take l.count
    | none => dies.take 1
  { vif := b.vif, part := f.part, asid := BitVec.ofNat 13 b.asid, tag := BitVec.ofNat 32 b.tag, note := b.note, prq := b.prq
    utv := BitVec.ofNat 64 b.utv, tv := BitVec.ofNat 64 b.tv
    cmpi := (chunks 8 68 cmpi).map (fun x => BitVec.ofNat 64 (leNat x))
    nestid := BitVec.ofNat 32 (recNestid r), prio := bits (w 0) 20 2, detm := bits (w 0) 22 1 == 1
    checked := recChecked r, ovl0 := BitVec.ofNat 64 (w 1), ovlw := bits (w 2) 0 14, entryw := bits (w 2) 16 13
    argb := BitVec.ofNat 64 (w 3), ltab := BitVec.ofNat 64 (w 4), ltn := recLtn r, binds := binds
    slipw0 := bits (w 6) 32 13, stkL := recStk r 0, stkC := recStk r 1, stkS := recStk r 2
    waits := ([(8, 9), (10, 11)].filter (fun p => w p.1 != 0)).map (fun p =>
      (BitVec.ofNat 64 (w p.1), BitVec.ofNat 64 (w p.2)))
    sigAddr := BitVec.ofNat 64 (w 12), sigInc := BitVec.ofNat 64 (w 13)
    levels := ls, placed := used.map (fun d => (d, 0)), total := spatialTotal ls, done := 0, faulted := false
    complete := false }

/-! ### LAUNCH_NEST (R400) -/

/-- The checks of R400 that need no memory. -/
def beadFault (f : Vif) (b : LaunchBead) : Option Nat :=
  if 4 ≤ b.kind ∨ b.free then some 17
  else if b.prq && !(f.prvok || b.vif == 0) then some 18
  else if f.asidn ≤ b.aoff then some 19
  else if bits b.utv 14 49 ≠ 0 ∨ bits b.tv 14 49 ≠ 0 ∨ b.cmpi % 8 ≠ 0 then some 17
  else none

/-- A table of a record: no bytes where it is empty or its address is out of order. -/
def tableBytes (s : State) (w : Who) (readable : Bool) (a n : Nat) : Option (List Byte) × State :=
  if readable ∧ n ≠ 0 then walkerRead s w a n else (some [], s)

/-- LAUNCH_NEST (`ev.a` the VIF): a NEST bead, or one of no KIND, makes a nest or is refused. -/
def execLaunchNest (s : State) : Res :=
  match launchOf s (fun b => b.kind == 0 || decide (4 ≤ b.kind)) with
  | none => .next (missLaunch s s.cur.ev.a)
  | some (b, t) =>
    let f := s.vif b.vif
    let (rec_, t1) := walkerRead t b.who b.addr 256
    let nestid := match rec_ with | some r => recNestid r | none => 0
    match beadFault f b with
    | some reason => .next (refuse t b reason nestid)
    | none =>
      let (cmpi, t2) := tableBytes t1 b.who true b.cmpi (if b.cmpi = 0 then 0 else 544)
      match rec_, cmpi with
      | some r, some cm =>
        let (bt, t3) := tableBytes t2 b.who (bindsReadable r) (blkWord r 5) (32 * recBtn r)
        let (lt, t4) := tableBytes t3 b.who (loopsReadable r) (blkWord r 4) (8 * recLtn r)
        let dies := eligibleDies (s.part f.part) (recChecked r)
        let early := firstFault ((recordFaults dies.length b.addr r []).take 12)
        match early, bt, lt with
        | some reason, _, _ => .next (refuse t4 b reason nestid)
        | none, some bs, some _ =>
          let binds := (chunks 32 (recBtn r) bs).map bindingOf
          let kept := if bindsReadable r then binds else []
          match firstFault (recordFaults dies.length b.addr r kept) with
          | some reason => .next (refuse t4 b reason nestid)
          | none =>
            .next { t4 with nests := kvPut t4.nests t4.nextId (nestOf b f dies r kept cm), nextId := t4.nextId + 1 }
        | none, _, _ => .next (refuse t4 b 20 nestid)
      | _, _ => .next (refuse t2 b 20 nestid)

/-! ### Configuration beads (R396, R407, R422) -/

/-- What every configuration bead is refused for, before its block is read. -/
def configFault (f : Vif) (b : LaunchBead) : Option Nat :=
  if b.vif ≠ 0 then some 21
  else if b.free ∧ b.kind ≠ 3 then some 17
  else if f.asidn ≤ b.aoff then some 19
  else none

/-- A configuration bead: refused, or applied with its block of `n` bytes. -/
def configBead (s : State) (sort : LaunchBead → Bool) (n : Nat)
    (act : State → LaunchBead → List Byte → State) : Res :=
  match launchOf s sort with
  | none => .next (missLaunch s s.cur.ev.a)
  | some (b, t) =>
    match configFault (s.vif b.vif) b with
    | some reason => .next (refuse t b reason 0)
    | none =>
      match walkerRead t b.who b.addr n with
      | (some bs, t1) => .next (act t1 b bs)
      | (none, t1) => .next (refuse t1 b 20 0)

/-- A die holds a placed context or an active record. A CHECKED context counts for the lower die of its pair, which holds
it; that the upper die is not busy for it is the model's choice (log 104). -/
def dieBusy (s : State) (die : Nat) : Bool :=
  s.ctxs.any (fun kc => placed kc.2 && dieOfCore kc.2.core == die && !isService kc.2.core)
    || !(s.die die).seqs.isEmpty

/-- A die joins a partition: its work rods for it are empty (R156), and it performs no commit, so that what the bead sets
applies to it at once (R19, R407). -/
def joinPart (s : State) (die part : Nat) : State := applyPending (initWork s die part) die part

def leavePart (s : State) (die part : Nat) : State :=
  (dropWork s die part).updDie die (fun d => { d with deferred := [] })

/-- PARTCFG applied to its block (R407). -/
def applyPart (s : State) (b : LaunchBead) (bs : List Byte) : State :=
  let p := bits (blkWord bs 0) 8 4
  let dies : BitVec 16 := BitVec.ofNat 16 (bits (blkWord bs 0) 32 16)
  let bmax := bits (blkWord bs 2) 32 11
  let old := s.part p
  let moved := (List.range 16).filter (fun d => old.dies.getLsbD d != dies.getLsbD d)
  let joining := moved.filter (fun d => dies.getLsbD d)
  let taken (d : Nat) : Bool := s.parts.any (fun kp => kp.1 != p && kp.2.dies.getLsbD d)
  if b.addr % 8 ≠ 0 ∨ bmax = 0 ∨ 1024 < bmax then refuse s b 22 0
  else if dies = 0 ∧ (s.vif 0).part = p then refuse s b 22 0
  else if moved.any (dieBusy s) || joining.any taken then refuse s b 23 0
  else
    let s1 := s.updPart p (fun x => { x with
      dies := dies
      qnt := bits (blkWord bs 2) 0 32
      bmaxNew := Vector.ofFn (fun d : Fin 16 => if dies.getLsbD d then some bmax else none)
      dshNew := Vector.ofFn (fun d : Fin 16 =>
        if dies.getLsbD d then some (BitVec.ofNat 4 (bits (blkWord bs 1) (4 * d) 4)) else none) })
    let s2 := moved.foldl (fun t d => if dies.getLsbD d then joinPart t d p else leavePart t d p) s1
    confirm s2 b

/-- PARTCFG (`ev.a` the VIF). -/
def execPartcfg (s : State) : Res := configBead s (fun b => b.kind == 1) 32 applyPart

/-- VIFCFG applied to its descriptor (R396). A descriptor that nothing has written has no range of ASIDs. -/
def applyVif (s : State) (b : LaunchBead) (bs : List Byte) : State :=
  let w := blkWord bs
  let v := bits (w 0) 56 8
  let npend := bits (w 0) 16 7
  let asidb := bits (w 1) 0 13
  let asidn := bits (w 1) 16 14
  let valid := bits (w 0) 0 1 == 1
  let clash := s.vifs.any (fun kv => kv.1 != v && overlap asidb asidn kv.2.asidb kv.2.asidn)
  if npend = 0 ∨ 64 < npend ∨ asidn = 0 ∨ 8192 < asidb + asidn ∨ clash then refuse s b 22 0
  else
    confirm (s.updVif v (fun f => { f with
      valid := valid, prvok := bits (w 0) 1 1 == 1 || v == 0, part := bits (w 0) 8 4, npend := npend, asidb := asidb
      asidn := asidn, lrod := BitVec.ofNat 64 (w 2), crod := BitVec.ofNat 64 (w 3) })) b

/-- VIFCFG (`ev.a` the VIF). -/
def execVifcfg (s : State) : Res := configBead s (fun b => b.kind == 2) 32 applyVif

/-! ### Scale-out groups (R421, R422) -/

/-- Writes a group record's fields: HANDLE and STATE, and the lanes in use. -/
def writeGroupRecord (s : State) (g : Group) (handle state : Nat) (lanes : List (Nat × BitVec 16)) : State :=
  writeLanes (putRecord (putRecord s g 0 32 8 handle) g 0 40 2 state) g lanes

/-- The fields of a group record are in range. -/
def groupRecordOk (b : LaunchBead) (bs : List Byte) : Bool :=
  let w := blkWord bs 0
  let rto := bits (blkWord bs 1) 0 32
  deviceHalf b.addr 64 && bits w 0 16 == 0x6C7A && decide (bits w 16 3 ≤ bits w 20 3) && decide (1 ≤ rto)
    && decide (rto ≤ 1000000)

/-- A group that a bead begins to form. -/
def groupOf (b : LaunchBead) (bs : List Byte) : Group :=
  let w := blkWord bs 0
  { st := .forming, rank := bits w 16 3, g := bits w 20 3 + 1, part := bits w 24 4, rto := bits (blkWord bs 1) 0 32
    gid := BitVec.ofNat 32 (bits (blkWord bs 1) 32 32), handle := 0, vif := b.vif, tag := BitVec.ofNat 32 b.tag
    asid := BitVec.ofNat 13 b.asid, record := BitVec.ofNat 64 b.addr, lanes := [], decided := 0, issued := 0
    reports := [], breakReq := false, lost := [] }

/-- GROUPCFG with FREE clear, applied to its record. -/
def applyForm (s : State) (b : LaunchBead) (bs : List Byte) : State :=
  let g := groupOf b bs
  if groupRecordOk b bs then
    let s1 := writeGroupRecord s g 0 0 []
    { s1 with groups := kvPut s1.groups s1.nextId g, nextId := s1.nextId + 1 }
  else refuse (writeGroupRecord s g (bits (blkWord bs 0) 32 8) 3 []) b 24 0

/-- GROUPCFG_FORM (`ev.a` the VIF). -/
def execGroupcfgForm (s : State) : Res := configBead s (fun b => b.kind == 3 && !b.free) 128 applyForm

/-- GROUPCFG with FREE set: collectives in flight complete RING_BROKEN, and the group is FREED. -/
def applyFree (s : State) (b : LaunchBead) (bs : List Byte) : State :=
  let handle := bits (blkWord bs 0) 32 8
  match groupOfHandle s handle with
  | none => refuse s b 24 0
  | some (key, _) =>
    let s1 := (s.cmds.filter (fun c => c.kind == .fcoll && c.grp == some key && !c.idle && !c.acked)).foldl breakCmd s
    confirm (setGroupState s1 key .freed 3) b

/-- GROUPCFG_FREE (`ev.a` the VIF). -/
def execGroupcfgFree (s : State) : Res := configBead s (fun b => b.kind == 3 && b.free) 128 applyFree

/-- Handles that no group holds. -/
def freeHandles (s : State) : List Nat :=
  ((List.range 255).map (· + 1)).filter (fun h => !(s.groups.any (fun kg => kg.2.st != .freed && kg.2.handle == h)))

/-- Spare lanes: working, and in no formed group's use. -/
def idleLanes (s : State) : BitVec 16 :=
  s.groups.foldl (fun m kg => if kg.2.st = .formed then kg.2.lanes.foldl (fun m p => m &&& ~~~p.2) m else m)
    (~~~s.module.deadLanes)

/-- The lanes meant for each peer: those of R421 for a group of eight, else those that Adeley chooses, which the event
gives by rank. -/
def Group.planned (g : Group) (chosen : List Nat) : List (Nat × BitVec 16) :=
  ((List.range g.g).filter (· != g.rank)).map (fun r =>
    (r, if g.g = 8 then BitVec.ofNat 16 (3 * 4 ^ ((r + 8 - g.rank - 1) % 8)) else BitVec.ofNat 16 (chosen.getD r 0)))

/-- The lanes to each peer: the working ones of those meant for it. -/
def lanesFor (s : State) (g : Group) (chosen : List Nat) : List (Nat × BitVec 16) :=
  (g.planned chosen).map (fun p => (p.1, ~~~s.module.deadLanes &&& p.2))

/-- Lanes meant for a peer that have failed before the group is formed: each may have a spare (R421). -/
def lostBefore (s : State) (g : Group) (chosen : List Nat) : List (Nat × Nat × Nat) :=
  (g.planned chosen).filterMap (fun p =>
    match laneList (s.module.deadLanes &&& p.2) with
    | [] => none
    | l :: ls => some (p.1, l, 1 + ls.length))

/-- Each set has a working lane, and no two peers share one. The sets of other groups are no matter: a peer may be a member
of several. -/
def lanesOk : List (Nat × BitVec 16) → Bool
  | [] => true
  | p :: ps => p.2 != 0 && ps.all (fun q => p.2 &&& q.2 == 0) && lanesOk ps

/-- GROUP_FORMED (`ev.a` the group; `ev.ints` the lanes chosen): every member agrees. -/
def execGroupFormed (s : State) : Res :=
  let key := s.cur.ev.a
  match kvGet s.groups key with
  | none => .next s
  | some g =>
    let chosen := (s.cur.ev.ints.headD []).map (·.toNat)
    let ls := lanesFor s g chosen
    let hs := freeHandles s
    if g.st ≠ .forming ∨ !lanesOk ls ∨ hs.isEmpty then .next s
    else
      let (n, s1) := s.free 50
      let handle := hs.getD (n % hs.length) 0
      let s2 := s1.updGroup key (fun x => { x with
        st := .formed, handle := handle, lanes := ls, lost := lostBefore s g chosen })
      .next (postRecord (writeGroupRecord s2 g handle 1 ls) g.vif (launchRecord 3 0 g.tag.toNat 0 g.vif []))

/-- GROUP_FORM_TIMEOUT (`ev.a` the group). -/
def execGroupFormTimeout (s : State) : Res :=
  let key := s.cur.ev.a
  match kvGet s.groups key with
  | none => .next s
  | some g =>
    if g.st ≠ .forming then .next s
    else .next (postRecord (setGroupState s key .freed 3) g.vif (launchRecord 1 24 g.tag.toNat 0 g.vif []))

/-! ### Points (R53, R57, R58) -/

/-- Who reads and writes for a nest. -/
def Nest.who (n : Nest) (die : Nat) : Who := ⟨2 ^ 40, 1024 + 2 * die, n.asid.toNat, n.prq, .L⟩

/-- Spatial levels, outermost first. -/
def Nest.spatial (n : Nest) : List Level := n.levels.filter (fun l => l.kind == 1 || l.kind == 2)

/-- Points on each die that has any. -/
def Nest.perDie (n : Nest) : Nat := ((n.spatial.filter (fun l => l.kind == 1)).map (·.count)).foldl (· * ·) 1

/-- The next point of a die: its number among those of the die. -/
def Nest.nextPoint (n : Nest) (die : Nat) : Option Nat :=
  match kvGet n.placed die with
  | some m => if m < n.perDie then some m else none
  | none => none

/-- The indices of the m-th point of the j-th die, last level varying fastest; innermost level first. -/
def pointIndices (j : Nat) : Nat → List Level → List Nat
  | _, [] => []
  | m, l :: ls => if l.kind = 2 then j :: pointIndices j m ls else m % l.count :: pointIndices j (m / l.count) ls

/-- The position of a die among those of the nest. -/
def Nest.dieIndex (n : Nest) (die : Nat) : Nat := (n.placed.map (·.1)).idxOf die

/-- The indices of a point, outermost level first. -/
def Nest.indices (n : Nest) (die m : Nat) : List Nat :=
  (pointIndices (n.dieIndex die) m n.spatial.reverse).reverse

/-- The number of a point in enumeration order. -/
def Nest.pointNumber (n : Nest) (ix : List Nat) : Nat :=
  (n.spatial.zip ix).foldl (fun acc li => acc * li.1.count + li.2) 0

/-- A nest's counters hold their values (R57); the walker reads them at their homes. -/
def waitsHold (s : State) (n : Nest) (die : Nat) : Bool × State :=
  n.waits.foldl (fun bs p =>
    match bs.2.tryOp (hNat (n.who die) p.1.toNat 8) with
    | (some v, t) => (bs.1 && decide (p.2.toNat ≤ v), t)
    | (none, t) => (false, t)) (true, s)

/-- Nests whose counters have reached their values wait no further. -/
def latchWaits (s : State) (die : Nat) : State :=
  s.nests.foldl (fun t kn =>
    if kn.2.waits.isEmpty ∨ kn.2.faulted ∨ (kn.2.nextPoint die).isNone then t
    else
      let (ok, u) := waitsHold t kn.2 die
      if ok then u.updNest kn.1 (fun n => { n with waits := [] }) else u) s

/-! ### Cores for points (R11, R58, R402, R441) -/

/-- Placed contexts that hold a core; a CHECKED one holds both cores of its pair. -/
def holders (s : State) (core : Nat) : List Ctx :=
  (s.ctxs.map (·.2)).filter (fun c => placed c && (c.core == core || (c.ctrl.chk && c.core + 64 == core)))

/-- A bank's share holds the stacks (R58). -/
def bankFits (s : State) (n : Nest) (core bank : Nat) : Bool :=
  decide ((n.stkL + n.stkC + n.stkS) * 1024 ≤ 4 * bankShare (s.core core) bank)

/-- A bank that a point can take, of those given. -/
def pickBank (s : State) (n : Nest) (core : Nat) (banks : List Nat) : Option (Nat × Nat) :=
  (banks.find? (fun b => bankFits s n core b && (!n.checked || bankFits s n (core + 64) b))).map (fun b => (core, b))

/-- The pair of a lower core is marked suspect. -/
def suspectPair (s : State) (core : Nat) : Bool := s.module.suspect.getLsbD (core / 128 * 64 + core % 64)

/-- Stage 1: a core with no placed context. -/
def stageOne (s : State) (n : Nest) (core : Nat) : Option (Nat × Nat) :=
  if !(holders s core).isEmpty ∨ (n.checked ∧ (!(holders s (core + 64)).isEmpty ∨ suspectPair s core)) then none
  else pickBank s n core [0, 1]

/-- Stage 2: the free bank of a core whose single context has a lower PRIO; the upper core of a CHECKED one has none to
give (R11). -/
def stageTwo (s : State) (n : Nest) (core : Nat) : Option (Nat × Nat) :=
  match holders s core with
  | [c] =>
    if c.core ≠ core ∨ n.checked ∨ n.prio ≤ c.prio then none
    else pickBank s n core (if c.res = .spilled then [0, 1] else [1 - c.bank])
  | _ => none

/-- The core and bank for a nest's next point on a die. -/
def findCore (s : State) (n : Nest) (die : Nat) : Option (Nat × Nat) :=
  let cores := (List.range 64).map (· + 64 * die)
  match cores.findSome? (stageOne s n) with
  | some x => some x
  | none => cores.findSome? (stageTwo s n)

/-! ### Choosing a point (R403) -/

/-- A nest has a point that a core of the die could take now. A nest's dies are fixed when its bead is taken; on one that
has left the partition since, its points wait (R406; log 109). -/
def couldPlace (s : State) (die : Nat) (n : Nest) : Bool :=
  !n.faulted && !n.complete && n.waits.isEmpty && (n.nextPoint die).isSome && (s.part n.part).dies.getLsbD die
    && (findCore s n die).isSome

/-- The nest that the walker chooses: highest PRIO, then the next VIF, then the oldest. -/
def chooseNest (s : State) (die : Nat) : Option (Nat × Nest) :=
  let ns := s.nests.filter (fun kn => couldPlace s die kn.2)
  let prio := ns.foldl (fun p kn => max p kn.2.prio) 0
  let top := ns.filter (fun kn => kn.2.prio == prio)
  match followVif ((s.die die).lastVif.toList.getD prio 255) (top.map (fun kn => kn.2.vif)) with
  | none => none
  | some v => top.find? (fun kn => kn.2.vif == v)

/-! ### PLACE_POINT (R59, R400) -/

/-- A lane at the start of a context: its PC, stack and argument block. -/
def startLane (n : Nest) (i : Vector Word 8) (top bottom : Nat) : LaneSt :=
  { LaneSt.reset with
    pc := n.entryw
    i := i
    s := ((Vector.replicate 32 0).setIfInBounds 31 n.argb).setIfInBounds 2 (BitVec.ofNat 64 top)
    slim := BitVec.ofNat 64 bottom }

/-- The index registers at placement; `trips` is the loop table. -/
def startIndices (n : Nest) (ix : List Nat) (trips : List Nat) : Vector Word 8 :=
  let v := (n.spatial.zip ix).foldl (fun (v : Vector Word 8) li =>
    if li.1.iregEn then v.setIfInBounds li.1.ireg (li.1.start + li.1.step * BitVec.ofNat 64 li.2) else v)
    (Vector.replicate 8 0)
  (n.levels.filter (fun l => l.kind == 0 && l.iregEn)).foldl (fun (v : Vector Word 8) l =>
    v.setIfInBounds l.ireg (if trips.getD l.ltidx 0 = 0 then 0 else l.start)) v

/-- A context as placement makes it. -/
def startCtx (s : State) (n : Nest) (nest core bank point : Nat) (ix trips : List Nat) (savea : Word) : Ctx :=
  let top := 4 * bankShare (s.core core) bank
  let cut (k : Nat) := top - 1024 * k
  let i := startIndices n ix trips
  { Ctx.reset with
    core := core, bank := bank, res := .resident, nest := nest, point := point, vif := n.vif, part := n.part, prio := n.prio
    laneS := startLane n i top (cut n.stkS)
    laneC := startLane n i (cut n.stkS) (cut (n.stkS + n.stkC))
    laneL := startLane n i (cut (n.stkS + n.stkC)) (cut (n.stkS + n.stkC + n.stkL))
    ovl0 := ⟨.loading, n.ovl0, n.ovlw⟩
    loopTab := trips
    binds := n.binds
    ctrl := { Ctrl.reset with
      prv := n.prq, chk := n.checked, utvec := n.utv, tvec := n.tv, slipw := BitVec.ofNat 13 n.slipw0, detm := n.detm
      nestid := n.nestid, asid := n.asid, gen := BitVec.ofNat 16 (s.asidGen n.asid.toNat), savea := savea
      cmpdt := Vector.ofFn (fun j : Fin 68 => n.cmpi.getD j 0) } }

/-- Places a point of a nest, whose save area and loop table are at hand. -/
def placeAt (s : State) (die key : Nat) (n : Nest) (core bank m : Nat) (trips : List Nat) (savea : Word) : State :=
  let k := s.nextSer
  let ix := n.indices die m
  let c := startCtx s n key core bank (n.pointNumber ix) ix trips savea
  let s1 := { s.setCtx k c with nextSer := k + 1 }
  let s2 := s1.updCore core (fun x =>
    let alone := (x.bankCtx x.active).isNone
    { x.setBank bank (some k) with
      active := if alone then bank else x.active, qnt := if alone then (s.part n.part).qnt else x.qnt })
  let s3 := s2.updNest key (fun x => { x with placed := kvPut x.placed die (m + 1) })
  let s4 := s3.updDie die (fun d => { d with lastVif := d.lastVif.setIfInBounds n.prio n.vif })
  acquireState (settleSlot s4 k 0) core n.asid.toNat 4 .all

/-- The walker takes a save area for a point and places it (R400): whether it has, and what the attempt leaves, the
quarantine of a save-area rod that fails its checks included (R145). -/
def placeOn (s : State) (die key : Nat) (n : Nest) (core bank m : Nat) (rod : Word) (trips : List Nat) : Bool × State :=
  match deviceDeq s die (s.die die).rodAsid.toNat rod 8 with
  | (0, area, t) => (true, placeAt t die key n core bank m trips (BitVec.ofNat 64 (leNat area)))
  | (_, _, t) => (false, t)

/-- The walker places the next point of a die, if one can be placed now (R402): whether it has, and the state after. -/
def tryPlace (s : State) (die : Nat) : Bool × State :=
  let s1 := latchWaits s die
  match chooseNest s1 die with
  | none => (false, s1)
  | some (key, n) =>
    match n.nextPoint die, findCore s1 n die, (s1.die die).saveRod with
    | some m, some (core, bank), some rod =>
      match (if n.ltn = 0 then (some [], s1) else walkerRead s1 (n.who die) n.ltab.toNat (8 * n.ltn)) with
      | (some bs, s2) =>
        placeOn s2 die key n core bank m rod ((chunks 8 n.ltn bs).map (fun x => bits (leNat x) 0 32))
      | (none, s2) => (false, s2)
    | _, _, _ => (false, s1)

/-- A point can be placed on a die now. -/
def canPlace (s : State) (die : Nat) : Bool := (tryPlace s die).1

/-- The walker places points for as long as it can, up to `n` of them. -/
def placeAll (die : Nat) : Nat → State → State
  | 0, s => s
  | n + 1, s =>
    match tryPlace s die with
    | (true, t) => placeAll die n t
    | (false, t) => t

/-- The two banks of each core of a die: the most contexts that it can hold, and so the most that one step places. -/
def dieBanks : Nat := 128

/-- PLACE_POINT (`ev.a` the die): every point that can be placed is (R402; log 114). A nest whose counters have reached
their values waits no further, even where no core is free for it. -/
def execPlacePoint (s : State) : Res :=
  if s.walking then .next (latchWaits (placeAll s.cur.ev.a dieBanks s) s.cur.ev.a) else .next s

/-! ### NEST_COMPLETE (R57, R401) -/

/-- The signal of a nest: an atomic add at the counter's home. -/
def signalNest (s : State) (n : Nest) : Option State :=
  if n.sigAddr = 0 then some s
  else
    let w := n.who ((n.placed.map (·.1)).headD 0)
    match s.tryOp (homeAdd w n.sigAddr.toNat n.sigInc.toNat) with
    | (some _, t) => some t
    | (none, _) => none

/-- NEST_COMPLETE (`ev.a` the nest): every point has completed. -/
def execNestComplete (s : State) : Res :=
  let key := s.cur.ev.a
  match kvGet s.nests key with
  | none => .next s
  | some n =>
    if n.complete ∨ n.faulted ∨ n.done ≠ n.total then .next s
    else
      match signalNest s n with
      | none => .next s
      | some t =>
        let u := t.updNest key (fun x => { x with complete := true })
        .next (if n.note then postRecord u n.vif (launchRecord 0 0 n.tag.toNat n.nestid.toNat n.vif []) else u)

/-! ### What time brings (R73, R360) -/

/-- The context issues from the active bank. -/
def issuing (s : State) (k : Nat) : Bool :=
  let c := s.ctx k
  (kvGet s.ctxs k).isSome && c.res == .resident && (s.core c.core).active == c.bank && c.fatal.isNone

/-- TIMER (`ev.ctx`): the cycles that ITTIMER still counts pass, and the trap is taken at the next bundle
boundaries (R360; log 26). -/
def execTimer (s : State) : Res :=
  let k := s.cur.ev.ctx
  let t := (s.ctx k).ctrl.ittimer.toNat
  if issuing s k && t != 0 then
    let s1 := s.updCore (s.ctx k).core (fun x => { x with cycle := x.cycle + BitVec.ofNat 64 t })
    let s2 := s1.updCtx k (fun c => { c with quantum := c.quantum + t, ctrl := { c.ctrl with ittimer := 0 } })
    .next (takeTrap s2 k .timer 0 0 0)
  else .next s

/-- The largest slip window that a lane may find (R366). -/
def widestWindow (s : State) (k : Nat) (l : Lane) : Nat :=
  ((oldCtrls s k l 0x018).map (·.toNat)).foldl max (readCtrl s k 0x018).toNat

/-- A lane waits on a neighbour: for a token, room in a queue, a branch outcome, the slip window, or SYNC. -/
def laneWaits (s : State) (k : Nat) (l : Lane) : Bool :=
  let c := s.ctx k
  let x := c.lane l
  if !(c.queues l).gives.isEmpty then true
  else
    match fetchWord s k x.pc with
    | .word w =>
      if x.arrived then wordOpc w == 0x08
      else if wordLane w != .A && wordLane w != laneField l then false
      else
        match readBundle s k x.pc w with
        | .words ws =>
          match decodeBundle x.pc ws with
          | .ok is =>
            let own := bits w.toNat 37 2
            let owned := wordLane w == .A && [0x02, 0x03, 0x05].contains (wordOpc w)
            x.rslot.isNone && (!slipAllows c (widestWindow s k l) l is.length || !tokensReady c l is
              || (owned && (if own == laneCode l then !c.outcomeRoom l else (c.queues l).outs.isEmpty)))
          | .error _ => false
        | _ => false
    | _ => false

/-- What the lanes have still to give has gone where there is room for it. -/
def settledGives (s : State) (k : Nat) : State := s.updCtx k (fun c => lanes.foldl (fun c l => c.settleGives l) c)

/-- Nothing of the context is in flight. -/
def nothingInFlight (s : State) (k : Nat) : Bool :=
  let c := s.ctx k
  c.liveLanes.all (fun l => (c.lane l).parked.isNone) && s.cmds.all (fun m => m.ctx != k)
    && (s.core c.core).accq.all (fun e => e.ctx != k)

/-- LANE_DEADLOCK (`ev.ctx`). -/
def execLaneDeadlock (s : State) : Res :=
  let k := s.cur.ev.ctx
  let c := s.ctx k
  let live := c.liveLanes
  let mask := (live.map (fun l => 2 ^ (laneCode l - 1))).sum
  if issuing s k && !live.isEmpty && nothingInFlight s k && live.all (fun l => laneWaits (settledGives s k) k l) then
    .next (recordFatal s k .laneDeadlock 0 mask 0 none none)
  else .next s

end Sys2Proof.Machine
end

