-- ==== Sys2Proof/Machine/Fills.lean ====
section
/-! DEFINITION. Events of a core's memories: an overlay fill that ends, and a global write that is performed
(04_memory.md R104; 05_ordering.md R115; 10_control_scalar.md R237). -/

namespace Sys2Proof.Machine

/-- The context for which a slot is filled: one in a bank that expects the image, the active one first. -/
def fillFor (s : State) (core slot : Nat) : Option Nat :=
  let c := s.core core
  ([c.bankCtx c.active, c.bankCtx c.other].filterMap id).find? (fun k =>
    tagMatches (s.ctx k) (c.imem slot) ((s.ctx k).ovl slot) && ((s.ctx k).ovl slot).st != .empty)

/-- On whose behalf an image is read. -/
def fillWho (s : State) (core : Nat) (m : ImemSlot) (k : Option Nat) : Who :=
  match k with
  | some j => ⟨j, core, m.asid.toNat, (s.ctx j).holdsPriv, .L⟩
  | none => deviceWho (dieOfCore core) m.asid.toNat

/-- The fault record of a fill that meets a translation fault: as for a command, with number and lane 0 (R237,
R390). -/
def fillFault (s : State) (core slot : Nat) (k : Nat) (c : Cause) (addr : Word) : State :=
  let die := dieOfCore core
  let m := (s.core core).imem slot
  let bytes := packNats 8
    [k % 2 ^ 32 + 2 ^ 32 * localCore core + 2 ^ 40 * (s.ctx k).bank, 2 ^ 16 * (transFaultOf c).kind + 2 ^ 32 * m.asid.toNat,
     addr.toNat, addr.toNat - m.addr.toNat]
  let told (t : State) : State := t.updCore core (fun x => x.setImem slot { m with told := true })
  match (s.die die).engRod with
  | none => endAsFault s k .killed 0 0 0
  | some rod =>
    let (st, t) := deviceEnq s die (s.die die).rodAsid.toNat rod bytes
    match st with
    | 0 => told (raiseIntp t die 1)
    | 2 | 7 => t
    | _ => endAsFault t k .killed 0 0 0

/-- A slot that has been filled is VALID for each context of the core that expects its image. -/
def slotFilled (s : State) (core slot : Nat) (words : List Word) : State :=
  let m := (s.core core).imem slot
  let s1 := s.updCore core (fun x => x.setImem slot { m with words := words, full := true })
  ([(s1.core core).bank0, (s1.core core).bank1].filterMap id).foldl (fun t k => settleSlot t k slot) s1

/-- OVERLAY_FILL_COMPLETE (`ev.a` the core, `ev.b` the slot): the image has been read. -/
def execOverlayFillComplete (s : State) : Res :=
  let core := s.cur.ev.a
  let slot := s.cur.ev.b % 2
  let m := (s.core core).imem slot
  if m.full then .next s
  else
    let k := fillFor s core slot
    match (homeLoad (fillWho s core m k) m.addr.toNat (8 * m.len)).run.run s with
    | (.ok bs, t) => .next (slotFilled t core slot ((chunks 8 m.len bs).map (fun x => BitVec.ofNat 64 (leNat x))))
    | (.error (.trap c _ a), t) =>
      match k with
      | some j => .next (if m.told then keepTranslations s t else fillFault (keepTranslations s t) core slot j c a)
      | none => .next (keepTranslations s t)
    | (.error (.fatal c d a), t) =>
      match k with
      | some j => .next (recordFatal (keepTranslations s t) j c 0 d a none none)
      | none => .next (keepTranslations s t)
    | (.error .stall, _) => .next s

/-- GLOBAL_WRITE_PERFORMED (`ev.a` the core, `ev.b` the write): it is performed at its home after the earlier
ones towards that home; one that a page move holds waits (R135, R394). -/
def execGlobalWritePerformed (s : State) : Res :=
  .next (s.tryOp (drain s.cur.ev.a (fun e => e.id == s.cur.ev.b))).2

end Sys2Proof.Machine
end

