-- ==== Sys2Proof/Machine/HostEvents.lean ====
section
/-! DEFINITION. What the host does: the rod windows, register writes, function reset, completion timer, its
reads and writes of memory, and the doorbell (05_ordering.md R136; 18_launch_scheduling.md R397, R411). -/

namespace Sys2Proof.Machine

/-- A function answers: boot has completed, and it is the physical function or a virtual one that is enabled (R433). -/
def State.functionUp (s : State) (v : Nat) : Bool := s.module.ready && (v == 0 || decide (v ≤ s.module.vfs))

/-! ### Windows (R397) -/

/-- What an LWIN write came to. -/
def lwinStatus (f : Vif) (st : Nat) : Vif :=
  let f1 := { f with lst := st }
  if st = 0 then { f1 with accB := (f1.accB + 1) % 2 ^ 24 }
  else
    let f2 := raiseFlag { f1 with refd := (f1.refd + 1) % 2 ^ 24 } 1
    if st = 3 ∨ st = 4 then raiseFlag f2 2 else f2

/-- Whether a rod lets the host act through a window, HWIN being bit 17 of its first word and HDEQ bit 18 (R139): OK, the
status of a window that is shut, which is QUARANTINED (log 77), or that a page move holds it (R394). -/
def windowState (s : State) (asid : Nat) (a : Word) (bit : Nat) : Nat :=
  match deviceReach s 0 asid a with
  | .error st => st
  | .ok (r, _) => if s.field r.loc bit 1 = 1 then 0 else 4

/-- An operation of the host on a rod through a window: the status, what it dequeues, and the state after. -/
def tryWindow (s : State) (asid : Nat) (a : Word) (bit : Nat) (op : State → Nat × List Byte × State) : Nat × List Byte × State :=
  match windowState s asid a bit with
  | 0 => op s
  | st => (st, [], s)

/-- As `tryWindow`; one that a page move holds is performed when the move has ended (R394; log 36). -/
def throughWindow (s : State) (asid : Nat) (a : Word) (bit : Nat) (op : State → Nat × List Byte × State) :
    Nat × List Byte × State :=
  match tryWindow s asid a bit op with
  | (7, _, _) => tryWindow (endMoves s) asid a bit op
  | r => r

/-- The ENQ.t of an LWIN write. -/
def lwinEnq (asid : Nat) (a : Word) (bs : List Byte) (s : State) : Nat × List Byte × State :=
  let (st, t) := deviceEnq s 0 asid a bs
  (st, [], t)

/-- LWIN (`ev.a` the VIF, `ev.b` the offset in the window, `ev.bytes` what is written). Where the function does not answer
the write is discarded (R433). A page that software has left marked as moving holds the write for good: nothing is done. -/
def execLwin (s : State) : Res :=
  let v := s.cur.ev.a
  let bs := s.cur.ev.bytes
  if !s.functionUp v then .next s
  else if s.cur.ev.b ≠ 0 ∨ bs.length ≠ 64 then .next (s.updVif v (fun f => lwinStatus f 5))
  else
    let f := s.vif v
    match throughWindow s f.asidb f.lrod 17 (lwinEnq f.asidb f.lrod bs) with
    | (7, _, t) => .next t
    | (st, _, t) => .next (t.updVif v (fun f => lwinStatus f st))

/-- What a CWIN read came to. -/
def cwinStatus (f : Vif) (st : Nat) : Vif :=
  let f1 := { f with cst := st }
  if st = 3 ∨ st = 4 then raiseFlag f1 2 else f1

/-- What the host is given. -/
def State.answer (s : State) (bs : List Byte) : State := { s with module := { s.module with reply := bs, abort := false } }

/-- The host has dequeued, which is an acquire at SYS scope: its later writes come after what had been released (R128,
R136). -/
def State.hostAcquires (s : State) : State := { s with module := { s.module with hostSeen := s.nextId } }

/-- A read of `n` bytes at an offset of the completion window: one of 256 bytes is a DEQ.t of the completion rod. One that is
held for good gives no answer. -/
def readCwin (s : State) (v off n : Nat) : State :=
  let zeros := List.replicate n (0 : Byte)
  if !s.functionUp v then s.answer zeros
  else if off ≠ 0 ∨ n ≠ 256 then (s.updVif v (fun f => cwinStatus f 5)).answer zeros
  else
    let f := s.vif v
    match throughWindow s f.asidb f.crod 18 (fun t => deviceDeq t 0 f.asidb f.crod 256) with
    | (7, _, t) => t
    | (0, bead, t) => (t.updVif v (fun f => cwinStatus f 0)).hostAcquires.answer bead
    | (st, _, t) => (t.updVif v (fun f => cwinStatus f st)).answer zeros

/-- CWIN (`ev.a` the VIF, `ev.b` the offset in the window, `ev.num` the length read). -/
def execCwin (s : State) : Res := .next (readCwin s s.cur.ev.a s.cur.ev.b s.cur.ev.num)

/-! ### Registers (R3, R397) -/

/-- The interrupt that a new count may make due (R411). -/
def checkCount (f : Vif) : Vif := if f.modcnt ≠ 0 ∧ f.modcnt ≤ f.pcnt then completionInterrupt f else f

/-- A write to the configuration space of the physical function (R433): `what` 1, the number of virtual functions that are
enabled, which stays 0 until boot has completed; 2, the error status of AER, where a 1 clears (log 125). -/
def configWrite (s : State) (what v : Nat) : State :=
  let m := s.module
  match what with
  | 1 => if m.ready then { s with module := { m with vfs := min 255 v } } else s
  | 2 => { s with module := { m with aer := m.aer &&& ~~~(BitVec.ofNat 32 v) } }
  | _ => s

/-- HOST_REGISTER_WRITE (`ev.a` the VIF, `ev.b` the offset, `ev.num` the value; `ev.ctx` 0 for the register block, else
what of the configuration space is written). -/
def execHostRegisterWrite (s : State) : Res :=
  let v := s.cur.ev.num
  if s.cur.ev.ctx ≠ 0 then .next (configWrite s s.cur.ev.ctx v)
  else if !s.functionUp s.cur.ev.a then .next s
  else
    .next (s.updVif s.cur.ev.a (fun f =>
      match s.cur.ev.b with
      | 0x208 => checkCount { f with modcnt := bits v 0 8 }
      | 0x210 => { f with modtmr := bits v 0 16 }
      | 0x220 => { f with iflag := f.iflag &&& ~~~(BitVec.ofNat 3 v) }
      | _ => f))

/-- The 8-byte word at an offset of a function's register block, as the host reads it: reserved bits and the write-only
LWIN read 0 (R3, R397, R434). Before boot has completed only BOOTST answers, and a virtual function only where it is enabled
(R433). -/
def hostWord (s : State) (v off : Nat) : Nat :=
  let f := s.vif v
  let m := s.module
  if v = 0 ∧ off = 0x300 then
    m.stage + 2 ^ 4 * m.ready.toNat + 2 ^ 5 * m.fail.toNat + 2 ^ 8 * m.err + 2 ^ 16 * m.nrev.toNat
  else if !s.functionUp v then 0
  else match off with
    | 0x200 => f.lst + 2 ^ 8 * f.cst + 2 ^ 16 * f.accB + 2 ^ 40 * f.refd
    | 0x208 => f.modcnt
    | 0x210 => f.modtmr
    | 0x218 => f.pcnt
    | 0x220 => f.iflag.toNat
    | _ => 0

/-- A host read of `n` bytes at an offset of a function's register block. -/
def readBar (s : State) (v off n : Nat) : State :=
  if 0x100 ≤ off ∧ off < 0x200 then readCwin s v (off - 0x100) n
  else s.answer ((List.range n).map (fun i =>
    BitVec.ofNat 8 (hostWord s v ((off + i) / 8 * 8) / 2 ^ (8 * ((off + i) % 8)))))

/-- FUNCTION_RESET (`ev.a` the VIF): the register block takes its reset values, and no rod changes. -/
def execFunctionReset (s : State) : Res :=
  .next (s.updVif s.cur.ev.a (fun f =>
    { f with lst := 0, cst := 0, accB := 0, refd := 0, modcnt := 1, modtmr := 0, pcnt := 0, iflag := 0 }))

/-- COMPLETION_TIMER_EXPIRY (`ev.a` the VIF): records have stood uncovered for US microseconds (R411). -/
def execCompletionTimerExpiry (s : State) : Res :=
  .next (s.updVif s.cur.ev.a (fun f => if f.modtmr ≠ 0 ∧ 0 < f.pcnt then completionInterrupt f else f))

/-! ### Memory (R111, R136, R371, R383) -/

/-- The location of a host physical address: stack memory inside the aperture, else host memory. -/
def hostAddress (s : State) (a : Nat) : Nat :=
  if s.aperBase ≤ a ∧ a < s.aperBase + s.aperSize then a - s.aperBase else hostLoc a

/-- Locations of a host access. -/
def hostSpan (s : State) (a n : Nat) : List Nat := (List.range n).map (fun i => hostAddress s (a + i))

/-- Pending writes of the device to these bytes that had been made known to the host: its own writes follow them (R128,
R136). -/
def State.beforeHost (s : State) (locs : List Nat) (x : Nat × PendWrite) : Bool :=
  (match x.2.rel with | some r => decide (r ≤ s.module.hostSeen) | none => false)
    && locs.any (fun a => decide (x.2.pa ≤ a) && decide (a < x.2.pa + x.2.bytes.length))

/-- Those writes are performed; a page move that holds one is carried to its end first. -/
def settleForHost (s : State) (locs : List Nat) : State :=
  let go (t : State) : Option Unit × State := t.tryOp (drainWhere (t.beforeHost locs))
  match go s with
  | (some _, t) => t
  | (none, _) => (go (endMoves s)).2

/-- HOST_MEMORY_WRITE (`ev.a` the address, `ev.bytes`): performed at the home. -/
def execHostMemoryWrite (s : State) : Res :=
  let locs := hostSpan s s.cur.ev.a s.cur.ev.bytes.length
  let t := clearPoison (settleForHost s locs) locs
  .next (((locs.zip s.cur.ev.bytes).foldl (fun t ab => t.setByte ab.1 ab.2) t).touchAll locs)

/-- The AER status of a read that ends with a completer abort: bit 15 (log 125). -/
def completerAbort : BitVec 32 := 0x8000

/-- HOST_MEMORY_READ (`ev.a` the address, `ev.b` the length; `ev.num` 0 for memory, else one more than the number of the
function whose register block at `ev.a` is read): a read of memory is performed at the home; an uncorrectable line ends
it with a completer abort, and no context faults. -/
def execHostMemoryRead (s : State) : Res :=
  let e := s.cur.ev
  let locs := hostSpan s e.a e.b
  if e.num ≠ 0 then .next (readBar s (e.num - 1) e.a e.b)
  else if (s.poisoned locs).isSome then .next { s with module := { s.module with
      reply := [], abort := true, aer := s.module.aer ||| completerAbort } }
  else .next (s.answer (locs.map s.byteAt))

/-- HOST_DOORBELL: INTP.HOST is set on the service cores (R360). -/
def execHostDoorbell (s : State) : Res := .next ((List.range 16).foldl (fun t d => raiseIntp t d 2) s)

end Sys2Proof.Machine
end

