-- ==== Sys2Proof/Machine/Health.lean ====
section
/-! DEFINITION. Monitors, wear, power, heat, soft errors, links that fail, quiesce points, reset and boot, and
attestation (16_contexts_traps.md R371, R373; 19_links_fabric.md R415 to R424; 20_bringup_health.md R434 to
R444). -/

namespace Sys2Proof.Machine

def State.updModule (s : State) (f : Module → Module) : State := { s with module := f s.module }

/-- Every die. -/
def allDies : List Nat := List.range 16

/-- An integer that an event brings. -/
def Ev.int (e : Ev) (i j : Nat) : Int := (e.ints.getD i []).getD j 0
def Ev.nat (e : Ev) (i j : Nat) : Nat := (e.int i j).toNat

/-! ### The wear record (R440) -/

/-- Counts per unit of what MONRD reads: seconds and hours are counted in samples of 10 µs, on the die and in flash, so that no
part of one is lost (log 72). -/
def wearUnit (key : Nat) : Nat :=
  if key / 256 = 1 ∨ key / 256 = 2 then 100000 else if key = 0x900 then 360000000 else 1

def wearMax : Nat := 2 ^ 64 - 1

def onDie (s : State) (die key : Nat) : Nat := (kvGet (s.die die).wear key).getD 0
def inFlash (s : State) (die key : Nat) : Nat := (kvGet s.module.flash (65536 * die + key)).getD 0

/-- What MONRD.wear reads. -/
def wearRead (s : State) (die key : Nat) : Nat := min wearMax ((inFlash s die key + onDie s die key) / wearUnit key)

/-- Adds to a count in flash, which saturates when what MONRD reads does. -/
def addFlash (s : State) (die key n : Nat) : State :=
  s.updModule (fun m => { m with
    flash := kvPut m.flash (65536 * die + key) (min (wearMax * wearUnit key) (inFlash s die key + n)) })

/-- A die's counts are added to flash. -/
def flushDie (s : State) (die : Nat) : State :=
  (s.die die).wear.foldl (fun t kn =>
    (addFlash t die kn.1 kn.2).updDie die (fun d => { d with wear := kvPut d.wear kn.1 0 })) s

def flushAll (s : State) : State := allDies.foldl flushDie s

/-- WEAR_FLUSH: every 60 s. -/
def execWearFlush (s : State) : Res := .next (flushAll s)

/-- Items of a class. -/
def wearItems (cls : Nat) : Nat := [0, 16, 16, 4, 9, 9, 4, 2, 64, 2].getD cls 0

/-! ### MONRD (R439) -/

/-- The value for an index out of range. -/
def noReading : Word := BitVec.allOnes 64

/-- A privileged read of a value that the operand selects. -/
def monrd (h : Hdr) (o : SysOps) (s : State) (f : State → Nat → Word) : Res :=
  privileged s 0xEC (fun s => gateOp h s (putResult o.d (f s (s.srcS 1 o.a).toNat)))

/-- MONRD.temp. -/
def execMonrdTemp (h : Hdr) (o : SysOps) (s : State) : Res :=
  monrd h o s (fun s a =>
    if 16 < bits a 0 5 then noReading
    else (BitVec.ofInt 16 ((s.die (bits a 16 4)).temps.getD (bits a 0 5) 0)).signExtend 64)

/-- MONRD.volt. -/
def execMonrdVolt (h : Hdr) (o : SysOps) (s : State) : Res :=
  monrd h o s (fun s a => BitVec.ofInt 64 ((s.die (bits a 16 4)).volts.getD (bits a 0 2) 0))

/-- MONRD.proc. -/
def execMonrdProc (h : Hdr) (o : SysOps) (s : State) : Res :=
  monrd h o s (fun s a => BitVec.ofInt 64 ((s.die (bits a 16 4)).procs.getD (bits a 0 3) 0))

/-- The slow-bank table's byte of a bus (R416). -/
def slowByte (s : State) (bus : Nat) : BitVec 8 := (kvGet s.module.slow bus).getD 0

/-- MONRD.slow. -/
def execMonrdSlow (h : Hdr) (o : SysOps) (s : State) : Res :=
  monrd h o s (fun s a => if 511 < a then noReading else (slowByte s a).zeroExtend 64)

/-- MONRD.wear. -/
def execMonrdWear (h : Hdr) (o : SysOps) (s : State) : Res :=
  monrd h o s (fun s a =>
    if wearItems (bits a 8 8) ≤ bits a 0 8 then noReading
    else BitVec.ofNat 64 (wearRead s (bits a 16 4) (bits a 0 16)))

/-- MONRD.place; a service core has no number that the field could hold, so its field is free (R10). -/
def execMonrdPlace (h : Hdr) (o : SysOps) (s : State) : Res :=
  privileged s 0xEC (fun s => gateOp h s do
    let n ← if isService s.myCore then Op.free 61 else pure s.myCore
    putResult o.d (BitVec.ofNat 64 (n % 64 + 2 ^ 6 * s.myDie + 2 ^ 10 * s.me.bank)))

/-- MONRD.rev. -/
def execMonrdRev (h : Hdr) (o : SysOps) (s : State) : Res :=
  monrd h o s (fun s _ => BitVec.ofNat 64 (s.module.nrev.toNat + 2 ^ 16 * s.module.image.toNat))

/-! ### Losing power (R440, R444) -/

/-- Stack memory, the second tier and the scratchpads read zero; host memory stays. -/
def wipeMemory (s : State) : State :=
  { s with wlog := ((s.mem ++ s.wlog).filter (fun c => decide (c.1 < 2 ^ 64) || decide (2 ^ 72 ≤ c.1))).map (fun c => (c.1, (0 : Byte)))
      ++ s.wlog }

/-- What outlives the loss of power: flash, the suspect mask and the firmware in it, and the secure element's floors and
revocations. Everything else is as after a module reset. -/
def coldState (s : State) (powered : Bool) : State :=
  let t := wipeMemory s
  { State.reset with
    mem := t.mem, wlog := t.wlog, agenda := t.agenda, cur := t.cur, fresh := t.fresh, nextSer := t.nextSer
    module := { State.reset.module with
      powered := powered, flash := s.module.flash, suspect := s.module.suspect, floor := s.module.floor
      floorB := s.module.floorB, revoked := s.module.revoked, loaded := s.module.loaded } }

/-- POWER_LOSS: the counts since the last flush are lost. -/
def execPowerLoss (s : State) : Res := .next (coldState s false)

/-- ORDERLY_SHUTDOWN: the counts are added to flash first. -/
def execOrderlyShutdown (s : State) : Res := .next (coldState (flushAll s) false)

/-- MODULE_RESET: boot starts from the ROM. -/
def execModuleReset (s : State) : Res := .next (coldState s true)

/-- THERMAL_SHUTDOWN: the counts are flushed, lifetime item 1 is incremented, and the module powers off. -/
def thermalShutdown (s : State) : State :=
  coldState (allDies.foldl (fun t d => addFlash t d 0x901 1) (flushAll s)) false

/-! ### Heat (R442, R444) -/

/-- A reading of a die, in 1/16 °C, reaches a threshold in °C for die sensors or for sensor 16. -/
def reaches (d : Die) (die16 stack16 : Int) : Bool :=
  (d.temps.take 16).any (fun t => decide (die16 ≤ t)) || decide (stack16 ≤ d.temps.getD 16 0)

def tooHot (d : Die) : Bool := reaches d (16 * 125) (16 * 105)
def veryHot (d : Die) : Bool := reaches d (16 * 110) (16 * 95)
def overFirst (d : Die) : Bool := reaches d (16 * 100) (16 * 85)

/-- Some sensor is not yet 2 °C below its threshold. -/
def nearFirst (d : Die) : Bool := reaches d (16 * 98 + 1) (16 * 83 + 1)

/-- The dies of a die's column. -/
def columnOf (die : Nat) : List Nat := [die / 2 * 2, die / 2 * 2 + 1]

/-- The first-row limit of a column: in force once a sensor of it is at its threshold, until every sensor of it is 2 °C
below. -/
def columnWarm (s : State) (die : Nat) : Bool :=
  (columnOf die).any (fun i => overFirst (s.die i))
    || ((columnOf die).any (fun i => (s.die i).warm) && (columnOf die).any (fun i => nearFirst (s.die i)))

/-- The second-row limit is in force on some die. -/
def anyHot (s : State) : Bool := allDies.any (fun i => (s.die i).hot)

/-- The limits that the readings of a die put in force or lift, on its column and on every stack's refresh. -/
def applyLimits (s : State) (die : Nat) : State :=
  let w := columnWarm s die
  let s1 := (columnOf die).foldl (fun t i => t.updDie i (fun d => { d with warm := w })) s
  let s2 := s1.updDie die (fun d => { d with hot := veryHot d || (d.hot && overFirst d) })
  s2.updModule (fun m => { m with refresh2 := anyHot s2 })

/-- The thermal cap of every die becomes 0.8 GHz. -/
def capAll (s : State) : State := allDies.foldl (fun t i => t.updDie i (fun d => { d with tcap := 800 })) s

/-- The bin of a temperature (R440). -/
def tempBin (t : Int) : Nat := min 15 ((t - 16 * 24) / (16 * 8)).toNat

/-- The target of a rail, in millivolts: the module's own (log 24). -/
def railTarget (rail : Nat) : Int := Config.free (62 + rail) 0

/-- More than 5 % from the target. -/
def offTarget (rail : Nat) (v : Int) : Bool := decide (railTarget rail < 20 * (v - railTarget rail).natAbs)

/-- What one sample adds to a die's counts. -/
def countSample (s : State) (die : Nat) : State :=
  let d := s.die die
  let hottest := (d.temps.take 16).foldl max (d.temps.headD 0)
  let s1 := bumpWear (bumpWear s die 0x900 1) die (0x100 + tempBin hottest) 1
  let s2 := if die % 2 = 0 then bumpWear s1 die (0x200 + tempBin (d.temps.getD 16 0)) 1 else s1
  (List.range 4).foldl (fun t r => if offTarget r (d.volts.getD r 0) then bumpWear t die (0x300 + r) 1 else t) s2

/-- MONITOR_SAMPLE (`ev.a` the die; `ev.ints` its temperatures, voltages and oscillators). -/
def execMonitorSample (s : State) : Res :=
  let die := s.cur.ev.a
  let e := s.cur.ev
  let s1 := s.updDie die (fun d =>
    { d with temps := e.ints.getD 0 [], volts := e.ints.getD 1 [], procs := e.ints.getD 2 [] })
  let s2 := countSample (applyLimits s1 die) die
  let d := s2.die die
  if tooHot d then .next (thermalShutdown s2)
  else
    let s3 := if veryHot d then capAll s2 else s2
    .next (if overFirst d then raiseIntp s3 die 4 else s3)

/-- THERMAL_CAP_STEP (`ev.a` the column): the cap falls while a limit of the column is in force, else it rises; it
stays at 0.8 GHz while the second-row limit is in force anywhere. -/
def execThermalCapStep (s : State) : Res :=
  let ds := [2 * s.cur.ev.a, 2 * s.cur.ev.a + 1]
  let warm := ds.any (fun i => (s.die i).warm)
  if ds.any (fun i => tooHot (s.die i)) then .next (thermalShutdown s)
  else if anyHot s then .next (capAll s)
  else .next (ds.foldl (fun t i => t.updDie i (fun d =>
    { d with tcap := if warm then d.tcap - 100 else min 2200 (d.tcap + 100) })) s)

/-! ### Power (R442, R443) -/

/-- The effective clock of a die: the least of its three values, in steps of 100 MHz within 0.8 to 2.2 GHz. -/
def Die.effective (d : Die) : Nat := max 800 (min 2200 (min d.target (min d.pcap d.tcap) / 100 * 100))

/-- POWER_SAMPLE (`ev.a` the watts measured): ten samples above PLIM lower every power cap, a hundred below
95 % of it raise them. -/
def execPowerSample (s : State) : Res :=
  let w := s.cur.ev.a
  let m := s.module
  let hi := if m.plim < w then m.overP + 1 else 0
  let lo := if 100 * w < 95 * m.plim then m.underP + 1 else 0
  let s1 := s.updModule (fun m => { m with overP := hi % 10, underP := lo % 100 })
  let caps (f : Nat → Nat) : State := allDies.foldl (fun t i => t.updDie i (fun d => { d with pcap := f d.pcap })) s1
  .next (if hi = 10 then caps (fun c => c - 100)
    else if lo = 100 then caps (fun c => min 2200 (c + 100)) else s1)

/-! ### Links and buses (R415 to R424) -/

/-- Groups of which this module is a member break. -/
def breakGroups (s : State) (p : Group → Bool) : State :=
  (s.groups.filter (fun kg => kg.2.st == .formed && p kg.2)).foldl (fun t kg => breakGroup t kg.1) s

/-- A failed link or bus of the mesh takes the module out of service (R418). -/
def meshFails (s : State) : State :=
  let s1 := (s.ctxs.filter (fun kc => placed kc.2)).foldl (fun t kc => recordFatal t kc.1 .linkFail 0 0xFF 0 none none) s
  let s2 := s1.updModule (fun m => { m with outOfService := true })
  breakGroups (allDies.foldl (fun t d => raiseIntp t d 3) s2) (fun _ => true)

/-- MESH_LINK_FAILURE. -/
def execMeshLinkFailure (s : State) : Res := .next (meshFails s)

/-- A group has no lane left to some peer. -/
def Group.cutOff (g : Group) : Bool := g.lanes.any (fun p => p.2 == 0)

/-- A lane that has failed leaves the sets it was in, and is the last of them to have failed (R423, R424). -/
def Group.loseLane (g : Group) (lane : Nat) : Group :=
  let hit := (g.lanes.filter (fun p => p.2.getLsbD lane)).map (·.1)
  { g with
    lanes := g.lanes.map (fun p => (p.1, p.2 &&& ~~~(BitVec.ofNat 16 (2 ^ lane))))
    lost := hit.map (fun r => (r, lane, 1 + ((g.lost.find? (fun x => x.1 == r)).map (fun x => x.2.2)).getD 0))
      ++ g.lost.filter (fun x => !hit.contains x.1) }

/-- A group loses a lane: its record shows the sets in use (R422, R423). -/
def loseLane (s : State) (lane key : Nat) : State :=
  let g := s.group key
  let h := g.loseLane lane
  let t := s.updGroup key (fun _ => h)
  if g.st = .formed ∧ h.lanes ≠ g.lanes then writeLanes t h h.lanes else t

/-- A scale-out lane fails: it leaves every set; a peer that none reaches breaks its groups. -/
def laneFails (s : State) (lane : Nat) : State :=
  let s1 := s.updModule (fun m => { m with
    deadLanes := m.deadLanes ||| BitVec.ofNat 16 (2 ^ lane)
    lastLane := lane })
  let s2 := (s1.groups.map (·.1)).foldl (fun t key => loseLane t lane key) s1
  raiseIntp (breakGroups s2 Group.cutOff) (lane / 2 * 2) 3

/-- SCALEOUT_LANE_FAILURE (`ev.a` the lane). -/
def execScaleoutLaneFailure (s : State) : Res := .next (laneFails s (s.cur.ev.a % 16))

/-- How often a link replays one flit in a row before it fails: on-die hops, die-edge hops, vertical buses, scale-out
lanes (R417). -/
def retryLimit (kind : Nat) : Nat := if kind = 3 then 64 else 16

/-- A link fails. -/
def linkFails (s : State) (kind link : Nat) : State := if kind = 3 then laneFails s (link % 16) else meshFails s

/-- FLIT_REPLAY (`ev.a` the die, `ev.b` the kind of link, `ev.num` which link of it; `ev.ctx` 1 if the flit is the one
that the link has replayed last): the flits are delivered once, in order, the replay is counted, and a link that replays
one flit too often fails. -/
def execFlitReplay (s : State) : Res :=
  let e := s.cur.ev
  let kind := e.b % 4
  let key := 2 ^ 16 * e.a + 2 ^ 12 * kind + e.num % 2 ^ 12
  let n := 1 + (if e.ctx = 1 then (kvGet s.module.replays key).getD 0 else 0)
  let s1 := (bumpWear s e.a (0x600 + kind) 1).updModule (fun m => { m with replays := kvPut m.replays key n })
  .next (if retryLimit kind < n then linkFails s1 kind e.num else s1)

/-- VBUS_WIRE_FAULT (`ev.a` the bus, `ev.b` the wires): queued for the next quiesce of its column. -/
def execVbusWireFault (s : State) : Res :=
  .next (s.updModule (fun m => { m with remaps := m.remaps ++ [(s.cur.ev.a % 512, s.cur.ev.b)] }))

/-- STATE of a bus with `n` failed wires: 0 FULL, 1 HALF, 2 DOWN. -/
def busState (n : Nat) : Nat := if n ≤ 8 then 0 else if n ≤ 136 then 1 else 2

/-- A bus's byte of the slow-bank table; at half width the spares in use are not stated (log 24). -/
def busByte (n spares : Nat) (rt : Bool) : BitVec 8 :=
  BitVec.ofNat 8 (busState n + 4 * (if n ≤ 8 then n else spares % 9) + 64 * rt.toNat)

def wiresOf (s : State) (bus : Nat) : Nat := (kvGet s.module.wires bus).getD 0

/-- A run-time remap of a bus: its wires, its byte, and the events that are counted. -/
def remapBus (s : State) (die : Nat) (r : Nat × Nat) : State :=
  let old := wiresOf s r.1
  let n := old + r.2
  let (spares, s1) := s.free 70
  let s2 := s1.updModule (fun m => { m with
    wires := kvPut m.wires r.1 n, slow := kvPut m.slow r.1 (busByte n spares true) })
  let s3 := bumpWear s2 die 0x700 1
  let s4 := if busState old = 0 ∧ busState n = 1 then bumpWear s3 die 0x701 1 else s3
  if busState n = 2 then meshFails s4 else s4

/-- A spare lane takes the place of a lane of a peer's set that has failed, at a quiesce of die 14; the record shows the
set in use (R421, R422). -/
def substituteLane (s : State) (key rank lane : Nat) : State :=
  let g := s.group key
  let bit : BitVec 16 := BitVec.ofNat 16 (2 ^ lane)
  if idleLanes s &&& bit = 0 ∨ 16 ≤ lane ∨ g.st ≠ .formed ∨ !(g.lost.any (fun x => x.1 == rank && x.2.2 != 0)) then s
  else
    let h := { g with
      lanes := g.lanes.map (fun p => if p.1 = rank then (p.1, p.2 ||| bit) else p)
      lost := g.lost.map (fun x => if x.1 = rank then (x.1, x.2.1, x.2.2 - 1) else x) }
    writeLanes (s.updGroup key (fun _ => h)) h h.lanes

/-- QUIESCE (`ev.a` the die): the ratio changes to what the three values of R442 give, of which `ev.ints` may
bring a new target; queued remaps of the column are made; on die 14 a lane that `ev.b` names less one may
join the set of rank `ev.ctx` of group `ev.num`. -/
def execQuiesce (s : State) : Res :=
  let e := s.cur.ev
  let die := e.a
  let s1 := s.updDie die (fun d =>
    let d1 := match e.ints with
      | (t :: _) :: _ => { d with target := t.toNat }
      | _ => d
    { d1 with clock := d1.effective })
  let mine := s1.module.remaps.filter (fun r => r.1 / 64 == die / 2)
  let s2 := s1.updModule (fun m => { m with remaps := m.remaps.filter (fun r => r.1 / 64 != die / 2) })
  let s3 := mine.foldl (fun t r => remapBus t die r) s2
  .next (if die = 14 ∧ e.b ≠ 0 then substituteLane s3 e.num e.ctx (e.b - 1) else s3)

/-! ### Soft errors (R371, R440) -/

/-- An uncorrectable error in a clean copy: the copy is discarded (items 2, 4, 5 and 6; `a` the core or entry,
`b` the line or slot). -/
def discardCopy (s : State) (die item a b : Nat) : State :=
  match item with
  | 2 => dropLine s a b
  | 4 => dropRdc s die b
  | 5 => { s with tlb := s.tlb.eraseIdx a }
  | _ => s.updCore a (fun c => c.setImem (b % 2) { c.imem (b % 2) with words := [], full := false })

/-- A row or line holds an uncorrectable error; `l2`: in the only copy, which an L2 holds (R371, R440). -/
def spoil (s : State) (row : Nat) (l2 : Bool) : State :=
  { s with
    poison := if s.poison.contains row then s.poison else row :: s.poison
    l2bad := if l2 then row :: s.l2bad.filter (· != row) else s.l2bad.filter (· != row) }

/-- SOFT_ERROR (`ev.a` the die, `ev.num` the item of R440, `ev.b` 0 corrected, 1 uncorrectable, 2 a difference
between the cores of a pair; `ev.ctx` the context; `ev.ints` the location, or the core and line, or the item
of R373). -/
def execSoftError (s : State) : Res :=
  let e := s.cur.ev
  let k := e.ctx
  let fixed := bumpWear s e.a (0x400 + e.num) 1
  match e.b with
  | 0 => .next fixed
  | 1 =>
    match e.num with
    | 0 => .next (recordFatal s k .uncorr 0 1 0 none none)
    | 2 | 4 | 5 | 6 => .next (discardCopy fixed e.a e.num (e.nat 0 0) (e.nat 0 1))
    | _ =>
      .next (spoil s (rowOf (e.nat 0 0)) (e.num == 3))
  | _ =>
    if (kvGet s.ctxs k).isSome && (s.ctx k).ctrl.chk then
      .next (s.updCtx k (fun c => { c with mirrorDiff := some (e.nat 0 0 % 6) }))
    else .next s

/-! ### Verification (R436) -/

/-- What module flash holds to boot from. -/
def Module.firmware (m : Module) : Config.Firmware := m.loaded.getD Config.firmware

/-- What both signatures cover: the header, less its signature fields, and the payload (log 123). -/
def signedBytes (x : Config.Signed) : List Byte :=
  packNats 8 [x.length, x.version.toNat, x.svn] ++ x.rsaKey ++ x.slhKey ++ x.payload

/-- ROM slots to which a key hashes. -/
def romSlots (rom : Fin 4 → List Byte) (key : List Byte) : List Nat :=
  (List.range 4).filter (fun j => rom (Fin.ofNat 4 j) == Config.sha384 key)

/-- Both signatures are of their length and verify. -/
def signaturesVerify (x : Config.Signed) : Bool :=
  x.rsaSig.length == 384 && x.slhSig.length == 16224
    && Config.rsaVerifies x.rsaKey (signedBytes x) x.rsaSig && Config.slhVerifies x.slhKey (signedBytes x) x.slhSig

/-- The conditions of R436 that an image or blob fails, as the codes of BOOTST.ERR (R434): a signature, or a key that
hashes to no ROM slot; an SVN below the floor; a key whose slots are all revoked. -/
def verifyErrors (m : Module) (floor : Nat) (x : Config.Signed) : List Nat :=
  let rsa := romSlots Config.romRsaHash x.rsaKey
  let slh := romSlots Config.romSlhHash x.slhKey
  let revoked (base : Nat) (slots : List Nat) : Bool := !slots.isEmpty && slots.all (fun j => m.revoked.getLsbD (base + j))
  (if signaturesVerify x && !rsa.isEmpty && !slh.isEmpty then [] else [1])
  ++ (if floor ≤ x.svn then [] else [2])
  ++ (if revoked 0 rsa || revoked 4 slh then [3] else [])

/-! ### Boot (R434, R435, R441) -/

/-- A power limit lies in its range (R443). -/
def plimOk (p : Nat) : Bool := decide (1000 ≤ p) && decide (p ≤ 2800)

/-- The ranges of R378, R396 and R407 hold in a setup, and no die is in two partitions. -/
def setupOk (b : Config.BootSetup) : Bool :=
  b.asidTable % 32 == 0 && paValid b.asidTable && decide (1 ≤ b.npend) && decide (b.npend ≤ 64) && decide (1 ≤ b.asidn)
    && decide (b.asidb + b.asidn ≤ 8192) && decide (b.part < 16)
    && b.parts.all (fun p => decide (p.part < 16) && decide (1 ≤ p.bmax) && decide (p.bmax ≤ 1024))
    && (allDies.all (fun d => decide ((b.parts.filter (fun p => p.dies.getLsbD d)).length ≤ 1)))

/-- What a blob names is out of range: ERR 6. -/
def blobErrors (b : Config.Blob) : List Nat :=
  if b.plim.all plimOk && b.setup.all setupOk then [] else [6]

/-- What testing finds at boot: what the event brings, else a free value. -/
def bootFinding (s : State) (i : Nat) : Nat :=
  if s.cur.ev.ints.isEmpty then Config.free (2000 + i) s.fresh else s.cur.ev.nat 0 i

/-- The errors of a stage. Whether the secure element answers, the wires of the buses that have failed, and whether memory
trains are findings; the image and the blobs are checked. -/
def stageErrors (s : State) (stage : Nat) : List Nat :=
  let m := s.module
  match stage with
  | 1 => if bootFinding s 0 % 2 = 0 then [7] else []
  | 2 => verifyErrors m m.floor m.firmware.image.signed
  | 3 => if (List.range 512).any (fun b => busState (bootFinding s b) == 2) then [4] else []
  | 4 => if bootFinding s 0 % 2 = 0 then [5] else []
  | 5 => m.firmware.blobs.flatMap (fun b => verifyErrors m m.floorB b.signed ++ blobErrors b)
  | _ => []

/-- The buses as repair finds them. -/
def repairBuses (found : Nat → Nat) (s : State) : State :=
  let (spares, s1) := s.free 72
  s1.updModule (fun m => { m with
    wires := (List.range 512).map (fun b => (b, found b))
    slow := (List.range 512).map (fun b => (b, busByte (found b) (spares / 9 ^ b) false)) })

/-- The stacks and the second tier are written with zeros under ECC, which clears their errors. -/
def trainMemory (s : State) : State :=
  let t := wipeMemory s
  let host (ps : List Nat) : List Nat := ps.filter (fun p => decide (2 ^ 64 ≤ p) && decide (p < 2 ^ 72))
  { t with poison := host t.poison, l2bad := host t.l2bad }

/-- A context of the firmware: privileged, at the entry of the image, whose words are in slot 0. -/
def firmwareCtx (x : Config.AdeleyImage) (core : Nat) : Ctx :=
  let l : LaneSt := { LaneSt.reset with pc := x.entry }
  { Ctx.reset with
    core := core, res := .resident, nest := 2 ^ 40, laneL := l, laneC := l, laneS := l
    ovl0 := ⟨.valid, x.addr, x.words.length⟩
    ctrl := { Ctrl.reset with prv := true, asid := x.asid } }

/-- Adeley starts on a service core. -/
def startFirmware (x : Config.AdeleyImage) (s : State) (core : Nat) : State :=
  let k := s.nextSer
  ({ s.setCtx k (firmwareCtx x core) with nextSer := k + 1 }).updCore core (fun c => { c with
    bank0 := some k, active := 0
    slot0 := ⟨x.asid, x.addr, x.words.length, x.words, true, false⟩ })

/-- What an accepted configuration blob sets: floors and revocations only rise, PLIM, pairs it clears (R436, R441, R443). -/
def applyBlob (s : State) (b : Config.Blob) : State :=
  s.updModule (fun m => { m with
    floor := max m.floor b.floor, floorB := max m.floorB b.floorB, revoked := m.revoked ||| b.revoke
    plim := b.plim.getD m.plim
    suspect := b.clear.foldl (fun x p => x &&& ~~~(BitVec.ofNat 512 (2 ^ p))) m.suspect })

/-- A partition that boot sets up. -/
def setPartition (s : State) (q : Config.PartSetup) : State :=
  let s1 := s.updPart q.part (fun p => { p with
    dies := q.dies
    qnt := q.qnt
    bmax := Vector.replicate 16 q.bmax
    dsh := Vector.ofFn (fun d : Fin 16 => BitVec.ofNat 4 (q.share.getD d 0)) })
  (allDies.filter (fun d => q.dies.getLsbD d)).foldl (fun t d => joinPart t d q.part) s1

/-- A setup that no blob names is Adeley's own: free values in their ranges, every die in one partition (log 124). -/
def freeSetup (xs : List Nat) : Config.BootSetup :=
  let x (i : Nat) : Nat := xs.getD i 0
  let home (d : Nat) : Nat := x (16 + d) % 16
  let asidb := x 5 % 8192
  { asidTable := 32 * (x 0 % 2 ^ 30), aperBase := x 1 % 2 ^ 52, aperSize := x 2 % 2 ^ 40
    part := home (x 3 % 16), npend := 1 + x 4 % 64, asidb := asidb, asidn := 1 + x 6 % (8192 - asidb)
    lrod := BitVec.ofNat 64 (x 7), crod := BitVec.ofNat 64 (x 8)
    parts := (distinct (allDies.map home)).map (fun p =>
      { part := p, dies := BitVec.ofNat 16 ((allDies.filter (fun d => home d == p)).map (2 ^ ·)).sum
        qnt := x (32 + p) % 2 ^ 32, bmax := 1 + x (48 + p) % 1024, share := (List.range 16).map (fun d => x (64 + d) % 16) }) }

/-- Stage 6: the ASID table and the aperture, VIF 0, the partitions, and NREV. -/
def finishBoot (s : State) : State :=
  let (xs, s1) := s.freeList 80
  let fw := s.module.firmware
  let b := ((fw.blobs.filterMap (·.setup)).getLast?).getD (freeSetup xs)
  let s2 := { s1 with
    asidTable := some b.asidTable, aperBase := b.aperBase, aperSize := b.aperSize
    module := { s1.module with ready := true, nrev := fw.image.nrev } }
  let s3 := s2.updVif 0 (fun f => { f with
    valid := true, prvok := true, part := b.part, npend := b.npend, asidb := b.asidb, asidn := b.asidn
    lrod := b.lrod, crod := b.crod })
  b.parts.foldl setPartition s3

/-- What a stage that succeeds does; `found` are the findings of its tests. -/
def stageDone (s : State) (found : Nat → Nat) (stage : Nat) : State :=
  let fw := s.module.firmware
  match stage with
  | 2 => s.updModule (fun m => { m with image := fw.image.signed.version })
  | 3 => repairBuses found s
  | 4 => (allDies.flatMap serviceCores).foldl (startFirmware fw.image) (trainMemory s)
  | 5 => fw.blobs.foldl applyBlob s
  | 6 => finishBoot s
  | _ => s

/-- BOOT_STAGE: the next stage begins, and completes or fails with one of its errors (R436: the order of the checks does not
matter). -/
def execBootStage (s : State) : Res :=
  let m := s.module
  if m.ready ∨ m.fail ∨ 6 ≤ m.stage then .next s
  else
    let stage := m.stage + 1
    let (n, begun) := (s.updModule (fun m => { m with stage := stage })).free 75
    match stageErrors s stage with
    | [] => .next (stageDone begun (bootFinding s) stage)
    | errs => .next (begun.updModule (fun m => { m with fail := true, err := errs.getD (n % errs.length) 0 }))

/-! ### Attestation (R437) -/

/-- The digest of an image or blob. -/
def imageDigest (x : Config.Signed) : List Byte := Config.sha384 (signedBytes x ++ x.rsaSig ++ x.slhSig)

/-- The measurement blocks; the last is over the transcript up to it. -/
def measurements (m : Module) (request : List Byte) : List (Nat × List Byte) :=
  let table := (List.range 512).map (fun b => (kvGet m.slow b).getD 0)
  let four := [(1, Config.sha384 Config.rom), (2, imageDigest m.firmware.image.signed),
    (3, m.firmware.blobs.flatMap (fun b => imageDigest b.signed)), (4, Config.sha384 table)]
  four ++ [(0xF0, Config.slhSign Config.secureElement.slhKeys.secret
    (m.transcript ++ request ++ four.flatMap (fun p => BitVec.ofNat 8 p.1 :: p.2)))]

/-- The RSA identity key signs the transcript. -/
def attestSignature (m : Module) (request : List Byte) : List Byte :=
  Config.rsaSign Config.secureElement.rsaKeys.secret (m.transcript ++ request)

/-- An SPDM request over the DOE mailbox, which only the physical function has (`ev.ctx` the function, `ev.bytes` the
request): what the response says is kept, and the bytes in which SPDM frames it, which the manual leaves to that standard,
are free (log 23). `step` is how far the exchange has come. -/
def spdmReply (s : State) (step : Nat) (say : Module → SpdmReply) : Res :=
  let e := s.cur.ev
  if e.ctx ≠ 0 then .next s
  else
    let (n, s1) := s.free 80
    let (bs, s2) := s1.freeList n
    let reply := bs.map (BitVec.ofNat 8)
    let before := if step = 1 then [] else s.module.transcript
    .next (s2.updModule (fun m => { m with
      reply := reply, abort := false, said := some (say { s.module with transcript := before })
      transcript := before ++ e.bytes ++ reply
      spdm := if step = 1 then 1 else max m.spdm step }))

def execGetVersion (s : State) : Res := spdmReply s 1 (fun _ => .version 1 3)
def execGetCapabilities (s : State) : Res := spdmReply s 2 (fun _ => .capabilities (Config.free 81 s.fresh))
def execNegotiateAlgorithms (s : State) : Res := spdmReply s 3 (fun _ => .algorithms .rsapss3072 .sha384)
def execGetDigests (s : State) : Res :=
  spdmReply s 0 (fun _ => .digests
    [Config.sha384 Config.secureElement.rsaChain, Config.sha384 Config.secureElement.slhChain])

/-- GET_CERTIFICATE (`ev.a` the slot: 0 the RSA chain, else the SLH-DSA chain). -/
def execGetCertificate (s : State) : Res :=
  spdmReply s 0 (fun _ => .certificate
    (if s.cur.ev.a = 0 then Config.secureElement.rsaChain else Config.secureElement.slhChain))

def execChallenge (s : State) : Res := spdmReply s 0 (fun m => .challenge (attestSignature m s.cur.ev.bytes))

/-- GET_MEASUREMENTS (`ev.a` the index of a block, or 0xFF for all of them). -/
def execGetMeasurements (s : State) : Res :=
  spdmReply s 0 (fun m => .measurements
    ((measurements m s.cur.ev.bytes).filter (fun p => s.cur.ev.a == 0xFF || p.1 == s.cur.ev.a))
    (attestSignature m s.cur.ev.bytes))

end Sys2Proof.Machine
end

