-- ==== Sys2Proof/Machine/Predicate.lean ====
section
/-! DEFINITION. Predicates and lane exchange, opcodes 0x40 to 0x4B (10_control_scalar.md R248 to R252). -/

namespace Sys2Proof.Machine

/-- A logic instruction on predicate registers (R249). -/
def predForm (h : Hdr) (o : RegOps) (s : State) (f : PWord → PWord → PWord) : Res :=
  plain h s (fun s => s.wrP o.d.toNat (f (s.srcP 1 o.a.toNat) (s.srcP 2 o.b.toNat)) boundInt)

def execPand (h : Hdr) (o : RegOps) (s : State) : Res := predForm h o s (fun a b => a &&& b)

def execPor (h : Hdr) (o : RegOps) (s : State) : Res := predForm h o s (fun a b => a ||| b)

def execPxor (h : Hdr) (o : RegOps) (s : State) : Res := predForm h o s (fun a b => a ^^^ b)

def execPandn (h : Hdr) (o : RegOps) (s : State) : Res := predForm h o s (fun a b => a &&& ~~~b)

/-- PSET by SUB: 0 the low bits, 1 any, 2 first n (R249). -/
def psetWord (sub : Nat) (x : Word) : PWord :=
  match sub with
  | 0 => x.truncate 32
  | 1 => if x ≠ 0 then BitVec.allOnes 32 else 0
  | _ => BitVec.ofNat 32 (2 ^ min x.toNat 32 - 1)

def execPset (h : Hdr) (o : RegOps) (s : State) : Res :=
  plain h s (fun s => s.wrP o.d.toNat (psetWord o.sub.toNat (s.srcS 1 o.a)) boundInt)

/-- PSAVE: elements 0 to 7 hold the predicates, the others zero (R250). -/
def execPsave (h : Hdr) (o : RegOps) (s : State) : Res :=
  plain h s (fun s =>
    s.wrV o.d (vword 32 ((List.range 32).map (fun j => if j < 8 then (s.srcP j j).toNat else 0))) boundInt)

/-- PREST: the predicates that the mask names, but p0 (R250). -/
def execPrest (h : Hdr) (o : RegOps) (s : State) : Res :=
  plain h s (fun s =>
    let es := elemsOf 32 (s.srcVBy 32 1 o.a)
    (List.range 8).foldl (fun t j =>
      if o.sub.getLsbD j then t.wrP j (BitVec.ofNat 32 (es.getD j 0)) boundInt else t) s)

/-- Index of the lowest one bit from bit `i` on; 32 if none. -/
def lowestOne (p : PWord) : Nat := ((List.range 32).find? (fun i => p.getLsbD i)).getD 32

/-- Index of the highest one bit; 32 if none. -/
def highestOne (p : PWord) : Nat := ((List.range 32).reverse.find? (fun i => p.getLsbD i)).getD 32

/-- PQRY by SUB (R250). -/
def pqryWord (sub : Nat) (p : PWord) : Nat :=
  match sub with
  | 0 => popBits 32 p.toNat
  | 1 => lowestOne p
  | 2 => highestOne p
  | 3 => p.toNat % 2
  | _ => p.toNat

def execPqry (h : Hdr) (o : RegOps) (s : State) : Res :=
  plain h s (fun s => s.wrS o.d (BitVec.ofNat 64 (pqryWord o.sub.toNat (s.srcP 1 o.a.toNat))) boundInt)

/-- XPUT: an entry with a value, ahead of those of GL and GR; an inactive one gives GL and GR alone
(R251, R63; log 38). -/
def execXput (h : Hdr) (o : RegOps) (s : State) : Res :=
  let put := if s.active h then some (o.sub.getLsbD 0, s.srcS 1 o.a) else none
  .next (s.updMe (fun c => c.addGives s.cur.lane (giveList h put)))

/-- XGET: the oldest entry leaves the queue, and its value, or 0, is written; an inactive one takes
the entry all the same (R63, R251). -/
def execXget (h : Hdr) (o : RegOps) (s : State) : Res :=
  let l := s.cur.lane
  let right := o.sub.getLsbD 0
  let v := match s.me.queueFrom l right with
    | [] => 0
    | t :: _ => if t.hasVal then t.val else 0
  let s1 := s.updMe (fun c => c.popQueue l right 1)
  .next (if s.active h then s1.wrS o.d v boundInt else s1)

/-- RDCNT: LCNT, or the lane's field of ESEQ, as they stood before the bundle (R252). -/
def execRdcnt (h : Hdr) (o : RegOps) (s : State) : Res :=
  plain h s (fun s =>
    let x := s.snap.lane s.cur.lane
    s.wrS o.d (if o.sub.toNat = 0 then BitVec.ofNat 64 x.lcnt else x.eseq.zeroExtend 64) boundInt)

end Sys2Proof.Machine
end

