-- ==== Sys2Proof/Machine/ScalarFp.lean ====
section
/-! DEFINITION. Scalar floating point, opcodes 0x30 to 0x3E (10_control_scalar.md R244 to R247). -/

namespace Sys2Proof.Machine

/-- Operand `pos`, an f register's bits in a format. -/
def State.srcFp (s : State) (pos : Nat) (r : BitVec 6) (t : Nat) : Nat :=
  bits (s.srcF pos r).toNat 0 (typeWidth t)

/-- An instruction of two f operands that writes an f register; bits above the format are zero (R244). -/
def fpForm (h : Hdr) (o : RegOps) (s : State) (bound : Nat) (f : FpFmt → Nat → Nat → Nat) : Res :=
  let t := o.t.toNat
  plain h s (fun s => s.wrF o.d (BitVec.ofNat 64 (f (fpFmt t) (s.srcFp 1 o.a t) (s.srcFp 2 o.b t))) bound)

def execFadd (h : Hdr) (o : RegOps) (s : State) : Res :=
  fpForm h o s boundFp (fun f a b => fpAdd f o.rm.toNat a b)

def execFsub (h : Hdr) (o : RegOps) (s : State) : Res :=
  fpForm h o s boundFp (fun f a b => fpSub f o.rm.toNat a b)

def execFmul (h : Hdr) (o : RegOps) (s : State) : Res :=
  fpForm h o s boundFp (fun f a b => fpMul f o.rm.toNat a b)

def execFfma (h : Hdr) (o : RegOps) (s : State) : Res :=
  let t := o.t.toNat
  plain h s (fun s =>
    s.wrF o.d (BitVec.ofNat 64 (fpFma (fpFmt t) o.rm.toNat (s.srcFp 1 o.a t) (s.srcFp 2 o.b t) (s.srcFp 3 o.c t)))
      boundFp)

def execFdiv (h : Hdr) (o : RegOps) (s : State) : Res :=
  fpForm h o s boundFdiv (fun f a b => fpDiv f o.rm.toNat a b)

def execFsqrt (h : Hdr) (o : RegOps) (s : State) : Res :=
  fpForm h o s boundFdiv (fun f a _ => fpSqrt f o.rm.toNat a)

def execFmin (h : Hdr) (o : RegOps) (s : State) : Res :=
  fpForm h o s boundFp (fun f a b => fpMinMax f false a b)

def execFmax (h : Hdr) (o : RegOps) (s : State) : Res :=
  fpForm h o s boundFp (fun f a b => fpMinMax f true a b)

/-- FCMP: s d is 1 if the relation that SUB gives holds, else 0. -/
def execFcmp (h : Hdr) (o : RegOps) (s : State) : Res :=
  let t := o.t.toNat
  plain h s (fun s =>
    let c := fpCond o.sub.toNat (fpDecode (fpFmt t) (s.srcFp 1 o.a t)) (fpDecode (fpFmt t) (s.srcFp 2 o.b t))
    s.wrS o.d (if c then 1 else 0) boundFp)

/-- FCVT: integer formats stand in s registers, the others in f registers (R246). -/
def execFcvt (h : Hdr) (o : RegOps) (s : State) : Res :=
  let src := o.sub.toNat % 32
  let dst := o.t.toNat
  plain h s (fun s =>
    let x := if src < 8 then s.srcBits 1 o.a src else s.srcFp 1 o.a src
    let y := convertBits src dst o.rm.toNat (o.mod.getLsbD 0) x
    if dst < 8 then s.wrS o.d (extendTyped dst y) boundFp else s.wrF o.d (BitVec.ofNat 64 y) boundFp)

def execFsgn (h : Hdr) (o : RegOps) (s : State) : Res :=
  fpForm h o s boundFp (fun f a b => fpSign f o.sub.toNat a b)

def execFclass (h : Hdr) (o : RegOps) (s : State) : Res :=
  let t := o.t.toNat
  plain h s (fun s => s.wrS o.d (BitVec.ofNat 64 (fpClass (fpFmt t) (s.srcFp 1 o.a t))) boundFp)

/-- FMVS: 64 bits from s to f, or with MOD from f to s. -/
def execFmvs (h : Hdr) (o : RegOps) (s : State) : Res :=
  plain h s (fun s =>
    if o.mod.getLsbD 0 then s.wrS o.d (s.srcF 1 o.a) boundFp else s.wrF o.d (s.srcS 1 o.a) boundFp)

/-- FLI: the f32 bits of IMM[31:0], or the f64 equal to them. -/
def execFli (h : Hdr) (o : RiOps) (s : State) : Res :=
  plain h s (fun s =>
    let x := o.imm.toNat % 2 ^ 32
    s.wrF o.d (BitVec.ofNat 64 (if o.imm.getLsbD 32 then convertBits 10 11 0 false x else x)) boundFp)

/-- FSEL: 64 bits of a or b by bit 0 of the predicate c. -/
def execFsel (h : Hdr) (o : RegOps) (s : State) : Res :=
  plain h s (fun s =>
    s.wrF o.d (if (s.srcP 3 o.c.toNat).getLsbD 0 then s.srcF 1 o.a else s.srcF 2 o.b) boundFp)

end Sys2Proof.Machine
end

