-- ==== Sys2Proof/Machine/Dispatch.lean ====
section
/-! DEFINITION. One arm per instruction and event, each a call of its meaning. -/

namespace Sys2Proof.Machine

def exec (i : Instr) (s : State) : Host.Outcome State Fault Refusal :=
  match i with
  | .nop h o => Sys2Proof.Machine.execNop h o s
  | .br h o => Sys2Proof.Machine.execBr h o s
  | .brc h o => Sys2Proof.Machine.execBrc h o s
  | .brx h o => Sys2Proof.Machine.execBrx h o s
  | .call h o => Sys2Proof.Machine.execCall h o s
  | .callx h o => Sys2Proof.Machine.execCallx h o s
  | .ret h o => Sys2Proof.Machine.execRet h o s
  | .loop h o => Sys2Proof.Machine.execLoop h o s
  | .sync h o => Sys2Proof.Machine.execSync h o s
  | .endLane h o => Sys2Proof.Machine.execEndLane h o s
  | .trap h o => Sys2Proof.Machine.execTrap h o s
  | .bkpt h o => Sys2Proof.Machine.execBkpt h o s
  | .stk h o => Sys2Proof.Machine.execStk h o s
  | .ovl h o => Sys2Proof.Machine.execOvl h o s
  | .add h o => Sys2Proof.Machine.execAdd h o s
  | .sub h o => Sys2Proof.Machine.execSub h o s
  | .addi h o => Sys2Proof.Machine.execAddi h o s
  | .mul h o => Sys2Proof.Machine.execMul h o s
  | .mulh h o => Sys2Proof.Machine.execMulh h o s
  | .div h o => Sys2Proof.Machine.execDiv h o s
  | .rem h o => Sys2Proof.Machine.execRem h o s
  | .and h o => Sys2Proof.Machine.execAnd h o s
  | .or h o => Sys2Proof.Machine.execOr h o s
  | .xor h o => Sys2Proof.Machine.execXor h o s
  | .andn h o => Sys2Proof.Machine.execAndn h o s
  | .shl h o => Sys2Proof.Machine.execShl h o s
  | .shr h o => Sys2Proof.Machine.execShr h o s
  | .sar h o => Sys2Proof.Machine.execSar h o s
  | .rotr h o => Sys2Proof.Machine.execRotr h o s
  | .clz h o => Sys2Proof.Machine.execClz h o s
  | .popc h o => Sys2Proof.Machine.execPopc h o s
  | .min h o => Sys2Proof.Machine.execMin h o s
  | .max h o => Sys2Proof.Machine.execMax h o s
  | .cmp h o => Sys2Proof.Machine.execCmp h o s
  | .sel h o => Sys2Proof.Machine.execSel h o s
  | .li h o => Sys2Proof.Machine.execLi h o s
  | .lih h o => Sys2Proof.Machine.execLih h o s
  | .mov h o => Sys2Proof.Machine.execMov h o s
  | .bfx h o => Sys2Proof.Machine.execBfx h o s
  | .bfi h o => Sys2Proof.Machine.execBfi h o s
  | .addx h o => Sys2Proof.Machine.execAddx h o s
  | .abs h o => Sys2Proof.Machine.execAbs h o s
  | .andi h o => Sys2Proof.Machine.execAndi h o s
  | .ori h o => Sys2Proof.Machine.execOri h o s
  | .xori h o => Sys2Proof.Machine.execXori h o s
  | .muli h o => Sys2Proof.Machine.execMuli h o s
  | .fadd h o => Sys2Proof.Machine.execFadd h o s
  | .fsub h o => Sys2Proof.Machine.execFsub h o s
  | .fmul h o => Sys2Proof.Machine.execFmul h o s
  | .ffma h o => Sys2Proof.Machine.execFfma h o s
  | .fdiv h o => Sys2Proof.Machine.execFdiv h o s
  | .fsqrt h o => Sys2Proof.Machine.execFsqrt h o s
  | .fmin h o => Sys2Proof.Machine.execFmin h o s
  | .fmax h o => Sys2Proof.Machine.execFmax h o s
  | .fcmp h o => Sys2Proof.Machine.execFcmp h o s
  | .fcvt h o => Sys2Proof.Machine.execFcvt h o s
  | .fsgn h o => Sys2Proof.Machine.execFsgn h o s
  | .fclass h o => Sys2Proof.Machine.execFclass h o s
  | .fmvs h o => Sys2Proof.Machine.execFmvs h o s
  | .fli h o => Sys2Proof.Machine.execFli h o s
  | .fsel h o => Sys2Proof.Machine.execFsel h o s
  | .pand h o => Sys2Proof.Machine.execPand h o s
  | .por h o => Sys2Proof.Machine.execPor h o s
  | .pxor h o => Sys2Proof.Machine.execPxor h o s
  | .pandn h o => Sys2Proof.Machine.execPandn h o s
  | .pset h o => Sys2Proof.Machine.execPset h o s
  | .psave h o => Sys2Proof.Machine.execPsave h o s
  | .prest h o => Sys2Proof.Machine.execPrest h o s
  | .pqry h o => Sys2Proof.Machine.execPqry h o s
  | .xput h o => Sys2Proof.Machine.execXput h o s
  | .xget h o => Sys2Proof.Machine.execXget h o s
  | .rdcnt h o => Sys2Proof.Machine.execRdcnt h o s
  | .vadd h o => Sys2Proof.Machine.execVadd h o s
  | .vsub h o => Sys2Proof.Machine.execVsub h o s
  | .vmul h o => Sys2Proof.Machine.execVmul h o s
  | .vfma h o => Sys2Proof.Machine.execVfma h o s
  | .vmin h o => Sys2Proof.Machine.execVmin h o s
  | .vmax h o => Sys2Proof.Machine.execVmax h o s
  | .vsgn h o => Sys2Proof.Machine.execVsgn h o s
  | .vcmp h o => Sys2Proof.Machine.execVcmp h o s
  | .vsel h o => Sys2Proof.Machine.execVsel h o s
  | .vcvt h o => Sys2Proof.Machine.execVcvt h o s
  | .vquant h o => Sys2Proof.Machine.execVquant h o s
  | .vdeq h o => Sys2Proof.Machine.execVdeq h o s
  | .vexp2 h o => Sys2Proof.Machine.execVexp2 h o s
  | .vlog2 h o => Sys2Proof.Machine.execVlog2 h o s
  | .vrcp h o => Sys2Proof.Machine.execVrcp h o s
  | .vrsq h o => Sys2Proof.Machine.execVrsq h o s
  | .vtanh h o => Sys2Proof.Machine.execVtanh h o s
  | .vred h o => Sys2Proof.Machine.execVred h o s
  | .vscan h o => Sys2Proof.Machine.execVscan h o s
  | .vperm h o => Sys2Proof.Machine.execVperm h o s
  | .vbcast h o => Sys2Proof.Machine.execVbcast h o s
  | .vslide h o => Sys2Proof.Machine.execVslide h o s
  | .viadd h o => Sys2Proof.Machine.execViadd h o s
  | .visub h o => Sys2Proof.Machine.execVisub h o s
  | .vimul h o => Sys2Proof.Machine.execVimul h o s
  | .vimnx h o => Sys2Proof.Machine.execVimnx h o s
  | .vand h o => Sys2Proof.Machine.execVand h o s
  | .vor h o => Sys2Proof.Machine.execVor h o s
  | .vxor h o => Sys2Proof.Machine.execVxor h o s
  | .vshl h o => Sys2Proof.Machine.execVshl h o s
  | .vshr h o => Sys2Proof.Machine.execVshr h o s
  | .vmov h o => Sys2Proof.Machine.execVmov h o s
  | .viota h o => Sys2Proof.Machine.execViota h o s
  | .vextr h o => Sys2Proof.Machine.execVextr h o s
  | .vins h o => Sys2Proof.Machine.execVins h o s
  | .vcomp h o => Sys2Proof.Machine.execVcomp h o s
  | .vexpd h o => Sys2Proof.Machine.execVexpd h o s
  | .vpack h o => Sys2Proof.Machine.execVpack h o s
  | .vunpk h o => Sys2Proof.Machine.execVunpk h o s
  | .vclamp h o => Sys2Proof.Machine.execVclamp h o s
  | .vcprs h o => Sys2Proof.Machine.execVcprs h o s
  | .vosm h o => Sys2Proof.Machine.execVosm h o s
  | .vld h o => Sys2Proof.Machine.execVld h o s
  | .vst h o => Sys2Proof.Machine.execVst h o s
  | .vldx h o => Sys2Proof.Machine.execVldx h o s
  | .vstx h o => Sys2Proof.Machine.execVstx h o s
  | .vldb h o => Sys2Proof.Machine.execVldb h o s
  | .lds h o => Sys2Proof.Machine.execLds h o s
  | .sts h o => Sys2Proof.Machine.execSts h o s
  | .vldg h o => Sys2Proof.Machine.execVldg h o s
  | .vstg h o => Sys2Proof.Machine.execVstg h o s
  | .vgath h o => Sys2Proof.Machine.execVgath h o s
  | .vscat h o => Sys2Proof.Machine.execVscat h o s
  | .prfg h o => Sys2Proof.Machine.execPrfg h o s
  | .ld h o => Sys2Proof.Machine.execLd h o s
  | .st h o => Sys2Proof.Machine.execSt h o s
  | .atom h o => Sys2Proof.Machine.execAtom h o s
  | .redm h o => Sys2Proof.Machine.execRedm h o s
  | .vatom h o => Sys2Proof.Machine.execVatom h o s
  | .vredm h o => Sys2Proof.Machine.execVredm h o s
  | .waita h o => Sys2Proof.Machine.execWaita h o s
  | .fence h o => Sys2Proof.Machine.execFence h o s
  | .bind h o => Sys2Proof.Machine.execBind h o s
  | .unbind h o => Sys2Proof.Machine.execUnbind h o s
  | .cinv h o => Sys2Proof.Machine.execCinv h o s
  | .mzero h o => Sys2Proof.Machine.execMzero h o s
  | .mma h o => Sys2Proof.Machine.execMma h o s
  | .mld h o => Sys2Proof.Machine.execMld h o s
  | .mst h o => Sys2Proof.Machine.execMst h o s
  | .mldt h o => Sys2Proof.Machine.execMldt h o s
  | .lutmv h o => Sys2Proof.Machine.execLutmv h o s
  | .lutld h o => Sys2Proof.Machine.execLutld h o s
  | .macc h o => Sys2Proof.Machine.execMacc h o s
  | .mred h o => Sys2Proof.Machine.execMred h o s
  | .mrow h o => Sys2Proof.Machine.execMrow h o s
  | .copy h o => Sys2Proof.Machine.execCopy h o s
  | .copyt h o => Sys2Proof.Machine.execCopyt h o s
  | .fill h o => Sys2Proof.Machine.execFill h o s
  | .qcvt h o => Sys2Proof.Machine.execQcvt h o s
  | .plane h o => Sys2Proof.Machine.execPlane h o s
  | .pref h o => Sys2Proof.Machine.execPref h o s
  | .waitc h o => Sys2Proof.Machine.execWaitc h o s
  | .testc h o => Sys2Proof.Machine.execTestc h o s
  | .testcQ h o => Sys2Proof.Machine.execTestcQ h o s
  | .cset h o => Sys2Proof.Machine.execCset h o s
  | .edep h o => Sys2Proof.Machine.execEdep h o s
  | .fsend h o => Sys2Proof.Machine.execFsend h o s
  | .frecv h o => Sys2Proof.Machine.execFrecv h o s
  | .fcoll h o => Sys2Proof.Machine.execFcoll h o s
  | .enq h o => Sys2Proof.Machine.execEnq h o s
  | .deq h o => Sys2Proof.Machine.execDeq h o s
  | .rodinit h o => Sys2Proof.Machine.execRodinit h o s
  | .rodqry h o => Sys2Proof.Machine.execRodqry h o s
  | .rodclose h o => Sys2Proof.Machine.execRodclose h o s
  | .rodadmDrain h o => Sys2Proof.Machine.execRodadmDrain h o s
  | .rodadmReopen h o => Sys2Proof.Machine.execRodadmReopen h o s
  | .rodadmRepair h o => Sys2Proof.Machine.execRodadmRepair h o s
  | .rodadmRetire h o => Sys2Proof.Machine.execRodadmRetire h o s
  | .barW h o => Sys2Proof.Machine.execBarW h o s
  | .barArr h o => Sys2Proof.Machine.execBarArr h o s
  | .barWt h o => Sys2Proof.Machine.execBarWt h o s
  | .barInit h o => Sys2Proof.Machine.execBarInit h o s
  | .slinit h o => Sys2Proof.Machine.execSlinit h o s
  | .slacqRd h o => Sys2Proof.Machine.execSlacqRd h o s
  | .slacqWr h o => Sys2Proof.Machine.execSlacqWr h o s
  | .slpub h o => Sys2Proof.Machine.execSlpub h o s
  | .slrel h o => Sys2Proof.Machine.execSlrel h o s
  | .sqget h o => Sys2Proof.Machine.execSqget h o s
  | .sqaccQ h o => Sys2Proof.Machine.execSqaccQ h o s
  | .sqaccP h o => Sys2Proof.Machine.execSqaccP h o s
  | .sqcommit h o => Sys2Proof.Machine.execSqcommit h o s
  | .sqparkAdmit h o => Sys2Proof.Machine.execSqparkAdmit h o s
  | .sqparkImport h o => Sys2Proof.Machine.execSqparkImport h o s
  | .sqparkPark h o => Sys2Proof.Machine.execSqparkPark h o s
  | .sqparkAbort h o => Sys2Proof.Machine.execSqparkAbort h o s
  | .sqparkResume h o => Sys2Proof.Machine.execSqparkResume h o s
  | .sqparkMigout h o => Sys2Proof.Machine.execSqparkMigout h o s
  | .sqparkMigdone h o => Sys2Proof.Machine.execSqparkMigdone h o s
  | .sqparkMigabort h o => Sys2Proof.Machine.execSqparkMigabort h o s
  | .sqparkRetire h o => Sys2Proof.Machine.execSqparkRetire h o s
  | .sqparkPreempt h o => Sys2Proof.Machine.execSqparkPreempt h o s
  | .kvmap h o => Sys2Proof.Machine.execKvmap h o s
  | .kvunpin h o => Sys2Proof.Machine.execKvunpin h o s
  | .kvapp h o => Sys2Proof.Machine.execKvapp h o s
  | .pfxlk h o => Sys2Proof.Machine.execPfxlk h o s
  | .pfxins h o => Sys2Proof.Machine.execPfxins h o s
  | .pfxrel h o => Sys2Proof.Machine.execPfxrel h o s
  | .psel h o => Sys2Proof.Machine.execPsel h o s
  | .sample h o => Sys2Proof.Machine.execSample h o s
  | .rngdraw h o => Sys2Proof.Machine.execRngdraw h o s
  | .btinv h o => Sys2Proof.Machine.execBtinv h o s
  | .pfxadmInit h o => Sys2Proof.Machine.execPfxadmInit h o s
  | .pfxadmDemote h o => Sys2Proof.Machine.execPfxadmDemote h o s
  | .pfxadmPromote h o => Sys2Proof.Machine.execPfxadmPromote h o s
  | .pfxadmEvict h o => Sys2Proof.Machine.execPfxadmEvict h o s
  | .pfxadmFlush h o => Sys2Proof.Machine.execPfxadmFlush h o s
  | .mfc h o => Sys2Proof.Machine.execMfc h o s
  | .mtc h o => Sys2Proof.Machine.execMtc h o s
  | .eret h o => Sys2Proof.Machine.execEret h o s
  | .ctxsw h o => Sys2Proof.Machine.execCtxsw h o s
  | .ctxspill h o => Sys2Proof.Machine.execCtxspill h o s
  | .ctxspillKill h o => Sys2Proof.Machine.execCtxspillKill h o s
  | .ctxfill h o => Sys2Proof.Machine.execCtxfill h o s
  | .ctxfillResume h o => Sys2Proof.Machine.execCtxfillResume h o s
  | .waiti h o => Sys2Proof.Machine.execWaiti h o s
  | .tlbinvVa h o => Sys2Proof.Machine.execTlbinvVa h o s
  | .tlbinvAsid h o => Sys2Proof.Machine.execTlbinvAsid h o s
  | .tlbinvAll h o => Sys2Proof.Machine.execTlbinvAll h o s
  | .tlbinvBind h o => Sys2Proof.Machine.execTlbinvBind h o s
  | .tlbinvUnbind h o => Sys2Proof.Machine.execTlbinvUnbind h o s
  | .tlbinvInit h o => Sys2Proof.Machine.execTlbinvInit h o s
  | .migrMove h o => Sys2Proof.Machine.execMigrMove h o s
  | .migrCnt h o => Sys2Proof.Machine.execMigrCnt h o s
  | .migrRetry h o => Sys2Proof.Machine.execMigrRetry h o s
  | .migrInit h o => Sys2Proof.Machine.execMigrInit h o s
  | .monrdTemp h o => Sys2Proof.Machine.execMonrdTemp h o s
  | .monrdVolt h o => Sys2Proof.Machine.execMonrdVolt h o s
  | .monrdProc h o => Sys2Proof.Machine.execMonrdProc h o s
  | .monrdSlow h o => Sys2Proof.Machine.execMonrdSlow h o s
  | .monrdWear h o => Sys2Proof.Machine.execMonrdWear h o s
  | .monrdPlace h o => Sys2Proof.Machine.execMonrdPlace h o s
  | .monrdRev h o => Sys2Proof.Machine.execMonrdRev h o s
  | .overlayFillComplete => Sys2Proof.Machine.execOverlayFillComplete s
  | .engineCommandStart => Sys2Proof.Machine.execEngineCommandStart s
  | .relocSteal => Sys2Proof.Machine.execRelocSteal s
  | .engineCommandComplete => Sys2Proof.Machine.execEngineCommandComplete s
  | .engineTranslationFault => Sys2Proof.Machine.execEngineTranslationFault s
  | .fcollMemberReport => Sys2Proof.Machine.execFcollMemberReport s
  | .fcollDecision => Sys2Proof.Machine.execFcollDecision s
  | .fcollRtoExpiry => Sys2Proof.Machine.execFcollRtoExpiry s
  | .fcollHomeSilentExpiry => Sys2Proof.Machine.execFcollHomeSilentExpiry s
  | .rodCommit => Sys2Proof.Machine.execRodCommit s
  | .rodWaitCancel => Sys2Proof.Machine.execRodWaitCancel s
  | .waitTableRetry => Sys2Proof.Machine.execWaitTableRetry s
  | .commitComplete => Sys2Proof.Machine.execCommitComplete s
  | .completionRecordPost => Sys2Proof.Machine.execCompletionRecordPost s
  | .deferredBeadEnqueue => Sys2Proof.Machine.execDeferredBeadEnqueue s
  | .draftShareApply => Sys2Proof.Machine.execDraftShareApply s
  | .kvappEntryUpdate => Sys2Proof.Machine.execKvappEntryUpdate s
  | .btinvSignal => Sys2Proof.Machine.execBtinvSignal s
  | .timer => Sys2Proof.Machine.execTimer s
  | .laneDeadlock => Sys2Proof.Machine.execLaneDeadlock s
  | .contextFaultEnd => Sys2Proof.Machine.execContextFaultEnd s
  | .contextComplete => Sys2Proof.Machine.execContextComplete s
  | .placePoint => Sys2Proof.Machine.execPlacePoint s
  | .nestComplete => Sys2Proof.Machine.execNestComplete s
  | .launchNest => Sys2Proof.Machine.execLaunchNest s
  | .partcfg => Sys2Proof.Machine.execPartcfg s
  | .vifcfg => Sys2Proof.Machine.execVifcfg s
  | .groupcfgForm => Sys2Proof.Machine.execGroupcfgForm s
  | .groupcfgFree => Sys2Proof.Machine.execGroupcfgFree s
  | .groupFormed => Sys2Proof.Machine.execGroupFormed s
  | .groupFormTimeout => Sys2Proof.Machine.execGroupFormTimeout s
  | .bankSwap => Sys2Proof.Machine.execBankSwap s
  | .quantumExpiry => Sys2Proof.Machine.execQuantumExpiry s
  | .backgroundSpillDone => Sys2Proof.Machine.execBackgroundSpillDone s
  | .wakeNotice => Sys2Proof.Machine.execWakeNotice s
  | .wakeFallbackExpiry => Sys2Proof.Machine.execWakeFallbackExpiry s
  | .splitApply => Sys2Proof.Machine.execSplitApply s
  | .lwin => Sys2Proof.Machine.execLwin s
  | .cwin => Sys2Proof.Machine.execCwin s
  | .hostRegisterWrite => Sys2Proof.Machine.execHostRegisterWrite s
  | .functionReset => Sys2Proof.Machine.execFunctionReset s
  | .completionTimerExpiry => Sys2Proof.Machine.execCompletionTimerExpiry s
  | .atsInvalidation => Sys2Proof.Machine.execAtsInvalidation s
  | .pageRequestResponse => Sys2Proof.Machine.execPageRequestResponse s
  | .flitReplay => Sys2Proof.Machine.execFlitReplay s
  | .meshLinkFailure => Sys2Proof.Machine.execMeshLinkFailure s
  | .scaleoutLaneFailure => Sys2Proof.Machine.execScaleoutLaneFailure s
  | .vbusWireFault => Sys2Proof.Machine.execVbusWireFault s
  | .quiesce => Sys2Proof.Machine.execQuiesce s
  | .monitorSample => Sys2Proof.Machine.execMonitorSample s
  | .thermalCapStep => Sys2Proof.Machine.execThermalCapStep s
  | .powerSample => Sys2Proof.Machine.execPowerSample s
  | .wearFlush => Sys2Proof.Machine.execWearFlush s
  | .moduleReset => Sys2Proof.Machine.execModuleReset s
  | .bootStage => Sys2Proof.Machine.execBootStage s
  | .getVersion => Sys2Proof.Machine.execGetVersion s
  | .getCapabilities => Sys2Proof.Machine.execGetCapabilities s
  | .negotiateAlgorithms => Sys2Proof.Machine.execNegotiateAlgorithms s
  | .getDigests => Sys2Proof.Machine.execGetDigests s
  | .getCertificate => Sys2Proof.Machine.execGetCertificate s
  | .challenge => Sys2Proof.Machine.execChallenge s
  | .getMeasurements => Sys2Proof.Machine.execGetMeasurements s
  | .globalWritePerformed => Sys2Proof.Machine.execGlobalWritePerformed s
  | .accumulatorWriteLands => Sys2Proof.Machine.execAccumulatorWriteLands s
  | .hostMemoryWrite => Sys2Proof.Machine.execHostMemoryWrite s
  | .hostMemoryRead => Sys2Proof.Machine.execHostMemoryRead s
  | .hostDoorbell => Sys2Proof.Machine.execHostDoorbell s
  | .softError => Sys2Proof.Machine.execSoftError s
  | .powerLoss => Sys2Proof.Machine.execPowerLoss s
  | .orderlyShutdown => Sys2Proof.Machine.execOrderlyShutdown s

end Sys2Proof.Machine
end

