-- ==== Sys2Proof/Machine/Issue.lean ====
section
/-! DEFINITION. One step of a lane: skipping a word, issuing a bundle, and what every bundle does besides its
words (03_execution.md R60 to R66; 09_encoding.md R212). -/

namespace Sys2Proof.Machine

/-! ### Issuing -/

/-- The next step of an outcome. -/
def andThen (r : Res) (f : State → Res) : Res :=
  match r with
  | .next s => f s
  | .fault e => .fault e
  | .refused e => .refused e

/-- Executes word `j` of the bundle. -/
def runWord (s : State) (j : Nat) (i : Instr) : Res :=
  exec i { s with cur := { s.cur with slot := j, res := .ran } }

/-- What a lane reads while its bundle executes: the context as the bundle found it (R62). In-flight
writes are one bundle older for the bundles that follow (R67). -/
def prepare (s : State) (k : Nat) (l : Lane) (pc : Nat) : State :=
  let s1 := s.updLane k l (fun x => { x.age with skips := 0 })
  { s1 with cur := { ctx := k, lane := l, pc := pc, slot := 0, snap := some (s.ctx k), res := .ran, ev := s.cur.ev } }

/-- Time passes on the core: CYCLE, the bank's quantum, and ITTIMER, whose last cycle is the TIMER event
(R360, R404; log 26). -/
def tick (s : State) (k : Nat) : State :=
  let (n, s1) := s.free 20
  let d := 1 + n
  let c := s1.ctx k
  let t := c.ctrl.ittimer.toNat
  let s2 := s1.updCore c.core (fun x => { x with cycle := x.cycle + BitVec.ofNat 64 d })
  let s3 := s2.updCtx k (fun c => { c with
    quantum := c.quantum + d
    ctrl := { c.ctrl with ittimer := BitVec.ofNat 32 (if t = 0 then 0 else max 1 (t - d)) } })
  if 0 < t ∧ t ≤ d then
    { s3 with agenda := .event .timer ⟨k, .L, 0, 0, 0, [], []⟩ :: s3.agenda }
  else s3

/-- A bundle of `n` words has issued: LCNT, ITCOUNT, the skid, and time (R65, R360, R371). -/
def countBundle (s : State) (k : Nat) (l : Lane) (n : Nat) : State :=
  tick (s.updCtx k (fun c =>
    let c1 := c.updLane l (fun x => { x with lcnt := (x.lcnt + n) % 2 ^ 64, ahead := [] })
    { c1 with
      fatal := c1.fatal.map (fun f => f.spend l n)
      ctrl := { c1.ctrl with itcount := c1.ctrl.itcount + 1 } })) k

/-- The words that a bundle issues: all of them, or the one that is reissued (R365). -/
def selectWords (is : List Instr) (only : Option Nat) : List (Nat × Instr) :=
  match only with
  | none => is.zipIdx.map (fun p => (p.2, p.1))
  | some j => (is.zipIdx.map (fun p => (p.2, p.1))).filter (fun p => p.1 == j)

/-- Executes each word in order but that of the M slot, `m`, which has executed before them; pops its
tokens, and lets it give its own unless it has parked (R63, R365). -/
def runRest (k : Nat) (l : Lane) (only : Option Nat) (m : Option Nat) (parked : Bool) : List (Nat × Instr) → State → Res
  | [], s => .next s
  | (j, i) :: ws, s =>
    andThen (if m = some j then .next s else runWord s j i) (fun t =>
      let t1 := if only.isSome then t else popTokens t k l i
      runRest k l only m parked ws (if m = some j ∧ parked then t1 else giveTokens t1 k l i))

/-- The scalar registers as the word `w` reads them: its fields [38:33], [32:27] and [26:21] are the operands
1 to 3 of a word that can park. -/
def readSources (s : State) (w : Nat) : Vector Word 32 :=
  [(1, 33), (2, 27), (3, 21)].foldl (fun v f =>
    let r := bits w f.2 6
    if r < 32 then v.setIfInBounds r (s.srcS f.1 (BitVec.ofNat 6 r)) else v) (s.snap.lane s.cur.lane).s

/-- The lane goes on after its bundle, as the M-slot or lone word left it; `rs` are the registers that this
word read. -/
def settleLane (s : State) (k : Nat) (l : Lane) (pc n : Nat) (m : Option (Nat × Instr)) (rs : Vector Word 32) :
    Issued → State
  | .parked =>
    match m with
    | some (j, i) => s.updLane k l (fun x => { x with
        pc := pc, rslot := none, parked := some ⟨pc, j, n, i, s.isRetrying k l, rs⟩ })
    | none => s
  | .redirected =>
    let levels := (s.nest (s.ctx k).nest).levels
    s.updCtx k (fun c => if (c.lane l).ended then c else (c.updLane l (fun x => { x with rslot := none })).endCheck levels l pc pc)
  | .late code detail addr =>
    let c : Cause := if code = 0x13 then .tfAbsent else if code = 0x14 then .tfProt else .tfNoncanon
    takeTrap (s.updLane k l (fun x => { x with pc := pc, rslot := m.map (·.1) })) k c (laneCode l) detail addr
  | _ => s.advance k l pc n

/-- The end of a bundle: counts, the entries that its words give, and the lane's next place. -/
def finishBundle (s : State) (k : Nat) (l : Lane) (pc : Nat) (is : List Instr) (only : Option Nat)
    (m : Option (Nat × Instr)) (rs : Vector Word 32) (r : Issued) : State :=
  let s1 := if only.isSome then s else countBundle s k l is.length
  let s2 := s1.updCtx k (fun c => c.settleGives l)
  settleLane (if r = .parked then s2 else s2.unwait k l) k l pc is.length m rs r

/-- The word has not retired with its bundle: it has parked, or stopped part of the way (R328). -/
def Issued.staysOpen : Issued → Bool
  | .parked => true
  | .late _ _ _ => true
  | _ => false

/-- The word of a bundle that executes first: that of the M slot, or a lone lane-A word. -/
def memWord (ws : List Word) (only : Option Nat) (is : List Instr) : Option (Nat × Instr) :=
  (selectWords is only).find? (fun p => decide (2 ≤ slotOf (ws.getD p.1 0)))

/-- What executing the first word leads to: `base` is the state to keep if the bundle cannot issue. -/
def afterMem (base : State) (k : Nat) (l : Lane) (pc : Nat) (is : List Instr) (only : Option Nat)
    (m : Nat × Instr) (rs : Vector Word 32) (t : State) : Res :=
  match t.cur.res with
  | .stalled => .next (keepTranslations base t)
  | .trapped => .next (t.updLane k l (fun x => { x with joined := (base.lane k l).joined }))
  | .met => .next t
  | r =>
    andThen (runRest k l only (some m.1) r.staysOpen (selectWords is only) t) (fun u =>
      .next (finishBundle u k l pc is only (some m) rs r))

/-- CHECK_MISMATCH: the pair differs at the retire of the bundle at `pc`, in an item of R373. Both cores stop at
once and nothing of the bundle leaves them; the pair is marked suspect, and the event counted (R440, R441). -/
def checkMismatch (s : State) (k : Nat) (l : Lane) (pc item : Nat) : State :=
  let c := s.ctx k
  let s1 := bumpWear s (dieOfCore c.core) (0x800 + c.core % 64) 1
  let s2 := { s1 with module := { s1.module with
    suspect := s1.module.suspect ||| BitVec.ofNat 512 (2 ^ (c.core / 128 * 64 + c.core % 64)) } }
  if c.fatal.isSome then s2.updCtx k (fun x => { x with fatal := some ⟨0, 0, 0⟩ })
  else s2.updCtx k (fun x => { x with
    fatal := some ⟨0, 0, 0⟩
    mirrorDiff := none
    ctrl := { x.ctrl with
      cause := causeWord .checkMismatch (laneCode l) true
      finfo := finfoWord (item + 256 * laneCode l) (some pc) none
      faddr := 0 } })

/-- The pair that runs a CHECKED context differs (R81). -/
def Ctx.differs (c : Ctx) : Option Nat := if c.ctrl.chk then c.mirrorDiff else none

/-- Issues a decoded bundle, or reissues one word of it. -/
def issueBundle (s : State) (k : Nat) (l : Lane) (pc : Nat) (ws : List Word) (is : List Instr)
    (only : Option Nat) : Res :=
  let s1 := prepare s k l pc
  match (s.ctx k).differs with
  | some item => .next (checkMismatch s k l pc item)
  | none =>
  match memWord ws only is with
  | some m =>
    let rs := readSources { s1 with cur := { s1.cur with slot := m.1 } } (ws.getD m.1 0).toNat
    let s2 := if only.isSome then s1 else s1.updCtx k (fun c => c.seeTokens l is)
    andThen (runWord s2 m.1 m.2) (afterMem s k l pc is only m rs)
  | none =>
    andThen (runRest k l only none false (selectWords is only) s1) (fun u =>
      .next (finishBundle u k l pc is only none (s.lane k l).s .ran))

/-! ### A lane's step -/

/-- The lane traps at its bundle before anything issues. -/
def trapAt (s : State) (k : Nat) (l : Lane) (c : Cause) (detail : Nat) (addr : Word) : State :=
  takeTrap s k c (laneCode l) detail addr

/-- The bundle at the lane's PC has been read and is legal: the window, the tokens, and then it issues
(R63, R65). -/
def tryIssue (s : State) (k : Nat) (l : Lane) (pc : Nat) (ws : List Word) (is : List Instr) : Res :=
  let c := s.ctx k
  if !slipAllows c (seenNow s k l 0x018).toNat l is.length ∨ !tokensReady c l is ∨ !skidAllows c l is.length then .next s
  else issueBundle s k l pc ws is none

/-- The lane's bundle at `pc`, which begins with `w`: read, decoded, and issued. -/
def stepBundle (s : State) (k : Nat) (l : Lane) (pc : Nat) (w : Word) (only : Option Nat) : Res :=
  match readBundle s k pc w with
  | .invalid p => .next (trapAt s k l .overlayInvalid 0 (BitVec.ofNat 64 p))
  | .wait t => .next t
  | .words ws =>
    match decodeBundle pc ws with
    | .error (r, j) => .next (trapAt s k l .illegal (r + 16 * j) 0)
    | .ok is =>
      match only with
      | none => tryIssue s k l pc ws is
      | some _ => issueBundle s k l pc ws is only

/-- The lane fetches at its PC: it skips a word of another lane, issues its bundle, or reissues one
word of it (R60, R104, R365). -/
def stepFetch (s : State) (k : Nat) (l : Lane) : Res :=
  let x := s.lane k l
  match fetchWord s k x.pc with
  | .invalid p => .next (trapAt s k l .overlayInvalid 0 (BitVec.ofNat 64 p))
  | .wait t => .next t
  | .word w =>
    if wordLane w = .A ∨ wordLane w = laneField l then
      match x.rslot with
      | some _ => stepBundle ((s.unwake k l).updLane k l (fun y => { y with dormant := false })) k l x.pc w x.rslot
      | none => stepBundle s k l x.pc w none
    else .next (skipWord s k l x.pc)

/-- A parked instruction tries again; it stays parked if it cannot proceed. -/
def stepParked (s : State) (k : Nat) (l : Lane) (p : Parked) : Res :=
  let s0 := s.updLane k l (fun x => { x with parked := none, pc := p.pc, rslot := some p.slot })
  let s1 := prepare s0 k l p.pc
  let s2 := { s1 with cur := { s1.cur with snap := some (parkedSnap (s.ctx k) l p) } }
  andThen (runWord s2 p.slot p.instr) (fun t =>
    match t.cur.res with
    | .stalled => .next (keepTranslations s t)
    | .parked => .next (t.updLane k l (fun x => { x with
        pc := p.pc, rslot := none, parked := some { p with retry := t.isRetrying k l } }))
    | .ran => .next (((t.updLane k l (fun x => { x with parked := some p, rslot := none })).unwait k l).finishParked k l)
    | _ => .next (t.unwait k l))

/-! ### Operand rows of matrix words (R293) -/

/-- The matrix words that read the scratchpad. -/
def readsOperands : Instr → Bool
  | .mma _ _ => true
  | .mld _ _ => true
  | .mldt _ _ => true
  | .lutld _ _ => true
  | .lutmv _ _ => true
  | _ => false

/-- The bundle that lane C is to issue, if a word of it reads operands. -/
def matrixBundle (s : State) (k : Nat) : Option (List Word × List Instr) :=
  let x := s.lane k .C
  if laneRuns s k .C && x.parked.isNone && x.rslot.isNone && ((s.ctx k).queues .C).gives.isEmpty then
    match fetchWord s k x.pc with
    | .word w =>
      match (if wordLane w = .C then readBundle s k x.pc w else .wait s) with
      | .words ws =>
        match decodeBundle x.pc ws with
        | .ok is => if is.any readsOperands then some (ws, is) else none
        | .error _ => none
      | _ => none
    | _ => none
  else none

/-- One row of the own share is read now for the matrix word that lane C is about to retire: the word has issued, for
nothing holds it back. A row that is not an operand makes no difference. -/
def readAhead (s : State) (k : Nat) : State :=
  match matrixBundle s k with
  | none => s
  | some (ws, is) =>
    let pc := (s.lane k .C).pc
    match tryIssue s k .C pc ws is with
    | .next t =>
      if (t.lane k .C).lcnt = (s.lane k .C).lcnt then s
      else
        let (n, s1) := s.free 202
        let s2 := { s1 with cur := { s1.cur with ctx := k, lane := .C } }
        match s2.ownSpan s2.me (n / 64 * 64 % (4 * bankShare (s2.core s2.myCore) s2.me.bank)) 64 with
        | none => s
        | some locs =>
          match (spadReadBy 64 locs).run.run s2 with
          | (.ok bs, u) => u.updLane k .C (fun x => { x with
              ahead := x.ahead ++ (locs.zip bs).filter (fun b => x.ahead.all (fun e => e.1 != b.1)) })
          | _ => s
    | _ => s

/-- One step of a lane. -/
def laneStep (s : State) (k : Nat) (l : Lane) : Res :=
  if !laneRuns s k l then .next s
  else
    let s1 := s.updCtx k (fun c => c.settleGives l)
    if !((s1.ctx k).queues l).gives.isEmpty then .next s1
    else match (s1.lane k l).parked with
      | some p => stepParked s1 k l p
      | none => stepFetch s1 k l

end Sys2Proof.Machine
end

