-- ==== Sys2Proof/Machine/Agenda.lean ====
section
/-! DEFINITION. Who moves next (log 1): the head of the agenda, else a free choice among the lanes that
may run and the events that the device itself can bring about. -/

namespace Sys2Proof.Machine

/-- An event with a context, lane and number. -/
def evOf (ctx : Nat) (lane : Lane) (num a b : Nat) : Ev := ⟨ctx, lane, num, a, b, [], []⟩

/-- Lanes that may take a step. -/
def laneAgents (s : State) : List Agent :=
  s.ctxs.flatMap (fun kc => (lanes.filter (fun l => laneRuns s kc.1 l)).map (fun l => .lane kc.1 l)
    ++ (if (matrixBundle s kc.1).isSome then [.readAhead kc.1] else []))

/-- Events of cores: fills, pending writes, pending accumulator writes, bank swaps, SPLIT. -/
def coreAgents (s : State) : List Agent :=
  s.cores.flatMap (fun kc =>
    (if kc.2.slot0.full then [] else [.event .overlayFillComplete (evOf 0 .L 0 kc.1 0)])
    ++ (if kc.2.slot1.full then [] else [.event .overlayFillComplete (evOf 0 .L 0 kc.1 1)])
    ++ kc.2.wpath.map (fun e => .event .globalWritePerformed (evOf 0 .L 0 kc.1 e.id))
    ++ (if kc.2.accq.isEmpty then [] else [.event .accumulatorWriteLands (evOf 0 .L 0 kc.1 0)])
    ++ (if kc.2.pend = 0 then [] else [.event .splitApply (evOf 0 .L 0 kc.1 0)])
    ++ (if (kc.2.bankCtx kc.2.other).isSome then
          [.event .bankSwap (evOf 0 .L 0 kc.1 0), .event .quantumExpiry (evOf 0 .L 0 kc.1 0)]
        else []))

/-- Events of engine commands. -/
def commandAgents (s : State) : List Agent :=
  s.cmds.flatMap (fun c =>
    [.event .engineCommandStart (evOf c.ctx c.lane c.num.toNat 0 0),
     .event .engineCommandComplete (evOf c.ctx c.lane c.num.toNat 0 0),
     .event .engineTranslationFault (evOf c.ctx c.lane c.num.toNat 0 0),
     .event .kvappEntryUpdate (evOf c.ctx c.lane c.num.toNat 0 0),
     .event .relocSteal (evOf c.ctx c.lane c.num.toNat 0 0)]
    ++ (if c.phase == .held && c.reportDue then [.event .waitTableRetry (evOf c.ctx c.lane c.num.toNat 0 0)] else []))

/-- Events of waits: commits of reserved slots, retries, wake notices. -/
def waitAgents (s : State) : List Agent :=
  s.waiters.flatMap (fun q =>
    match q.kind with
    | .commit _ => [.event .rodCommit (evOf 0 .L 0 q.obj 0)]
    | .retry => [.event .waitTableRetry (evOf q.ctx q.lane 0 0 0)]
    | .wake => [.event .wakeNotice (evOf q.ctx q.lane 0 0 0)]
    | _ => [])
  ++ s.signals.map (fun b => .event .btinvSignal (evOf 0 .L 0 b.table b.asid.toNat))
  ++ s.ctxs.flatMap (fun kc => (lanes.filter (fun l => (kc.2.lane l).dormant)).map
      (fun l => .event .wakeFallbackExpiry (evOf kc.1 l 0 0 0)))

/-- Events of contexts and nests. -/
def contextAgents (s : State) : List Agent :=
  s.ctxs.flatMap (fun kc =>
    (if kc.2.res == .gone then [] else
      [.event .contextComplete (evOf kc.1 .L 0 0 0)]
      ++ (if kc.2.fatal.isSome then [.event .contextFaultEnd (evOf kc.1 .L 0 0 0)] else [])
      ++ (if kc.2.image = 0 then [.event .backgroundSpillDone (evOf kc.1 .L 0 0 0)] else [])
      ++ (if kc.2.reportDue then [.event .waitTableRetry (evOf kc.1 .L 0 0 0)] else [])
      ++ (if kc.2.ctrl.ittimer = 0 then [] else [.event .timer (evOf kc.1 .L 0 0 0)])
      ++ [.event .laneDeadlock (evOf kc.1 .L 0 0 0)]))
  ++ s.nests.flatMap (fun kn =>
    if kn.2.complete then [] else [.event .nestComplete (evOf 0 .L 0 kn.1 0)])

/-- Events of the dies: placement, sequences, completion records. -/
def dieAgents (s : State) : List Agent :=
  (List.range 16).map (fun d => .event .placePoint (evOf 0 .L 0 d 0))
  ++ s.dies.flatMap (fun kd =>
    kd.2.seqs.map (fun q => .event .commitComplete (evOf 0 .L 0 kd.1 q.seq))
    ++ [.event .draftShareApply (evOf 0 .L 0 kd.1 0)]
    ++ (if kd.2.gathered.isEmpty then [] else [.event .completionRecordPost (evOf 0 .L 0 kd.1 0)])
    ++ (if kd.2.deferred.isEmpty then [] else [.event .deferredBeadEnqueue (evOf 0 .L 0 kd.1 0)]))

/-- Events of interfaces: their launch beads. -/
def hostAgents (s : State) : List Agent :=
  s.vifs.flatMap (fun kv =>
    if kv.2.valid then
      [.event .launchNest (evOf 0 .L 0 kv.1 0), .event .partcfg (evOf 0 .L 0 kv.1 0),
       .event .vifcfg (evOf 0 .L 0 kv.1 0), .event .groupcfgForm (evOf 0 .L 0 kv.1 0),
       .event .groupcfgFree (evOf 0 .L 0 kv.1 0)]
    else [])

/-- Events of groups: this module's report and the decision. -/
def groupAgents (s : State) : List Agent :=
  s.groups.flatMap (fun kg =>
    if kg.2.st == .formed then
      [.event .fcollMemberReport (evOf 0 .L 0 kg.1 kg.2.rank), .event .fcollDecision (evOf 0 .L 0 kg.1 0)]
    else [])

/-- Dies on which a point can be placed now: a point is placed when it can be (R402). -/
def placingDies (s : State) : List Nat :=
  if s.nests.isEmpty || !s.walking then [] else (List.range 16).filter (canPlace s)

/-- Dies whose iteration boundary has come with a share or a BMAX to apply (R19, R407). -/
def sharingDies (s : State) : List Nat :=
  (List.range 16).filter (fun d =>
    match partOfDie s d with
    | some p => pendingShare s d p && atBoundary s d p
    | none => false)

/-- What comes about before anything else moves: a SPLIT that can take effect does (R85), a die's pending share is applied
at its boundary (R19), and a point that can be placed is (R402). -/
def urgent (s : State) : Option Agent :=
  match (s.cores.map (·.1)).find? (splitDue s), sharingDies s, placingDies s with
  | some c, _, _ => some (.event .splitApply (evOf 0 .L 0 c 0))
  | none, d :: _, _ => some (.event .draftShareApply (evOf 0 .L 0 d 0))
  | none, [], d :: _ => some (.event .placePoint (evOf 0 .L 0 d 0))
  | none, [], [] => none

/-- What may move by itself. Before the device is ready that includes the next boot stage (R435). -/
def candidates (s : State) : List Agent :=
  (if s.module.stage < 6 ∧ !s.module.fail ∧ !s.module.ready then [.event .bootStage (evOf 0 .L 0 0 0)] else [])
  ++ laneAgents s ++ coreAgents s ++ commandAgents s ++ waitAgents s ++ contextAgents s
  ++ (if s.module.ready then dieAgents s ++ hostAgents s ++ groupAgents s else [])

/-- The next to move, and the agenda and free values that are left. -/
def nextAgent (s : State) : Option Agent × State :=
  match s.agenda with
  | a :: as => (some a, { s with agenda := as })
  | [] =>
    match urgent s with
    | some a => (some a, s)
    | none =>
      match candidates s with
      | [] => (none, s)
      | [a] => (some a, s)
      | as =>
        let (n, t) := s.free 0
        (as[n % as.length]?, t)

/-- What every step does at its end: migration hints of the dies (R392), save areas that go back (R400), launch records
and completion records that find room (R197, R401), and what contexts that have ended leave at block tables, page moves and
sequences (R166, R169, R394, R409). -/
def afterStep (s : State) : State :=
  let s1 := s.dies.foldl (fun t kd => flushAreas (flushHints t kd.1) kd.1) s
  let s2 := s1.vifs.foldl (fun t kv => flushRecord t kv.1) s1
  settleMoves (payDebts (settleHeld (settlePosts s2)))

/-- The agent that a powered-off module still obeys (R444). -/
def isReset : Agent → Bool
  | .event .moduleReset _ => true
  | _ => false

/-! ### Placing a word to be fetched (log 2) -/

/-- The lane that issues a word: its own; for a word of lane A the owner of its outcome, else lane L. -/
def laneFor (w : Nat) : Lane :=
  match laneOfBits (bits w 62 2) with
  | .L => .L
  | .C => .C
  | .S => .S
  | .A =>
    match bits w 49 8, bits w 37 2 with
    | 0x02, 2 | 0x03, 2 | 0x05, 2 => .C
    | 0x02, 3 | 0x03, 3 | 0x05, 3 => .S
    | _, _ => .L

/-- Opcodes of meeting points (R226, R367). -/
def isMeetingWord (w : Nat) : Bool :=
  bits w 62 2 == 0 && [0x08, 0x0A, 0x0B, 0x0D, 0xE2, 0xE3, 0xE8].contains (bits w 49 8)

/-- A lane at PC 0, free to issue. -/
def LaneSt.atZero (x : LaneSt) (met : Bool) : LaneSt :=
  { x with pc := 0, ended := false, arrived := met, parked := none, rslot := none, lcnt := 0 }

/-- Entries for the pops of a word. -/
def withTokens (q : LaneQ) (w : Nat) : LaneQ :=
  let t : Tok := ⟨false, 0, []⟩
  { q with
    fromL := (if bits w 60 1 = 1 then [t] else []) ++ (if bits w 49 8 = 0x49 then [t] else []) ++ q.fromL
    fromR := (if bits w 59 1 = 1 then [t] else []) ++ (if bits w 49 8 = 0x49 then [t] else []) ++ q.fromR
    gives := [] }

/-- The context that is to run the word alone in slot 0 of core 0. -/
def Ctx.toRun (c : Ctx) (w : Nat) : Ctx :=
  let l := laneFor w
  let m := isMeetingWord w
  let c1 : Ctx := { c with
    core := 0, bank := 0, res := .resident, fatal := none, ovlWait := []
    ovl0 := ⟨.valid, 0, 1⟩
    laneL := c.laneL.atZero (m && l != .L)
    laneC := c.laneC.atZero (m && l != .C)
    laneS := c.laneS.atZero (m && l != .S)
    ctrl := { c.ctrl with prv := true } }
  c1.setQueues l (withTokens (c1.queues l) w)

/-- A word placed so that the next step issues it: a context that a launch would have placed on core
0, with the word as its whole image. -/
def placeWord (s : State) (w : Nat) : State :=
  let c := (s.ctx 0).toRun w
  { s with
    ctxs := kvPut s.ctxs 0 c
    cores := kvPut s.cores 0 { s.core 0 with
      bank0 := some 0, active := 0, spill0 := none
      slot0 := ⟨c.ctrl.asid, 0, 1, [BitVec.ofNat 64 w], true, false⟩ }
    nextSer := max s.nextSer 1
    module := { s.module with powered := true }
    agenda := [.lane 0 (laneFor w)] }

end Sys2Proof.Machine
end

