-- ==== Sys2Proof/Machine/Step.lean ====
section
/-! DEFINITION. One step of the module, and how a word is put where the next step fetches it. -/

namespace Sys2Proof.Machine

/-- What an agent does. -/
def runAgent (s : State) : Agent → Host.Outcome State Fault Refusal
  | .lane k l => laneStep s k l
  | .readAhead k => .next (readAhead s k)
  | .event i e => exec i { s with cur := { Issue.idle with ev := e } }

/-- The end of a step that began with memory `m`: its writes become memory. -/
def closeStep (m : List Host.Cell) (t : State) : State :=
  let u := afterStep t
  { u with mem := commitMem m u.wlog, wlog := [], cur := Issue.idle }

/-- One step. A module that is powered off only obeys a module reset (R444). -/
def step (s : State) : Host.Outcome State Fault Refusal :=
  match nextAgent s with
  | (none, t) => if s.module.powered then .next (closeStep s.mem t) else .fault .moduleOff
  | (some a, t) =>
    if s.module.powered || isReset a then
      match runAgent t a with
      | .next u => .next (closeStep s.mem u)
      | .fault e => .fault e
      | .refused e => .refused e
    else .fault .moduleOff

/-- A word where the next step fetches its instruction (log 2). -/
def State.withFetchWord (s : State) (nbits w : Nat) : State := placeWord s (w % 2 ^ nbits % 2 ^ 64)

end Sys2Proof.Machine
end

