-- ==== Sys2Proof/Safety.lean ====
section
/-! DEFINITION. What counts as a safe run, and the words in which claims speak of an access: between two
steps memory has its canonical form, no write is left uncommitted and no word is being executed. -/

namespace Sys2Proof.Machine

/-- Holds between any two steps. -/
def State.Inv (s : State) : Prop :=
  Memory.wf s.mem = true ∧ s.wlog = [] ∧ s.cur = Issue.idle

/-- A step that goes on. -/
def StepsTo (s t : State) : Prop := step s = .next t

/-! ### What a claim says of an access -/

/-- Every element of a scratchpad access reaches the locations that `at_` gives for its address, one list for
each target, and nothing hinders it. -/
def SpadReach (s : State) (write : Bool) (n : Nat) (es : List (Nat × Nat)) (at_ : Nat → List (List Nat)) : Prop :=
  ∀ e ∈ es, s.spadSpan s.me e.2 n write = some (at_ e.2)
    ∧ s.boardHit s.cur.ctx (at_ e.2).flatten = false
    ∧ (write = false → s.poisoned (at_ e.2).flatten = none)
    ∧ (at_ e.2).flatten.Nodup

/-- The bytes that elements store, in ascending order of elements, stand at their locations; every byte at
another location is as before. -/
def Stored (s t : State) (n : Nat) (es : List (Nat × Nat)) (at_ : Nat → List (List Nat)) (data : Nat → Nat) : Prop :=
  (∀ pre e post, es = pre ++ e :: post → ∀ locs ∈ at_ e.2, ∀ i, i < n →
      (∀ e' ∈ post, locs.getD i 0 ∉ (at_ e'.2).flatten) →
      t.byteAt (locs.getD i 0) = BitVec.ofNat 8 (data e.1 / 256 ^ i))
  ∧ (∀ a, (∀ e ∈ es, a ∉ (at_ e.2).flatten) → t.byteAt a = s.byteAt a)

/-- Every byte of every storage is as before. -/
def SameBytes (s t : State) : Prop := ∀ a, t.byteAt a = s.byteAt a

/-- The issuing context's lanes stand where they stood, with the same scalar registers. -/
def SameLanes (s t : State) : Prop :=
  t.cur.ctx = s.cur.ctx ∧ t.cur.lane = s.cur.lane ∧ (∀ k, k ≠ s.cur.ctx → t.ctx k = s.ctx k)
    ∧ ∀ l, (t.me.lane l).s = (s.me.lane l).s ∧ (t.me.lane l).pc = (s.me.lane l).pc

/-- No f, v or p register, accumulator or control register of the issuing context has changed. -/
def SameFiles (s t : State) : Prop :=
  t.me.f = s.me.f ∧ t.me.v = s.me.v ∧ t.me.p = s.me.p ∧ t.me.acc = s.me.acc ∧ t.me.ctrl = s.me.ctrl

/-- The issuing lane's scalar register `d` holds `v`, unless it is s0; its other registers, and the registers of
the other lanes, are as before. -/
def Wrote (s t : State) (d : BitVec 6) (v : Word) : Prop :=
  t.cur.ctx = s.cur.ctx ∧ t.cur.lane = s.cur.lane
    ∧ t.myLane.s = (if d = 0 then s.myLane.s else s.myLane.s.setIfInBounds d.toNat v)
    ∧ ∀ l, l ≠ s.cur.lane → (t.me.lane l).s = (s.me.lane l).s

/-- For whoever `w` stands, the address translates with nothing cached anew, and no walk for it meets an error. -/
def Sees (s : State) (w : Who) (write : Bool) (va : Nat) (x : Xlat) : Prop :=
  s.translate (dieOfCore w.core) w.asid w.priv write va = (.ok x, s)
    ∧ ((s.tlbHits (dieOfCore w.core) w.asid va).isEmpty = true → s.walkError w.asid va = none)

/-- The `n` bytes at `va` translate for the issuing lane, to pages that `ok` admits; `at_` gives the location of
each. -/
def MemReach (s : State) (write : Bool) (ok : Xlat → Bool) (va n : Nat) (at_ : Nat → Nat) : Prop :=
  ∀ p ∈ pieces va n, ∃ x, Sees s s.who write p.1 x ∧ ok x = true
    ∧ x.loc % 64 = p.1 % 64 ∧ ∀ i, i < p.2 → at_ (p.1 + i) = x.loc + i

/-- The core has no write pending, and no other comes before an operation by it at a home (R128, R135). -/
def NoneFirst (s : State) (core : Nat) : Prop :=
  (s.core core).wpath = [] ∧ ∀ loc n, dueWrites (s.firstAt core loc n) s.pendings = []

/-- As `s` in everything that a translation looks at, but for the bytes at the locations `but`. -/
def SameWalks (s u : State) (but : Nat → Prop) : Prop :=
  (∀ a, ¬ but a → u.byteAt a = s.byteAt a) ∧ u.tlb = s.tlb ∧ u.walks = s.walks ∧ u.asidTable = s.asidTable
    ∧ u.aperBase = s.aperBase ∧ u.aperSize = s.aperSize ∧ ∀ p ∈ u.poison, p ∈ s.poison

/-- As `MemReach` for one aligned operand, and whatever the bytes at the locations `but` hold. -/
def FirmReach (s : State) (ok : Xlat → Bool) (va : Nat) (at_ : Nat → Nat) (but : Nat → Prop) : Prop :=
  ∃ x, (∀ u, SameWalks s u but → Sees u s.who true va x) ∧ ok x = true ∧ x.loc = at_ va

/-- Any page serves. -/
def anyPage (_ : Xlat) : Bool := true

/-- A page whose home performs an atomic operation; `hostToo` when the operation is one that the host performs. -/
def atomicPage (hostToo : Bool) (x : Xlat) : Bool := !x.mg && (!x.host || hostToo)

/-- No write is pending that the core of the issuing context would see or wait for, and every copy that it or its
die holds is the line at the home. -/
def Quiet (s : State) : Prop :=
  NoneFirst s s.me.core
    ∧ ∀ line d, (copyFor (s.core s.me.core).l1 line = some d ∨ copyFor (s.die s.myDie).rdc line = some d) →
        d = s.homeLine line

/-- No line that holds one of the bytes has an uncorrectable error. -/
def Clean (s : State) (va n : Nat) (at_ : Nat → Nat) : Prop :=
  ∀ i, i < n → s.poisoned [at_ (va + i)] = none

/-- The number that `n` bytes at `va` hold at their home. -/
def State.homeValue (s : State) (at_ : Nat → Nat) (va n : Nat) : Nat :=
  leNat ((List.range n).map (fun i => s.byteAt (at_ (va + i))))

/-- Atomic operations one after another: the old values, and every byte afterwards. -/
def atomFold (aop n cmp : Nat) (at_ : Nat → Nat) (data : Nat → Nat) :
    List (Nat × Nat) → (Nat → Byte) → List (Nat × Nat) × (Nat → Byte)
  | [], m => ([], m)
  | (j, a) :: es, m =>
    let old := leNat ((List.range n).map (fun i => m (at_ a + i)))
    let new := aopNew aop (8 * n) old (data j) cmp
    let m1 : Nat → Byte := fun x =>
      if at_ a ≤ x ∧ x < at_ a + n ∧ ¬(aop = 12 ∧ old ≠ cmp) then BitVec.ofNat 8 (new / 256 ^ (x - at_ a)) else m x
    let r := atomFold aop n cmp at_ data es m1
    ((j, old) :: r.1, r.2)

/-- Bytes at addresses of the own share, with their locations; nothing hinders an access to them. -/
def OwnReach (s : State) (addrs : List Nat) (at_ : Nat → Nat) : Prop :=
  (∀ a ∈ addrs, s.shareLoc s.me a = some (at_ a)) ∧ s.boardHit s.cur.ctx (addrs.map at_) = false
    ∧ s.poisoned (addrs.map at_) = none

/-- A byte of an operand row as the matrix word that now retires has it: read before, or at this moment (R293). -/
def State.operand (s : State) (a : Nat) : Byte :=
  ((s.myLane.ahead.find? (fun e => e.1 == a)).map (·.2)).getD (s.byteAt a)

/-- No write of the accumulator is pending, and one more may be. -/
def AccReady (s : State) (acc : Nat) : Prop :=
  s.accPending acc = false ∧ (s.core s.myCore).accq.length < 4

/-- One more pending write of an accumulator of the issuing context. -/
def pendAcc (s : State) (acc : Nat) (v : AccWord) : State :=
  s.updCore s.myCore (fun c => { c with accq := c.accq ++ [⟨s.cur.ctx, acc, v⟩] })

/-- A completion counter, or a wait on one, reaches its eight bytes. -/
def CounterAt (s : State) (sp write : Bool) (a loc : Nat) : Prop :=
  a % 8 = 0 ∧ s.poisoned ((List.range 8).map (loc + ·)) = none
    ∧ (if sp = true then s.spadSpan s.me a 8 false = some [(List.range 8).map (loc + ·)] ∧ s.scratchPending = []
        ∧ s.boardHit s.cur.ctx ((List.range 8).map (loc + ·)) = false
      else NoneFirst s s.me.core
        ∧ ∃ x, Sees s s.who write a x ∧ x.loc = loc ∧ x.mg = false ∧ x.host = false)

/-- No page move under way has the control block at a location in the frame that it copies. -/
def Unmoved (s : State) (loc : Nat) : Prop := ∀ m ∈ s.moves, m.lost = false → loc + 64 ≤ m.old ∨ m.old + m.size ≤ loc

/-- An object in memory that an address names: its page is this module's, no move holds it, and no write comes
before an operation on it. -/
def ObjectAt (s : State) (a : Word) (loc : Nat) : Prop :=
  NoneFirst s s.me.core ∧ Unmoved s loc ∧ ∃ x, Sees s s.who true a.toNat x
    ∧ x.loc = loc ∧ loc < 2 ^ 64 ∧ x.host = false ∧ x.mg = false

/-- A control block of 64 bytes in a scratchpad. -/
def BlockAt (s : State) (a : Word) (loc : Nat) : Prop :=
  a.toNat % 64 = 0 ∧ Unmoved s loc ∧ s.spadSpan s.me a.toNat 64 false = some [(List.range 64).map (loc + ·)]
    ∧ s.boardHit s.cur.ctx ((List.range 64).map (loc + ·)) = false

/-- No party but the issuing lane has a scratchpad write that need not have been performed. -/
def NoOthers (s : State) : Prop := s.othersWrites (some (s.cur.ctx, s.cur.lane)) = []

/-- No wait entry of any kind names something in the object's line. -/
def NoWaiters (s : State) (loc : Nat) : Prop := ∀ q ∈ s.waiters, rowOf q.obj ≠ rowOf loc

/-- Bytes outside a range are as before. -/
def SameOutside (s t : State) (lo n : Nat) : Prop := ∀ a, (a < lo ∨ lo + n ≤ a) → t.byteAt a = s.byteAt a

/-- An access of an engine command reaches a byte at its location, a byte of memory in the line that `lines` gives for
its virtual line; no other write comes before it. -/
def EngineAt (s : State) (c : EngCmd) (write : Bool) (lines : Nat → Nat) (p : Spot) (loc : Nat) : Prop :=
  if p.sp = true then s.spadSpan (s.ctx c.ctx) p.a 1 (write && c.isCopy) = some [[loc]]
  else NoneFirst s c.core ∧ loc = 64 * lines (p.a / 64) + p.a % 64
    ∧ ∃ x, (∀ u, SameWalks s u (fun _ => False) → Sees u (s.cmdWho c) write p.a x) ∧ x.loc = loc ∧ x.mg = false

/-- Every copy in the remote-data cache of a die is the line at its home. -/
def FreshCopies (s : State) (die : Nat) : Prop :=
  ∀ line d, copyFor (s.die die).rdc line = some d → d = s.homeLine line

/-- The issuing lane has issued one more engine command. -/
def Issues (s t : State) (c : EngCmd) : Prop :=
  c ∈ t.cmds ∧ t.cmds.length = s.cmds.length + 1 ∧ t.myLane.eseq = s.myLane.eseq + 1 ∧ t.myLane.edep = none
    ∧ c.ctx = s.cur.ctx ∧ c.lane = s.cur.lane ∧ c.num = s.myLane.eseq + 1 ∧ c.phase = .queued ∧ c.off = 0

/-- What the command has taken from its word and its registers. -/
def Takes (s : State) (c : EngCmd) (o : EngOps) : Prop :=
  c.dst = s.srcS 0 o.dst ∧ c.src = s.srcS 1 o.src ∧ c.desc = s.srcS 2 o.desc ∧ c.ctr = s.srcS 3 o.ctr
    ∧ c.inc = o.inc ∧ c.sub = o.sub ∧ c.fl = o.fl ∧ c.core = s.me.core ∧ c.bank = s.me.bank ∧ c.asid = s.me.ctrl.asid

/-- A further command of the issuing context finds room, and is not compared with earlier ones. -/
def CmdRoom (s : State) : Prop :=
  (s.cmds.filter (fun c => c.ctx == s.cur.ctx)).length < 64
    ∧ (s.cmds.filter (fun c => c.core == s.me.core && c.board.isSome)).length < 16
    ∧ s.me.ctrl.detm = false

/-- A rod as an instruction reaches it. -/
def RodReach (s : State) (r : RodRef) : Prop :=
  if r.sp = true then BlockAt s r.addr r.loc else r.addr.toNat % 64 = 0 ∧ ObjectAt s r.addr r.loc

/-- A rod whose checks hold, which is not quarantined and whose HOME is right; no page move takes it. -/
def RodSound (s : State) (r : RodRef) : Prop :=
  rodCheck12 s r = .ok ∧ rodCheck37 s r = .ok ∧ rodFixHome s r = s ∧ Unmoved s r.loc

/-- The slot `k` of a rod lies at these locations, apart from the control block. -/
def SlotAt (s : State) (r : RodRef) (k : Nat) (write : Bool) (locs : List Nat) : Prop :=
  let n := 2 ^ rodElsz s r.loc
  let a := rodBase s r.loc + k % rodCap s r.loc * n
  let ps := pieces (a % 2 ^ 64) n
  let block (x : Nat) : Prop := r.loc ≤ x ∧ x < r.loc + 64
  isWorkRod r.loc = false
    ∧ (if r.sp = true then ∃ c o, s.shareOf r.loc = some (c, o) ∧ s.ownSpan c a n = some locs
      else ∃ at_ : Nat → Nat, locs = ps.flatMap (fun p => (List.range p.2).map (fun i => at_ (p.1 + i)))
        ∧ ∀ p ∈ ps, ∃ x, (∀ u, SameWalks s u block → Sees u s.who write p.1 x) ∧ x.mg = false
          ∧ ∀ i, i < p.2 → at_ (p.1 + i) = x.loc + i)
    ∧ locs.Nodup ∧ ∀ a ∈ locs, ¬ block a

/-- The bytes of slot `k` at some locations are those of the bead that was enqueued there: no plain store has changed
them since (R148). -/
def BeadStands (s : State) (r : RodRef) (k : Nat) (locs : List Nat) : Prop :=
  ∀ b ∈ s.beads, b.rod = r.loc → b.num = k → b.bytes = locs.map s.byteAt

/-- An operation, run in a state, completes with a result and leaves a state. -/
def Runs {α : Type} (s : State) (m : Op α) (a : α) (t : State) : Prop := m.run.run s = (.ok a, t)

/-- `n` bytes from `va` lie from `loc` on, in pages of this module that no move holds, for whoever `w` stands,
and whatever the bytes at `but` hold; no write comes before an operation there. -/
def FirmPlace (s : State) (w : Who) (va n loc : Nat) (but : Nat → Prop) : Prop :=
  NoneFirst s w.core ∧ va + n ≤ 2 ^ 57 ∧ loc % 64 = va % 64
    ∧ ∀ i, i < n → s.poisoned [loc + i] = none ∧ ∃ x, x.loc = loc + i ∧ x.host = false ∧ x.mg = false
      ∧ ∀ u write, SameWalks s u but → Sees u w write (va + i) x

/-! ### Regions of memory that an operation touches -/

/-- A region: on whose behalf it is named, the virtual address, the number of bytes, and the location of the first. -/
abbrev Region := List Who × Nat × Nat × Nat

/-- A location lies in one of the regions. -/
def inRegions (rs : List Region) (a : Nat) : Prop := ∃ r ∈ rs, r.2.2.2 ≤ a ∧ a < r.2.2.2 + r.2.2.1

/-- Two regions have no byte in common. -/
def Apart (a b : Region) : Prop := a.2.2.2 + a.2.2.1 ≤ b.2.2.2 ∨ b.2.2.2 + b.2.2.1 ≤ a.2.2.2

/-- Regions that an operation reads, `ro`, and regions that it writes, `rw`: all are mapped, whatever the latter hold,
and no two of which one is written have a byte in common. -/
def FirmRegions (s : State) (ro rw : List Region) : Prop :=
  (∀ r ∈ ro ++ rw, ∀ w ∈ r.1, FirmPlace s w r.2.1 r.2.2.1 r.2.2.2 (inRegions rw))
    ∧ rw.Pairwise Apart ∧ ∀ a ∈ ro, ∀ b ∈ rw, Apart a b

/-- The `n` bytes of an operand in a scratchpad or in memory, as a lane reads them. -/
def OperandAt (s : State) (sp : Bool) (a n : Nat) (bs : List Byte) : Prop :=
  if sp = true then n ≤ 2 ^ 23 ∧ ∃ locs, s.spadSpan s.me a n false = some [locs] ∧ s.boardHit s.cur.ctx locs = false
    ∧ s.poisoned locs = none ∧ bs = locs.map s.byteAt
  else ∃ loc, FirmPlace s s.who a n loc (fun _ => False) ∧ bs = s.readBytes loc n

/-- A valid sequence record, as its bytes give it. -/
def SeqAt (s : State) (a loc : Nat) (r : SeqRec) : Prop :=
  r = seqOf a loc (s.readBytes loc 128) ∧ seqValid (s.readBytes loc 128) r = true

/-- The registered index's descriptor, where there is one, for a party whose requests leave from a core. -/
def indexRegion (s : State) (core il : Nat) : List Region :=
  match s.index with
  | none => []
  | some (a, asid) => [([deviceWho (dieOfCore core) asid.toNat], a.toNat, 0x20A, il)]

/-- A block table that need not be waited for, with no entry and no reference to be dropped; `el` is the location of its
entries. -/
def BareTable (s : State) (b : Btd) (el : Nat) : Prop :=
  b.quiet = true ∧ (∀ x ∈ b.rets, x = noEntry) ∧ ∀ e, e < b.cap → s.readNat (el + 4 * e) 4 = noEntry

/-- A bead that the sequence manager puts in a work rod touches none of `n` bytes, and no SQGET waits for it. -/
def BeadClear (s : State) (rod : RodRef) (lo n : Nat) : Prop :=
  let slot := rodBase s rod.loc + rodRsv s rod.loc % rodCap s rod.loc * 2 ^ rodElsz s rod.loc
  isWorkRod rod.loc = true ∧ NoWaiters s rod.loc ∧ Unmoved s rod.loc ∧ (lo + n ≤ rod.loc ∨ rod.loc + 64 ≤ lo) ∧ (lo + n ≤ slot ∨ slot + 64 ≤ lo)

/-- The work rod of the die and partition of a record that is active. -/
def workRodOf (s : State) (r : SeqRec) (draft : Bool) : RodRef :=
  let e := entOf s r
  workRef e.1 ((partOfDie s e.1).getD e.2.part) draft

/-! ### What a step does around the execution of a word -/

/-- The state in which `i`, the only word `w` of a bundle at `pc`, executes, for a lane that `s` holds. A word that
can issue a command comes after what it pops (R84). -/
def startWord (s : State) (k : Nat) (l : Lane) (pc : Nat) (w : Word) (i : Instr) : State :=
  let t := prepare s k l pc
  let u := if 2 ≤ slotOf w then t.updCtx k (fun c => c.seeTokens l [i]) else t
  { u with cur := { u.cur with slot := 0, res := .ran } }

/-- What a step makes of the state `t` in which executing `i`, the only word `w` of its bundle, has ended: the
tokens that it pops and gives, the counts, time, and the lane's next place; `s` is the state before the bundle. -/
def endWord (s : State) (k : Nat) (l : Lane) (pc : Nat) (w : Word) (i : Instr) (t : State) : State :=
  let ends (m : Option (Nat × Instr)) (rs : Vector Word 32) (r : Issued) : State :=
    let u := popTokens t k l i
    finishBundle (if r.staysOpen then u else giveTokens u k l i) k l pc [i] none m rs r
  if 2 ≤ slotOf w then
    match t.cur.res with
    | .stalled => keepTranslations s t
    | .trapped => t.updLane k l (fun x => { x with joined := (s.lane k l).joined })
    | .met => t
    | r => ends (some (0, i)) (readSources { prepare s k l pc with cur := { (prepare s k l pc).cur with slot := 0 } } w.toNat) r
  else ends none (s.lane k l).s .ran

/-- The lane can issue the word `w` at `pc`, which is a bundle of its own: it stands there, is neither parked nor
held by the slip window, by a token, or by a recorded fault. -/
def CanIssue (s : State) (k : Nat) (l : Lane) (pc : Nat) (w : Word) (i : Instr) : Prop :=
  (s.lane k l).pc = pc ∧ (s.lane k l).parked = none ∧ (s.lane k l).rslot = none ∧ ((s.ctx k).queues l).gives = []
    ∧ fetchWord s k pc = .word w ∧ (wordLane w = .A ∨ (wordLane w = laneField l ∧ wordStop w = true))
    ∧ decodeWord w = .ok i ∧ decodeBundle pc [w] = .ok [i]
    ∧ slipAllows (s.ctx k) (seenNow s k l 0x018).toNat l 1 = true ∧ tokensReady (s.ctx k) l [i] = true ∧ skidAllows (s.ctx k) l 1 = true
    ∧ (s.ctx k).differs = none

end Sys2Proof.Machine
end

