-- ==== Sys2Proof/Certificates/Slice0/Obligations.lean ====
section
/-! DEFINITION. The statements for the provers. Each says in its comment what it states; OBLIGATIONS.json
lists them with the rules they rest on. -/

open Sys2Proof Sys2Proof.Machine

/-- Typed integer instructions: ADD, SUB, MUL, MULH, DIV, REM, MIN, MAX, ABS, CMP write their exact result,
wrapped or saturated. (10_control_scalar.md: scalar integer, R238, R239, R240) -/
def Obligations.TypedIntegerResults : Prop :=
  ∀ (h : Hdr) (o : RegOps) (s : State), s.active h = true →
    let t := o.t.toNat
    let a := s.srcInt 1 o.a t
    let b := s.srcInt 2 o.b t
    let put (bound : Nat) (x : Int) : State := s.wrS o.d (extendTyped t (intBits t (o.mod.getLsbD 0) x)) bound
    exec (.add h o) s = .next (put 1 (a + b))
    ∧ exec (.sub h o) s = .next (put 1 (a - b))
    ∧ exec (.mul h o) s = .next (put 3 (a * b))
    ∧ exec (.mulh h o) s = .next (put 3 (a * b / 2 ^ typeWidth t))
    ∧ exec (.div h o) s = .next (put 18
        (if b = 0 then -1 else if t % 2 = 0 ∧ a = intLo t ∧ b = -1 then a else a.tdiv b))
    ∧ exec (.rem h o) s = .next (put 18 (if b = 0 then a else a.tmod b))
    ∧ exec (.min h o) s = .next (put 1 (min a b))
    ∧ exec (.max h o) s = .next (put 1 (max a b))
    ∧ exec (.abs h o) s = .next (put 1 a.natAbs)
    ∧ exec (.cmp h o) s = .next (s.wrS o.d (if condHolds o.sub.toNat (compare a b) then 1 else 0) 1)

/-- SHL, SHR, SAR, ROTR, CLZ and POPC write the pattern of the type that their entries give.
(10_control_scalar.md: scalar integer, R238, R239) -/
def Obligations.BitCountAndShiftResults : Prop :=
  ∀ (h : Hdr) (o : RegOps) (s : State), s.active h = true →
    let t := o.t.toNat
    let w := typeWidth t
    let a := s.srcBits 1 o.a t
    let b := s.srcBits 2 o.b t
    let put (x : Nat) : State := s.wrS o.d (extendTyped t (x % 2 ^ w)) 1
    exec (.shl h o) s = .next (put (a * 2 ^ (b % w)))
    ∧ exec (.shr h o) s = .next (put (a / 2 ^ (b % w)))
    ∧ exec (.sar h o) s = .next (put (wrap (toSigned a w / 2 ^ (b % w)) w))
    ∧ exec (.rotr h o) s = .next (put (a / 2 ^ (b % w) + a * 2 ^ (w - b % w)))
    ∧ exec (.clz h o) s = .next (put (clzBits w a))
    ∧ exec (.popc h o) s = .next (put (popBits w a))

/-- AND, OR, XOR, ANDN, SEL, MOV, ADDX, BFX, BFI and the immediate forms ADDI, MULI, ANDI, ORI, XORI, LI, LIH
write their word. (R241, R242, R243) -/
def Obligations.WordAndImmediateResults : Prop :=
  (∀ (h : Hdr) (o : RegOps) (r : RiOps) (s : State), s.active h = true →
    let a := s.srcS 1 o.a
    let b := s.srcS 2 o.b
    let len := o.sub.toNat % 64 + 1
    let field := bits a.toNat o.mod.toNat len
    let x := s.srcS 1 r.a
    let i : Word := r.imm.signExtend 64
    exec (.and h o) s = .next (s.wrS o.d (a &&& b) 1)
    ∧ exec (.or h o) s = .next (s.wrS o.d (a ||| b) 1)
    ∧ exec (.xor h o) s = .next (s.wrS o.d (a ^^^ b) 1)
    ∧ exec (.andn h o) s = .next (s.wrS o.d (a &&& ~~~b) 1)
    ∧ exec (.sel h o) s = .next (s.wrS o.d (if s.srcS 3 o.c ≠ 0 then a else b) 1)
    ∧ exec (.mov h o) s = .next (s.wrS o.d a 1)
    ∧ exec (.addx h o) s = .next (s.wrS o.d (a + b <<< (o.sub.toNat % 8)) 1)
    ∧ exec (.bfx h o) s = .next (s.wrS o.d
        (if o.sub.getLsbD 6 then BitVec.ofInt 64 (toSigned field len) else BitVec.ofNat 64 field) 1)
    ∧ exec (.bfi h o) s = .next (s.wrS o.d (BitVec.ofNat 64 (putBits b.toNat o.mod.toNat len a.toNat)) 1)
    ∧ exec (.addi h r) s = .next (s.wrS r.d (x + i) 1)
    ∧ exec (.muli h r) s = .next (s.wrS r.d (x * i) 3)
    ∧ exec (.andi h r) s = .next (s.wrS r.d (x &&& i) 1)
    ∧ exec (.ori h r) s = .next (s.wrS r.d (x ||| i) 1)
    ∧ exec (.xori h r) s = .next (s.wrS r.d (x ^^^ i) 1)
    ∧ exec (.li h r) s = .next (s.wrS r.d i 1)
    ∧ exec (.lih h r) s = .next (s.wrS r.d
        (BitVec.ofNat 64 (r.imm.toNat % 2 ^ 31 * 2 ^ 33 + x.toNat % 2 ^ 33)) 1))
  ∧ (∀ (h : Hdr) (o : RegOps) (r : RiOps),
      (∀ i ∈ ([.and h o, .or h o, .xor h o, .andn h o, .sel h o, .mov h o, .addx h o] : List Instr),
        illegalReason i = none → o.t = 0 ∧ o.rm = 0 ∧ o.mod = 0)
      ∧ (∀ i ∈ ([.and h o, .or h o, .xor h o, .andn h o, .sel h o, .mov h o] : List Instr),
        illegalReason i = none → o.sub = 0)
      ∧ (illegalReason (.mov h o) = none → o.b = 0)
      ∧ (illegalReason (.addx h o) = none → o.sub.toNat < 8)
      ∧ (illegalReason (.bfx h o) = none → o.b = 0 ∧ o.c = 0 ∧ o.t = 0 ∧ o.rm = 0)
      ∧ (illegalReason (.bfi h o) = none → o.sub.getLsbD 6 = false ∧ o.c = 0 ∧ o.t = 0 ∧ o.rm = 0)
      ∧ (64 < o.mod.toNat + (o.sub.toNat % 64 + 1) ∨ o.sub.getLsbD 7 = true →
          (illegalReason (.bfx h { o with mod := 0, sub := 0 }) = none → illegalReason (.bfx h o) = some 7)
          ∧ (illegalReason (.bfi h { o with mod := 0, sub := 0 }) = none → illegalReason (.bfi h o) = some 7))
      ∧ (illegalReason (.li h r) = none → r.a = 0)
      ∧ (illegalReason (.lih h { r with imm := 0 }) = none →
          (illegalReason (.lih h r) = if 2 ^ 31 ≤ r.imm.toNat then some 8 else none)))
  ∧ (∀ v : Word,
      let lo : BitVec 33 := BitVec.ofNat 33 v.toNat
      let hi : BitVec 33 := BitVec.ofNat 33 (v.toNat / 2 ^ 33)
      hi.toNat < 2 ^ 31
        ∧ BitVec.ofNat 64 (hi.toNat % 2 ^ 31 * 2 ^ 33 + (lo.signExtend 64 : Word).toNat % 2 ^ 33) = v)

/-- Scalar floating point: each instruction writes its f register, or its s register, with the bits that the
number rules give. (10_control_scalar.md: scalar floating point, R244, R245, R246, R247, 02_numbers.md:
rounding and arithmetic) -/
def Obligations.ScalarFloatResults : Prop :=
  ∀ (h : Hdr) (o : RegOps) (r : RiOps) (s : State), s.active h = true →
    let t := o.t.toNat
    let f := fpFmt t
    let rm := o.rm.toNat
    let a := s.srcFp 1 o.a t
    let b := s.srcFp 2 o.b t
    let put (bound x : Nat) : State := s.wrF o.d (BitVec.ofNat 64 x) bound
    let src := o.sub.toNat % 32
    let y := convertBits src t rm (o.mod.getLsbD 0) (if src < 8 then s.srcBits 1 o.a src else s.srcFp 1 o.a src)
    let i := r.imm.toNat % 2 ^ 32
    exec (.fadd h o) s = .next (put 4 (fpAdd f rm a b))
    ∧ exec (.fsub h o) s = .next (put 4 (fpSub f rm a b))
    ∧ exec (.fmul h o) s = .next (put 4 (fpMul f rm a b))
    ∧ exec (.ffma h o) s = .next (put 4 (fpFma f rm a b (s.srcFp 3 o.c t)))
    ∧ exec (.fdiv h o) s = .next (put 14 (fpDiv f rm a b))
    ∧ exec (.fsqrt h o) s = .next (put 14 (fpSqrt f rm a))
    ∧ exec (.fmin h o) s = .next (put 4 (fpMinMax f false a b))
    ∧ exec (.fmax h o) s = .next (put 4 (fpMinMax f true a b))
    ∧ exec (.fsgn h o) s = .next (put 4 (fpSign f o.sub.toNat a b))
    ∧ exec (.fcmp h o) s = .next (s.wrS o.d (if fpCond o.sub.toNat (fpDecode f a) (fpDecode f b) then 1 else 0) 4)
    ∧ exec (.fclass h o) s = .next (s.wrS o.d (BitVec.ofNat 64 (fpClass f a)) 4)
    ∧ exec (.fcvt h o) s = .next (if t < 8 then s.wrS o.d (extendTyped t y) 4 else put 4 y)
    ∧ exec (.fmvs h o) s = .next
        (if o.mod.getLsbD 0 then s.wrS o.d (s.srcF 1 o.a) 4 else s.wrF o.d (s.srcS 1 o.a) 4)
    ∧ exec (.fli h r) s = .next (s.wrF r.d
        (BitVec.ofNat 64 (if r.imm.getLsbD 32 then convertBits 10 11 0 false i else i)) 4)
    ∧ exec (.fsel h o) s = .next (s.wrF o.d
        (if (s.srcP 3 o.c.toNat).getLsbD 0 then s.srcF 1 o.a else s.srcF 2 o.b) 4)

/-- PAND, POR, PXOR, PANDN, PSET, PSAVE, PREST, PQRY, XPUT and XGET: what each writes, gives or takes.
(10_control_scalar.md: predicates and lane exchange, R248, R249, R250, R251.) What an XPUT or XGET does under a false
predicate, where it stands in a word that gives or takes a token besides, is the model's choice (log 38). -/
def Obligations.PredicateAndExchangeResults : Prop :=
  ∀ (h : Hdr) (o : RegOps) (s : State),
    let a := s.srcP 1 o.a.toNat
    let b := s.srcP 2 o.b.toNat
    let l := s.cur.lane
    let right := o.sub.getLsbD 0
    let taken := s.updMe (fun c => c.popQueue l right 1)
    (s.active h = true →
      exec (.pand h o) s = .next (s.wrP o.d.toNat (a &&& b) 1)
      ∧ exec (.por h o) s = .next (s.wrP o.d.toNat (a ||| b) 1)
      ∧ exec (.pxor h o) s = .next (s.wrP o.d.toNat (a ^^^ b) 1)
      ∧ exec (.pandn h o) s = .next (s.wrP o.d.toNat (a &&& ~~~b) 1)
      ∧ exec (.pset h o) s = .next (s.wrP o.d.toNat (psetWord o.sub.toNat (s.srcS 1 o.a)) 1)
      ∧ exec (.psave h o) s = .next (s.wrV o.d
          (vword 32 ((List.range 32).map (fun j => if j < 8 then (s.srcP j j).toNat else 0))) 1)
      ∧ exec (.prest h o) s = .next ((List.range 8).foldl (fun u j =>
          if o.sub.getLsbD j then u.wrP j (BitVec.ofNat 32 ((elemsOf 32 (s.srcVBy 32 1 o.a)).getD j 0)) 1 else u) s)
      ∧ exec (.pqry h o) s = .next (s.wrS o.d (BitVec.ofNat 64 (pqryWord o.sub.toNat a)) 1)
      ∧ exec (.xput h o) s = .next (s.updMe (fun c => c.addGives l (giveList h (some (right, s.srcS 1 o.a)))))
      ∧ (∀ e q, s.me.queueFrom l right = e :: q →
          exec (.xget h o) s = .next (taken.wrS o.d (if e.hasVal then e.val else 0) 1)))
    ∧ (s.active h = false →
      exec (.xput h o) s = .next (s.updMe (fun c => c.addGives l (giveList h none)))
      ∧ exec (.xget h o) s = .next taken)

/-- Vector arithmetic, bitwise and move: each active element of d takes the result of its operation on the
source elements. (11_vector.md: arithmetic, R257, R261, R262) -/
def Obligations.VectorArithmeticResults : Prop :=
  ∀ (h : Hdr) (o : RegOps) (s : State),
    let t := o.t.toNat
    let w := typeWidth t
    let f := fpFmt t
    let rm := o.rm.toNat
    let sat := o.mod.getLsbD 0
    let a := s.srcE 1 o.a w
    let b := s.srcE 2 o.b w
    let c := s.srcE 3 o.c w
    let put1 (bound : Nat) (g : Nat → Nat) : State := s.wrElems h o.d w bound (a.map g)
    let put2 (bound : Nat) (g : Nat → Nat → Nat) : State := s.wrElems h o.d w bound (List.zipWith g a b)
    let put3 (bound : Nat) (g : Nat → Nat → Nat → Nat) : State :=
      s.wrElems h o.d w bound (List.zipWith (fun k z => k z) (List.zipWith g a b) c)
    let int (g : Int → Int → Int) (x y : Nat) : Nat := intBits t sat (g (intVal t x) (intVal t y))
    exec (.vadd h o) s = .next (put2 5 (fpAdd f rm))
    ∧ exec (.vsub h o) s = .next (put2 5 (fpSub f rm))
    ∧ exec (.vmul h o) s = .next (put2 5 (fpMul f rm))
    ∧ exec (.vfma h o) s = .next (put3 5 (fpFma f rm))
    ∧ exec (.vmin h o) s = .next (put2 5 (fpMinMax f false))
    ∧ exec (.vmax h o) s = .next (put2 5 (fpMinMax f true))
    ∧ exec (.vsgn h o) s = .next (put2 5 (fpSign f o.sub.toNat))
    ∧ exec (.vclamp h o) s = .next (put3 5 (fun x y z => fpMinMax f false (fpMinMax f true x y) z))
    ∧ exec (.viadd h o) s = .next (put2 2 (int (fun x y => x + y)))
    ∧ exec (.visub h o) s = .next (put2 2 (int (fun x y => x - y)))
    ∧ exec (.vimul h o) s = .next (put2 2 (int (fun x y => if o.sub.getLsbD 0 then x * y / 2 ^ w else x * y)))
    ∧ exec (.vimnx h o) s = .next (put2 2 (int (fun x y => if o.sub.getLsbD 0 then max x y else min x y)))
    ∧ exec (.vshl h o) s = .next (put2 2 (fun x y => x * 2 ^ (y % w) % 2 ^ w))
    ∧ exec (.vshr h o) s = .next (put2 2 (fun x y => wrap (intVal t x / 2 ^ (y % w)) w))
    ∧ exec (.vand h o) s = .next (put2 2 Nat.land)
    ∧ exec (.vor h o) s = .next (put2 2 Nat.lor)
    ∧ exec (.vxor h o) s = .next (put2 2 Nat.xor)
    ∧ exec (.vmov h o) s = .next (put1 2 (fun x => x))

/-- RDCNT reads LCNT or the lane field of ESEQ as they stood before its bundle; VSEL takes each active element
from a or from b. (R252, R264) -/
def Obligations.CounterReadsAndVectorSelect : Prop :=
  ∀ (h : Hdr) (o : RegOps) (s : State),
    let x := s.snap.lane s.cur.lane
    let w := typeWidth o.t.toNat
    let out := vword w ((List.range (elemCount w)).map (fun j =>
      if elemActive (s.mask h) w j then
        (if (s.srcE 3 o.c w).getD j 0 ≠ 0 then (s.srcE 1 o.a w).getD j 0 else (s.srcE 2 o.b w).getD j 0)
      else (elemsOf w (s.curV o.d)).getD j 0))
    (s.active h = true → exec (.rdcnt h o) s = .next (s.wrS o.d
        (if o.sub.toNat = 0 then BitVec.ofNat 64 x.lcnt else x.eseq.zeroExtend 64) 1))
    ∧ (illegalReason (.rdcnt h o) = none →
        o.sub.toNat < 2 ∧ o.a = 0 ∧ o.b = 0 ∧ o.t = 0 ∧ o.rm = 0 ∧ o.mod = 0)
    ∧ exec (.vsel h o) s = .next (s.wrV o.d out 2)
    ∧ (illegalReason (.vsel h o) = none → o.sub = 0 ∧ o.rm = 0 ∧ o.mod = 0)

/-- Vector compare, conversion, companding, block quantisation and transcendentals write what their entries
give. (11_vector.md: compare, conversions, transcendentals, R257, R263, R265, R266, R267, R268, R269, R270,
R271) -/
def Obligations.VectorConversionResults : Prop :=
  ∀ (h : Hdr) (o : RegOps) (s : State),
    let t := o.t.toNat
    let w := typeWidth t
    let f := fpFmt t
    let sat := o.mod.getLsbD 0
    let a := s.srcE 1 o.a w
    let b := s.srcE 2 o.b w
    let src := o.sub.toNat % 32
    let q := bits o.mod.toNat 1 2
    let vs := typeWidth src
    let n := 1024 / max vs w
    let va := s.srcE 1 o.a vs
    let conv := convertBits src t o.rm.toNat sat
    let old := elemsOf w (s.curV o.d)
    let out := List.zipWith (vcmpHolds t (o.sub.toNat % 8)) a b
    let cb := if t < 8 then 2 else 5
    let put (bound : Nat) (xs : List Nat) : State := s.wrElems h o.d w bound xs
    exec (.vcmp h o) s = .next
        (if o.sub.getLsbD 3 then put cb (out.map (fun x => if x then 2 ^ w - 1 else 0))
         else s.wrP o.d.toNat (mergePred (s.mask h) (s.me.p.getD o.d.toNat 0) w out) cb)
    ∧ exec (.vcvt h o) s = .next (put 5
        (if w ≤ vs then putPart old (q * n) (va.map conv) else putPart old 0 (((va.drop (q * n)).take n).map conv)))
    ∧ exec (.vpack h o) s = .next (put 2
        ((s.srcE 1 o.a (2 * w)).map (fun x => intBits t sat (intVal (t + 2) x))
          ++ (s.srcE 2 o.b (2 * w)).map (fun x => intBits t sat (intVal (t + 2) x))))
    ∧ exec (.vunpk h o) s = .next (put 2
        ((((s.srcE 1 o.a (w / 2)).drop (o.sub.toNat % 2 * elemCount w)).take (elemCount w)).map
          (fun x => wrap (intVal (t - 2) x) w)))
    ∧ exec (.vcomp h o) s = .next (put 5 (putPart old (32 * q) ((s.srcE 1 o.a 32).map (fun x =>
        (roundCurve f o.rm.toNat sat (curveAt (cmpTable (s.me.table (o.sub.toNat % 4))) false (decodeNum 10 x))).1))))
    ∧ exec (.vdeq h o) s = .next (s.wrElems h o.d 32 5
        ((((s.srcE 1 o.a 8).drop (32 * q)).take 32).map (fun x =>
          (roundNum (fpFmt 10) 0 false
            (blockNum src ((s.srcS 2 o.b).toNat % 256) (decodeNum src x))).1)))
    ∧ exec (.vexp2 h o) s = .next (put 10 (a.map (fpExp2 f)))
    ∧ exec (.vlog2 h o) s = .next (put 10 (a.map (fpLog2 f)))
    ∧ exec (.vrcp h o) s = .next (put 10 (a.map (fpRcp f)))
    ∧ exec (.vrsq h o) s = .next (put 10 (a.map (fpRsq f)))
    ∧ exec (.vtanh h o) s = .next (put 10 (a.map (fpTanh f)))
    ∧ exec (.vosm h o) s = .next (put 10
        (List.zipWith (fun k z => k z) (List.zipWith fpVosm a b) (s.srcE 3 o.c w)))
    ∧ (s.active h = true →
        let xs := (s.srcE 1 o.a 32).map (decodeNum 10)
        let scale := if o.sub.getLsbD 0 then (s.srcS 2 o.b).toNat % 256 else chooseScale t xs
        let codes := xs.map (blockEncode t scale (!o.sub.getLsbD 0))
        exec (.vquant h o) s = .next (setQsat
          ((s.wrV o.d (vword 8 (putPart (elemsOf 8 (s.curV o.d)) (32 * q) (codes.map (·.1)))) 12).wrS o.c
            (BitVec.ofNat 64 scale) 12) (codes.any (·.2))))

/-- VRED, VSCAN, VPERM, VSLIDE, VBCAST, VIOTA, VCPRS, VEXPD, VEXTR and VINS write what their entries give.
(11_vector.md: reductions, permutes, element access, R257, R272, R273, R274, R275, R276) -/
def Obligations.VectorReductionAndPermuteResults : Prop :=
  ∀ (h : Hdr) (o : RegOps) (s : State),
    let t := o.t.toNat
    let w := typeWidth t
    let n := elemCount w
    let a := s.srcE 1 o.a w
    let x1 := (s.srcS 1 o.a).toNat
    let x2 := (s.srcS 2 o.b).toNat
    let op := redOp t o.sub.toNat o.rm.toNat (o.mod.getLsbD 0)
    let act := activePositions (s.mask h) w
    let put (bound : Nat) (g : Nat → Nat) : State := s.wrElems h o.d w bound ((List.range n).map g)
    exec (.vred h o) s = .next (s.wrV o.d (BitVec.ofNat 1024 ((redTree op (Nat.log2 n) (redSource s h o)).headD 0)) 8)
    ∧ exec (.vscan h o) s = .next (s.wrElems h o.d w 9 (scanTree op (Nat.log2 n) 1 (redSource s h o)))
    ∧ exec (.vperm h o) s = .next (s.wrElems h o.d w 4 ((s.srcE 2 o.b w).map (fun i => a.getD (i % n) 0)))
    ∧ exec (.vslide h o) s = .next (put 4 (slideElem (o.sub.getLsbD 0) a (s.srcE 3 o.c w) n x2))
    ∧ (o.sub = 0 → exec (.vbcast h o) s = .next (put 2 (fun _ => x1 % 2 ^ w)))
    ∧ (o.sub = 1 → exec (.vbcast h o) s = .next (put 2 (fun _ => (s.srcF 1 o.a).toNat % 2 ^ w)))
    ∧ (o.sub = 2 → exec (.vbcast h o) s = .next (put 2 (fun _ => a.getD (x2 % n) 0 % 2 ^ w)))
    ∧ exec (.viota h o) s = .next (put 2 (fun j => (x1 + j * x2) % 2 ^ w))
    ∧ exec (.vcprs h o) s = .next (s.wrV o.d
        (vword w ((List.range n).map (fun k => (act.map (fun j => a.getD j 0)).getD k 0))) 4)
    ∧ exec (.vexpd h o) s = .next (put 4 (fun j => a.getD (act.filter (fun i => decide (i < j))).length 0))
    ∧ (s.active h = true →
        exec (.vextr h o) s = .next
          (if t < 8 then s.wrS o.d (BitVec.ofInt 64 (intVal t (a.getD (x2 % n) 0))) 2
           else s.wrF o.d (BitVec.ofNat 64 (a.getD (x2 % n) 0)) 2)
        ∧ exec (.vins h o) s = .next (s.wrV o.d (vword w ((elemsOf w (s.curV o.d)).set (x2 % n)
            ((if t < 8 then s.srcS 1 o.a else s.srcF 1 o.a).toNat % 2 ^ w))) 2))

/-- A word gated as a whole whose predicate is false retires and changes nothing: words of every group that is gated so,
the matrix words 0xA0 to 0xA9 all among them. (10_control_scalar.md: predication, R201, R248, R288) -/
def Obligations.InactiveWordsChangeNothing : Prop :=
  ∀ (h : Hdr) (o : RegOps) (r : RiOps) (m : MemOps) (e : EngOps) (x : MatOps) (s : State), s.active h = false →
    ∀ i ∈ ([.add h o, .sub h o, .mul h o, .div h o, .shl h o, .cmp h o, .sel h o, .and h o, .bfi h o, .addi h r,
        .li h r, .fadd h o, .ffma h o, .fcvt h o, .fmvs h o, .pand h o, .pset h o, .psave h o, .pqry h o, .rdcnt h o,
        .vquant h o, .vextr h o, .vins h o, .lds h m, .sts h m, .prfg h m, .ld h m, .st h m, .atom h m, .redm h m,
        .waita h m, .fence h m, .bind h o, .unbind h o, .cinv h m, .waitc h o, .testc h o, .testcQ h o, .cset h o,
        .edep h o, .copy h e, .copyt h e, .fill h e, .qcvt h e, .plane h e, .pref h e, .fsend h e, .frecv h e,
        .fcoll h e, .enq h o, .deq h o, .rodinit h o, .rodqry h o, .rodclose h o, .barW h o, .barArr h o, .barWt h o,
        .barInit h o, .slinit h o, .slacqRd h o, .slacqWr h o, .slpub h o, .slrel h o, .sqget h o, .sqaccQ h o,
        .sqaccP h o, .sqcommit h o, .kvmap h o, .kvunpin h o, .kvapp h e, .pfxlk h o, .pfxins h o, .pfxrel h o,
        .psel h e, .sample h o, .rngdraw h o, .mzero h x, .mma h x, .mld h x, .mldt h x, .mst h x, .macc h x, .lutld h x,
        .lutmv h x, .mrow h x, .mred h x] : List Instr),
      exec i s = .next s

/-- DIV and REM never trap, and their edge cases give the results of the table of R240. (R240) -/
def Obligations.DivisionCorners : Prop :=
  ∀ (h : Hdr) (o : RegOps) (s : State), s.active h = true → o.t.toNat < 8 → o.mod.getLsbD 0 = false →
    let t := o.t.toNat
    let w := typeWidth t
    let a := s.srcInt 1 o.a t
    let b := s.srcInt 2 o.b t
    let put (n : Nat) : State := s.wrS o.d (extendTyped t n) 18
    (b = 0 →
      exec (.div h o) s = .next (put (2 ^ w - 1)) ∧ exec (.rem h o) s = .next (put (wrap a w)))
    ∧ (t % 2 = 0 → a = -2 ^ (w - 1) → b = -1 →
      exec (.div h o) s = .next (put (2 ^ (w - 1))) ∧ exec (.rem h o) s = .next (put 0))
    ∧ (b ≠ 0 → ¬(t % 2 = 0 ∧ a = -2 ^ (w - 1) ∧ b = -1) →
      ∃ q r : Int, exec (.div h o) s = .next (put (wrap q w)) ∧ exec (.rem h o) s = .next (put (wrap r w))
        ∧ a = b * q + r ∧ |r| < |b| ∧ 0 ≤ r * a)

/-- The instructions of a bundle read their sources before any of them writes. (R62) -/
def Obligations.BundleReadsBeforeItWrites : Prop :=
  ∀ (s : State) (c : Ctx), s.cur.snap = some c →
    ∀ (d : BitVec 6) (n : Nat) (v : Word) (x : VWord) (p : PWord) (bound pos : Nat) (r : BitVec 6),
      ∀ t ∈ [s.wrS d v bound, s.wrF d v bound, s.wrV d x bound, s.wrP n p bound],
        t.srcS pos r = s.srcS pos r ∧ t.srcF pos r = s.srcF pos r ∧ t.srcV pos r = s.srcV pos r
          ∧ t.srcP pos r.toNat = s.srcP pos r.toNat

/-- s0 and p0 are hard-wired; a later bundle reads what was last written, or inside the latency bound the old
value. (03_execution.md: latency classes, 09_encoding.md: register fields, R67, R68, R202) -/
def Obligations.RegisterReadAfterWrite : Prop :=
  (∀ (s : State) (pos : Nat), s.srcS pos 0 = 0 ∧ s.srcP pos 0 = BitVec.allOnes 32)
    ∧ (∀ (x : LaneSt) (v : Word) (bound : Nat), x.putS 0 v bound = x)
    ∧ (∀ (c : Ctx) (v : PWord) (bound : Nat), c.putP 0 v bound = c)
    ∧ (∀ (x : LaneSt) (d pick : Nat) (v : Word) (bound : Nat), 0 < d → d < 32 →
        (x.putS d v bound).s.getD d 0 = v
        ∧ (oldValues x.inflight .s d = [] → x.srcS d pick = x.s.getD d 0)
        ∧ (oldValues x.inflight .s d = [] →
            (x.putS d v bound).srcS d pick = v ∨ (x.putS d v bound).srcS d pick = x.s.getD d 0)
        ∧ (bound ≤ 1 → oldValues x.inflight .s d = [] → (x.putS d v bound).srcS d pick = v))

/-- Frame of the scalar integer, floating-point and predicate instructions: only the destination register
changes. (10_control_scalar.md: scalar integer, floating point, R202, R238, R244) -/
def Obligations.ScalarFrame : Prop :=
  ∀ (h : Hdr) (o : RegOps) (r : RiOps) (s t : State),
    (∀ i ∈ ([.add h o, .sub h o, .mul h o, .mulh h o, .div h o, .rem h o, .and h o, .or h o, .xor h o, .andn h o,
        .shl h o, .shr h o, .sar h o, .rotr h o, .clz h o, .popc h o, .min h o, .max h o, .abs h o, .cmp h o, .sel h o,
        .mov h o, .bfx h o, .bfi h o, .addx h o, .fcmp h o, .fclass h o, .pqry h o, .rdcnt h o] : List Instr),
      exec i s = .next t →
        { t with ctxs := s.ctxs } = s
        ∧ (∀ k, k ≠ s.cur.ctx → t.ctx k = s.ctx k)
        ∧ { t.me with laneL := s.me.laneL, laneC := s.me.laneC, laneS := s.me.laneS } = s.me
        ∧ (∀ m, m ≠ s.cur.lane → t.me.lane m = s.me.lane m)
        ∧ { t.myLane with s := s.myLane.s, inflight := s.myLane.inflight } = s.myLane
        ∧ (∀ j, j ≠ o.d.toNat → t.myLane.s.getD j 0 = s.myLane.s.getD j 0))
    ∧ (∀ i ∈ ([.fadd h o, .fsub h o, .fmul h o, .ffma h o, .fdiv h o, .fsqrt h o, .fmin h o, .fmax h o, .fsgn h o,
        .fsel h o] : List Instr),
      exec i s = .next t →
        { t with ctxs := s.ctxs } = s
        ∧ (∀ k, k ≠ s.cur.ctx → t.ctx k = s.ctx k)
        ∧ { t.me with f := s.me.f, laneC := s.me.laneC } = s.me
        ∧ { t.me.laneC with inflight := s.me.laneC.inflight } = s.me.laneC
        ∧ (∀ j, j ≠ o.d.toNat → t.me.f.getD j 0 = s.me.f.getD j 0))
    ∧ (∀ i ∈ ([.pand h o, .por h o, .pxor h o, .pandn h o, .pset h o] : List Instr),
      exec i s = .next t →
        { t with ctxs := s.ctxs } = s
        ∧ (∀ k, k ≠ s.cur.ctx → t.ctx k = s.ctx k)
        ∧ { t.me with p := s.me.p, laneC := s.me.laneC } = s.me
        ∧ { t.me.laneC with inflight := s.me.laneC.inflight } = s.me.laneC
        ∧ (∀ j, j ≠ o.d.toNat → t.me.p.getD j 0 = s.me.p.getD j 0))
    ∧ (∀ i ∈ ([.addi h r, .muli h r, .andi h r, .ori h r, .xori h r, .li h r, .lih h r] : List Instr),
      exec i s = .next t →
        { t with ctxs := s.ctxs } = s
        ∧ (∀ k, k ≠ s.cur.ctx → t.ctx k = s.ctx k)
        ∧ { t.me with laneL := s.me.laneL, laneC := s.me.laneC, laneS := s.me.laneS } = s.me
        ∧ (∀ m, m ≠ s.cur.lane → t.me.lane m = s.me.lane m)
        ∧ { t.myLane with s := s.myLane.s, inflight := s.myLane.inflight } = s.myLane
        ∧ (∀ j, j ≠ r.d.toNat → t.myLane.s.getD j 0 = s.myLane.s.getD j 0))

/-- Vector writes act element by element: active elements take the new value, the others keep theirs, and
nothing else changes but what lane C has in flight. (11_vector.md: predication of elements, R256, R257) -/
def Obligations.VectorElementWrites : Prop :=
  ∀ (s : State) (h : Hdr) (d : BitVec 6) (w bound : Nat) (new : List Nat),
    w = 8 ∨ w = 16 ∨ w = 32 ∨ w = 64 → d.toNat < 32 → new.length = elemCount w → (∀ x ∈ new, x < 2 ^ w) →
      let t := s.wrElems h d w bound new
      (∀ j, j < elemCount w →
        (elemsOf w (t.curV d)).getD j 0 =
          if elemActive (s.mask h) w j then new.getD j 0 else (elemsOf w (s.curV d)).getD j 0)
      ∧ (∀ j, j ≠ d.toNat → t.me.v.getD j 0 = s.me.v.getD j 0)
      ∧ (∀ k, k ≠ s.cur.ctx → t.ctx k = s.ctx k)
      ∧ { t.me with v := s.me.v, laneC := s.me.laneC } = s.me
      ∧ { t.me.laneC with inflight := s.me.laneC.inflight } = s.me.laneC
      ∧ { t with ctxs := s.ctxs } = s

/-- BR, CALL and RET: each lane goes to its target; BR and RET leave the loops that the target lies outside;
CALL writes the link. (10_control_scalar.md: branches, R229, R230, R233) -/
def Obligations.BranchesAndCalls : Prop :=
  ∀ (h : Hdr) (o : BrOps) (s : State),
    let p := relTarget s o
    let l := s.cur.lane
    let r := s.srcS 0 o.cr
    (∃ t, exec (.br h o) s = .next t ∧ t.cur.res = .redirected ∧ t.myLane.pc = p ∧ t.myLane.s = s.myLane.s
      ∧ (t.me.queues l).loops = loopExit p (s.me.queues l).loops ∧ ∀ m, m ≠ l → t.me.lane m = s.me.lane m)
    ∧ (∃ t, exec (.call h o) s = .next t ∧ t.cur.res = .redirected ∧ t.myLane.pc = p
      ∧ t.myLane.s.getD 1 0 = BitVec.ofNat 64 (s.cur.pc + 1)
      ∧ (t.me.queues l).loops = (s.me.queues l).loops ∧ ∀ m, m ≠ l → t.me.lane m = s.me.lane m)
    ∧ (r.toNat < 16384 → ∃ t, exec (.ret h o) s = .next t ∧ t.cur.res = .redirected ∧ t.myLane.pc = r.toNat
      ∧ (t.me.queues l).loops = loopExit r.toNat (s.me.queues l).loops ∧ ∀ m, m ≠ l → t.me.lane m = s.me.lane m)
    ∧ (16384 ≤ r.toNat → exec (.ret h o) s = .next (trapHere s .overlayInvalid 1 r))

/-- BRC, BRX and CALLX: the owner decides and pushes its outcome to the other live lanes, a non-owner follows the
oldest outcome, and each waits when it has no room or no outcome; a register target outside the program is refused.
(10_control_scalar.md: branches, R70, R229, R230, R233) -/
def Obligations.OwnedBranches : Prop :=
  ∀ (h : Hdr) (o : BrOps) (s : State),
    let l := s.cur.lane
    let r := s.srcS 0 o.cr
    let next := s.cur.pc + 1
    let all : List Instr := [.brc h o, .brx h o, .callx h o]
    let loops (t : State) : List LoopEnt := (t.me.queues l).loops
    let goes (i : Instr) (t : State) (b : BranchOut) : Prop := exec i s = .next t ∧ t.cur.res = .redirected
      ∧ t.myLane.pc = (if b.taken then b.target else next) ∧ SameBytes s t ∧ SameFiles s t
      ∧ (i ≠ .callx h o → Wrote s t 0 0 ∧ loops t = if b.taken then loopExit b.target (loops s) else loops s)
      ∧ (i = .callx h o → Wrote s t 1 (BitVec.ofNat 64 next) ∧ loops t = loops s)
    let pushed (t : State) (b : BranchOut) : Prop := (t.me.queues l).outs = (s.me.queues l).outs
      ∧ ∀ m, m ≠ l → (t.me.queues m).outs
        = if (s.me.lane m).ended then (s.me.queues m).outs else (s.me.queues m).outs ++ [b]
    (l = ownerLane o → s.me.outcomeRoom l = true →
      (∃ t, goes (.brc h o) t ⟨branchCond s o, relTarget s o⟩ ∧ pushed t ⟨branchCond s o, relTarget s o⟩)
      ∧ (r.toNat < 16384 → ∀ i ∈ ([.brx h o, .callx h o] : List Instr),
          ∃ t, goes i t ⟨true, r.toNat⟩ ∧ pushed t ⟨true, r.toNat⟩))
    ∧ (l ≠ ownerLane o → ∀ b q, (s.me.queues l).outs = b :: q → ∀ i ∈ all,
        ∃ t, goes i t b ∧ (t.me.queues l).outs = q ∧ ∀ m, m ≠ l → t.me.lane m = s.me.lane m)
    ∧ (l = ownerLane o → 16384 ≤ r.toNat → ∀ i ∈ ([.brx h o, .callx h o] : List Instr),
        exec i s = .next (trapHere s .overlayInvalid 1 r))
    ∧ (l = ownerLane o → s.me.outcomeRoom l = false → exec (.brc h o) s = .next (s.setRes .stalled)
        ∧ (r.toNat < 16384 → ∀ i ∈ ([.brx h o, .callx h o] : List Instr), exec i s = .next (s.setRes .stalled)))
    ∧ (l ≠ ownerLane o → (s.me.queues l).outs = [] → ∀ i ∈ all, exec i s = .next (s.setRes .stalled))

/-- NOP changes nothing; LOOP pushes its entry and starts the indexes that its table entry drives, or skips its body;
LOOP on a full stack and STK below SLIM trap; STK moves s2. (10_control_scalar.md: LOOP, STK, NOP, R227, R231, R232, R235.)
That the words of a skipped body count for nothing is the model's choice (log 126). -/
def Obligations.LoopsAndStacks : Prop :=
  ∀ (h : Hdr) (n : RegOps) (o : BrOps) (r : RiOps) (s : State),
    let l := s.cur.lane
    let c := loopCount s o
    let sp := s.srcS 0 2 + r.imm.signExtend 64
    let reg := 0x00F + laneCode l
    let seen := (seenCtrl s reg).2
    let limits := s.myLane.slim :: oldCtrls s s.cur.ctx l reg
    let levels := (s.nest s.me.nest).levels
    let drives (e : Nat) (v : Level) : Prop := v ∈ levels ∧ v.kind = 0 ∧ v.ltidx = e ∧ v.iregEn = true
    exec (.nop h n) s = .next s
    ∧ (c.1 = 0 → ∃ t, exec (.loop h o) s = .next t ∧ t.cur.res = .redirected ∧ t.myLane.pc = relTarget s o + 1
        ∧ t.me.queues l = s.me.queues l ∧ t.myLane.i = s.myLane.i)
    ∧ (c.1 ≠ 0 → (s.me.queues l).loops.length < 8 → ∃ t, exec (.loop h o) s = .next t ∧ t.cur.res = .redirected
        ∧ t.myLane.pc = s.cur.pc + 1
        ∧ (t.me.queues l).loops = ⟨s.cur.pc + 1, relTarget s o, c.1, 0, c.2⟩ :: (s.me.queues l).loops
        ∧ (∀ j, j < 8 → (∀ e v, drives e v → c.2 = some e → v.ireg ≠ j) → t.myLane.i.getD j 0 = s.myLane.i.getD j 0)
        ∧ ∀ pre v post e, levels = pre ++ v :: post → c.2 = some e → drives e v → v.ireg < 8 →
            (∀ u ∈ post, drives e u → u.ireg ≠ v.ireg) → t.myLane.i.getD v.ireg 0 = v.start)
    ∧ (c.1 ≠ 0 → 8 ≤ (s.me.queues l).loops.length → exec (.loop h o) s = .next (trapHere s .loopDepth 0 0))
    ∧ ((r.imm.toInt < 0 → ∀ x ∈ limits, x.toNat ≤ sp.toNat) → exec (.stk h r) s = .next (seen.wrS 2 sp 1))
    ∧ (r.imm.toInt < 0 → (∀ x ∈ limits, sp.toNat < x.toNat) → exec (.stk h r) s = .next (trapHere seen .stackLimit 0 sp))
    ∧ (limits.length = 1 → seen = s) ∧ { seen with fresh := s.fresh } = s

/-- SYNC and OVL act once, when every lane has reached them: each live lane goes on with the next word, or with the next
trip of a loop that ends there, with every result landed; END takes its lane out of every meeting.
(10_control_scalar.md: SYNC, END, OVL, 03_execution.md: where lanes meet again, R71, R74, R226, R232, R237) -/
def Obligations.MeetingPoints : Prop :=
  ∀ (h : Hdr) (o : RegOps) (s : State),
    let k := s.cur.ctx
    let mine := (s.core s.me.core).accq.filter (fun e => e.ctx == k)
    let past (t : State) : Prop := (∀ m ∈ s.me.liveLanes,
        let x := t.me.lane m
        let y := s.me.lane m
        let ends := endCheck s.cur.pc s.cur.pc (s.me.queues m).loops
        x.pc = (match ends.2 with | some e => e.start | none => s.cur.pc + 1)
        ∧ (t.me.queues m).loops = ends.1 ∧ (t.me.queues m).outs = (s.me.queues m).outs
        ∧ (ends.2 = none → x.i = y.i)
        ∧ x.arrived = false ∧ x.ended = false ∧ x.rslot = none ∧ x.lcnt = (y.lcnt + 1) % 2 ^ 64
        ∧ x.inflight = [] ∧ x.scratchInflight = [] ∧ x.s = y.s)
      ∧ t.me.f = s.me.f ∧ t.me.v = s.me.v ∧ t.me.p = s.me.p
      ∧ t.me.acc = mine.foldl (fun v e => v.setIfInBounds e.acc e.val) s.me.acc
      ∧ ∀ e ∈ (t.core s.me.core).accq, e.ctx ≠ k
    let addr := s.me.laneL.land.srcS o.a.toNat 0
    let len := s.me.laneL.land.srcS o.b.toNat 0
    let slot := o.sub.toNat % 2
    (s.allMet = false → ∀ i ∈ ([.sync h o, .ovl h o] : List Instr), ∃ t, exec i s = .next t ∧ t.cur.res = .met
      ∧ t.myLane = { s.myLane with arrived := true } ∧ ∀ m, m ≠ s.cur.lane → t.me.lane m = s.me.lane m)
    ∧ (s.allMet = true → ∃ t, exec (.sync h o) s = .next t ∧ t.cur.res = .met ∧ past t)
    ∧ (s.allMet = true → ovlOperandsOk addr len = true → ∃ t, exec (.ovl h o) s = .next t ∧ t.cur.res = .met ∧ past t
      ∧ t.me.ovl slot = ⟨.loading, addr, len.toNat⟩
      ∧ ((t.core s.me.core).imem slot) = ⟨s.me.ctrl.asid, addr, len.toNat, [], false, false⟩)
    ∧ (∃ t, exec (.endLane h o) s = .next t ∧ t.cur.res = .redirected ∧ t.myLane.ended = true
      ∧ ∀ m, m ≠ s.cur.lane → t.me.lane m = { s.me.lane m with arrived := false })

/-- TRAP and BKPT, once every lane has arrived, deliver the trap with the code of their immediate: to the user handler, else
to the system handler, with the EPCs past the word; with neither, or in a handler, the context stops for service, and where no
report rod is set up it ends. (10_control_scalar.md: TRAP, BKPT, R234, R357, R358, R363, R364.) A word that ends a loop
leaves the loop's start in the EPC, which is the model's choice (log 127). -/
def Obligations.SoftwareTraps : Prop :=
  ∀ (h : Hdr) (o : RiOps) (s : State), s.allMet = true → s.me.fatal = none → (∀ m, (s.me.lane m).parked = none) →
    let code := o.imm.toNat % 65536
    let r := s.me.ctrl
    let user := r.utvec.getLsbD 63 = true
    let system := r.tvec.getLsbD 63 = true
    let next (m : Lane) : Nat := match (endCheck s.cur.pc s.cur.pc (s.me.queues m).loops).2 with
      | some e => e.start
      | none => s.cur.pc + 1
    let saved (c : Cause) (imprecise : Bool) (t : State) : Prop :=
      t.me.ctrl.cause = causeWord c 0 imprecise ∧ t.me.ctrl.finfo = BitVec.ofNat 64 code ∧ t.me.ctrl.faddr = 0
    let inHandler (c : Cause) (hnd : BitVec 2) (v : Word) (t : State) : Prop :=
      t.me.ctrl.hnd = hnd ∧ saved c false t ∧ t.me.res = s.me.res ∧ t.me.fatal = none
      ∧ ∀ m, (t.me.lane m).pc = v.toNat % 2 ^ 14 ∧ (t.me.lane m).ended = false
        ∧ (t.me.lane m).epc = (if (s.me.lane m).ended then resumeWord (s.me.lane m).pc none else resumeWord (next m) none)
        ∧ (t.me.lane m).endedBefore = (s.me.lane m).ended ∧ (t.me.lane m).s = (s.me.lane m).s
    let noHandler : Prop := r.hnd ≠ 0 ∨ (¬ user ∧ ¬ system)
    let takes (i : Instr) (c : Cause) : Prop :=
      (r.hnd = 0 → user → ∃ t, exec i s = .next t ∧ t.cur.res = .met ∧ inHandler c 1 r.utvec t)
      ∧ (r.hnd = 0 → ¬ user → system → ∃ t, exec i s = .next t ∧ t.cur.res = .met ∧ t.me.holdsPriv = true
        ∧ inHandler c 2 r.tvec t)
      ∧ (noHandler → ∃ t, exec i s = .next t ∧ t.cur.res = .met
        ∧ ∀ m, (t.me.lane m).epc = (s.me.lane m).epc)
      ∧ (noHandler → (s.die s.myDie).repRod = none → ∃ t, exec i s = .next t ∧ t.cur.res = .met ∧ t.me.res = .stopped
        ∧ saved c true t ∧ t.me.fatal.isSome = true ∧ t.me.ctrl.hnd = r.hnd)
    takes (.trap h o) .trap ∧ takes (.bkpt h o) .bkpt

/-- VLD, VLDX, VLDB, VGATH and LDS of the scratchpad: the loaded elements reach d, and nothing else changes.
(11_vector.md: scratchpad and vector memory, R277, R278, R279, R280, R88, R101) -/
def Obligations.ScratchpadLoads : Prop :=
  ∀ (h : Hdr) (o : MemOps) (s : State) (at_ : Nat → List (List Nat)), s.scratchPending = [] →
    let w := elemBits o.sz
    let word (a : Nat) : Nat := leNat ((at_ a).flatten.map s.byteAt)
    let loaded (es : List (Nat × Nat)) (bound : Nat) : State :=
      s.wrV o.d (replaceElems w (s.curV o.d) (es.map (fun e => (e.1, word e.2)))) bound
    let ea := (s.ea o).toNat
    let act := activePositions (s.mask h) w
    (SpadReach s false (w / 8) (contiguous s h o) at_ → exec (.vld h o) s = .next (loaded (contiguous s h o) 6))
    ∧ (SpadReach s false (w / 8) (strided s h o) at_ → exec (.vldx h o) s = .next (loaded (strided s h o) 6))
    ∧ (o.sc.getLsbD 2 = true → SpadReach s false (w / 8) (indexed s h o) at_ →
        exec (.vgath h o) s = .next (loaded (indexed s h o) 0))
    ∧ (act = [] → exec (.vldb h o) s = .next s)
    ∧ (act ≠ [] → SpadReach s false (w / 8) [(0, ea)] at_ →
        exec (.vldb h o) s = .next (s.wrV o.d (replaceElems w (s.curV o.d) (act.map (fun j => (j, word ea)))) 6))
    ∧ (s.active h = true → SpadReach s false (szBytes o.sz) [(0, ea)] at_ →
        exec (.lds h o) s = .next (s.wrS o.d (extendLoad o.sz (word ea)) 4))
    ∧ (s.active h = true → s.spadSpan s.me ea (szBytes o.sz) false = none →
        exec (.lds h o) s = .next (raiseFatal s .spadAddr 0 (s.ea o)))
    ∧ (s.active h = true → s.spadSpan s.me ea (szBytes o.sz) true = none →
        exec (.sts h o) s = .next (raiseFatal s .spadAddr 0 (s.ea o)))

/-- VST, VSTX, VSCAT to the scratchpad and STS: the active elements are stored in ascending order, and nothing
else changes. (11_vector.md: scratchpad and vector memory, R277, R278, R279, R280, R282) -/
def Obligations.ScratchpadStores : Prop :=
  ∀ (h : Hdr) (o : MemOps) (s : State) (at_ : Nat → List (List Nat)),
    let w := elemBits o.sz
    let data := (s.srcE 0 o.d w)
    let stores (i : Instr) (n : Nat) (es : List (Nat × Nat)) (d : Nat → Nat) : Prop :=
      NoOthers s → SpadReach s true n es at_ →
        ∃ t, exec i s = .next t ∧ Stored s t n es at_ d ∧ SameLanes s t ∧ SameFiles s t ∧ t.cur = s.cur
    stores (.vst h o) (w / 8) (contiguous s h o) (fun j => data.getD j 0)
    ∧ stores (.vstx h o) (w / 8) (strided s h o) (fun j => data.getD j 0)
    ∧ (o.sc.getLsbD 2 = true → stores (.vscat h o) (w / 8) (indexed s h o) (fun j => data.getD j 0))
    ∧ (s.active h = true →
        stores (.sts h o) (szBytes o.sz) [(0, (s.ea o).toNat)] (fun _ => (s.srcS 0 o.d).toNat))

/-- LD, VLDG and VGATH of global memory write what the home holds, and change no byte of memory.
(13_sync_sequence.md: loads and stores, 11_vector.md: global vector memory, R109, R277, R279, R283, R321) -/
def Obligations.GlobalLoads : Prop :=
  ∀ (h : Hdr) (o : MemOps) (s : State) (at_ : Nat → Nat), Quiet s →
    let ea := (s.ea o).toNat
    let w := elemBits o.sz
    let m := szBytes o.sz
    let n := w / 8
    let good (a k : Nat) : Prop := MemReach s false anyPage a k at_ ∧ Clean s a k at_
    let word (a : Nat) : Nat := s.homeValue at_ a n
    let loaded (i : Instr) (es : List (Nat × Nat)) : Prop := ∃ t, exec i s = .next t ∧ SameBytes s t ∧ SameLanes s t
      ∧ t.me.v = s.me.v.setIfInBounds o.d.toNat (replaceElems w (s.curV o.d) (es.map (fun e => (e.1, word e.2))))
      ∧ t.me.f = s.me.f ∧ t.me.p = s.me.p ∧ t.me.acc = s.me.acc ∧ t.me.ctrl = s.me.ctrl
    (s.active h = true → (o.ord ≠ 0 → ea % m = 0) → good ea m →
      ∃ t, exec (.ld h o) s = .next t ∧ SameBytes s t ∧ SameFiles s t
        ∧ Wrote s t o.d (extendLoad o.sz (s.homeValue at_ ea m)))
    ∧ ((∀ e ∈ contiguous s h o, good e.2 n) → (∀ l ∈ linesOf n (contiguous s h o), good (64 * l) 64) →
      loaded (.vldg h o) (contiguous s h o))
    ∧ (o.sc.getLsbD 2 = false → (∀ e ∈ indexed s h o, good e.2 n) → loaded (.vgath h o) (indexed s h o))

/-- ST, VSTG and VSCAT to global memory enter the write path of the core, whose lanes then read what was stored.
(13_sync_sequence.md: loads and stores, 11_vector.md: global vector memory, R64, R111, R127, R283, R284,
R321) -/
def Obligations.GlobalStores : Prop :=
  ∀ (h : Hdr) (o : MemOps) (s : State) (at_ : Nat → Nat),
    let ea := (s.ea o).toNat
    let w := elemBits o.sz
    let data := (s.srcE 0 o.d w)
    let path (t : State) : List PendWrite := (t.core s.me.core).wpath
    let stores (i : Instr) (n : Nat) (es : List (Nat × Nat)) (d : Nat → Nat) : Prop :=
      (∀ e ∈ es, MemReach s true anyPage e.2 n at_) →
      ∃ t, exec i s = .next t ∧ SameBytes s t ∧ SameLanes s t ∧ SameFiles s t ∧ t.cur = s.cur
        ∧ path s <+: path t
        ∧ (∀ pre e post, es = pre ++ e :: post → ∀ i, i < n →
            (∀ e' ∈ post, ∀ j, j < n → at_ (e'.2 + j) ≠ at_ (e.2 + i)) →
            (∀ j, j < n → j ≠ i → at_ (e.2 + j) ≠ at_ (e.2 + i)) →
            ∀ b, overlay (path t) (at_ (e.2 + i)) b = BitVec.ofNat 8 (d e.1 / 256 ^ i))
        ∧ (∀ a b, (∀ e ∈ es, ∀ i, i < n → at_ (e.2 + i) ≠ a) → overlay (path t) a b = overlay (path s) a b)
    (s.active h = true → (o.ord ≠ 0 → ea % szBytes o.sz = 0) → (ordRel o = true → NoneFirst s s.me.core) →
      stores (.st h o) (szBytes o.sz) [(0, ea)] (fun _ => (s.srcS 0 o.d).toNat))
    ∧ ((∀ p ∈ storePieces ea (maskedBytes (w / 8) (elemCount w) (contiguous s h o) data),
          MemReach s true anyPage p.1 p.2.length at_) →
      stores (.vstg h o) (w / 8) (contiguous s h o) (fun j => data.getD j 0))
    ∧ (o.sc.getLsbD 2 = false → stores (.vscat h o) (w / 8) (indexed s h o) (fun j => data.getD j 0))

/-- A translation that fails is a precise trap at the instruction, and a misaligned ordered or atomic access
records MEM_ALIGN. (13_sync_sequence.md: loads and stores, 17_translation.md: faults, R321, R389) -/
def Obligations.GlobalAccessFaults : Prop :=
  ∀ (h : Hdr) (o : MemOps) (s : State), s.active h = true →
    let n := szBytes o.sz
    let w := s.who
    let ea := s.ea o
    let aop := s.aopEa o
    let fails (write : Bool) (va : Word) (f : TransFault) : Prop :=
      s.translate (dieOfCore w.core) w.asid w.priv write va.toNat = (.error f, s) ∧ s.walkError w.asid va.toNat = none
    (∀ f, fails false ea f → ea.toNat % n = 0 →
      exec (.ld h o) s = .next (trapHere s f.cause 0 ea))
    ∧ (∀ f, fails true ea f → ea.toNat % n = 0 → ordRel o = false →
      exec (.st h o) s = .next (trapHere s f.cause 1 ea))
    ∧ (∀ f, fails true aop f → aop.toNat % n = 0 → ordRel o = false →
      exec (.atom h o) s = .next (trapHere s f.cause 1 aop))
    ∧ (o.ord ≠ 0 → ea.toNat % n ≠ 0 → ∀ i ∈ ([.ld h o, .st h o] : List Instr),
      exec i s = .next (raiseFatal s .memAlign 0 ea))
    ∧ (aop.toNat % n ≠ 0 → ∀ i ∈ ([.waita h o, .redm h o] : List Instr),
      exec i s = .next (raiseFatal s .memAlign 0 aop))
    ∧ (aop.toNat % n ≠ 0 → ordRel o = false → exec (.atom h o) s = .next (raiseFatal s .memAlign 0 aop))

/-- ATOM and VATOM read and change their operands at the home, in ascending order of elements, and return the
old values; a VATOM leaves out what the VAMASK that its lane finds marks as done. (13_sync_sequence.md: atomics, vector
atomics, 16_contexts_traps.md: MTC, R322, R323, R327, R328, R366) -/
def Obligations.AtomicOperations : Prop :=
  ∀ (h : Hdr) (o : MemOps) (s : State) (at_ : Nat → Nat), NoneFirst s s.me.core →
    let n := szBytes o.sz
    let aop := aopCode o.off
    let ea := (s.aopEa o).toNat
    let ok := atomicPage (aop == 0 || aop == 11 || aop == 12)
    let b := bits (s.srcS 2 o.idx).toNat 0 (8 * n)
    let cmp := bits (s.srcS 0 o.d).toNat 0 (8 * n)
    let r := atomFold aop n cmp at_ (fun _ => b) [(0, ea)] s.byteAt
    let old := (r.1.headD (0, 0)).2
    let w := elemBits o.sz
    let m := w / 8
    let seen := seenNow s s.cur.ctx s.cur.lane 0x01C
    let todo := ((atomicElems s h o).filter (fun e => !(seen.getLsbD 32 && seen.getLsbD e.1))).map (fun e => (e.1, e.2.toNat))
    let data := s.srcE 0 o.d w
    let q := atomFold aop m 0 at_ (fun j => data.getD j 0) todo s.byteAt
    let touched (a : Nat) : Prop := ∃ e ∈ todo, at_ e.2 ≤ a ∧ a < at_ e.2 + m
    (s.active h = true → ea % n = 0 → MemReach s true ok ea n at_ → Clean s ea n at_ →
      ∃ t, exec (.atom h o) s = .next t ∧ (∀ a, t.byteAt a = r.2 a) ∧ SameFiles s t
        ∧ Wrote s t o.d (if o.sc.getLsbD 0 then BitVec.ofInt 64 (toSigned old (8 * n)) else BitVec.ofNat 64 old))
    ∧ ((∀ e ∈ todo, e.2 % m = 0 ∧ FirmReach s ok e.2 at_ touched
          ∧ ∀ i, i < m → s.poisoned [at_ e.2 + i] = none) → o.d.toNat < 32 →
      ∃ t, exec (.vatom h o) s = .next t ∧ (∀ a, t.byteAt a = q.2 a) ∧ t.me.ctrl.vamask = 0 ∧ SameLanes s t
        ∧ (∀ jx ∈ q.1, (elemsOf w (t.curV o.d)).getD jx.1 0 = jx.2)
        ∧ (∀ j, j < elemCount w → (∀ e ∈ todo, e.1 ≠ j) →
            (elemsOf w (t.curV o.d)).getD j 0 = (elemsOf w (s.curV o.d)).getD j 0)
        ∧ ∀ j, j ≠ o.d.toNat → t.me.v.getD j 0 = s.me.v.getD j 0)

/-- REDM and VREDM enter the write path as reductions; WAITA returns a value that meets its condition, and parks
otherwise. (13_sync_sequence.md: REDM, VREDM, WAITA, R325, R326, R327) -/
def Obligations.ReductionsAndWaits : Prop :=
  ∀ (h : Hdr) (o : MemOps) (s : State) (at_ : Nat → Nat),
    let n := szBytes o.sz
    let m := elemBits o.sz / 8
    let aop := aopCode o.off
    let ea := s.aopEa o
    let es := atomicElems s h o
    let data := s.srcE 0 o.d (elemBits o.sz)
    let path (t : State) := (t.core s.me.core).wpath.map (fun e => (e.pa, e.op, e.bytes))
    let x := s.homeValue at_ ea.toNat n
    let holds := waitCond aop (8 * n) x (bits (s.srcS 2 o.idx).toNat 0 (8 * n))
    let ready := MemReach s false (fun x => !x.host) ea.toNat n at_ ∧ Clean s ea.toNat n at_
      ∧ NoneFirst s s.me.core ∧ ea.toNat % n = 0
    ((ordRel o = true → NoneFirst s s.me.core) →
      (s.active h = true → ea.toNat % n = 0 → MemReach s true (fun x => !x.host || aop == 0) ea.toNat n at_ →
        ∃ t, exec (.redm h o) s = .next t ∧ SameBytes s t ∧ SameLanes s t ∧ SameFiles s t
          ∧ path t = path s ++ [(at_ ea.toNat, .redm aop n, (bytesOf (s.srcS 2 o.idx).toNat n).map some)])
      ∧ ((∀ e ∈ es, e.2.toNat % m = 0 ∧ MemReach s true (fun x => !x.host || aop == 0) e.2.toNat m at_) →
        ∃ t, exec (.vredm h o) s = .next t ∧ SameBytes s t ∧ SameLanes s t ∧ SameFiles s t
          ∧ path t = path s ++ es.map (fun e => (at_ e.2.toNat, .redm aop m, (bytesOf (data.getD e.1 0) m).map some))))
    ∧ (s.active h = true → ready → holds = true →
      ∃ t, exec (.waita h o) s = .next t ∧ SameBytes s t ∧ SameFiles s t ∧ Wrote s t o.d (BitVec.ofNat 64 x))
    ∧ (s.active h = true → ready → holds = false →
      ∃ t, exec (.waita h o) s = .next t ∧ t.cur.res = .parked ∧ SameBytes s t ∧ SameFiles s t ∧ SameLanes s t)

/-- FENCE, BIND, UNBIND, CINV and PRFG: what each leaves of the write path, the bindings and the caches; CINV of a range
removes the copies of the lines that the tables name for it. (13_sync_sequence.md: FENCE, BIND, UNBIND, CINV,
11_vector.md: PRFG, R122, R123, R281, R329, R330, R331.) That a BIND with no room answers FULL whatever its region is the
model's choice (log 39), and so is how soon another lane acts with a changed binding (log 56). -/
def Obligations.FencesBindingsInvalidation : Prop :=
  ∀ (h : Hdr) (o : MemOps) (r : RegOps) (s : State), s.active h = true →
    let base := s.srcS 1 r.a
    let len := (s.srcS 2 r.b).toNat
    let obj := s.srcS 3 r.c
    let binds := s.me.binds
    let keep := if r.sub.getLsbD 0 then [] else binds.filter (fun b => !(b.base == base && b.obj == obj))
    let rebound (i : Instr) (b : List Binding) (v : Word) : Prop := ∃ t, exec i s = .next t ∧ Wrote s t r.d v
      ∧ t.me.binds = b ∧ SameBytes s t ∧ SameFiles s t ∧ (∀ m, (t.me.lane m).pc = (s.me.lane m).pc)
      ∧ (s.me.rebinds = [] → t.bindsFor s.cur.ctx s.cur.lane = b)
    let l1 (t : State) := (t.core s.me.core).l1
    let rdc (t : State) := (t.die s.myDie).rdc
    let from_ := (s.srcS 1 o.base + offWord o.off).toNat
    let n := (s.srcS 2 o.idx).toNat
    let names (line : Nat) : Prop := ∃ a e, from_ ≤ a ∧ a < from_ + n ∧ 2 ^ 56 ≤ a ∧ a < 2 ^ 57
      ∧ s.walk s.me.ctrl.asid.toNat a = .ok e ∧ (e.pa + (a - e.va)) / 64 = line
    let cut (was now : Kv CacheLine) : Prop := (∀ line, names line → copyFor now line = none)
      ∧ (∀ x ∈ now, x ∈ was) ∧ (n = 0 → now = was)
      ∧ (2 ^ 56 ≤ from_ → ∀ line c, kvGet was line = some c → c.vas = [] → ¬ names line → kvGet now line = some c)
    (NoneFirst s s.me.core →
      ∃ t, exec (.fence h o) s = .next t ∧ SameBytes s t ∧ SameLanes s t ∧ SameFiles s t
        ∧ (ordAcq o = true → o.scope ≠ 0 → ∀ line, copyFor (l1 t) line = none)
        ∧ (ordAcq o = true → o.scope = 3 → ∀ line, copyFor (rdc t) line = none))
    ∧ (32 ≤ binds.length → exec (.bind h r) s = .next (s.wrS r.d 1 0))
    ∧ (binds.length < 32 → ¬(1 ≤ len ∧ len ≤ 2 ^ 48 ∧ base.toNat + len ≤ 2 ^ 57) →
        exec (.bind h r) s = .next (s.wrS r.d 2 0))
    ∧ (binds.length < 32 → 1 ≤ len → len ≤ 2 ^ 48 → base.toNat + len ≤ 2 ^ 57 →
        rebound (.bind h r) (binds ++ [⟨base, len, obj, BitVec.ofNat 2 r.sub.toNat⟩]) 0)
    ∧ rebound (.unbind h r) keep (BitVec.ofNat 64 (binds.length - keep.length))
    ∧ (∃ t, exec (.cinv h o) s = .next t ∧ SameBytes s t ∧ SameLanes s t ∧ SameFiles s t
        ∧ (2 ≤ o.sz.toNat → l1 t = []) ∧ (3 ≤ o.sz.toNat → rdc t = [])
        ∧ (o.sz.toNat < 2 → cut (l1 s) (l1 t)) ∧ (o.sz.toNat = 1 → cut (rdc s) (rdc t))
        ∧ (o.sz.toNat = 0 ∨ o.sz.toNat = 2 → rdc t = rdc s))
    ∧ (∃ t, exec (.prfg h o) s = .next t ∧ SameBytes s t ∧ SameLanes s t ∧ SameFiles s t)

/-- MZERO, MLD, MLDT, MACC queue the new accumulator; MST, MRED, MROW take elements out of it; LUTLD loads the
tables. (12_matrix_engines.md: accumulator moves, R286, R287, R288, R297, R298, R299) -/
def Obligations.AccumulatorMoves : Prop :=
  ∀ (h : Hdr) (o : MatOps) (s : State) (at_ : Nat → Nat), s.active h = true → s.scratchPending = [] →
    let acc := o.acc.toNat
    let a := s.acc acc
    let ty := o.ta.toNat
    let z := typeWidth ty / 8
    let f64 := ty == 11
    let reg := (s.srcS 1 o.a).toNat
    let sh := shapeOf (s.srcS 3 o.k).toNat f64
    let tile (tr : Bool) (e : Nat × Nat) : List Nat := tileAddrs reg (bits o.fl.toNat 3 2) z sh.n tr e.1 e.2
    let fits := sh.m ≤ (if f64 then 32 else 64) ∧ sh.n ≤ 64
    let narrow (x : Nat) : Nat := if ty < 10 then convertBits ty 10 0 false x else x
    let wide (x : Nat) : Nat := if ty < 10 then convertBits 10 ty (o.sub.toNat % 4) (o.fl.getLsbD 1) x else x
    let value (tr : Bool) (e : Nat × Nat) : Nat := leNat ((tile tr e).map (fun b => s.operand (at_ b)))
    let loaded (tr : Bool) : AccWord :=
      accSet a (viewBits f64) ((tileElems sh).map (fun e => (64 * e.1 + e.2, narrow (value tr e))))
    let w := viewBits (o.sub.getLsbD 4)
    let y := s.acc (o.sub.toNat % 4)
    let sum (e : Nat) : Nat :=
      fpAdd (fpFmt (viewType (o.sub.getLsbD 4))) (bits o.sub.toNat 2 2) (accGet a w e) (accGet y w e)
    let column (j : Nat) : Nat :=
      (redTree (redOp 10 ([0, 2, 1].getD (o.sub.toNat % 4) 0) (bits o.sub.toNat 3 2) false) 6
        ((List.range 64).map (fun i => accGet a 32 (64 * i + 32 * bits o.sub.toNat 2 1 + j)))).headD 0
    let r := (s.srcS 2 o.b).toNat
    let q := o.sub.toNat % 4
    let k := (shapeOf (s.srcS 3 o.k).toNat false).k
    let acts := operandAddrs reg 0 z k 1
    let scales := operandScales reg k 1 (o.fl.getLsbD 1)
    let lane (n : Nat) : Nat × Nat := (n / 64, n % 64)
    (AccReady s acc → exec (.mzero h o) s = .next (pendAcc s acc 0))
    ∧ (fits → OwnReach s ((tileElems sh).flatMap (tile false)) at_ → AccReady s acc →
        exec (.mld h o) s = .next (pendAcc s acc (loaded false)))
    ∧ (fits → OwnReach s ((tileElems sh).flatMap (tile true)) at_ → AccReady s acc →
        exec (.mldt h o) s = .next (pendAcc s acc (loaded true)))
    ∧ (fits → OwnReach s ((tileElems sh).flatMap (tile false)) at_ → s.accPending acc = false →
        (∀ e ∈ tileElems sh, ((tile false e).map at_).Nodup) →
        ∃ t, exec (.mst h o) s = .next t ∧ SameLanes s t ∧ SameFiles s t
          ∧ Stored s t z ((tileElems sh).map (fun e => (64 * e.1 + e.2, 64 * e.1 + e.2)))
            (fun n => [(tile false (lane n)).map at_]) (fun n => wide (accGet a (viewBits f64) n)))
    ∧ (AccReady s acc → s.accPending (o.sub.toNat % 4) = false →
        exec (.macc h o) s = .next (pendAcc s acc (accSet a w ((List.range (131072 / w)).map (fun e => (e, sum e))))))
    ∧ (s.accPending acc = false →
        exec (.mred h o) s = .next (s.wrV o.a (vword 32 ((List.range 32).map column)) 16)
        ∧ (ty = 10 → exec (.mrow h o) s = .next
            (s.wrV o.a (vword 32 ((List.range 32).map (fun j => accGet a 32 (64 * (r % 64) + 32 * q + j)))) 16))
        ∧ (ty = 9 → exec (.mrow h o) s = .next (s.wrV o.a (vword 16 ((List.range 64).map (fun j =>
            convertBits 10 9 (bits o.sub.toNat 2 2) false (accGet a 32 (64 * (r % 64) + j))))) 16))
        ∧ (ty = 11 → exec (.mrow h o) s = .next
            (s.wrV o.a (vword 64 ((List.range 16).map (fun j => accGet a 64 (64 * (r % 32) + 16 * q + j)))) 16)))
    ∧ (1 ≤ k → k ≤ 4096 → k % 4 = 0 → OwnReach s acts at_ → OwnReach s scales at_ →
        exec (.lutld h o) s = .next (s.updMe (fun c => { c with lut := ⟨k, ty, o.fl.getLsbD 1,
          acts.map (fun b => s.operand (at_ b)), scales.map (fun b => s.operand (at_ b))⟩ })))

/-- MMA adds the product of A and the transpose of B to the accumulator, in grouped order; LUTMV does so for one
row of activations. (12_matrix_engines.md: MMA, LUTMV, R44, R289, R290, R291, R292, R294, R295, R296, R300.) That LUTMV asks
nothing of bank groups (log 106), and that MATRIX_RANGE comes before SPAD_ADDR and BANK_CONFLICT (log 40), is the model's
choice. -/
def Obligations.MatrixProducts : Prop :=
  ∀ (h : Hdr) (o : MatOps) (s : State) (at_ : Nat → Nat), s.active h = true → s.scratchPending = [] →
    let acc := o.acc.toNat
    let ta := o.ta.toNat
    let tb := o.tb.toNat
    let f64 := ta == 11
    let a := (s.srcS 1 o.a).toNat
    let b := (s.srcS 2 o.b).toNat
    let reg := (s.srcS 3 o.k).toNat
    let sh := shapeOf reg f64
    let read (xs : List Nat) : List Byte := xs.map (fun x => s.operand (at_ x))
    let bsa := o.fl.getLsbD 1
    let bsb := o.fl.getLsbD 2
    let dataA := operandAddrs a (bits o.fl.toNat 3 2) (typeWidth ta / 8) sh.k sh.m
    let scaleA := operandScales a sh.k sh.m bsa
    let dataB := operandAddrs b (bits o.sub.toNat 6 2) (typeWidth tb / 8) sh.k sh.n
    let scaleB := operandScales b sh.k sh.n bsb
    let rowsA := decodeRows ta sh.k sh.m (mmaTable s o 2) bsa (read dataA) (read scaleA)
    let rowsB := decodeRows tb sh.k sh.n (mmaTable s o 3) bsb (read dataB) (read scaleB)
    let n := tb - 15
    let desc := (List.range 96).map (b + ·)
    let p := planesOf (read desc)
    let planes (m k : Nat) : List (List Machine.Num) := (List.range m).map (fun j =>
      decodePlanes n k (read (planeAddrs p n k j)) (read (planeScaleAddrs p k j)))
    let fits := 1 ≤ sh.k ∧ sh.k ≤ 4096 ∧ sh.m ≤ (if f64 then 32 else 64) ∧ sh.n ≤ 64
    let apart (xs ys : List Nat) : Prop := ∀ g ∈ groupsOf s xs, g ∉ groupsOf s ys
    let one := shapeOf reg false
    let row := bits reg 16 7
    (fits → tb < 16 → OwnReach s (dataA ++ scaleA) at_ → OwnReach s (dataB ++ scaleB) at_ →
        apart (dataA ++ scaleA) (dataB ++ scaleB) → AccReady s acc →
      exec (.mma h o) s = .next (pendAcc s acc (mmaAcc (s.acc acc) f64 (o.sub.toNat % 4) 0 rowsA rowsB)))
    ∧ (fits → 16 ≤ tb → OwnReach s desc at_ → b % 32 = 0 → planesOk p n sh.n sh.k = true →
        OwnReach s (dataA ++ scaleA) at_ → OwnReach s (planeTouched p n sh.k sh.n) at_ →
        apart (dataA ++ scaleA) (planeTouched p n sh.k sh.n) → AccReady s acc →
      exec (.mma h o) s = .next
        (pendAcc s acc (mmaAcc (s.acc acc) f64 (o.sub.toNat % 4) 0 rowsA (planes sh.n sh.k))))
    ∧ (1 ≤ one.k → one.k ≤ 4096 → one.k % 4 = 0 → one.k ≤ s.me.lut.k → one.n ≤ 64 → row < 64 →
        OwnReach s desc at_ → b % 32 = 0 → planesOk p n one.n one.k = true →
        OwnReach s (planeTouched p n one.k one.n) at_ → AccReady s acc →
      exec (.lutmv h o) s = .next (pendAcc s acc
        (mmaAcc (s.acc acc) false (o.sub.toNat % 4) row [s.me.lut.row.take one.k] (planes one.n one.k))))
    ∧ (sh.k = 0 ∨ 4096 < sh.k → exec (.mma h o) s = .next (raiseFatal s .matrixRange (0xA1 + 256) 0))

/-- COPY, COPYT, FILL, QCVT, PLANE, PREF, FSEND, FRECV and FCOLL issue a command with the next number; a length
out of range moves nothing. (12_matrix_engines.md: issue of commands, R75, R100, R302, R303, R305, R306,
R307, R308, R309, R315, R316.) That a counter without meaning is found when the command issues (log 79), and that FADDR is
then the counter's address (log 33), is the model's choice. -/
def Obligations.EngineCommandsIssue : Prop :=
  ∀ (h : Hdr) (o : EngOps) (s : State) (at_ : Nat → Nat) (rs : List Range),
      s.active h = true → CmdRoom s → s.scratchPending = [] →
    let counterOk := badCounter s (newCmd s o (draft .copy [] 0 0)) = false
    let d := (s.srcS 2 o.desc).toNat
    let block (a n : Nat) : List Byte := ((List.range n).map (a + ·)).map (fun x => s.byteAt (at_ x))
    let reads (a n : Nat) : Prop := a % 32 = 0 ∧ OwnReach s ((List.range n).map (a + ·)) at_
    let bs := block d 32
    let moved := blkRows bs * blkRb bs
    let dp := block (s.srcS 0 o.dst).toNat 96
    let p := planesOf dp
    let n := o.sub.toNat % 8 + 1
    let nr := bits (s.srcS 2 o.desc).toNat 32 32
    let issuesWith (i : Instr) (dr : Draft) (ms : List Range) : Prop := counterOk →
      (newCmd s o dr).rangesFrom s 0 = .ok rs →
      ∃ t c, exec i s = .next t ∧ Issues s t c ∧ Takes s c o ∧ c.kind = dr.kind ∧ c.blk = dr.blk ∧ c.len = dr.len
        ∧ c.ranges = rs ++ ms ∧ c.board = boardOf (rs ++ ms) ∧ c.ends = dr.ends ∧ c.grp = dr.grp ∧ SameBytes s t ∧ SameLanes s t ∧ SameFiles s t
    let issues (i : Instr) (dr : Draft) : Prop := issuesWith i dr []
    let shaped := o.fl.getLsbD 4
    let group := groupOfPart s s.me.part
    let me := (group.map (fun kg => kg.2.rank)).getD 0
    let die := s.die s.myDie
    let peer (w : Word) (ks : Kv Nat) : Nat × Nat × Nat × Nat :=
      let r := bits w.toNat 20 3
      let key := bits w.toNat 0 16 + 2 ^ 16 * bits w.toNat 16 4 + 2 ^ 20 * r
      (if r = me then 8 else r, bits w.toNat 16 4, bits w.toNat 0 16, (kvGet ks key).getD 0)
    let known (w : Word) : Prop := bits w.toNat 20 3 < (group.map (fun kg => kg.2.g)).getD 1
    (d < 2 ^ 40 → issues (.copy h o) (draft .copy [] d 0))
    ∧ (reads d 32 → shapeOk bs = true → (o.sub.getLsbD 4 = true → blkRb bs % 2 ^ bits (blkWord bs 3) 0 2 = 0) →
        issues (.copyt h o) (draft .copyt bs moved 0))
    ∧ (d < 2 ^ 40 → d % 2 ^ (o.sub.toNat % 4) = 0 → issues (.fill h o) (draft .fill [] d 0))
    ∧ (reads d 32 → bits (blkWord bs 0) 0 40 % 32 = 0 →
        issues (.qcvt h o) (draft .qcvt bs (bits (blkWord bs 0) 0 40) 0))
    ∧ (reads (s.srcS 0 o.dst).toNat 96 → planeDstOk p n nr = true → (s.srcS 1 o.src).toNat % 32 = 0 →
        issues (.plane h o) (draft .plane dp (n * (nr * p.kp / 8) + nr * p.kp / 64) 0))
    ∧ issues (.pref h o) (draft .pref [] d 0)
    ∧ (known (s.srcS 0 o.dst) → shaped = false →
        issues (.fsend h o) ⟨.fsend, [], d, 0, peer (s.srcS 0 o.dst) die.sends, 0, group.map (·.1)⟩)
    ∧ (known (s.srcS 0 o.dst) → shaped = true → reads d 32 → shapeOk bs = true →
        issues (.fsend h o) ⟨.fsend, bs, moved, 0, peer (s.srcS 0 o.dst) die.sends, 0, group.map (·.1)⟩)
    ∧ (known (s.srcS 1 o.src) → shaped = false →
        issues (.frecv h o) ⟨.frecv, [], d, 0, peer (s.srcS 1 o.src) die.recvs, 0, group.map (·.1)⟩)
    ∧ (known (s.srcS 1 o.src) → shaped = true → reads d 32 → shapeOk bs = true →
        issues (.frecv h o) ⟨.frecv, bs, moved, 0, peer (s.srcS 1 o.src) die.recvs, 0, group.map (·.1)⟩)
    ∧ (∀ key g ms, reads d 32 → groupOfHandle s (collGrp bs) = some (key, g) → g.st = .formed → collOk bs g.g = true →
        (if o.fl.getLsbD 3 = true then
          addSpots s s.cur.ctx false false ((List.range (collBytes bs)).map (fun i => ⟨true, (s.srcS 1 o.src).toNat + i⟩)) []
            = .ok ms
        else ms = []) →
        issuesWith (.fcoll h o) ⟨.fcoll, bs, collDst bs g.g, 0, (key, g.issued, 0, 0), 0, some key⟩ ms)
    ∧ (2 ^ 40 ≤ d → s.srcS 3 o.ctr = 0 → ∃ t, exec (.copy h o) s = .next t
        ∧ t.myLane.eseq = s.myLane.eseq + 1 ∧ SameBytes s t ∧ SameFiles s t
        ∧ ∀ c ∈ t.cmds, c.named s.cur.ctx s.cur.lane (s.myLane.eseq + 1) = false)
    ∧ (¬ counterOk → ∀ i ∈ ([.copy h o, .fill h o, .pref h o] : List Instr), exec i s = .next
        (recordFatal s s.cur.ctx .spadAddr (laneCode s.cur.lane) 0 (s.srcS 3 o.ctr) (some (s.cur.pc + s.cur.slot))
          (some (s.cur.lane, s.myLane.eseq + 1))))

/-- WAITC and TESTC read a counter and join what it includes; TESTC.q reports a command; CSET writes a counter;
EDEP names predecessors. (12_matrix_engines.md: completion counters, R131, R311, R312, R313, R314, R77) -/
def Obligations.CompletionCounters : Prop :=
  ∀ (h : Hdr) (o : RegOps) (s : State) (loc : Nat), s.active h = true →
    let a := s.srcS 1 o.a
    let b := (s.srcS 2 o.b).toNat
    let sp := o.sub.getLsbD 0
    let v := s.readNat loc 8
    let joins (t : State) : Prop := ∀ i ∈ s.incs, ∀ l n, i.loc = loc → i.ctx = s.cur.ctx → i.name = some (l, n) →
      cmdKey l n ∈ t.myLane.joined
    let cmd := (laneOfCode (bits a.toNat 16 2)).bind (fun l => s.cmdOf s.cur.ctx l (BitVec.ofNat 16 a.toNat))
    (CounterAt s sp false a.toNat loc →
      (b ≤ v → ∃ t, exec (.waitc h o) s = .next t ∧ Wrote s t o.d (BitVec.ofNat 64 v) ∧ SameBytes s t
        ∧ SameFiles s t ∧ joins t)
      ∧ (v < b → ∃ t, exec (.waitc h o) s = .next t ∧ t.cur.res = .parked ∧ SameBytes s t ∧ SameFiles s t
        ∧ SameLanes s t)
      ∧ (b ≤ v → ∃ t, exec (.testc h o) s = .next t ∧ Wrote s t o.d 1 ∧ SameBytes s t ∧ SameFiles s t ∧ joins t)
      ∧ (v < b → ∃ t, exec (.testc h o) s = .next t ∧ Wrote s t o.d 0 ∧ SameBytes s t ∧ SameFiles s t
        ∧ t.myLane.joined = s.myLane.joined))
    ∧ (cmd = none → exec (.testcQ h o) s = .next (s.wrS o.d 0 0))
    ∧ (∀ c, cmd = some c → exec (.testcQ h o) s = .next (s.wrS o.d
        (BitVec.ofNat 64 (1024 + (if c.phase = .held ∧ c.fault.isSome then 512 else 0) + 65536 * (c.off % 2 ^ 48))) 0))
    ∧ (CounterAt s sp true a.toNat loc → ∃ t, exec (.cset h o) s = .next t ∧ t.readNat loc 8 = b
        ∧ SameOutside s t loc 8 ∧ SameLanes s t ∧ SameFiles s t ∧ ∀ i, i ∈ t.incs ↔ i ∈ s.incs ∧ i.loc ≠ loc)
    ∧ exec (.edep h o) s = .next (s.updMyLane (fun x =>
        { x with edep := some (BitVec.ofNat 18 a.toNat, BitVec.ofNat 18 b) }))

/-- Engine command events: a start moves a prefix, a completion moves every byte as its kind of command says and retires
the command, a steal moves it to a sibling. (12_matrix_engines.md: command life, 03_execution.md: engine commands,
07_kv_pages.md: KVAPP, PSEL, R77, R78, R302, R305, R306, R307, R308, R309, R310, R315, R344) -/
def Obligations.EngineCommandEvents : Prop :=
  ∀ (s : State) (c : EngCmd) (src dst lines : Nat → Nat), s.evCmd = some c → c.predsDone = true → c.phase ≠ .held →
      c.idle = false → s.scratchPending = [] →
      c.named s.cur.ev.ctx s.cur.ev.lane (BitVec.ofNat 16 s.cur.ev.num) = true →
    let n := c.len
    let moved (t : State) (k : Nat) : Prop := (∀ i, i < k → t.byteAt (dst i) = s.byteAt (src i))
      ∧ ∀ a, (∀ i, i < k → dst i ≠ a) → t.byteAt a = s.byteAt a
    let now (t : State) : Option EngCmd := t.cmdOf c.ctx c.lane c.num
    let w := s.cmdWho c
    let dsp := c.fl.getLsbD 2
    let ssp := c.fl.getLsbD 3
    let byte (i : Nat) : Byte := s.byteAt (src i)
    let number (lo k : Nat) : Nat := leNat ((List.range k).map (fun i => byte (lo + i)))
    let spad (base : Word) (write : Bool) (at_ : Nat → Nat) (k : Nat) : Prop := ∀ i, i < k →
      EngineAt s c write lines ⟨true, offsetBy base (i : Nat)⟩ (at_ i) ∧ (write = false → s.poisoned [at_ i] = none)
    let apart (k : Nat) : Prop := ∀ i j, i < k → j < k → dst i = dst j → i = j
    let completes (m k : Nat) (from_ dest : Nat → Spot) (value : Nat → Byte) : Prop :=
      FreshCopies s (dieOfCore c.core) → c.ctr = 0 →
      (∀ i, i < m → EngineAt s c false lines (from_ i) (src i) ∧ s.poisoned [src i] = none) →
      (∀ i, i < k → EngineAt s c true lines (dest i) (dst i)) → (∀ i j, i < m → j < k → src i ≠ dst j) → apart k →
      ∃ t, exec .engineCommandComplete s = .next t ∧ now t = none ∧ (∀ i, i < k → t.byteAt (dst i) = value i)
        ∧ ∀ a, (∀ i, i < k → dst i ≠ a) → t.byteAt a = s.byteAt a
    let unbegun := c.phase = .queued ∧ c.off = 0 ∧ c.data = []
    let rb := blkRb c.blk
    let stride (side : Nat) : Int := toSigned (blkWord c.blk side) 64
    let walk (side i : Nat) : Int := if c.fl.getLsbD 4 = true then (i / rb : Nat) * stride side + (i % rb : Nat) else i
    (c.kind = .copy → c.phase = .queued → c.off = 0 → c.data = [] → c.sub = 0 → c.fl = 0b001100 → c.ctr = 0 →
        (∀ i, i < n → s.spadSpan (s.ctx c.ctx) (offsetBy c.src (i : Nat)) 1 false = some [[src i]]
          ∧ s.spadSpan (s.ctx c.ctx) (offsetBy c.dst (i : Nat)) 1 true = some [[dst i]]
          ∧ s.poisoned [src i] = none) →
        (∀ i j, i < n → j < n → src i ≠ dst j ∧ (dst i = dst j → i = j)) →
      (∃ t d, exec .engineCommandStart s = .next t ∧ now t = some d ∧ d.phase = .started ∧ d.off ≤ n ∧ moved t d.off)
      ∧ (∃ t, exec .engineCommandComplete s = .next t ∧ now t = none ∧ moved t n))
    ∧ (c.kind = .copy → unbegun → c.sub = 0 →
        completes n n (fun i => ⟨ssp, offsetBy c.src (i : Nat)⟩) (fun i => ⟨dsp, offsetBy c.dst (i : Nat)⟩) byte)
    ∧ (c.kind = .copyt → unbegun → c.fl.getLsbD 4 = true → n = blkRows c.blk * rb →
        (c.sub = 0 → completes n n (fun i => ⟨ssp, offsetBy c.src (walk 1 i)⟩) (fun i => ⟨dsp, offsetBy c.dst (walk 2 i)⟩) byte)
        ∧ (c.sub = 16 → let e := 2 ^ bits (blkWord c.blk 3) 0 2
          rb % e = 0 → completes n n (fun i => ⟨ssp, offsetBy c.src (walk 1 i)⟩)
            (fun i => ⟨dsp, offsetBy c.dst ((i % rb / e : Nat) * stride 2 + (i / rb * e + i % e : Nat))⟩) byte))
    ∧ (c.kind = .fill → unbegun → completes 0 n (fun _ => default) (fun i => ⟨dsp, offsetBy c.dst (i : Nat)⟩)
        (fun i => BitVec.ofNat 8 (c.src.toNat / 256 ^ (i % 2 ^ (c.sub.toNat % 4)))))
    ∧ (c.kind = .qcvt → unbegun → n % 32 = 0 →
        let half := c.sub.getLsbD 5
        let z := if half = true then 2 else 4
        let ty := c.sub.toNat % 32
        let given := c.sub.getLsbD 6
        let xs (u : Nat) : List Machine.Num := (List.range 32).map (fun i =>
          decodeNum (if half = true then 9 else 10) (number ((32 * u + i) * z) z))
        let scale (u : Nat) : Nat := if given = true then bits (blkWord c.blk 2) 0 8 else chooseScale ty (xs u)
        let code (u i : Nat) : Nat := (((xs u).map (blockEncode ty (scale u) (!given))).getD i (0, false)).1
        completes (n * z) (n + n / 32) (fun i => ⟨ssp, offsetBy c.src (i : Nat)⟩)
          (fun i => ⟨dsp, if i < n then offsetBy c.dst (i : Nat) else offsetBy (BitVec.ofNat 64 (blkWord c.blk 1)) (i - n : Nat)⟩)
          (fun i => BitVec.ofNat 8 (if i < n then code (i / 32) (i % 32) else scale (i - n))))
    ∧ (c.kind = .plane → unbegun → c.blk.length = 96 → c.code = 0 →
        let tgt := planesOf c.blk
        let p := planesOf ((List.range 96).map byte)
        let k := c.sub.toNat % 8 + 1
        let row0 := bits c.desc.toNat 0 32
        let nr := bits c.desc.toNat 32 32
        let spot (q : Planes) (row i : Nat) : Nat :=
          let run := nr * q.kp / 8
          if i < k * run then q.base.getD (i / run) 0 + row * q.kp / 8 + i % run else q.sb + row * (q.kp / 64) + (i - k * run)
        p.sp = false → row0 + nr ≤ p.nr → p.ke = tgt.ke → k ≤ p.np → p.np ≤ 8 →
        completes (96 + n) n (fun i => ⟨false, if i < 96 then offsetBy c.src (i : Nat) else spot p row0 (i - 96) % 2 ^ 64⟩)
          (fun i => ⟨true, spot tgt 0 i⟩) (fun i => byte (96 + i)))
    ∧ (∀ m (val : Nat → Byte), c.kind = .frecv → c.acked = false → c.off = 0 → c.ends.1 = 8 → sendFor s c = some m →
        m.named c.ctx c.lane c.num = false → min m.len n ≤ m.off → (∀ i, i < min m.len n → m.data[i]? = some (some (val i))) →
        completes 0 (min m.len n) (fun _ => default) (fun i => ⟨dsp, offsetBy c.dst (walk 2 i)⟩) val
        ∧ (n = 0 → c.ctr = 0 → ∃ t d, exec .engineCommandComplete s = .next t ∧ t.cmdOf m.ctx m.lane m.num = some d
            ∧ d.acked = true ∧ d.off = 0 ∧ d.code = if m.len = 0 then 0 else 2))
    ∧ (c.kind = .fsend → c.ctr = 0 → (c.acked = true → unreachable s c = false →
          ∃ t, exec .engineCommandComplete s = .next t ∧ now t = none ∧ SameBytes s t)
        ∧ (c.acked = false → c.ends.1 = 8 → unbegun → FreshCopies s (dieOfCore c.core) →
          (∀ i, i < n → EngineAt s c false lines ⟨ssp, offsetBy c.src (walk 1 i)⟩ (src i) ∧ s.poisoned [src i] = none) →
          exec .engineCommandComplete s = .next s
          ∧ ∃ t d, exec .engineCommandStart s = .next t ∧ now t = some d ∧ d.off ≤ n ∧ SameBytes s t
            ∧ d.data = (List.range d.off).map (fun i => some (byte i))))
    ∧ (∀ b p v1 v2 bl pl sl gl, c.kind = .kvapp → c.kvNapp = true → c.kvSet = none → c.off = 0 → c.code = 0 → c.ctr = 0 →
        let k := bits c.desc.toNat 32 5
        let row := bits c.desc.toNat 0 32 % 16
        let g := bits c.desc.toNat 40 4
        let token := p.sections * (2 * p.d)
        let page : Region := ([w], p.store c.kvPage g 0, p.pageBytes 0, gl)
        n = k * token → row + k ≤ 16 → Runs s (btdAt w c.dst.toNat) b v1 → Runs s (poolAt w b.pool) p v2 → c.kvPage < p.npages →
        FirmRegions s [([w], b.pool, 64, pl), ([w], p.psa + 8 * c.kvPage, 8, sl)] [([w], c.dst.toNat, 64, bl), page] →
        bits (s.readNat sl 8) 0 2 ≠ 0 → bits (s.readNat sl 8) 2 2 = 0 → bits (s.readNat sl 8) 4 1 = 0 →
        spad c.src false src n → (∀ i, i < n → ¬ inRegions [([w], c.dst.toNat, 64, bl), page] (src i)) →
        ∃ t, exec .engineCommandComplete s = .next t ∧ now t = none ∧ t.readNat (bl + 0x3C) 2 = b.napp - 1
          ∧ ∀ i, i < k → ∀ y, y < p.sections → ∀ z, z < 2 * p.d →
            t.byteAt (gl + y * (32 * p.d) + (row + i) * (2 * p.d) + z) = byte (i * token + y * (2 * p.d) + z))
    ∧ (∀ v b p v1 v2 bl pl (sl kl : Nat → Nat), c.kind = .psel → c.pinned = some v → c.code = 0 → c.acked = false → c.ctr = 0 →
        FreshCopies s (dieOfCore c.core) →
        let q := selBlk c.blk
        let ent (j : Nat) : Nat := leNat ((c.blk.drop (36 + 4 * j)).take 4)
        let rows (j : Nat) : Nat := committedRows (leNat ((c.blk.drop 32).take 4)) (q.e0 + j)
        let live := (List.range q.ne).filter (fun j => ent j != noEntry && rows j != 0)
        let word (j : Nat) : Nat := s.readNat (sl j) 8
        let query := (List.range p.d).map (fun i => decodeNum 9 (number (2 * i) 2))
        let key (j t : Nat) : List Machine.Num :=
          (List.range p.d).map (fun i => decodeNum 9 (s.readNat (kl j + 2 * t * p.d + 2 * i) 2))
        let score (j : Nat) : Nat := bestScore ((List.range (rows j)).map (fun t => rowScore query (key j t)))
        let ranked := (live.map (fun j => (q.e0 + j, score j))).foldl (fun l a => rankInsert a l) []
        let out := (ranked.take q.k).flatMap (fun a => packNats 4 [a.1, a.2])
        c.blk.length = 36 + 4 * q.ne → Runs s (btdAt w q.bt) b v1 → Runs s (poolAt w b.pool) p v2 → (∀ x ∈ b.rets, x = noEntry) →
        FirmRegions s (([w], b.pool, 64, pl) :: live.flatMap (fun j => [([w], p.psa + 8 * ent j, 8, sl j),
          ([w], p.store (ent j) q.g 0 + (q.l * 2 * p.nh + q.h) * (32 * p.d), 32 * p.d, kl j)])) [([w], q.bt, 64, bl)] →
        (∀ j ∈ live, ent j < p.npages ∧ bits (word j) 0 2 ≠ 0 ∧ bits (word j) 2 2 = 0 ∧ bits (word j) 4 1 = 0) →
        spad c.src false src (2 * p.d) → spad c.dst true dst out.length → apart out.length →
        (∀ i, i < out.length → dst i < bl ∨ bl + 64 ≤ dst i) →
        ∃ t, exec .engineCommandComplete s = .next t ∧ now t = none ∧ (∀ i, i < out.length → t.byteAt (dst i) = out.getD i 0)
          ∧ t.readNat (bl + 0x20 + 2 * (v.toNat % 4)) 2 = b.pins.getD (v.toNat % 4) 0 - 1)
    ∧ (c.kind = .pref ∨ c.kind = .fcoll → ∃ t, exec .engineCommandStart s = .next t
        ∧ now t = some { c with phase := .started } ∧ SameBytes s t)
    ∧ (∀ k, c.fl.getLsbD 0 = true → c.phase = .queued → isService c.core = false →
        ((List.range 4).map (fun i => c.core / 4 * 4 + i)).find? (fun j => j != c.core && engineIdle s j) = some k →
        exec .relocSteal s = .next (s.putCmd { c with runOn := k }))
    ∧ (∀ f, c.kind = .fill → c.off = 0 → 0 < n → c.fl.getLsbD 2 = false → c.fl.getLsbD 4 = false →
        s.translate (dieOfCore c.core) c.asid.toNat (s.cmdWho c).priv true c.dst.toNat = (.error f, s) →
        s.walkError c.asid.toNat c.dst.toNat = none →
        pageAwaited s c.asid.toNat c.dst.toNat = true →
        ∃ t d, exec .engineTranslationFault s = .next t ∧ now t = some d ∧ d.phase = .held ∧ d.off = 0
          ∧ d.fault = some (f.kind, true, c.dst) ∧ SameBytes s t)

/-- Collectives: a report is recorded, a decision gives every member its destination, and a break ends what is
not decided. (19_links_fabric.md: collectives, R422, R426, R427, R428) -/
def Obligations.CollectiveEvents : Prop :=
  ∀ (s : State),
    let key := s.cur.ev.a
    let g := s.group key
    let b := s.cur.ev.b
    let mine := collCmd s key g.decided
    let waits := ∃ c ∈ s.cmds, c.kind = .fcoll ∧ c.idle = false ∧ c.grp = some key ∧ c.acked = false
    let breakDue := if g.rank = 0 then g.breakReq = true else b = 3
    let all := ∀ r, r < g.g → ∃ x ∈ g.reports, x.1 = r
    let sources (c : EngCmd) : List (List Byte) := (List.range g.g).map (fun r =>
      padTo (collBytes c.blk) (((g.reports.find? (fun x => x.1 == r)).map (·.2)).getD []))
    let broken (i : Instr) : Prop := ∃ t, exec i s = .next t ∧ (t.group key).st = .broken
      ∧ ∀ c ∈ t.cmds, c.kind = .fcoll → c.grp = some key → c.idle = false → c.acked = true
    g.st = .formed →
      (b ≠ g.rank → b < g.g → (∀ x ∈ g.reports, x.1 ≠ b) → ∃ t, exec .fcollMemberReport s = .next t
        ∧ (t.group key).reports = g.reports ++ [(b, s.cur.ev.bytes)] ∧ t.cmds = s.cmds ∧ SameBytes s t)
      ∧ (all → ¬ breakDue → ∃ t, exec .fcollDecision s = .next t ∧ (t.group key).decided = g.decided + 1
        ∧ (t.group key).reports = [] ∧ (t.group key).breakReq = false ∧ SameBytes s t
        ∧ ∀ c, mine = some c → ∃ d, t.cmdOf c.ctx c.lane c.num = some d ∧ d.acked = true ∧ d.code = 0
          ∧ (collOp c.blk = 1 → d.data = (sources c).flatten.map some))
      ∧ (breakDue → broken .fcollDecision)
      ∧ (waits ∨ g.rank = 0 → ∃ t, exec .fcollRtoExpiry s = .next t ∧ (t.group key).breakReq = true
          ∧ (t.group key).st = .formed ∧ t.cmds = s.cmds ∧ SameBytes s t)
      ∧ (waits → g.breakReq = true → g.rank ≠ 0 → broken .fcollHomeSilentExpiry)

/-- ENQ puts a bead in the next slot, DEQ takes the oldest, RODQRY reports; full, empty and wrong-size
operations return their status. (06_rods.md: operations, R139, R144, R146, R150, R333, R334) -/
def Obligations.RodTransfers : Prop :=
  ∀ (h : Hdr) (o : RegOps) (s : State) (r : RodRef) (bead slot : List Nat),
      s.active h = true → s.scratchPending = [] → NoneFirst s s.me.core →
      r.addr = s.srcS 1 o.a → r.sp = o.sub.getLsbD 0 → RodReach s r → RodSound s r → NoWaiters s r.loc →
    let n := (s.srcS 3 o.c).toNat
    let b := (s.srcS 2 o.b).toNat
    let size := 2 ^ rodElsz s r.loc
    let free := rodFree s r.loc
    let rsv := rodRsv s r.loc
    let head := rodHead s r.loc
    let status := rodStatus s r.loc
    let span (m : Nat) : Prop := s.spadSpan s.me b m false = some [bead] ∧ s.boardHit s.cur.ctx bead = false
      ∧ s.poisoned bead = none ∧ ∀ a ∈ bead, a < r.loc ∨ r.loc + 64 ≤ a
    let apart (t : State) : Prop := ∀ a, (a < r.loc ∨ r.loc + 64 ≤ a) → t.byteAt a = s.byteAt a
    let counts (t : State) : Prop := rodHead t r.loc = head ∧ rodTail t r.loc = rodTail s r.loc ∧ rodRsv t r.loc = rsv
      ∧ rodFree t r.loc = free ∧ rodStatus t r.loc = status
    let answers (i : Instr) (v : Word) : Prop := ∃ t, exec i s = .next t ∧ Wrote s t o.d v ∧ apart t ∧ counts t
      ∧ SameFiles s t
    (span n → n ≤ 2 ^ 21 →
      (status = 0 → n = size → free ≠ 0 → SlotAt s r rsv true slot →
        ∃ t, exec (.enq h o) s = .next t ∧ (∀ j, j < n → t.byteAt (slot.getD j 0) = s.byteAt (bead.getD j 0))
          ∧ rodRsv t r.loc = (rsv + 1) % 2 ^ 64 ∧ rodFree t r.loc = free - 1 ∧ rodHead t r.loc = head
          ∧ ((rodTail t r.loc = (rsv + 1) % 2 ^ 64 ∧ Wrote s t o.d (resultWord 0 (rsv % 2 ^ 56)))
            ∨ (rodTail t r.loc = rodTail s r.loc ∧ t.cur.res = .parked ∧ SameLanes s t))
          ∧ ∀ a, a ∉ slot → (a < r.loc ∨ r.loc + 64 ≤ a) → t.byteAt a = s.byteAt a)
      ∧ (status = 0 → n = size → free = 0 → o.mod.getLsbD 0 = true → answers (.enq h o) (resultWord 2 0))
      ∧ (status = 0 → n ≠ size → answers (.enq h o) (resultWord 5 0))
      ∧ (status = 1 → answers (.enq h o) (resultWord 3 0)))
    ∧ (span n → n ≤ 2 ^ 21 → bead.Nodup →
      (n = size → rodTail s r.loc ≠ head → SlotAt s r head false slot → s.poisoned slot = none → BeadStands s r head slot →
        ∃ t, exec (.deq h o) s = .next t ∧ (∀ j, j < n → t.byteAt (bead.getD j 0) = s.byteAt (slot.getD j 0))
          ∧ rodHead t r.loc = (head + 1) % 2 ^ 64 ∧ rodFree t r.loc = (free + 1) % 2 ^ 64 ∧ rodRsv t r.loc = rsv
          ∧ rodTail t r.loc = rodTail s r.loc ∧ Wrote s t o.d (resultWord 0 (head % 2 ^ 56))
          ∧ ∀ a, a ∉ bead → (a < r.loc ∨ r.loc + 64 ≤ a) → t.byteAt a = s.byteAt a)
      ∧ (n = size → rodTail s r.loc = head → status = 0 → o.mod.getLsbD 0 = true → answers (.deq h o) (resultWord 1 0))
      ∧ (n = size → rodTail s r.loc = head → status = 1 → answers (.deq h o) (resultWord 3 0))
      ∧ (n ≠ size → answers (.deq h o) (resultWord 5 0)))
    ∧ (span 32 → b % 8 = 0 → bead.Nodup →
      ∃ t, exec (.rodqry h o) s = .next t ∧ Wrote s t o.d (resultWord 0 0)
        ∧ bead.map t.byteAt = packNats 8 [head, rodTail s r.loc, rsv, status + 2 ^ 8 * s.field (r.loc + 0x38) 8 4]
        ∧ counts t ∧ ∀ a, a ∉ bead → (a < r.loc ∨ r.loc + 64 ≤ a) → t.byteAt a = s.byteAt a)

/-- RODINIT, RODCLOSE and RODADM: an initialised rod is sound and empty; close, drain, reopen, repair and retire
change what they name. (06_rods.md: life of a rod, R140, R149, R153, R154, R155, R334) -/
def Obligations.RodAdministration : Prop :=
  ∀ (h : Hdr) (o : RegOps) (q : SysOps) (s : State) (r : RodRef), s.active h = true →
    let base := (s.srcS 2 o.b).toNat
    let c := (s.srcS 3 o.c).toNat
    let flags := if s.me.holdsPriv then bits c 16 3 else 0
    let ok := rodInitOk s r base (bits c 0 8) (bits c 8 8) flags
    let named := r.addr = s.srcS 1 o.a ∧ r.sp = o.sub.getLsbD 0 ∧ RodReach s r ∧ NoWaiters s r.loc
    let admin := r.addr = s.srcS 1 q.a ∧ r.sp = false ∧ RodReach s r ∧ NoWaiters s r.loc ∧ s.me.holdsPriv = true
      ∧ rodCheck12 s r = .ok ∧ rodTail s r.loc = rodRsv s r.loc
    let held := dist64 (rodHead s r.loc) (rodTail s r.loc)
    let only (t : State) : Prop := SameOutside s t r.loc 64 ∧ SameFiles s t
    (named → ok = true → ∃ t, exec (.rodinit h o) s = .next t ∧ Wrote s t o.d (resultWord 0 0) ∧ only t
        ∧ rodCheck12 t r = .ok ∧ rodCheck37 t r = .ok ∧ rodStatus t r.loc = 0 ∧ rodHead t r.loc = 0
        ∧ rodTail t r.loc = 0 ∧ rodRsv t r.loc = 0 ∧ rodFree t r.loc = 2 ^ bits c 8 8 ∧ rodBase t r.loc = base
        ∧ rodElsz t r.loc = bits c 0 8)
    ∧ (named → ok = false → ∃ t, exec (.rodinit h o) s = .next t ∧ Wrote s t o.d (resultWord 5 0) ∧ SameBytes s t
        ∧ SameFiles s t)
    ∧ (named → NoneFirst s s.me.core → RodSound s r → rodStatus s r.loc = 0 →
        ∃ t, exec (.rodclose h o) s = .next t ∧ Wrote s t o.d (resultWord 0 0) ∧ only t ∧ rodStatus t r.loc = 1)
    ∧ (admin →
        (∃ t, exec (.rodadmDrain h q) s = .next t ∧ Wrote s t q.d (resultWord 0 (held % 2 ^ 56)) ∧ only t
          ∧ rodHead t r.loc = rodTail s r.loc ∧ rodFree t r.loc = rodCap s r.loc % 2 ^ 64)
        ∧ (∃ t, exec (.rodadmReopen h q) s = .next t ∧ Wrote s t q.d (resultWord 0 0) ∧ only t ∧ rodStatus t r.loc = 0)
        ∧ (∃ t, exec (.rodadmRetire h q) s = .next t ∧ Wrote s t q.d (resultWord 0 0) ∧ only t ∧ t.field r.loc 0 16 = 0))
    ∧ (r.addr = s.srcS 1 q.a → r.sp = false → RodReach s r → NoWaiters s r.loc → s.me.holdsPriv = true →
        rodCheck12 s r = .quarantined → rodFieldsOk s r = true → rodTail s r.loc = rodRsv s r.loc → held ≤ rodCap s r.loc →
        ∃ t, exec (.rodadmRepair h q) s = .next t ∧ Wrote s t q.d (resultWord 0 held) ∧ only t
          ∧ rodStatus t r.loc = 0 ∧ rodFree t r.loc = rodCap s r.loc - held ∧ rodCheck12 t r = .ok)
    ∧ (s.me.holdsPriv = false → ∀ i ∈ ([.rodadmDrain h q, .rodadmReopen h q, .rodadmRepair h q, .rodadmRetire h q] :
        List Instr), exec i s = .next (trapHere s .privilege 0xEB 0))

/-- BAR.init, BAR.arr, BAR.w, BAR.wt on a 64-byte aligned block: arrivals count up, the last one starts the next phase, and
waits return the phase; a BAR.w that issues again waits for the phase in which it has arrived, and BAR.init with COUNT 0 is
BUSY. (13_sync_sequence.md: barriers, R335, R336, R337.) What a block at another address does is left to the model's choice
(log 87), and nothing is stated of it. -/
def Obligations.Barriers : Prop :=
  ∀ (h : Hdr) (o : RegOps) (s : State) (l : Nat), s.active h = true → (s.srcS 1 o.a).toNat % 64 = 0 →
      ObjectAt s (s.srcS 1 o.a) l → NoWaiters s l →
    let n := barCount s l
    let k := barArrived s l
    let p := barPhaseAt s l
    let b := (s.srcS 2 o.b).toNat % 2 ^ 32
    let waited := (s.me.queues s.cur.lane).barPhase
    let fresh := s.myLane.rslot = none ∨ waited = none
    let ends (i : Instr) (v : Word) (arrived phase : Nat) : Prop := ∃ t, exec i s = .next t ∧ Wrote s t o.d v
      ∧ barArrived t l = arrived ∧ barPhaseAt t l = phase ∧ barCount t l = n ∧ SameOutside s t l 24 ∧ SameFiles s t
    let parks (i : Instr) (arrived : Nat) : Prop := ∃ t, exec i s = .next t ∧ t.cur.res = .parked ∧ SameLanes s t
      ∧ barArrived t l = arrived ∧ barPhaseAt t l = p ∧ barCount t l = n ∧ SameOutside s t l 24
    (barOk s l = true →
      (k + 1 < n → ends (.barArr h o) (resultHigh 0 p) (k + 1) p ∧ (fresh → parks (.barW h o) (k + 1)))
      ∧ (k + 1 = n → ends (.barArr h o) (resultHigh 0 p) 0 ((p + 1) % 2 ^ 32)
        ∧ (fresh → ends (.barW h o) (resultHigh 0 p) 0 ((p + 1) % 2 ^ 32)))
      ∧ (∀ q, s.myLane.rslot.isSome = true → waited = some q → (q.toNat ≠ p → ends (.barW h o) (resultHigh 0 q.toNat) k p)
        ∧ (q.toNat = p → parks (.barW h o) k))
      ∧ (phasePassed p b = true → ends (.barWt h o) (resultHigh 0 b) k p)
      ∧ (phasePassed p b = false → parks (.barWt h o) k))
    ∧ (barOk s l = false → ∀ i ∈ ([.barArr h o, .barW h o, .barWt h o] : List Instr), ∃ t, exec i s = .next t
        ∧ SameBytes s t ∧ (s.me.fatal = none → s.me.res ≠ .gone → (kvGet s.ctxs s.cur.ctx).isSome = true →
          t.me.ctrl.cause = causeWord .barCorrupt (laneCode s.cur.lane) true ∧ t.me.ctrl.faddr = s.srcS 1 o.a))
    ∧ (b = 0 → ∃ t, exec (.barInit h o) s = .next t ∧ Wrote s t o.d (resultHigh 6 0) ∧ SameBytes s t ∧ SameFiles s t)
    ∧ (b ≠ 0 → ∃ t, exec (.barInit h o) s = .next t ∧ Wrote s t o.d (resultHigh 0 0) ∧ barOk t l = true
        ∧ barCount t l = b ∧ barArrived t l = 0 ∧ barPhaseAt t l = 0 ∧ SameOutside s t l 24 ∧ SameFiles s t)

/-- Writing STATE, REASON or PEND of a sequence record changes that field alone, and a record reads back what
its bytes hold. (08_speculation.md: sequence records, R183, R184, R188) -/
def Obligations.SequenceRecordWrites : Prop :=
  ∀ (s : State) (w : Who) (r : SeqRec) (loc x : Nat), FirmPlace s w r.a 128 loc (fun a => loc ≤ a ∧ a < loc + 128) →
    let word (t : State) : Nat := t.readNat loc 8
    let puts (m : Op Unit) (lo len : Nat) : Prop := ∃ t, Runs s m () t ∧ word t = putBits (word s) lo len x
      ∧ bits (word t) lo len = x % 2 ^ len ∧ SameOutside s t loc 8 ∧ t.ctxs = s.ctxs
    puts (setSeqState w r x) 16 3 ∧ puts (setSeqPend w r x) 19 1 ∧ puts (setSeqReason w r x) 20 4
      ∧ ∃ t, Runs s (seqRead w r.a)
          (seqOf r.a loc (s.readBytes loc 128), seqValid (s.readBytes loc 128) (seqOf r.a loc (s.readBytes loc 128))) t
        ∧ SameBytes s t ∧ t.ctxs = s.ctxs

/-- SQGET hands out the next current bead, SQACC marks a draft or a check as submitted, SQCOMMIT begins a commit
with its path. (08_speculation.md: work, acceptance, commits, 13_sync_sequence.md: SQGET, SQACC, SQCOMMIT,
R18, R188, R189, R191, R195, R340, R341) -/
def Obligations.SequenceWork : Prop :=
  ∀ (h : Hdr) (o : RegOps) (s u : State) (r : SeqRec), s.active h = true →
    let a := (s.srcS 1 o.a).toNat
    let it := (s.srcS 2 o.b).toNat
    let c := (s.srcS 3 o.c).toNat
    let i0 := bits c 0 6
    let n := bits c 8 7
    let w := seqWho u r
    let ends (i : Instr) (t : State) (v : Nat) : Prop := exec i s = .next (t.wrS o.d (resultWord v 0) 0)
    (∀ draft part locs b t v, roleOf s s.myCore = some draft → partOfDie s s.myDie = some part →
        Runs s (ownBlock a 64 64) locs s →
        Runs s (takeBead s.who (workRef s.myDie part draft) (workCap + 1)) (.bead b r) t → NoOthers t →
        Runs t (do spadWrite locs b 0; holdSeq s.who r) () v → b.length = 64 → locs.Nodup →
        ends (.sqget h o) v 0 ∧ locs.map v.byteAt = b)
    ∧ (roleOf s s.myCore = none → ends (.sqget h o) s 7)
    ∧ (Runs s (seqEnter s a) r u →
      (r.iter ≠ it → ends (.sqaccQ h o) u 1 ∧ ends (.sqaccP h o) u 1)
      ∧ (r.iter = it → r.state ≠ 2 → ends (.sqaccQ h o) u 2)
      ∧ (∀ v, r.iter = it → r.state = 2 → Runs u (submitOk w r) false v → ends (.sqaccQ h o) v 3)
      ∧ (∀ v t, r.iter = it → r.state = 2 → Runs u (submitOk w r) true v →
          Runs v (do setSeqState w r 3; enqueueWork r.a r 2 false) () t → ends (.sqaccQ h o) t 0)
      ∧ (r.iter = it → r.state ≠ 1 → r.state ≠ 3 → ends (.sqaccP h o) u 2)
      ∧ (∀ nn ns u1 u2 u3 k ms t, r.iter = it → r.state = 1 ∨ r.state = 3 → Runs u (readTree w r.treeAt) (nn, ns) u1 →
          n ≠ 0 → i0 + n ≤ min nn 64 → (∀ x ∈ (ns.drop i0).take n, x.pv = false) →
          Runs u1 (plistsOk w r ns i0 n) true u2 → Runs u2 (markNodes w r i0 n) () u3 →
          Runs (u3.wrS o.d (resultWord 0 0) 0) (readTree w r.treeAt) (k, ms) t →
          ((∃ x ∈ ms, x.pv = false) → exec (.sqaccP h o) s = .next t)
          ∧ (∀ v, (∀ x ∈ ms, x.pv = true) → r.accm = true →
              Runs t (do setSeqState w r 4; updEnt r (fun e => { e.idle with commit := none, prefill := r.state == 1 })) () v →
              exec (.sqaccP h o) s = .next v)
          ∧ (∀ v x q ok, (∀ x ∈ ms, x.pv = true) → r.accm = false →
              Runs t (do setSeqState w r 4; updEnt r (fun e => { e.idle with commit := none, prefill := r.state == 1 })) () v →
              Runs v (seqRead w r.a) (q, ok) x → exec (.sqaccP h o) s = .next (commitByRule x w q))))
    ∧ (∀ blk v nn ns path t, Runs s (readBlock c 32 8) blk v → Runs v (seqEnter s a) r u →
        let m := bits (blkWord blk 0) 0 5
        let fin := bits (blkWord blk 0) 32 32
        let du := bits (blkWord blk 1) 0 32
        (r.iter ≠ it → ends (.sqcommit h o) u 1)
        ∧ (r.iter = it → r.state ≠ 4 ∨ r.accm = false → ends (.sqcommit h o) u 2)
        ∧ (r.iter = it → r.state = 4 → r.accm = true → (entOf u r).2.commit = none →
            Runs u (readTree w r.treeAt) (nn, ns) t → pathFrom ns 0 (((blk.drop 16).take m).map (·.toNat)) = some path →
            m ≤ r.depth → m ≤ 16 → fin < 2 ^ 20 ∨ fin = 0xFFFFFFFF → du ≤ 65536 →
            exec (.sqcommit h o) s = .next (beginCommit (t.wrS o.d (resultWord 0 0) 0) w r (0 :: path)
              (path.map (fun x => (ns.getD x default).tok) ++ (if fin = 0xFFFFFFFF then [] else [fin])) du
              (fin == 0xFFFFFFFF))))
    ∧ (∀ draft part locs loc r, roleOf s s.myCore = some draft → partOfDie s s.myDie = some part →
        Runs s (ownBlock a 64 64) locs s → locs.Nodup → NoOthers s →
        let rod := workRef s.myDie part draft
        let slot := rodBase s rod.loc + rodHead s rod.loc % rodCap s rod.loc * 64
        let b := s.readBytes slot 64
        isWorkRod rod.loc = true → RodSound s rod → rodElsz s rod.loc = 6 →
        (rodTail s rod.loc = rodHead s rod.loc → rodStatus s rod.loc = 0 → o.mod.getLsbD 0 = true →
          ∃ t, exec (.sqget h o) s = .next t ∧ Wrote s t o.d (resultWord 1 0) ∧ SameOutside s t rod.loc 64)
        ∧ (rodTail s rod.loc ≠ rodHead s rod.loc → (slot + 64 ≤ rod.loc ∨ rod.loc + 64 ≤ slot) →
            s.poisoned ((List.range 64).map (slot + ·)) = none → SeqAt s (beadRec b) loc r →
            FirmPlace s s.who (beadRec b) 128 loc (fun x => rod.loc ≤ x ∧ x < rod.loc + 64) →
            (loc + 128 ≤ rod.loc ∨ rod.loc + 64 ≤ loc) → beadIter b = r.iter → kindState (beadKind b) = r.state →
            ∃ t, exec (.sqget h o) s = .next t ∧ Wrote s t o.d (resultWord 0 0) ∧ locs.map t.byteAt = b
              ∧ ∀ x, x ∉ locs → (x < rod.loc ∨ rod.loc + 64 ≤ x) → t.byteAt x = s.byteAt x))
    ∧ (∀ r loc tl, SeqAt s a loc r → r.iter = it →
        let w := seqWho s r
        let record : Region := ([s.who, w], a, 128, loc)
        let tree : Region := ([w], r.treeAt, 0x40800, tl)
        (∀ v bl, r.state = 2 → FirmRegions s [tree, ([w], r.btd + 0x1C, 4, bl)] [record] →
          Runs s (submitOk w r) true v → BeadClear s (workRodOf s r false) loc 128 →
          ∃ t, exec (.sqaccQ h o) s = .next t ∧ Wrote s t o.d (resultWord 0 0) ∧ t.field loc 16 3 = 3 ∧ SameFiles s t)
        ∧ (∀ v1 v2 nn ns, r.state = 1 ∨ r.state = 3 → FirmRegions s [] [record, tree] →
          Runs s (readTree w r.treeAt) (nn, ns) v1 → n ≠ 0 → i0 + n ≤ min nn 64 → (∀ x ∈ (ns.drop i0).take n, x.pv = false) →
          Runs s (plistsOk w r ns i0 n) true v2 →
          let rest := ns.take i0 ++ ns.drop (i0 + n)
          let marked (t : State) : Prop := ∀ i, i < n → t.field (tl + 0x40 + 16 * (i0 + i) + 8) 32 1 = 1
          ((∃ x ∈ rest, x.pv = false) → ∃ t, exec (.sqaccP h o) s = .next t ∧ Wrote s t o.d (resultWord 0 0) ∧ marked t
            ∧ SameOutside s t tl 0x440 ∧ SameFiles s t)
          ∧ ((∀ x ∈ rest, x.pv = true) → r.accm = true → ∃ t, exec (.sqaccP h o) s = .next t
            ∧ Wrote s t o.d (resultWord 0 0) ∧ marked t ∧ t.field loc 16 3 = 4 ∧ SameFiles s t)
          ∧ ((∀ x ∈ rest, x.pv = true) → r.accm = false → ∃ v q, exec (.sqaccP h o) s = .next (commitByRule v w q)
            ∧ Wrote s v o.d (resultWord 0 0) ∧ marked v ∧ v.field loc 16 3 = 4 ∧ q.state = 4 ∧ q.iter = it)))

/-- SQPARK: each operation acts in the STATE that admits it and returns the ITER, and returns BADSTATE and
changes nothing in another. (08_speculation.md: life of a sequence, 13_sync_sequence.md: SQPARK, R188, R342.) That a
resumption which starts a prefill keeps the ITER is the model's choice (log 84). -/
def Obligations.SequenceParking : Prop :=
  ∀ (h : Hdr) (o : RegOps) (s u : State) (r : SeqRec), s.active h = true →
    let a := (s.srcS 1 o.a).toNat
    let w := seqWho u r
    let ret (i : Instr) (t : State) (v : Word) : Prop := exec i s = .next (t.wrS o.d v 0)
    let done (i : Instr) (m : Op Unit) : Prop := ∀ v q ok t, Runs u m () v → Runs v (seqRead v.who a) (q, ok) t →
      ret i t (resultHigh 0 q.iter)
    let refuses (is : List Instr) : Prop := ∀ i ∈ is, ret i u (resultHigh 2 0)
    (Runs s (seqEnter s a) r u →
      (r.running = true →
        done (.sqparkPark h o) (do setSeqPend w r 1; updEnt r (fun e => { e with preempt := e.preempt && r.pend }))
        ∧ done (.sqparkAbort h o) (abortSeq w r 1)
        ∧ (s.me.holdsPriv = true →
          done (.sqparkPreempt h o) (do setSeqPend w r 1; updEnt r (fun e => { e with preempt := true }))))
      ∧ (r.state = 0 → (u.die u.myDie).seqs.length < 1024 →
        (∀ len v, r.hlen ≠ 0 → Runs u (lenOf w r.btd) len v → len ≤ r.hlen - 1 →
          ∀ x q ok t, Runs v (do
              let w1 ← activate u r
              if !r.replay then hPut w1 (r.a + 0x38) 8 (← Op.free 14)
              hPut w1 (r.a + 8) 8 0
              hPut w1 (r.a + 0x40) 8 0
              hPut w1 (r.a + 0x48) 4 0
              startPrefill w1 r) () x → Runs x (seqRead x.who a) (q, ok) t →
            ret (.sqparkAdmit h o) t (resultHigh 0 q.iter))
        ∧ (s.me.holdsPriv = true →
          done (.sqparkImport h o) (do let w1 ← activate u r; setSeqState w1 r 5)))
      ∧ (r.state = 5 →
        (∀ len v x, Runs u (do
              setSeqPend w r 0
              setSeqReason w r 0
              updEnt r (fun e => { e.idle with preempt := false, commit := none })
              lenOf w r.btd) len v → len < r.hlen - 1 → Runs v (startPrefill w r) () x →
            ∀ q ok t, Runs x (seqRead x.who a) (q, ok) t → ret (.sqparkResume h o) t (resultHigh 0 q.iter))
        ∧ (∀ len v x, Runs u (do
              setSeqPend w r 0
              setSeqReason w r 0
              updEnt r (fun e => { e.idle with preempt := false, commit := none })
              lenOf w r.btd) len v → r.hlen - 1 ≤ len → r.reason ≠ 3 → Runs v (nextIteration w r) () x →
            ∀ q ok t, Runs x (seqRead x.who a) (q, ok) t → ret (.sqparkResume h o) t (resultHigh 0 q.iter))
        ∧ (∀ len v x, Runs u (do
              setSeqPend w r 0
              setSeqReason w r 0
              updEnt r (fun e => { e.idle with preempt := false, commit := none })
              lenOf w r.btd) len v → r.hlen - 1 ≤ len → r.reason = 3 → Runs v (do
                setSeqState w r 4
                if !r.accm then
                  let (q, _) ← seqRead w r.a
                  modify (fun t => commitByRule t w q)) () x →
            ∀ q ok t, Runs x (seqRead x.who a) (q, ok) t → ret (.sqparkResume h o) t (resultHigh 0 q.iter))
        ∧ (s.me.holdsPriv = true → done (.sqparkMigout h o) (setSeqState w r 7)))
      ∧ (r.state = 7 → s.me.holdsPriv = true → done (.sqparkMigabort h o) (setSeqState w r 5)
        ∧ (∀ b t v x, Runs u (btdAt w r.btd) b v → Runs v (btdAt w r.tbt) t x → b.quiet = true → t.quiet = true →
            ∀ y, Runs x (do
                releaseFrom w (← btdAt w r.btd) 0
                releaseFrom w (← btdAt w r.tbt) 0
                freeSeq w r) () y → ∀ q ok z, Runs y (seqRead y.who r.a) (q, ok) z →
              ret (.sqparkMigdone h o) z (resultHigh 0 q.iter)))
      ∧ (r.state = 5 ∨ r.state = 6 → ∀ t v, Runs u (btdAt w r.tbt) t v → t.quiet = true →
          ∀ y, Runs v (do releaseFrom w (← btdAt w r.tbt) 0; freeSeq w r) () y → ∀ q ok z,
            Runs y (seqRead y.who r.a) (q, ok) z → ret (.sqparkRetire h o) z (resultHigh 0 q.iter))
      ∧ (r.running = false → refuses [.sqparkPark h o, .sqparkAbort h o])
      ∧ (r.state ≠ 0 → refuses [.sqparkAdmit h o])
      ∧ (r.state ≠ 5 → refuses [.sqparkResume h o] ∧ (r.state ≠ 6 → refuses [.sqparkRetire h o]))
      ∧ (s.me.holdsPriv = true → (r.state ≠ 0 → refuses [.sqparkImport h o])
        ∧ (r.state ≠ 5 → refuses [.sqparkMigout h o]) ∧ (r.running = false → refuses [.sqparkPreempt h o])
        ∧ (r.state ≠ 7 → refuses [.sqparkMigabort h o, .sqparkMigdone h o])))
    ∧ (s.me.holdsPriv = false → ∀ i ∈ ([.sqparkImport h o, .sqparkMigout h o, .sqparkMigdone h o, .sqparkMigabort h o,
        .sqparkPreempt h o] : List Instr), exec i s = .next (trapHere s .privilege 0xD3 0))
    ∧ (∀ r loc, SeqAt s a loc r →
        let w := seqWho s r
        let own := deviceWho s.myDie s.me.ctrl.asid.toNat
        let record : Region := ([s.who, w], a, 128, loc)
        let ok (i : Instr) (iter : Nat) (p : State → Prop) : Prop :=
          ∃ t, exec i s = .next t ∧ Wrote s t o.d (resultHigh 0 iter) ∧ SameFiles s t ∧ p t
        let state (n : Nat) (t : State) : Prop := t.field loc 16 3 = n ∧ SameOutside s t loc 128
        let pend (t : State) : Prop := t.field loc 19 1 = 1 ∧ SameOutside s t loc 8
        let node (t : State) (tl iter : Nat) : Prop := t.readNat tl 8 = 1 + 2 ^ 32 * (iter % 2 ^ 32)
        (FirmRegions s [] [record] →
          (r.running = true → ok (.sqparkPark h o) r.iter pend
            ∧ ok (.sqparkAbort h o) (r.iter + 1) (fun t => state 5 t ∧ t.readNat (loc + 8) 8 = (r.iter + 1) % 2 ^ 64
              ∧ t.field loc 20 4 = if r.crod = 0 then 4 else 1)
            ∧ (s.me.holdsPriv = true → ok (.sqparkPreempt h o) r.iter pend))
          ∧ (s.me.holdsPriv = true → (r.state = 5 → ok (.sqparkMigout h o) r.iter (state 7))
            ∧ (r.state = 7 → ok (.sqparkMigabort h o) r.iter (state 5))))
        ∧ (FirmRegions s [] [([s.who, w, own], a, 128, loc)] → r.state = 0 → (s.die s.myDie).seqs.length < 1024 →
            s.me.holdsPriv = true → ok (.sqparkImport h o) r.iter (fun t => state 5 t
              ∧ t.field (loc + 0x68) 0 8 = s.me.part % 256 ∧ t.field (loc + 0x68) 16 4 = s.myDie % 16))
        ∧ (∀ tl bl hl,
            let read (xs : List Who) : List Region := [(xs, r.btd + 0x1C, 4, bl), (xs, r.hist + 4 * (r.hlen - 1), 4, hl)]
            let tree (x : Who) : Region := ([x], r.treeAt, 0x440, tl)
            let clear (rod : RodRef) : Prop := BeadClear s rod loc 128 ∧ BeadClear s rod tl 0x440
            (FirmRegions s (([w], r.btd + 0x1C, 4, bl) :: read [own]) [([s.who, w, own], a, 128, loc), tree own] → r.state = 0 →
              s.seqEnt loc = none → (s.die s.myDie).seqs.length < 1024 → r.hlen ≠ 0 → s.readNat bl 4 ≤ r.hlen - 1 →
              clear (workRef s.myDie ((partOfDie s s.myDie).getD s.me.part) false) →
              ok (.sqparkAdmit h o) 0 (fun t => t.field loc 16 3 = 1 ∧ t.readNat (loc + 8) 8 = 0
                ∧ t.readNat (loc + 0x40) 8 = 0 ∧ t.readNat (loc + 0x48) 4 = 0
                ∧ (r.replay = true → t.readNat (loc + 0x38) 8 = r.seed) ∧ node t tl 0))
            ∧ (FirmRegions s (read [w]) [record, tree w] → r.state = 5 → clear (workRodOf s r true) → clear (workRodOf s r false) →
              (s.readNat bl 4 < r.hlen - 1 → ok (.sqparkResume h o) r.iter (fun t => t.field loc 16 3 = 1
                ∧ t.field loc 19 5 = 0 ∧ node t tl r.iter))
              ∧ (r.hlen - 1 ≤ s.readNat bl 4 → r.reason ≠ 3 → ok (.sqparkResume h o) (r.iter + 1) (fun t =>
                t.field loc 16 3 = (if shareOfDie s (entOf s r).1 = 0 then 3 else 2) ∧ t.field loc 19 5 = 0
                ∧ t.readNat (loc + 8) 8 = (r.iter + 1) % 2 ^ 64 ∧ node t tl (r.iter + 1)))
              ∧ (r.hlen - 1 ≤ s.readNat bl 4 → r.reason = 3 → r.accm = true →
                ok (.sqparkResume h o) r.iter (fun t => state 4 t ∧ t.field loc 19 5 = 0))))
        ∧ (∀ b p v1 v2 bl pl el il,
            let table (x : Btd) (xl yl : Nat) : List Region := [([w], x.pool, 64, xl), ([w], x.ent, 4 * x.cap, yl)]
            let tree : Region := ([w], r.tbt, 64, bl)
            let bare (t : State) : Prop := t.field loc 16 3 = 0 ∧ t.readNat (bl + 0x1C) 4 = 0
              ∧ t.readNat (bl + 0x18) 4 = (b.ver + 1) % 2 ^ 32 ∧ t.seqEnt loc = none
            Runs s (btdAt w r.tbt) b v1 → Runs s (poolAt w b.pool) p v2 → BareTable s b el →
            (r.state = 5 ∨ r.state = 6 → FirmRegions s (table b pl el ++ indexRegion s w.core il) [record, tree] →
              ok (.sqparkRetire h o) r.iter bare)
            ∧ (∀ c q v3 v4 cl ql dl, Runs s (btdAt w r.btd) c v3 → Runs s (poolAt w c.pool) q v4 → BareTable s c dl →
              r.state = 7 → s.me.holdsPriv = true →
              FirmRegions s (table b pl el ++ table c ql dl ++ indexRegion s w.core il)
                [record, tree, ([w], r.btd, 64, cl)] →
              ok (.sqparkMigdone h o) r.iter (fun t => bare t ∧ t.readNat (cl + 0x1C) 4 = 0
                ∧ t.readNat (cl + 0x18) 4 = (c.ver + 1) % 2 ^ 32))))

/-- KVMAP pins and maps, KVUNPIN unpins, BTINV leaves its signal, KVAPP and PSEL issue, SAMPLE chooses a token,
RNGDRAW draws. (07_kv_pages.md: block tables, 13_sync_sequence.md: pages, sampling, R164, R165, R166, R168,
R169, R179, R198, R343, R345, R346.) That SAMPLE answers RANGE before it looks at the place of its list (log 80), and that
the list and its count leave out what has probability +0 (log 119), is the model's choice. -/
def Obligations.BlockTablesAndSampling : Prop :=
  ∀ (h : Hdr) (o : RegOps) (e : EngOps) (q : SysOps) (s : State), s.active h = true →
    let a := s.srcS 1 o.a
    let b := (s.srcS 2 o.b).toNat
    let c := (s.srcS 3 o.c).toNat
    let n := bits c 16 7
    let g := bits c 24 4
    let w := s.who
    (∀ locs t p recs u v x, 1 ≤ n → n ≤ 64 → Runs s (ownBlock b (16 * n) 16) locs s → locs.Nodup → NoOthers s →
        Runs s (btdAt w a.toNat) t u → Runs u (poolAt w t.pool) p v → bits c 0 16 + n ≤ t.cap → g < p.ng →
        pfxrelWaits s t.loc s.cur.ctx s.cur.lane = false → s.me.tablePins.length < 8 → t.pins.getD (t.ver % 4) 0 ≠ 65535 →
        Runs v (do
          let recs ← (List.range n).mapM (fun j => mapRecord w t p g (bits c 0 16 + j))
          setPin w t t.ver (t.pins.getD (t.ver % 4) 0 + 1)
          acquireOp w 3 (← tableCover w t p)
          spadWrite locs recs.flatten 0
          return recs) recs x →
        locs.map x.byteAt = recs.flatten ∧ recs.length = n
        ∧ exec (.kvmap h o) s = .next ((x.updMe (fun y =>
            { y with tablePins := y.tablePins ++ [(t.loc, t.a, BitVec.ofNat 32 t.ver)] })).wrS o.d (resultHigh 0 t.ver) 0))
    ∧ (∀ x p u, Sees s w true a.toNat x →
        s.me.tablePins.find? (fun p => p.1 == x.loc && p.2.2 == BitVec.ofNat 32 b) = some p →
        Runs s (unpinVersion w a.toNat (b % 2 ^ 32)) () u →
        exec (.kvunpin h o) s = .next ((u.updMe (fun y => { y with tablePins := y.tablePins.erase p })).wrS o.d 0x100 0))
    ∧ (∀ x, Sees s w true a.toNat x → (∀ p ∈ s.me.tablePins, ¬(p.1 = x.loc ∧ p.2.2 = BitVec.ofNat 32 b)) →
        exec (.kvunpin h o) s = .next (s.wrS o.d 0 0))
    ∧ (∀ t u v, s.me.holdsPriv = true → Runs s (btdAt w (s.srcS 1 q.a).toNat) t u → t.canAdvance = true →
        Runs u (do
          releaseTable w t
          releaseOp w (s.coverOf (s.srcS 0 q.d))
          newVersion w t 0xFFFFFFFF) () v →
        exec (.btinv h q) s = .next { v with signals := v.signals ++
          [⟨(s.srcS 1 q.a).toNat, s.me.ctrl.asid, true, BitVec.ofNat 32 t.ver, s.srcS 0 q.d⟩] })
    ∧ (s.me.holdsPriv = false → exec (.btinv h q) s = .next (trapHere s .privilege 0xE7 0))
    ∧ (∀ t p u v rs ms, CmdRoom s → badCounter s (newCmd s e (draft .copy [] 0 0)) = false →
        let d := (s.srcS 2 e.desc).toNat
        let src := (s.srcS 1 e.src).toNat
        let m := bits d 32 5
        1 ≤ m → m ≤ 16 → bits d 0 4 + m ≤ 16 → Runs s (btdAt w (s.srcS 0 e.dst).toNat) t u → Runs u (poolAt w t.pool) p v →
        src < 4 * bankShare (s.core s.myCore) s.me.bank →
        src + m * p.tokenBytes ≤ 4 * bankShare (s.core s.myCore) s.me.bank →
        (newCmd s e (draft .kvapp [] (m * p.tokenBytes) 0)).rangesFrom s 0 = .ok rs →
        addSpots s s.cur.ctx false false ((List.range (m * p.tokenBytes)).map (fun i => ⟨true, src + i⟩)) [] = .ok ms →
        ∃ z k, exec (.kvapp h e) s = .next z ∧ Issues s z k ∧ Takes s k e ∧ k.kind = .kvapp ∧ k.len = m * p.tokenBytes
          ∧ SameBytes s z ∧ SameLanes s z)
    ∧ (∀ bs t p u v rs m1 m2, CmdRoom s → badCounter s (newCmd s e (draft .copy [] 0 0)) = false → Runs s (readBlock (s.srcS 2 e.desc).toNat 32 32) bs s →
        let k := selBlk bs
        let dst := (s.srcS 0 e.dst).toNat
        let src := (s.srcS 1 e.src).toNat
        let size := 8 * min k.k k.ne
        let bytes (x m : Nat) : List Spot := (List.range m).map (fun i => ⟨true, x + i⟩)
        1 ≤ k.k → k.k ≤ 256 → 1 ≤ k.ne → k.ne ≤ 65536 → Runs s (btdAt w k.bt) t u → Runs u (poolAt w t.pool) p v →
        dst % 8 = 0 → (s.ownSpan s.me dst size).isSome = true → (s.ownSpan s.me src (2 * p.d)).isSome = true →
        (newCmd s e (draft .psel bs size 0)).rangesFrom s 0 = .ok rs →
        addSpots s s.cur.ctx false false (bytes src (2 * p.d)) [] = .ok m1 →
        addSpots s s.cur.ctx true false (bytes dst size) m1 = .ok m2 →
        ∃ z c, exec (.psel h e) s = .next z ∧ Issues s z c ∧ Takes s c e ∧ c.kind = .psel ∧ c.len = size ∧ c.blk = bs
          ∧ SameBytes s z ∧ SameLanes s z)
    ∧ (∀ r u, Runs s (seqAt w a.toNat) r u →
        exec (.rngdraw h o) s = .next (u.wrS o.d
          (BitVec.ofNat 64 (philox r.seed b (o.sub.toNat % 2) + 2 ^ 32 * uniform r.seed b (o.sub.toNat % 2))) 0))
    ∧ (∀ bs u, Runs s (sampleLoad s (o.sub.getLsbD 0) a.toNat 64) bs u →
        let p := sampleParOf bs
        (p.ok = false → exec (.sample h o) s = .next (u.wrS o.d (sampleResult 6 0 none) 0))
        ∧ (∀ lb mask pens v1 v2 v3 r t, p.ok = true →
            Runs u (sampleLoad s (o.sub.getLsbD 1) b (4 * p.nv)) lb v1 →
            Runs v1 (if p.gen then loadBytes w p.gmask ((p.nv + 7) / 8) else pure []) mask v2 →
            Runs v2 (if p.npen = 0 then pure [] else loadBytes w p.pen (4 * p.npen)) pens v3 →
            Runs v3 (seqAt w p.rec_) r t →
            let el := eligible p ((chunks 4 p.nv lb).map leNat) (mask.map (·.toNat)) ((chunks 4 p.npen pens).map leNat)
            (sampleKept p el = none → exec (.sample h o) s = .next (t.wrS o.d (sampleResult 8 0 none) 0))
            ∧ (∀ kept x, sampleKept p el = some (kept, false) →
                let list := sortedProbs (kept.map (fun x => (x.1, f32Div x.2 (totalProb kept))))
                (if c = 0 then x = t else Runs t (do
                  let locs ← ownBlock c (8 * list.length) 8
                  spadWrite locs (list.flatMap (fun y => packNats 4 [y.1, y.2])) 0) () x) →
                exec (.sample h o) s = .next (x.wrS o.d (sampleResult 0 list.length
                  (if p.mode = 0 then sampleFrom list (uniform r.seed p.didx 1)
                   else if p.mode = 1 then argmaxProb list else none)) 0))))
    ∧ (let noEnts (t : Btd) : Prop := ∀ x ∈ t.rets, x = noEntry
      (∀ locs t p recs cov v1 v2 v3 v4 bl pl el sl il, 1 ≤ n → n ≤ 64 → Runs s (ownBlock b (16 * n) 16) locs s → locs.Nodup →
        NoOthers s → Runs s (btdAt w a.toNat) t v1 → Runs s (poolAt w t.pool) p v2 → bits c 0 16 + n ≤ t.cap → g < p.ng →
        FirmRegions s ([([w], t.pool, 64, pl), ([w], t.ent, 4 * t.cap, el), ([w], p.psa, 8 * p.npages, sl)]
          ++ indexRegion s w.core il) [([w], a.toNat, 64, bl)] →
        Runs s ((List.range n).mapM (fun j => mapRecord w t p g (bits c 0 16 + j))) recs v3 → Runs s (tableCover w t p) cov v4 →
        pfxrelWaits s bl s.cur.ctx s.cur.lane = false → s.me.tablePins.length < 8 → t.pins.getD (t.ver % 4) 0 < 65535 →
        ∃ z, exec (.kvmap h o) s = .next z ∧ Wrote s z o.d (resultHigh 0 t.ver) ∧ locs.map z.byteAt = recs.flatten
          ∧ z.me.tablePins = s.me.tablePins ++ [(bl, a.toNat, BitVec.ofNat 32 t.ver)]
          ∧ z.readNat (bl + 0x20 + 2 * (t.ver % 4)) 2 = t.pins.getD (t.ver % 4) 0 + 1)
      ∧ (∀ t p v bl, Runs s (btdAt w a.toNat) t v → noEnts t → FirmRegions s [] [([w], a.toNat, 64, bl)] →
        s.me.tablePins.find? (fun p => p.1 == bl && p.2.2 == BitVec.ofNat 32 b) = some p →
        ∃ z, exec (.kvunpin h o) s = .next z ∧ Wrote s z o.d 0x100 ∧ z.me.tablePins = s.me.tablePins.erase p
          ∧ z.readNat (bl + 0x20 + 2 * (b % 4)) 2 = t.pins.getD (b % 4) 0 - 1 ∧ SameOutside s z bl 64)
      ∧ (∀ t v bl, s.me.holdsPriv = true → Runs s (btdAt w (s.srcS 1 q.a).toNat) t v → t.canAdvance = true → noEnts t →
        FirmRegions s [] [([w], (s.srcS 1 q.a).toNat, 64, bl)] →
        ∃ z, exec (.btinv h q) s = .next z ∧ SameFiles s z ∧ SameLanes s z ∧ SameOutside s z bl 64
          ∧ z.readNat (bl + 0x18) 4 = (t.ver + 1) % 2 ^ 32
          ∧ z.signals = s.signals ++ [⟨(s.srcS 1 q.a).toNat, s.me.ctrl.asid, true, BitVec.ofNat 32 t.ver, s.srcS 0 q.d⟩]))
    ∧ (∀ r loc, SeqAt s a.toNat loc r → FirmPlace s w a.toNat 128 loc (fun _ => False) →
        ∃ z, exec (.rngdraw h o) s = .next z ∧ SameBytes s z ∧ SameFiles s z ∧ Wrote s z o.d
          (BitVec.ofNat 64 (philox r.seed b (o.sub.toNat % 2) + 2 ^ 32 * uniform r.seed b (o.sub.toNat % 2))))
    ∧ (∀ pb, Quiet s → s.scratchPending = [] → OperandAt s (o.sub.getLsbD 0) a.toNat 64 pb →
        let p := sampleParOf pb
        let ret (v : Word) : Prop := ∃ z, exec (.sample h o) s = .next z ∧ Wrote s z o.d v ∧ SameBytes s z ∧ SameFiles s z
        (p.ok = false → ret (sampleResult 6 0 none))
        ∧ (∀ lb mask pens r loc, p.ok = true → OperandAt s (o.sub.getLsbD 1) b (4 * p.nv) lb →
            (if p.gen = true then OperandAt s false p.gmask ((p.nv + 7) / 8) mask else mask = []) →
            (if p.npen = 0 then pens = [] else OperandAt s false p.pen (4 * p.npen) pens) →
            SeqAt s p.rec_ loc r → FirmPlace s w p.rec_ 128 loc (fun _ => False) →
            let el := eligible p ((chunks 4 p.nv lb).map leNat) (mask.map (·.toNat)) ((chunks 4 p.npen pens).map leNat)
            (sampleKept p el = none → ret (sampleResult 8 0 none))
            ∧ (∀ kept, sampleKept p el = some (kept, false) →
                let list := sortedProbs (kept.map (fun x => (x.1, f32Div x.2 (totalProb kept))))
                let v := sampleResult 0 list.length (if p.mode = 0 then sampleFrom list (uniform r.seed p.didx 1)
                  else if p.mode = 1 then argmaxProb list else none)
                (c = 0 → ret v)
                ∧ (∀ locs, c ≠ 0 → Runs s (ownBlock c (8 * list.length) 8) locs s → locs.Nodup →
                    ∃ z, exec (.sample h o) s = .next z ∧ Wrote s z o.d v ∧ SameFiles s z
                      ∧ locs.map z.byteAt = list.flatMap (fun y => packNats 4 [y.1, y.2])
                      ∧ ∀ x, x ∉ locs → z.byteAt x = s.byteAt x))))

/-- PFXLK, PFXINS, PFXREL and PFXADM complete with the counts that their walks of the index give; PFXADM needs
privilege. (07_kv_pages.md: prefix index, R174, R175, R177, R180, R181, R182.) The order of PFXLK's checks (log 54) and the
count of 1 of a promotion (log 107) are the model's choice. -/
def Obligations.PrefixIndex : Prop :=
  ∀ (h : Hdr) (o : RegOps) (q : SysOps) (s : State), s.active h = true →
    let w := s.who
    let a := s.srcS 1 o.a
    let b := (s.srcS 2 o.b).toNat
    let n := (s.srcS 3 o.c).toNat
    let admin (i : Instr) (act : Who → Nat → Nat → Op (Nat × Nat)) : Prop := ∀ u v bs st k t, s.me.holdsPriv = true →
      Runs s (releaseOp w .all) () u → Runs u (loadBytes w (s.srcS 1 q.a).toNat 16) bs v →
      Runs v (act w (blkWord bs 0) (blkWord bs 1)) (st, k) t →
      exec i s = .next (t.wrS q.d (resultWord st (k % 2 ^ 56)) 0)
    (∀ t u, Runs s (btdAt w a.toNat) t u →
      (t.len ≠ 0 → exec (.pfxlk h o) s = .next (u.wrS o.d (resultHigh 5 0) 0))
      ∧ (t.len = 0 → n = 0 ∨ 16 * t.cap < n → exec (.pfxlk h o) s = .next (u.wrS o.d (resultHigh 3 0) 0))
      ∧ (∀ bs v, t.len = 0 → 1 ≤ n → n ≤ 16 * t.cap → Runs u (loadBytes w b (4 * n)) bs v →
          let ts := (chunks 4 n bs).map leNat
          ((∃ x ∈ ts, 2 ^ 20 ≤ x) → exec (.pfxlk h o) s = .next (v.wrS o.d (resultHigh 6 0) 0))
          ∧ (∀ p j cur m x y z, (∀ x ∈ ts, x < 2 ^ 20) → t.canAdvance = true → Runs v (poolAt w t.pool) p x →
              Runs x (matchFull w p t ts (n / 16 + 1) 0 (0xFFFF0000 + p.id)) (j, cur) y → Runs y (matchPart w p t ts j cur) m z →
              ∀ z1, Runs z (do
                  setLen w t (16 * j + m)
                  releaseTable w t
                  newVersion w t 0xFFFFFFFF
                  acquireOp w 3 .all) () z1 →
                exec (.pfxlk h o) s = .next (z1.wrS o.d (resultHigh 0 (16 * j + m)) 0)))
      ∧ (∀ v, t.quiet = true → Runs u (releaseFrom w t b) () v →
          exec (.pfxrel h o) s = .next (v.wrS o.d (resultHigh 0 0) 0)))
    ∧ (∀ t p u v x st k y, Runs s (releaseOp w .all) () u → Runs u (btdAt w a.toNat) t v → Runs v (poolAt w t.pool) p x →
        Runs x (insertWalk w p t b (0xFFFF0000 + p.id) (min (t.len / 16) t.cap) 0) (st, k) y →
        exec (.pfxins h o) s = .next (y.wrS o.d (resultHigh st k) 0))
    ∧ admin (.pfxadmInit h q) pfxInit ∧ admin (.pfxadmDemote h q) pfxDemote ∧ admin (.pfxadmPromote h q) pfxPromote
    ∧ admin (.pfxadmEvict h q) pfxEvict ∧ admin (.pfxadmFlush h q) pfxFlush
    ∧ (∀ u x k t, Runs u (pfxInit w x k) (0, 0) t → t.index = some (BitVec.ofNat 64 x, BitVec.ofNat 13 w.asid))
    ∧ (s.me.holdsPriv = false → ∀ i ∈ ([.pfxadmInit h q, .pfxadmDemote h q, .pfxadmPromote h q, .pfxadmEvict h q,
        .pfxadmFlush h q] : List Instr), exec i s = .next (trapHere s .privilege 0xEA 0))
    ∧ (∀ t p v1 v2 bl pl el il, Runs s (btdAt w a.toNat) t v1 → Runs s (poolAt w t.pool) p v2 → t.quiet = true →
        (∀ x ∈ t.rets, x = noEntry) → (∀ e, b ≤ e → e < t.cap → s.readNat (el + 4 * e) 4 = noEntry) →
        FirmRegions s ([([w], t.pool, 64, pl), ([w], t.ent, 4 * t.cap, el)] ++ indexRegion s w.core il) [([w], a.toNat, 64, bl)] →
        ∃ z, exec (.pfxrel h o) s = .next z ∧ Wrote s z o.d (resultHigh 0 0) ∧ SameOutside s z bl 64 ∧ SameFiles s z
          ∧ z.readNat (bl + 0x1C) 4 = min t.len (16 * b) ∧ z.readNat (bl + 0x18) 4 = (t.ver + 1) % 2 ^ 32)
    ∧ (∀ ia asid il (nl : Nat → Nat), s.index = some (ia, asid) → Quiet s →
        let iw := deviceWho s.myDie asid.toNat
        let shard (d o n : Nat) : Nat := s.readNat (il + 32 * d + o) n
        let count (d : Nat) : Nat := bits (shard d 0x10 4) 0 27
        let nodes : List Region :=
          ([iw], ia.toNat, 0x20A, il) :: (List.range 16).map (fun d => ([iw], shard d 0 8, 64 * count d, nl d))
        let bucketOf (d hash : Nat) : Nat := shard d 8 8 + 4 * (hash % 2 ^ bits (shard d 0x10 4) 27 5)
        let inTree (t : State) (x : Nat) : Prop := bits (t.readNat (x + 8) 8) 63 1 = 1
        (∀ t p v1 v2 bl pl hl kl, Runs s (btdAt w a.toNat) t v1 → Runs s (poolAt w t.pool) p v2 → t.canAdvance = true →
          (∀ x ∈ t.rets, x = noEntry) → t.len = 0 → 1 ≤ n → n ≤ 16 * t.cap →
          let ts := (chunks 4 n (s.readBytes hl (4 * n))).map leNat
          let hash := edgeHash (0xFFFF0000 + p.id) (edgeTokens (tokenBlock ts 0))
          (∀ x ∈ ts, x < 2 ^ 20) → (∀ d, d < 16 → ∀ i, i < count d → ¬ inTree s (nl d + 64 * i)) →
          FirmRegions s (nodes ++ [([w], t.pool, 64, pl), ([w], b, 4 * n, hl), ([iw], bucketOf (hash / 2 ^ 28) hash, 4, kl)])
            [([w], a.toNat, 64, bl)] → s.readNat kl 4 = noEntry →
          ∃ z, exec (.pfxlk h o) s = .next z ∧ Wrote s z o.d (resultHigh 0 0) ∧ SameOutside s z bl 64 ∧ SameFiles s z
            ∧ z.readNat (bl + 0x1C) 4 = 0 ∧ z.readNat (bl + 0x18) 4 = (t.ver + 1) % 2 ^ 32)
        ∧ (∀ t p v1 v2 bl pl hl kl el sl xl i, Runs s (btdAt w a.toNat) t v1 → Runs s (poolAt w t.pool) p v2 →
          16 ≤ t.len → t.len < 32 → 1 ≤ t.cap →
          let pn := s.readNat el 4
          let root := 0xFFFF0000 + p.id
          let ts := (chunks 4 16 (s.readBytes hl 64)).map leNat
          let hash := edgeHash root (edgeTokens ts)
          let d := hash / 2 ^ 28
          let nn := d * 2 ^ 28 + i
          pn < p.npages → bits (s.readNat sl 8) 0 2 = 1 → (∀ x ∈ ts, x < 2 ^ 20) → s.readNat kl 4 = noEntry →
          i < count d → shard d 0x14 4 = nn →
          FirmRegions s [([w], a.toNat, 64, bl), ([w], t.pool, 64, pl), ([w], t.ent, 4, el), ([w], b, 64, hl)]
            [([iw], ia.toNat, 0x20A, il), ([w], p.psa + 8 * pn, 8, sl), ([iw], bucketOf d hash, 4, kl),
              ([iw], shard d 0 8 + 64 * i, 64, xl)] →
          ∃ z, exec (.pfxins h o) s = .next z ∧ Wrote s z o.d (resultHigh 0 1) ∧ SameFiles s z ∧ z.readNat kl 4 = nn
            ∧ z.readNat (il + 32 * d + 0x14) 4 = bits (s.readNat (xl + 8) 8) 0 32
            ∧ inTree z xl ∧ z.readNat xl 8 = pn + 2 ^ 32 * root ∧ bits (z.readNat (xl + 8) 8) 32 16 = 1
            ∧ bits (z.readNat sl 8) 0 2 = 2 ∧ bits (z.readNat sl 8) 32 32 = nn)
        ∧ (∀ bl, s.me.holdsPriv = true →
          let x := s.readNat bl 8
          let m := s.readNat (bl + 8) 8
          let block : Region := ([w], (s.srcS 1 q.a).toNat, 16, bl)
          let ret (i : Instr) (k : Nat) (f : State → Prop) : Prop :=
            ∃ z, exec i s = .next z ∧ Wrote s z q.d (resultWord 0 k) ∧ SameFiles s z ∧ f z
          (∀ p v pl sl xl (al dl : Nat → Nat), Runs s (poolAt w x) p v → m < p.npages →
            let word (t : State) (lo len : Nat) : Nat := bits (t.readNat sl 8) lo len
            let node := word s 32 32
            let d := node / 2 ^ 28 % 16
            let page (tier pf : Nat) (l : Nat → Nat) : List Region :=
              (List.range p.ng).map (fun g => ([w], p.store m g tier, p.pageBytes pf, l g))
            let read : List Region := [block, ([iw], ia.toNat, 0x20A, il), ([w], x, 64, pl)]
            let written : Region := ([w], p.psa + 8 * m, 8, sl)
            word s 0 2 = 2 →
            (word s 2 2 = 1 → word s 4 1 = 0 → node % 2 ^ 28 < count d → bits (s.readNat (xl + 8) 8) 32 16 = 0 →
              bits (s.readNat (xl + 16) 8) 48 16 < s.readNat (il + 0x208) 2 →
              FirmRegions s (([iw], shard d 0 8 + 64 * (node % 2 ^ 28), 64, xl) :: read ++ page 0 1 al) (written :: page 1 2 dl) →
              ret (.pfxadmDemote h q) 1 (fun z => word z 0 2 = 2 ∧ word z 2 2 = 2 ∧ word z 4 1 = 1
                ∧ ∀ g, g < p.ng → ∀ y, y < p.sections →
                  let src := al g + y * sectionSize p.d 1
                  let dst := dl g + y * sectionSize p.d 2
                  z.readBytes dst (8 * p.d) = s.readBytes src (8 * p.d)
                    ∧ z.readBytes (dst + 8 * p.d) (64 * ceilDiv p.d 128) = s.readBytes (src + 16 * p.d) (64 * ceilDiv p.d 128)))
            ∧ (word s 4 1 = 1 → FirmRegions s (read ++ page 1 (word s 2 2) al) (written :: page 0 (word s 2 2) dl) →
              ret (.pfxadmPromote h q) 1 (fun z => word z 0 2 = 2 ∧ word z 2 2 = word s 2 2 ∧ word z 4 1 = 0
                ∧ ∀ g, g < p.ng → z.readBytes (dl g) (p.pageBytes (word s 2 2)) = s.readBytes (al g) (p.pageBytes (word s 2 2)))))
          ∧ (∀ p v pl, Runs s (poolAt w x) p v →
            (∀ d, d < 16 → ∀ i, i < count d → inTree s (nl d + 64 * i) → bits (s.readNat (nl d + 64 * i + 8) 8) 32 31 ≠ 0
              ∨ bits (s.readNat (nl d + 64 * i + 16) 8) 48 16 ≠ p.id) →
            FirmRegions s (block :: ([w], x, 64, pl) :: nodes) [] →
            ret (.pfxadmEvict h q) 0 (SameBytes s) ∧ ret (.pfxadmFlush h q) 0 (SameBytes s))
          ∧ (∀ p v pl kl tl sl rl ol d i, Runs s (poolAt w x) p v → d < 16 → i < count d →
            (∀ e, e < 16 → ∀ j, j < count e → (inTree s (nl e + 64 * j) ↔ e = d ∧ j = i)) →
            let at_ := nl d + 64 * i
            let nn := d * 2 ^ 28 + i
            let page := bits (s.readNat at_ 8) 0 32
            let parent := bits (s.readNat at_ 8) 32 32
            let hash := edgeHash parent (s.readNat (at_ + 0x18) 40)
            let rod : RodRef := ⟨rl, BitVec.ofNat 64 p.freer, false⟩
            let state (t : State) : Nat := bits (t.readNat sl 8) 0 2
            bits (s.readNat (at_ + 8) 8) 32 31 = 0 → bits (s.readNat (at_ + 16) 8) 48 16 = p.id → 0xFFFF0000 ≤ parent →
            s.readNat kl 4 = nn → s.readNat tl 8 = x → RodSound s rod → isWorkRod rl = false → NoWaiters s rl →
            rodStatus s rl = 0 → rodElsz s rl = 3 → rodFree s rl ≠ 0 → rodTail s rl = rodRsv s rl →
            FirmRegions s [block, ([w, iw], x, 64, pl), ([iw], s.readNat (il + 0x200) 8 + 8 * p.id, 8, tl)]
              (([iw], bucketOf d hash, 4, kl) :: ([iw], p.psa + 8 * page, 8, sl) :: ([iw], p.freer, 64, rl)
                :: ([iw], rodBase s rl + rodRsv s rl % rodCap s rl * 8, 8, ol) :: nodes) →
            let gone (z : State) : Prop := ¬ inTree z at_ ∧ z.readNat kl 4 = bits (s.readNat (at_ + 8) 8) 0 32
              ∧ z.readNat (il + 32 * d + 0x14) 4 = nn ∧ state z = 0 ∧ z.readNat ol 8 = page
              ∧ rodTail z rl = (rodTail s rl + 1) % 2 ^ 64
            (m ≠ 0 → ret (.pfxadmEvict h q) 1 gone) ∧ ret (.pfxadmFlush h q) 1 gone)))
    ∧ (∀ bl il (nl kl : Nat → Nat), s.me.holdsPriv = true → Quiet s →
        let x := s.readNat bl 8
        let iw := deviceWho s.myDie s.me.ctrl.asid.toNat
        let count (d : Nat) : Nat := bits (s.readNat (il + 32 * d + 0x10) 4) 0 27
        let buckets (d : Nat) : Nat := 2 ^ bits (s.readNat (il + 32 * d + 0x10) 4) 27 5
        FirmRegions s [([w], (s.srcS 1 q.a).toNat, 16, bl)] (([iw], x, 0x20A, il)
          :: (List.range 16).map (fun d => ([iw], s.readNat (il + 32 * d) 8, 64 * count d, nl d))
          ++ (List.range 16).map (fun d => ([iw], s.readNat (il + 32 * d + 8) 8, 4 * buckets d, kl d))) →
        ∃ z, exec (.pfxadmInit h q) s = .next z ∧ Wrote s z q.d (resultWord 0 0) ∧ SameFiles s z
          ∧ z.index = some (BitVec.ofNat 64 x, s.me.ctrl.asid)
          ∧ ∀ d, d < 16 → z.readNat (il + 32 * d + 0x18) 6 = 0
            ∧ z.readNat (il + 32 * d + 0x14) 4 = (if count d = 0 then noEntry else d * 2 ^ 28)
            ∧ (∀ i, i < buckets d → z.readNat (kl d + 4 * i) 4 = noEntry)
            ∧ ∀ i, i < count d → bits (z.readNat (nl d + 64 * i + 8) 8) 63 1 = 0
              ∧ bits (z.readNat (nl d + 64 * i + 8) 8) 0 32 = if i + 1 < count d then d * 2 ^ 28 + i + 1 else noEntry)

/-- SLINIT, SLACQ, SLPUB, SLREL: versions open, publish and pin as the slate block says, and a block that does
not hold is quarantined. (04_memory.md: slates, 13_sync_sequence.md: slates, R95, R96, R98, R99, R338, R339.) The slot of a
version that is opened where CUR wraps (log 101), and that WAITQ may hold anything after a change of the wait list (log 86),
are the model's choice. -/
def Obligations.Slates : Prop :=
  ∀ (h : Hdr) (o : RegOps) (s : State) (l : Nat), s.active h = true → NoWaiters s l →
    let a := s.srcS 1 o.a
    let cur := slCur s l
    let j := slSlot s l cur
    let pin (v : Nat) : Nat := l + 0x18 + 2 * (v % slNver s l)
    let key := s.slateKey l
    let v : BitVec 32 := BitVec.ofNat 32 (s.srcS 2 o.b).toNat
    let ret (i : Instr) (x : Word) : Prop := exec i s = .next (s.wrS o.d x 0)
    let parks (i : Instr) : Prop := ∃ t, exec i s = .next t ∧ t.cur.res = .parked ∧ SameLanes s t ∧ SameOutside s t (l + 0x20) 8
    let four : List Instr := [.slacqRd h o, .slacqWr h o, .slpub h o, .slrel h o]
    (BlockAt s a l →
      (slStatus s l = 2 → ∀ i ∈ four, ret i (slResult 4 0 0))
      ∧ (slStatus s l ≠ 2 → slOk s l = false → ∀ i ∈ four, ∃ t, exec i s = .next t ∧ slStatus t l = 2
          ∧ SameOutside s t l 64 ∧ (s.me.fatal = none → s.me.res ≠ .gone → (kvGet s.ctxs s.cur.ctx).isSome = true →
            t.me.ctrl.cause = causeWord .slateCorrupt (laneCode s.cur.lane) true ∧ t.me.ctrl.faddr = a))
      ∧ (slStatus s l ≠ 2 → slOk s l = true →
        (8 ≤ s.me.slatePins.length → ret (.slacqRd h o) (slResult 3 0 0))
        ∧ (s.me.slatePins.length < 8 →
          (slReadReady s l = true → ∃ t, exec (.slacqRd h o) s = .next t
            ∧ Wrote s t o.d (slResult 0 (slAddr s l cur) cur) ∧ slPin t l j = slPin s l j + 1
            ∧ t.me.slatePins = s.me.slatePins ++ [(key, BitVec.ofNat 32 cur)] ∧ SameOutside s t (pin cur) 2)
          ∧ (slReadReady s l = false → (o.mod.getLsbD 0 = true → ret (.slacqRd h o) (slResult 1 0 0))
            ∧ (o.mod.getLsbD 0 = false → parks (.slacqRd h o))))
        ∧ (slWriteReady s l = true → ∃ t, exec (.slacqWr h o) s = .next t
            ∧ Wrote s t o.d (slResult 0 (slAddr s l (cur + 1)) (cur + 1)) ∧ slOpen t l = true ∧ slCur t l = cur
            ∧ slWriter t l = s.cur.ctx % 2 ^ 32 ∧ t.me.slateWrites = s.me.slateWrites ++ [key] ∧ SameOutside s t (l + 0x10) 40)
        ∧ (slWriteReady s l = false → (o.mod.getLsbD 0 = true → ret (.slacqWr h o) (slResult 1 0 0))
            ∧ (o.mod.getLsbD 0 = false → parks (.slacqWr h o)))
        ∧ (slOpen s l = false ∨ slWriter s l ≠ s.cur.ctx % 2 ^ 32 → ret (.slpub h o) (slResult 2 0 0))
        ∧ (NoneFirst s s.me.core → slOpen s l = true → slWriter s l = s.cur.ctx % 2 ^ 32 →
            ∃ t, exec (.slpub h o) s = .next t ∧ Wrote s t o.d (slResult 0 0 ((cur + 1) % 2 ^ 32))
              ∧ slCur t l = (cur + 1) % 2 ^ 32 ∧ slOpen t l = false ∧ t.me.slateWrites = s.me.slateWrites.filter (· != key)
              ∧ SameOutside s t (l + 0x10) 8)
        ∧ ((key, v) ∈ s.me.slatePins → ∃ t, exec (.slrel h o) s = .next t ∧ Wrote s t o.d (slResult 0 0 0)
            ∧ slPin t l (slSlot s l v.toNat) = slPin s l (slSlot s l v.toNat) - 1
            ∧ t.me.slatePins = s.me.slatePins.erase (key, v) ∧ SameOutside s t (pin v.toNat) 2)
        ∧ ((key, v) ∉ s.me.slatePins → ret (.slrel h o) (slResult 2 0 0))))
    ∧ (a.toNat % 64 = 0 → s.ownSpan s.me a.toNat 64 = some ((List.range 64).map (l + ·)) →
        s.boardHit s.cur.ctx ((List.range 64).map (l + ·)) = false →
      let base := (s.srcS 2 o.b).toNat
      let c := (s.srcS 3 o.c).toNat
      let ok := slFieldsOk s base (bits c 0 32) (bits c 32 3) (bits c 36 4)
      let used := slOk s l = true ∧ slStatus s l = 0 ∧ (slOpen s l = true ∨ ∃ k, k < 4 ∧ slPin s l k ≠ 0)
      (ok = false → ret (.slinit h o) (slResult 5 0 0))
      ∧ (ok = true → used → ret (.slinit h o) (slResult 6 0 0))
      ∧ (ok = true → ¬ used → ∃ t, exec (.slinit h o) s = .next t ∧ Wrote s t o.d (slResult 0 0 0) ∧ slOk t l = true
          ∧ slStatus t l = 0 ∧ slOpen t l = false ∧ slCur t l = 0 ∧ slNver t l = bits c 32 3 ∧ slMask t l = bits c 36 4
          ∧ slBase t l = base % 2 ^ 32 ∧ slVsz t l = bits c 0 32 ∧ (∀ k, k < 4 → slPin t l k = 0) ∧ SameOutside s t l 64))

/-- MFC reads a control register, MTC writes the fields that its access code lets it write, MONRD reads the
monitors; privilege is needed. (16_contexts_traps.md: control registers, 20_bringup_health.md: MONRD, R3,
R66, R85, R356, R357, R358, R359, R360, R366, R439) -/
def Obligations.ControlRegistersAndMonitors : Prop :=
  ∀ (h : Hdr) (o : SysOps) (s : State), s.active h = true →
    let n := o.ctrl.toNat
    let v := s.srcS 1 o.a
    let a := v.toNat
    let k := s.cur.ctx
    let die := s.die (bits a 16 4)
    let old := readCtrl s k n
    let ret (i : Instr) (x : Word) : Prop := exec i s = .next (s.wrS o.d x 0)
    let olds := oldCtrls s k s.cur.lane n
    (userReadable n = true ∨ s.me.holdsPriv = true → (olds = [] → ret (.mfc h o) old)
      ∧ ∃ x ∈ old :: olds, exec (.mfc h o) s = .next ((seenCtrl s n).2.wrS o.d x 0))
    ∧ (n = 0x01B ∨ s.me.holdsPriv = true → ∃ t, exec (.mtc h o) s = .next t ∧ SameBytes s t
        ∧ t.me.f = s.me.f ∧ t.me.v = s.me.v ∧ t.me.p = s.me.p ∧ t.me.acc = s.me.acc
        ∧ (∀ m, (t.me.lane m).s = (s.me.lane m).s ∧ (t.me.lane m).pc = (s.me.lane m).pc)
        ∧ let new := readCtrl t k n
          (n ∈ [0x003, 0x010, 0x011, 0x012] ∨ (cmpdtIndex n).isSome = true → new = v)
          ∧ (n = 0x001 → new = v &&& 0x7FF) ∧ (n = 0x002 → new = v &&& 0x0003FFFF7FFFFFFF)
          ∧ (n ∈ [0x004, 0x005, 0x006] → new = v &&& 0x1FFFF) ∧ (n ∈ [0x008, 0x009] → new = v &&& 0x8000000000003FFF)
          ∧ (n = 0x018 → new.toNat = if a < 16 then 16 else if 4096 < a then 4096 else a)
          ∧ (n = 0x019 → new = if bits a 4 4 = 0 then old else
              BitVec.ofNat 64 ((s.core s.me.core).h0 + 16 * bits a 4 4))
          ∧ (n = 0x01B → new = if v.getLsbD 0 = true then 0 else old) ∧ (n = 0x01C → new = v &&& 0x1FFFFFFFF)
          ∧ (n = 0x022 → new = v &&& 0xFFFFFFFFFFFFF000) ∧ (n = 0x02A → new.toNat = a % 2 ^ 32)
          ∧ (n = 0x030 → new = old &&& ~~~(v &&& 0x1F))
          ∧ (n ∈ [0x000, 0x01A, 0x01D, 0x01E, 0x020, 0x021, 0x028, 0x029] → new = old))
    ∧ (s.me.holdsPriv = true →
        ret (.monrdTemp h o) (if 16 < bits a 0 5 then BitVec.allOnes 64
          else (BitVec.ofInt 16 (die.temps.getD (bits a 0 5) 0)).signExtend 64)
        ∧ ret (.monrdVolt h o) (BitVec.ofInt 64 (die.volts.getD (bits a 0 2) 0))
        ∧ ret (.monrdProc h o) (BitVec.ofInt 64 (die.procs.getD (bits a 0 3) 0))
        ∧ ret (.monrdSlow h o) (if 511 < a then BitVec.allOnes 64 else ((kvGet s.module.slow a).getD 0).zeroExtend 64)
        ∧ ret (.monrdWear h o) (if wearItems (bits a 8 8) ≤ bits a 0 8 then BitVec.allOnes 64
          else BitVec.ofNat 64 (wearRead s (bits a 16 4) (bits a 0 16)))
        ∧ ret (.monrdRev h o) (BitVec.ofNat 64 (s.module.nrev.toNat + 2 ^ 16 * s.module.image.toNat))
        ∧ (∃ t x, exec (.monrdPlace h o) s = .next t ∧ x < 64 ∧ (isService s.myCore = false → x = s.myCore % 64)
          ∧ Wrote s t o.d (BitVec.ofNat 64 (x + 2 ^ 6 * s.myDie + 2 ^ 10 * s.me.bank))))
    ∧ (s.me.holdsPriv = false →
        (userReadable n = false → exec (.mfc h o) s = .next (trapHere s .privilege 0xE0 0))
        ∧ (n ≠ 0x01B → exec (.mtc h o) s = .next (trapHere s .privilege 0xE1 0))
        ∧ (∀ i ∈ ([.monrdTemp h o, .monrdVolt h o, .monrdProc h o, .monrdSlow h o, .monrdWear h o, .monrdRev h o, .monrdPlace h o] :
            List Instr), exec i s = .next (trapHere s .privilege 0xEC 0)))

/-- A trap saves where each lane stands and enters the enabled handler, or stops the context for service; ERET
goes back. The vectors are those that the trapping lane finds: what its control registers hold, or, after an MTC of another
lane that it is not ordered with, what they held before. (16_contexts_traps.md: delivery, ERET, R6, R354, R357, R358, R359,
R361, R362, R363, R364, R366, R368) -/
def Obligations.ExceptionEntryAndReturn : Prop :=
  (∀ (s : State) (c : Cause) (detail : Nat) (addr : Word),
    let k := s.cur.ctx
    let r := s.me.ctrl
    let t := trapHere s c detail addr
    let finds (n : Nat) (now v : Word) : Prop := v = now ∨ v ∈ oldCtrls s k s.cur.lane n
    let utvec := seenNow s k s.cur.lane 0x008
    let tvec := seenNow s k s.cur.lane 0x009
    let user := c.isUser = true ∧ utvec.getLsbD 63 = true
    let entered (v : Word) : Prop := t.me.ctrl.cause = causeWord c (laneCode s.cur.lane) false
      ∧ t.me.ctrl.finfo = finfoWord detail none none ∧ t.me.ctrl.faddr = addr ∧ t.me.res = s.me.res
      ∧ ∀ m, (t.me.lane m).epc = (s.me.lane m).resumePoint ∧ (t.me.lane m).pc = bits v.toNat 0 14
        ∧ (t.me.lane m).ended = false ∧ (t.me.lane m).endedBefore = (s.me.lane m).ended
        ∧ (t.me.lane m).handler = LaneQ.empty ∧ (t.me.lane m).normal = (s.me.lane m).normal
        ∧ (t.me.lane m).inflight = [] ∧ (t.me.lane m).s = (s.me.lane m).s
    s.me.fatal = none → (∀ m, (s.me.lane m).parked = none ∧ otherLanesWord s k m (s.me.lane m).pc = false) →
      finds 0x008 r.utvec utvec ∧ finds 0x009 r.tvec tvec
      ∧ (r.hnd = 0 → user → t.me.ctrl.hnd = 1 ∧ entered utvec)
      ∧ (r.hnd = 0 → ¬ user → tvec.getLsbD 63 = true → t.me.ctrl.hnd = 2 ∧ t.me.holdsPriv = true ∧ entered tvec)
      ∧ (r.hnd ≠ 0 ∨ (¬ user ∧ tvec.getLsbD 63 = false) → t.me.res = .stopped ∧ t.me.ctrl.hnd = r.hnd
          ∧ ∀ m, (t.me.lane m).epc = (s.me.lane m).epc))
  ∧ ∀ (h : Hdr) (o : SysOps) (s : State),
      (s.me.ctrl.hnd = 0 → exec (.eret h o) s = .next (trapHere s .privilege 0xE2 0))
      ∧ (s.me.ctrl.hnd ≠ 0 → s.allMet = false →
          exec (.eret h o) s = .next ((s.updMyLane (fun x => { x with arrived := true })).setRes .met))
      ∧ (s.me.ctrl.hnd ≠ 0 → s.allMet = true → ∃ t, exec (.eret h o) s = .next t ∧ t.cur.res = .met ∧ t.me.ctrl.hnd = 0
          ∧ ∀ m, let x := s.me.lane m
            let y := t.me.lane m
            y.pc = (if x.endedBefore then x.endPc else bits x.epc.toNat 0 14) ∧ y.ended = x.endedBefore ∧ y.normal = x.normal ∧ y.s = x.s ∧ y.parked = none
            ∧ y.rslot = if x.endedBefore = false ∧ bits x.epc.toNat 16 1 = 1 then some (bits x.epc.toNat 14 2) else none)

/-- CTXSW swaps to a ready context, WAITI waits for INTP, CTXSPILL empties a bank into an image and CTXFILL
fills one from it. (16_contexts_traps.md: CTXSW, WAITI, CTXSPILL, CTXFILL, R138, R354, R360, R367, R369, R370.) That
the image decides STOP (log 68), what becomes of an image that names no spilled context (log 110), what a spill waits for and
how an error in the share ends it (log 69), and the order in which RANGE, BUSY, EMPTY and OCCUPIED are found, with BADIMAGE for
a save area that CTXFILL.resume cannot read (log 130), are the model's choice. -/
def Obligations.BankControl : Prop :=
  ∀ (h : Hdr) (o : SysOps) (s u : State) (bs : List Byte),
    let me := (s.cur.ctx, s.cur.lane)
    let ret (i : Instr) (v : Word) : Prop := exec i s = .next (u.wrS o.d v 0)
    let core := (targetBank s (blkWord bs 0)).1
    let bank := (targetBank s (blkWord bs 0)).2
    let b := s.core core
    let die := dieOfCore core
    let area := blkWord bs 1
    let asid := s.me.ctrl.asid.toNat
    let movedOn (t : State) : Prop := t.cur.res = .met ∧ ∀ m ∈ s.me.liveLanes, (t.me.lane m).pc = s.cur.pc + 1
      ∧ (t.me.lane m).arrived = false ∧ (t.me.lane m).lcnt = ((s.me.lane m).lcnt + 1) % 2 ^ 64
    let arrives (i : Instr) : Prop := s.allMet = false →
      exec i s = .next ((s.updMyLane (fun x => { x with arrived := true })).setRes .met)
    let noLoops := ∀ m, (s.me.queues m).loops = []
    (s.me.holdsPriv = true → arrives (.ctxsw h o) ∧ arrives (.waiti h o)
      ∧ (s.allMet = true →
        let w := leaveMeeting (countMeeting s s.cur.ctx) s.cur.ctx s.cur.pc
        (noLoops → otherReady w s.me.core = none → ∃ t, exec (.ctxsw h o) s = .next t ∧ movedOn t)
        ∧ (∀ k, otherReady w s.me.core = some k → ∃ t, exec (.ctxsw h o) s = .next t ∧ t.cur.res = .met
            ∧ (t.core s.me.core).active = (s.core s.me.core).other)
        ∧ (noLoops → readCtrl s s.cur.ctx 0x030 &&& waitiMask s o ≠ 0 → ∃ t, exec (.waiti h o) s = .next t ∧ movedOn t)
        ∧ (readCtrl s s.cur.ctx 0x030 &&& waitiMask s o = 0 → exec (.waiti h o) s = .next (s.setRes .stalled))))
    ∧ (s.me.holdsPriv = true → s.active h = true → Runs s (loadBytes s.who (s.srcS 1 o.a).toNat 16) bs u →
      (deviceHalf area 65536 = false → ret (.ctxspill h o) 5)
      ∧ (b.spillOf bank = none → b.bankCtx bank = none → ret (.ctxspillKill h o) 1
          ∧ (deviceHalf area 65536 = true → ret (.ctxspill h o) 1))
      ∧ (∀ q, b.spillOf bank = some q → q ≠ me → ret (.ctxspillKill h o) 6
          ∧ (deviceHalf area 65536 = true → ret (.ctxspill h o) 6))
      ∧ (∀ k v, deviceHalf area 65536 = true → b.spillOf bank = none → b.bankCtx bank = some k →
          Runs u (touchPages s.who true area (4 * bankShare b bank)) () v →
          let w := setSpill (beginSpill v core bank k) core bank (some me)
          (w.core core).bankCtx bank = some k → (w.ctx k).fatal = none →
          ((∃ c ∈ w.cmds, c.ctx = k ∧ c.blocksSpill = true) → exec (.ctxspill h o) s = .next (w.setRes .parked))
          ∧ ((∀ c ∈ w.cmds, c.ctx = k → c.blocksSpill = false) → spillPoison w k bank = none → (w.ctx k).core = core →
            ∃ t, exec (.ctxspill h o) s = .next t ∧ (t.ctx k).res = .spilled ∧ (t.core core).bankCtx bank = none
              ∧ (t.core core).spillOf bank = none))
      ∧ (∀ k, b.spillOf bank = none → b.bankCtx bank = some k →
          exec (.ctxspillKill h o) s = .next ((setSpill (endAsFault u k .killed 0 0 0) core bank (some me)).setRes .parked))
      ∧ (deviceHalf area 4096 = false → ret (.ctxfill h o) 5)
      ∧ (deviceHalf area 4096 = true → (b.spillOf bank).isSome = true → ret (.ctxfill h o) 6)
      ∧ (deviceHalf area 4096 = true → b.spillOf bank = none → (b.bankCtx bank).isSome = true → ret (.ctxfill h o) 2)
      ∧ (∀ v, deviceHalf area 4096 = true → b.spillOf bank = none → b.bankCtx bank = none →
          Runs u (touchPages s.who true area imageSize) () v →
          let image := (deviceRead v die asid area imageSize).getD []
          let k := fillKey v image
          let free := (fillBase v die k image).ctrl.chk = false ∨ upperFree v core = true
          let n := 4 * bankShare (v.core core) bank
          devicePoison v die asid area imageSize = none →
          (imageFits v core image = false → exec (.ctxfill h o) s = .next (v.wrS o.d 3 0))
          ∧ (imageFits v core image = true → ¬ free → exec (.ctxfill h o) s = .next (v.wrS o.d 2 0))
          ∧ (∀ share w, imageFits v core image = true → free → Runs v (do
                touchPages v.who false (blkWord image 1) n
                drain (v.ctx k).core (fun e => e.ctx == k)
                spillRead die v.me.ctrl.asid.toNat (blkWord image 1) n) share w →
              ∃ t, exec (.ctxfill h o) s = .next t ∧ (t.core core).bankCtx bank = some k ∧ (t.ctx k).core = core
                ∧ (t.ctx k).bank = bank
                ∧ (t.ctx k).res = if bits (blkWord image 0) 18 1 = 1 then .stopped else .resident))
      ∧ (b.bankCtx bank = none → ret (.ctxfillResume h o) 4)
      ∧ (∀ k, b.bankCtx bank = some k → ((b.spillOf bank).isSome = true → ret (.ctxfillResume h o) 6)
          ∧ (b.spillOf bank = none → (s.ctx k).res ≠ .stopped → ret (.ctxfillResume h o) 4)
          ∧ (b.spillOf bank = none → (s.ctx k).res = .stopped →
            let area := (s.ctx k).ctrl.savea.toNat
            devicePoison u die (saveAsid s k) area imageSize = none →
            (deviceRead u die (saveAsid s k) area imageSize = none → ret (.ctxfillResume h o) 3)
            ∧ (∀ image, deviceRead u die (saveAsid s k) area imageSize = some image →
              ∃ t, exec (.ctxfillResume h o) s = .next t ∧ (t.ctx k).res = .resident ∧ (t.ctx k).reportDue = false))))
    ∧ (s.me.holdsPriv = false → exec (.ctxsw h o) s = .next (trapHere s .privilege 0xE3 0)
        ∧ exec (.waiti h o) s = .next (trapHere s .privilege 0xE8 0)
        ∧ exec (.ctxspill h o) s = .next (trapHere s .privilege 0xE4 0)
        ∧ exec (.ctxspillKill h o) s = .next (trapHere s .privilege 0xE4 0)
        ∧ exec (.ctxfill h o) s = .next (trapHere s .privilege 0xE5 0)
        ∧ exec (.ctxfillResume h o) s = .next (trapHere s .privilege 0xE5 0))

/-- TLBINV removes translations, binds and registers address spaces; MIGR counts, registers, retries and moves
pages; both need privilege. (17_translation.md: TLBINV, MIGR, R374, R378, R379, R384, R387, R388, R392, R393, R394, R395.) It is
the model's choice that an ASID beyond the table, a table's place and an operand that names no descriptor answer RANGE in
every form (log 91), that TLBINV.init counts every placed context but the issuing one (log 31), and that a move copies a free
number of lines in each step of its lane (log 36). -/
def Obligations.TranslationAdministration : Prop :=
  ∀ (h : Hdr) (o : SysOps) (s : State), s.active h = true →
    let blk (n : Nat) (bs : List Byte) (u : State) : Prop := s.me.holdsPriv = true
      ∧ Runs s (loadBytes s.who (s.srcS 1 o.a).toNat n) bs u ∧ ∀ kc ∈ u.cores, kc.2.wpath = []
    let inRange (e : TlbEnt) (asid va n : Nat) : Bool := e.asid == asid && overlap e.va e.size va n
    let walkIn (e : WalkEnt) (asid va n : Nat) : Bool := e.asid == asid && overlap e.span.1 e.span.2 va n
    (∀ bs u, blk 32 bs u →
      let asid := bits (blkWord bs 0) 0 16
      let va := blkWord bs 1
      let n := blkWord bs 2
      let ret (i : Instr) (v : Word) : Prop := exec i s = .next (u.wrS o.d v 0)
      let left (i : Instr) (p : TlbEnt → Bool) (q : WalkEnt → Bool) : Prop := ∃ t, exec i s = .next t ∧ Wrote u t o.d 0
        ∧ t.tlb = u.tlb.filter p ∧ t.walks = u.walks.filter q ∧ SameBytes u t
      (8192 ≤ asid → ∀ i ∈ ([.tlbinvVa h o, .tlbinvAsid h o, .tlbinvAll h o, .tlbinvBind h o, .tlbinvUnbind h o,
          .tlbinvInit h o] : List Instr), ret i 1)
      ∧ (asid < 8192 →
        (n = 0 ∨ 2 ^ 48 < n → ret (.tlbinvVa h o) 1)
        ∧ (1 ≤ n → n ≤ 2 ^ 48 → left (.tlbinvVa h o) (fun e => !inRange e asid va n) (fun e => !walkIn e asid va n))
        ∧ left (.tlbinvAsid h o) (fun e => e.asid != asid) (fun e => e.asid != asid)
        ∧ left (.tlbinvAll h o) (fun _ => false) (fun _ => false)
        ∧ (∀ d, u.asidDesc asid = some d →
          let gen := (u.field d 16 16 + 1) % 65536
          let unused (t : State) : Prop := (∀ e ∈ t.tlb, e.asid ≠ asid) ∧ ∀ e ∈ t.walks, e.asid ≠ asid
          (va % 131072 ≠ 0 ∨ 2 ^ 48 ≤ va → ret (.tlbinvBind h o) 1)
          ∧ (va % 131072 = 0 → va < 2 ^ 48 → asidBusy u asid = true → ret (.tlbinvBind h o) 2)
          ∧ (va % 131072 = 0 → va < 2 ^ 48 → asidBusy u asid = false → ∃ t, exec (.tlbinvBind h o) s = .next t
              ∧ Wrote u t o.d (BitVec.ofNat 64 (2 ^ 32 * gen)) ∧ t.field d 0 1 = 1 ∧ t.field d 1 1 = bits (blkWord bs 0) 16 1
              ∧ t.field d 16 16 = gen ∧ t.readNat (d + 8) 8 = va ∧ t.field (d + 16) 0 20 = bits n 0 20
              ∧ t.field (d + 16) 32 8 = bits n 32 8 ∧ SameOutside u t d 24 ∧ (gen = 0 → unused t))
          ∧ (asidBusy u asid = true → ret (.tlbinvUnbind h o) 2)
          ∧ (asidBusy u asid = false → ∃ t, exec (.tlbinvUnbind h o) s = .next t ∧ Wrote u t o.d 0 ∧ t.field d 0 2 = 0
              ∧ unused t ∧ SameOutside u t d 8))
        ∧ (va % 32 ≠ 0 ∨ paValid va = false → ret (.tlbinvInit h o) 1)
        ∧ (va % 32 = 0 → paValid va = true → (∃ kc ∈ u.ctxs, kc.1 ≠ u.cur.ctx ∧ placed kc.2 = true) →
            ret (.tlbinvInit h o) 2)
        ∧ (va % 32 = 0 → paValid va = true → (∀ kc ∈ u.ctxs, kc.1 ≠ u.cur.ctx → placed kc.2 = false) →
          ∃ t, exec (.tlbinvInit h o) s = .next t ∧ Wrote u t o.d 0 ∧ t.asidTable = some va ∧ t.aperBase = n
            ∧ t.aperSize = blkWord bs 3 ∧ t.tlb = [] ∧ t.walks = [] ∧ SameBytes u t)))
    ∧ (∀ bs u, blk 32 bs u →
      let asid := bits (blkWord bs 0) 0 13
      let org := bits (blkWord bs 0) 16 1
      let va := blkWord bs 1
      let new := blkWord bs 2
      let q := blkWord bs 0
      let page := pageOf u asid va
      let isHeld (c : EngCmd) : Bool := c.phase == .held && c.fault.isSome && dieOfCore c.core == u.myDie
        && localCore c.core == bits q 0 6 && c.bank == bits q 8 1 && laneCode c.lane == bits q 9 2
        && c.num.toNat == bits q 16 16
      (exec (.migrCnt h o) s = .next ((clearCounts u asid page.1 page.2).wrS o.d (resultWord 0 ((u.dies.map (fun kd =>
          ((kd.2.counts.filter (fun p => p.asid == asid && overlap p.va p.size page.1 page.2)).map
            (fun p => p.count.toNat)).sum)).sum % 2 ^ 56)) 0))
      ∧ (u.cmds.find? isHeld = none → exec (.migrRetry h o) s = .next (u.wrS o.d (resultWord 5 0) 0))
      ∧ (∀ c, u.cmds.find? isHeld = some c → exec (.migrRetry h o) s = .next ((u.putCmd { c with
          phase := .started, fault := none, reportDue := false, asked := false }).wrS o.d (resultWord 0 0) 0))
      ∧ (s.moves.find? (fun m => m.ctx == s.cur.ctx && m.lane == s.cur.lane) = none →
        let ret (v : State) (st : Nat) : Prop := exec (.migrMove h o) s = .next (v.wrS o.d (resultWord st 0) 0)
        let inDevice := bits va 56 1 = 1 ∧ va < 2 ^ 57
        (¬ inDevice → ret u 1)
        ∧ (∀ f, inDevice → u.walk asid va = .error f → ret u (if f = .absent then 4 else 1))
        ∧ (∀ e f, inDevice → u.walk asid va = .ok e → useEnt u e va true false = .error f → ret u 1)
        ∧ (∀ e x leaf, inDevice → u.walk asid va = .ok e → useEnt u e va true false = .ok x → leafAt u asid va = some leaf →
          let fits := new % e.size = 0 ∧ paValid new = true ∧ paValid (new + e.size - 1) = true
          let first := u.moves.find? (fun m => m.leaf == leaf && !m.lost)
          let begun (moves : List PageMove) : Prop := ∃ t, exec (.migrMove h o) s = .next t ∧ t.cur.res = .parked
            ∧ Wrote u t 0 0
            ∧ t.moves = moves ++ [⟨u.cur.ctx, u.cur.lane, asid, e.va, e.size, leaf, e.pa, new, org, 0, false⟩]
            ∧ bits (t.readNat leaf 8) 4 1 = 1 ∧ SameOutside u t leaf 8
            ∧ t.tlb = u.tlb.filter (fun x => !inRange x asid e.va e.size)
            ∧ t.walks = u.walks.filter (fun x => !walkIn x asid e.va e.size)
          (¬ fits → ret u 1)
          ∧ (fits → e.mg = true → (∀ m ∈ first, m.org ≠ 1 ∨ org ≠ 0) →
              ret (if org = 0 then clearCounts u asid e.va e.size else u) 3)
          ∧ (fits → (∀ x ∈ u.waiters, x.obj < e.pa ∨ e.pa + e.size ≤ x.obj) →
            (e.mg = false → begun u.moves)
            ∧ (∀ m, e.mg = true → first = some m → m.org = 1 → org = 0 →
                begun (putMove u { m with lost := true }).moves)))))
    ∧ (∀ m, s.me.holdsPriv = true → s.moves.find? (fun m => m.ctx == s.cur.ctx && m.lane == s.cur.lane) = some m →
      let v := (s.free 16).2
      let n := 1 + (s.free 16).1
      let ret (t : State) : Prop := exec (.migrMove h o) s = .next t
      (m.lost = true → ret ((dropMove v m).wrS o.d (resultWord 3 0) 0))
      ∧ (∀ p, m.lost = false → m.lines < m.total → v.poisoned [m.old + 64 * m.lines] = some p →
          ret (raiseFatal (abandonMove v m) .uncorr (uncorrDetail p) (BitVec.ofNat 64 p)))
      ∧ (m.lost = false → m.lines < m.total → (∀ i, i < m.total → v.poisoned [m.old + 64 * i] = none) →
        m.size % 64 = 0 → m.old % 64 = 0 → m.new % 64 = 0 →
        m.new = m.old ∨ m.old + m.size ≤ m.new ∨ m.new + m.size ≤ m.old →
        (m.lines + n < m.total → ∃ t, ret t ∧ t.cur.res = .parked ∧ Wrote v t 0 0
          ∧ t.moves = (putMove v { m with lines := m.lines + n }).moves
          ∧ (∀ i, i < 64 * n → t.byteAt (m.new + 64 * m.lines + i) = v.byteAt (m.old + 64 * m.lines + i))
          ∧ SameOutside v t (m.new + 64 * m.lines) (64 * n))
        ∧ (m.total ≤ m.lines + n → (∀ x ∈ s.waiters, x.obj < m.old ∨ m.old + m.size ≤ x.obj) →
          m.leaf + 8 ≤ m.new ∨ m.new + m.size ≤ m.leaf →
          ∃ t, ret t ∧ Wrote v t o.d (resultWord 0 0) ∧ t.moves = (dropMove v m).moves
            ∧ (∀ i, 64 * m.lines ≤ i → i < m.size → t.byteAt (m.new + i) = v.byteAt (m.old + i))
            ∧ bits (t.readNat m.leaf 8) 8 40 = m.new / 256 % 2 ^ 40 ∧ bits (t.readNat m.leaf 8) 4 1 = 0
            ∧ (∀ x, (x < m.new ∨ m.new + m.size ≤ x) → (x < m.leaf ∨ m.leaf + 8 ≤ x) → t.byteAt x = v.byteAt x)
            ∧ t.tlb = v.tlb.filter (fun x => !inRange x m.asid m.va m.size)
            ∧ t.walks = v.walks.filter (fun x => !walkIn x m.asid m.va m.size))))
    ∧ (∀ bs u, blk 48 bs u →
      let m := bits (blkWord bs 2) 0 16
      let rod (i : Nat) : Option Word := some (BitVec.ofNat 64 (blkWord bs i))
      (m = 0 → exec (.migrInit h o) s = .next (u.wrS o.d (resultWord 1 0) 0))
      ∧ (m ≠ 0 → ∃ t, exec (.migrInit h o) s = .next t ∧ Wrote u t o.d (resultWord 0 0) ∧ SameBytes u t
          ∧ (let d := t.die u.myDie
            d.engRod = rod 0 ∧ d.hintRod = rod 1 ∧ d.mthr = m ∧ d.repRod = rod 3 ∧ d.saveRod = rod 4
            ∧ d.rodAsid = u.me.ctrl.asid)))
    ∧ (s.me.holdsPriv = false → (∀ i ∈ ([.tlbinvVa h o, .tlbinvAsid h o, .tlbinvAll h o, .tlbinvBind h o,
          .tlbinvUnbind h o, .tlbinvInit h o] : List Instr), exec i s = .next (trapHere s .privilege 0xE6 0))
        ∧ ∀ i ∈ ([.migrMove h o, .migrCnt h o, .migrRetry h o, .migrInit h o] : List Instr),
          exec i s = .next (trapHere s .privilege 0xE9 0))

/-- Events of waits: a reserved slot commits, a wait is cancelled or retried, a dormant lane wakes, a table
entry or signal is settled. (06_rods.md: events, 16_contexts_traps.md: waits, 18_launch_scheduling.md:
dormancy, R146, R151, R152, R168, R169, R365, R405) -/
def Obligations.WaitEvents : Prop :=
  ∀ (s : State),
    let e := s.cur.ev
    let k := e.ctx
    let l := e.lane
    let x := s.lane k l
    let mine (q : Waiter) : Bool := q.ctx == k && q.lane == l && q.kind != .wake
    (∀ q p h o, s.waiters.find? (fun q => q.obj == e.a && (match q.kind with | .commit _ => true | _ => false)) = some q →
        isDeviceCtx q.ctx = false → q.kind = .commit (rodTail s q.obj) → (∀ r ∈ s.waiters, r.obj = q.obj → r = q) → Unmoved s q.obj →
        (s.lane q.ctx q.lane).parked = some p → p.instr = .enq h o →
      ∃ t, exec .rodCommit s = .next t ∧ rodTail t q.obj = (rodTail s q.obj + 1) % 2 ^ 64 ∧ SameOutside s t q.obj 64
        ∧ (t.lane q.ctx q.lane).parked = none ∧ (∀ r ∈ t.waiters, r.ctx = q.ctx → r.lane = q.lane → r.kind = .wake)
        ∧ (t.lane q.ctx q.lane).s = if o.d = 0 then (s.lane q.ctx q.lane).s
            else (s.lane q.ctx q.lane).s.setIfInBounds o.d.toNat (resultWord 0 (rodTail s q.obj % 2 ^ 56)))
    ∧ (∀ p, (kvGet s.ctxs k).isSome = true → x.parked = some p → (∀ m ∈ s.moves, ¬ (m.ctx = k ∧ m.lane = l)) →
        let back (t : State) : Prop := (t.lane k l).parked = none ∧ (t.lane k l).pc = p.pc
          ∧ (t.lane k l).rslot = some p.slot ∧ (t.lane k l).dormant = true ∧ (t.lane k l).s = x.s
        (s.waiters.find? mine = none → ∃ t, exec .rodWaitCancel s = .next t ∧ back t ∧ t.waiters = s.waiters)
        ∧ (∀ q, s.waiters.find? mine = some q → (∀ n, q.kind ≠ .commit n) → ∃ t, exec .rodWaitCancel s = .next t ∧ back t
            ∧ (q.kind ≠ .retry → ∃ r ∈ t.waiters, r.obj = q.obj ∧ r.ctx = k ∧ r.lane = l ∧ r.kind = .wake)))
    ∧ ((kvGet s.ctxs k).isSome = true → s.cmdOf k l (BitVec.ofNat 16 e.num) = none → (s.ctx k).reportDue = false →
        ∃ t, exec .waitTableRetry s = .next t ∧ (t.lane k l).parked = x.parked.map (fun p => { p with retry := false })
          ∧ t.waiters = s.waiters ∧ SameBytes s t)
    ∧ (∀ q, s.waiters.find? (fun q => q.ctx == k && q.lane == l && q.kind == .wake && q.due) = some q →
        ∃ t, exec .wakeNotice s = .next t ∧ (t.lane k l).dormant = false ∧ t.waiters = s.waiters.erase q ∧ SameBytes s t)
    ∧ ((kvGet s.ctxs k).isSome = true → x.dormant = true → (∀ q ∈ s.waiters, q.ctx = k → q.lane = l → q.kind ≠ .wake) →
        ∃ t, exec .wakeFallbackExpiry s = .next t ∧ (t.lane k l).dormant = false ∧ t.waiters = s.waiters ∧ SameBytes s t)
    ∧ (∀ c d set new t, s.cmdOf k l (BitVec.ofNat 16 e.num) = some c → c.kvSet = some set → c.kvNew = some new →
        c.phase ≠ .held → c.kvDone = true → Runs s (kvUpdate c set new) d t →
        exec .kvappEntryUpdate s = .next (t.putCmd d) ∧ d = { c with kvSet := none, kvNew := none, kvPage := new })
    ∧ (∀ g b u, s.signals.find? (fun g => g.table == e.a && g.asid.toNat == e.b) = some g →
        let w : Who := ⟨2 ^ 40, 1024, g.asid.toNat, g.priv, .L⟩
        Runs s (btdAt w g.table) b u →
        (b.drained g.ver.toNat = false → exec .btinvSignal s = .next s)
        ∧ (∀ t, b.drained g.ver.toNat = true → Runs u (homeAdd w g.ctr.toNat 1) () t →
            exec .btinvSignal s = .next { t with signals := t.signals.erase g }))

/-- Fills end, pending global and accumulator writes land, the host reads and writes memory and rings its
doorbell, ATS removes translations. (04_memory.md: instruction memory, 05_ordering.md: write path, host
accesses, 17_translation.md: ATS, R104, R111, R115, R128, R136, R237, R287, R360, R371, R383.) That a fill reads its whole
image in one step (log 25), that a doorbell reaches the service cores of every die (log 71), and the AER bit of a completer
abort (log 125) are the model's choice. -/
def Obligations.MemoryEvents : Prop :=
  ∀ (s : State),
    let e := s.cur.ev
    let core := e.a
    let slot := e.b % 2
    let m := (s.core core).imem slot
    let span (n : Nat) : List Nat := (List.range n).map (fun i => hostAddress s (e.a + i))
    let asids := asidsOf s e.ctx e.num
    (∀ x rest, (s.core core).accq = x :: rest → ∃ t, exec .accumulatorWriteLands s = .next t ∧ (t.core core).accq = rest
        ∧ (t.ctx x.ctx).acc = (s.ctx x.ctx).acc.setIfInBounds x.acc x.val ∧ SameBytes s t)
    ∧ (∀ w, s.pendings = [(core, w)] → (s.core core).wpath = [w] → w.id = e.b →
        let holds (a : Nat) (b : Byte) : Prop := ∃ i, a = w.pa + i ∧ w.bytes.getD i none = some b
        (s.writeHeld w = true → exec .globalWritePerformed s = .next s)
        ∧ (s.writeHeld w = false → w.op = .store → ∃ t, exec .globalWritePerformed s = .next t ∧ (t.core core).wpath = []
            ∧ (∀ a b, holds a b → t.byteAt a = b) ∧ ∀ a, (∀ b, ¬ holds a b) → t.byteAt a = s.byteAt a)
        ∧ (∀ aop n, s.writeHeld w = false → w.op = .redm aop n → s.poisoned [w.pa] = none →
            ∃ t, exec .globalWritePerformed s = .next t ∧ (t.core core).wpath = [] ∧ SameOutside s t w.pa n
              ∧ t.readNat w.pa n = aopNew aop (8 * n) (s.readNat w.pa n) (leNat (w.bytes.filterMap id)) 0 % 256 ^ n))
    ∧ (∀ bs u, m.full = false → Runs s (homeLoad (fillWho s core m (fillFor s core slot)) m.addr.toNat (8 * m.len)) bs u →
        let words : List Word := (chunks 8 m.len bs).map (fun x => BitVec.ofNat 64 (leNat x))
        exec .overlayFillComplete s = .next (slotFilled u core slot words)
        ∧ ∀ k, (u.core core).bank0 = some k → (u.core core).bank1 = none → (u.ctx k).core = core →
            ((u.ctx k).ovl slot).st = .loading → tagMatches (u.ctx k) ((u.core core).imem slot) ((u.ctx k).ovl slot) = true →
          ∃ t, exec .overlayFillComplete s = .next t ∧ ((t.core core).imem slot).words = words
            ∧ ((t.core core).imem slot).full = true ∧ ((t.ctx k).ovl slot).st = .valid)
    ∧ ((span e.bytes.length).Nodup → ∃ t, exec .hostMemoryWrite s = .next t
        ∧ (∀ i, i < e.bytes.length → t.byteAt (hostAddress s (e.a + i)) = e.bytes.getD i 0)
        ∧ (dueWrites (s.beforeHost (span e.bytes.length)) s.pendings = [] → ∀ a, a ∉ span e.bytes.length → t.byteAt a = s.byteAt a))
    ∧ (e.num = 0 → s.poisoned (span e.b) = none → ∃ t, exec .hostMemoryRead s = .next t
        ∧ t.module.reply = (span e.b).map s.byteAt ∧ t.module.abort = false ∧ SameBytes s t)
    ∧ (e.num = 0 → (s.poisoned (span e.b)).isSome = true → ∃ t, exec .hostMemoryRead s = .next t ∧ t.module.reply = []
        ∧ t.module.abort = true ∧ t.module.aer = s.module.aer ||| completerAbort ∧ SameBytes s t ∧ t.ctxs = s.ctxs)
    ∧ (∃ t, exec .hostDoorbell s = .next t ∧ SameBytes s t
        ∧ ∀ d, d < 16 → ∀ c ∈ serviceCores d, (t.core c).intp.getLsbD 2 = true)
    ∧ ((∀ kc ∈ s.cores, kc.2.wpath = []) → ∃ t, exec .atsInvalidation s = .next t ∧ SameBytes s t
        ∧ (∀ x ∈ t.tlb, x ∈ s.tlb) ∧ (∀ x ∈ t.tlb, x.asid ∈ asids → overlap x.va x.size e.a e.b = true →
          x.host = false ∧ bits x.va 56 1 = 1)
        ∧ ∀ kd ∈ t.dies, ∀ p ∈ kd.2.counts, p.hinted = true → p.asid ∈ asids → overlap p.va p.size e.a e.b = false)
    ∧ (let page := e.a / 4096 * 4096
      let asked := (e.num, BitVec.ofNat 64 page) ∈ (s.vif e.ctx).pageReqs
      (¬ asked → exec .pageRequestResponse s = .next s)
      ∧ (asked → e.b = 1 → ∃ t, exec .pageRequestResponse s = .next t ∧ SameBytes s t
        ∧ (t.vif e.ctx).pageReqs = (s.vif e.ctx).pageReqs.erase (e.num, BitVec.ofNat 64 page)
        ∧ ∀ c ∈ t.cmds, c.phase = .held → c.asked = true → c.asid.toNat ∈ asids → ∀ f w va, c.fault = some (f, w, va) →
            va.toNat / 4096 * 4096 ≠ page))

/-- Events of the sequence manager: commits go on and end, records are posted, deferred beads enter, draft
shares and BMAX apply. (06_rods.md: R149, R156, 08_speculation.md: commits, completion slots, deferral, R19, R188, R195, R196,
R197, R394, R407, R408, R410.) That a commit which cannot reach what it needs goes on later (log 85), that a completion rod
that cannot be reached loses its record (log 128), and that BMAX applies with the share at a die's boundary (log 111), are the
model's choice. -/
def Obligations.SequenceEvents : Prop :=
  ∀ (s : State),
    let die := s.cur.ev.a
    let d := s.die die
    (∀ q r ok u, d.seqs.find? (fun q => q.seq == s.cur.ev.b) = some q →
        let w := deviceWho die q.asid.toNat
        let goesTo (t : State) : Prop := exec .commitComplete s = .next t
        Runs s (seqRead w q.va.toNat) (r, ok) u →
        (q.commit = none → goesTo (if r.state = 4 ∧ r.accm = false then commitByRule u w r else u))
        ∧ ∀ c, q.commit = some c →
          let out := commitOutcome c r.pend q.preempt (shareOfDie u die != 0)
          (c.stage = 5 → goesTo (parkSeq u w r 4))
          ∧ (c.stage = 3 → goesTo u)
          ∧ (c.stage < 3 → goesTo (advanceCommit u w r))
          ∧ (∀ t, c.stage = 4 → out.1 = 5 ∨ out.1 = 6 → Runs u (do
                setSeqState w r out.1
                setSeqReason w r out.2
                updEnt r (fun x => { x.idle with commit := none, preempt := false })) () t → goesTo t)
          ∧ (∀ t, c.stage = 4 → out.1 ≠ 5 → out.1 ≠ 6 → Runs u (nextIteration w r) () t → goesTo t))
    ∧ (∀ g, d.gathered.find? (fun g => g.posting.isNone && (decide (12 ≤ g.slots.length) || noCommitPending d)) = some g →
        let k := min 12 g.slots.length
        let goesTo (t : State) : Prop := exec .completionRecordPost s = .next t
        (∀ st, deviceReach s die g.asid.toNat g.crod = .error st →
          (st = heldStatus → goesTo s) ∧ (st ≠ heldStatus → goesTo (settlePost s die g k 0 st)))
        ∧ (∀ r t, deviceReach s die g.asid.toNat g.crod = .ok (r, t) →
          let bytes := recordOf s die g k (postedTo s die r.loc + 1)
          let wait := deviceCtx 0 die true s.nextId
          let comes (out : RodOut) (u : State) : Prop :=
            Runs t (rodEnq { deviceWho die g.asid.toNat with ctx := wait } r bytes 256 true false) out u
          (∀ st n bead u, comes (.done st n bead) u → goesTo (settlePost u die g k r.loc st))
          ∧ (∀ c u, comes (.corrupt c) u → goesTo (settlePost u die g k r.loc 4))
          ∧ (∀ u v, comes .wait u → u.parkFor wait .L r.loc r.addr (.enq bytes) = (true, v) → g ∈ (v.die die).gathered →
            ∃ x, goesTo x ∧ (∃ q ∈ x.waiters, q.ctx = wait ∧ q.obj = r.loc ∧ q.kind = .enq bytes)
              ∧ ∃ y ∈ (x.die die).gathered, y.slots = g.slots ∧ y.waitsAs wait = true)
          ∧ (∀ u v, comes .wait u → u.parkFor wait .L r.loc r.addr (.enq bytes) = (false, v) → goesTo s)))
    ∧ (∀ (g : Gathered) (k rod : Nat) (t : State), (∀ x ∈ g.slots.take k, ∀ p ∈ t.seqEnt x.seq, p.2.commit = none) →
        let u := settlePost t die g k rod 0
        let left := (t.die die).gathered.flatMap (fun y =>
          if y = g then (if (g.slots.drop k).isEmpty then [] else [{ y with slots := g.slots.drop k, posting := none }]) else [y])
        SameBytes t u ∧ (u.die die).gathered = left ∧ postedTo u die rod = postedTo t die rod + 1
          ∧ ∀ r, r ≠ rod → postedTo u die r = postedTo t die r)
    ∧ (∀ x ok t, d.deferred.find? (fun x => deferralOver s die x) = some x →
        enqueueBead s die x.part x.draft x.bead x.seq = (ok, t) →
        (ok = true → exec .deferredBeadEnqueue s = .next (t.updDie die (fun d => { d with deferred := d.deferred.erase x })))
        ∧ (ok = false → exec .deferredBeadEnqueue s = .next (t.updDie die (fun d =>
            { d with deferred := d.deferred.map (fun y => if y == x then { y with full := true } else y) }))))
    ∧ (∀ p, partOfDie s die = some p →
        let share := (s.part p).dshNew.toList.getD die none
        let bmax := (s.part p).bmaxNew.toList.getD die none
        (atBoundary s die p = false → exec .draftShareApply s = .next s)
        ∧ (atBoundary s die p = true → ∃ t, exec .draftShareApply s = .next t
          ∧ (t.part p).dshNew.toList.getD die none = none ∧ (t.part p).bmaxNew.toList.getD die none = none
          ∧ (∀ v, share = some v → (t.part p).dsh.toList.getD die 0 = v)
          ∧ (∀ v, bmax = some v → (t.part p).bmax.toList.getD die 0 = v)
          ∧ (∀ v, share = some v → v ≠ 0 → (∀ b, Unmoved s (workLoc die p b)) →
              ∀ a, (∀ b, a < workLoc die p b ∨ workLoc die p b + 64 ≤ a) → t.byteAt a = s.byteAt a)
          ∧ (share = some 0 → t = leaveDraft (applyPending s die p) die))
        ∧ (s.agenda = [] → pendingShare s die p = true → atBoundary s die p = true → (∀ kc ∈ s.cores, splitDue s kc.1 = false) →
          ∃ e q, nextAgent s = (some (.event .draftShareApply e), s) ∧ e.a ≤ die
            ∧ partOfDie s e.a = some q ∧ pendingShare s e.a q = true ∧ atBoundary s e.a q = true))

/-- Events of contexts and nests: timer, deadlock, ends, placement, completion, bank swaps, images and SPLIT.
(16_contexts_traps.md: ends of contexts, images, 18_launch_scheduling.md: placement, swaps, R58, R59, R73, R74, R85, R360, R369,
R371, R400, R401.) The waits that count for a deadlock, with CAUSE.LANE 0 (log 58), that the walker looks at the nests that some
core could take (log 60), that it reads both counters of a nest in one step (log 61), when the fill of slot 0 starts (log 65),
and that one step places every point that can be placed (log 114), are the model's choice. -/
def Obligations.ContextEvents : Prop :=
  ∀ (s : State),
    let k := s.cur.ev.ctx
    let c := s.ctx k
    let a := s.cur.ev.a
    let ended (t : State) : Prop := (t.ctx k).res = .gone ∧ (t.core c.core).bank0 ≠ some k ∧ (t.core c.core).bank1 ≠ some k
      ∧ (∀ m ∈ t.cmds, m.ctx ≠ k) ∧ (∀ q ∈ t.waiters, q.ctx ≠ k)
      ∧ ∀ n, kvGet s.nests c.nest = some n → (t.nest c.nest).done = n.done + 1
    let swapped (i : Instr) : Prop := ∃ t, exec i s = .next t ∧ (t.core a).active = (s.core a).other
    (issuing s k = true → c.ctrl.ittimer ≠ 0 → c.ctrl.hnd = 0 → (∀ v ∈ c.ctrl.tvec :: oldCtrls s k .L 0x009, v.getLsbD 63 = true) →
        (∀ m ∈ s.moves, m.ctx ≠ k) → (∀ q ∈ s.waiters, q.ctx = k → ∀ n, q.kind ≠ .commit n) →
        ∃ t, exec .timer s = .next t ∧ (t.ctx k).ctrl.ittimer = 0 ∧ (t.ctx k).ctrl.hnd = 2
          ∧ (t.ctx k).ctrl.cause = causeWord .timer 0 false)
    ∧ (issuing s k = true → c.liveLanes ≠ [] → nothingInFlight s k = true →
        (∀ l ∈ c.liveLanes, laneWaits (settledGives s k) k l = true) →
        ∃ t, exec .laneDeadlock s = .next t ∧ (t.ctx k).ctrl.cause = causeWord .laneDeadlock 0 true
          ∧ (t.ctx k).ctrl.finfo = finfoWord ((c.liveLanes.map (fun l => 2 ^ (laneCode l - 1))).sum) none none
          ∧ (t.ctx k).fatal.isSome = true ∧ SameBytes s t)
    ∧ ((kvGet s.ctxs k).isSome = true → c.res ≠ .gone → c.fatal.isSome = true → (s.core c.core).wpath = [] →
        ∃ t, exec .contextFaultEnd s = .next t ∧ ended t
          ∧ ((kvGet s.nests c.nest).isSome = true → (t.nest c.nest).faulted = true))
    ∧ ((kvGet s.ctxs k).isSome = true → c.res ≠ .gone → c.fatal = none → c.liveLanes = [] →
        (∀ m ∈ s.cmds, m.ctx ≠ k) → pendingWrites s k = false → ∃ t, exec .contextComplete s = .next t ∧ ended t)
    ∧ (∀ n key m core bank rod bs area u v, s.walking = true → chooseNest (latchWaits s a) a = some (key, n) →
        n.nextPoint a = some m → findCore (latchWaits s a) n a = some (core, bank) →
        ((latchWaits s a).die a).saveRod = some rod →
        (if n.ltn = 0 then (some [], latchWaits s a)
          else walkerRead (latchWaits s a) (n.who a) n.ltab.toNat (8 * n.ltn)) = (some bs, u) →
        deviceDeq u a (u.die a).rodAsid.toNat rod 8 = (0, area, v) →
        ∃ t, exec .placePoint s = .next t ∧ v.nextSer < t.nextSer ∧ (t.core core).bankCtx bank = some v.nextSer
          ∧ (∃ m', kvGet (t.nest key).placed a = some m' ∧ m < m')
          ∧ (let x := t.ctx v.nextSer
            x.res = .resident ∧ x.core = core ∧ x.bank = bank ∧ x.nest = key ∧ x.ctrl.nestid = n.nestid ∧ x.ctrl.prv = n.prq
            ∧ x.ctrl.savea = BitVec.ofNat 64 (leNat area)
            ∧ ∀ l, (x.lane l).pc = n.entryw ∧ (x.lane l).ended = false ∧ (x.lane l).s.getD 31 0 = n.argb))
    ∧ (∀ n, kvGet s.nests a = some n → n.complete = false → n.faulted = false → n.done = n.total →
        n.sigAddr = 0 ∨ (signalNest s n).isSome = true → ∃ t, exec .nestComplete s = .next t ∧ (t.nest a).complete = true)
    ∧ (∀ j, otherReady s a = some j → (swapDue s a j = true → swapped .bankSwap)
        ∧ ∀ i, (s.core a).bankCtx (s.core a).active = some i → (s.ctx i).ready = true → (s.ctx i).prio = (s.ctx j).prio →
          (s.core a).qnt ≠ 0 → (s.core a).qnt ≤ (s.ctx i).quantum → swapped .quantumExpiry)
    ∧ ((kvGet s.ctxs k).isSome = true → c.res = .resident → (s.core c.core).active ≠ c.bank → c.image = 0 →
        (∀ e ∈ (s.core c.core).accq, e.ctx ≠ k) → ∃ t, exec .backgroundSpillDone s = .next t ∧ (t.ctx k).image = 1)
    ∧ ((s.core a).pend ≠ 0 → (s.core a).bank0 = none → (s.core a).bank1 = none →
        (∀ kc ∈ s.ctxs, ¬ (kc.2.res = .resident ∧ kc.2.ctrl.chk = true ∧ kc.2.core + 64 = a)) →
        ∃ t, exec .splitApply s = .next t ∧ (t.core a).h0 = (s.core a).pend ∧ (t.core a).pend = 0 ∧ SameBytes s t)
    ∧ (s.agenda = [] → (∃ kc ∈ s.cores, splitDue s kc.1 = true) →
        ∃ e, nextAgent s = (some (.event .splitApply e), s) ∧ splitDue s e.a = true)

/-- Launch beads: a NEST makes a nest or is refused with its reason; configuration beads configure, form or
free; groups form or time out. (18_launch_scheduling.md: launch beads, VIFCFG, PARTCFG, 19_links_fabric.md: GROUPCFG,
03_execution.md: nest records, R52, R56, R396, R398, R400, R407, R421, R422.) The order in which a bead's faults are found and the
NESTID of its refusal (log 62), the range of an interface that is not valid (log 63), when a die holds a CHECKED context
(log 104), and that what PARTCFG sets applies at once to a die that joins (log 111), are the model's choice. -/
def Obligations.LaunchAndConfiguration : Prop :=
  ∀ (s t : State) (b : LaunchBead),
    let a := s.cur.ev.a
    let taken (sort : LaunchBead → Bool) : Prop := launchOf s sort = some (b, t)
    let f := s.vif b.vif
    (launchOf s (fun b => b.kind == 0 || decide (4 ≤ b.kind)) = none → exec .launchNest s = .next (missLaunch s a))
    ∧ (∀ r u, taken (fun b => b.kind == 0 || decide (4 ≤ b.kind)) → walkerRead t b.who b.addr 256 = (some r, u) →
      let dies := eligibleDies (s.part (s.vif b.vif).part) (recChecked r)
      (∀ n, beadFault (s.vif b.vif) b = some n → exec .launchNest s = .next (refuse u b n (recNestid r)))
      ∧ (beadFault (s.vif b.vif) b = none → b.cmpi = 0 → recLtn r = 0 → recBtn r = 0 →
        (∀ n, firstFault (recordFaults dies.length b.addr r []) = some n →
          exec .launchNest s = .next (refuse u b n (recNestid r)))
        ∧ (firstFault (recordFaults dies.length b.addr r []) = none → ∃ v, exec .launchNest s = .next v
          ∧ kvGet v.nests u.nextId = some (nestOf b (s.vif b.vif) dies r [] []) ∧ v.nextId = u.nextId + 1 ∧ SameBytes u v)))
    ∧ (let configs : List (Instr × (LaunchBead → Bool)) := [(.partcfg, fun b => b.kind == 1), (.vifcfg, fun b => b.kind == 2),
          (.groupcfgForm, fun b => b.kind == 3 && !b.free), (.groupcfgFree, fun b => b.kind == 3 && b.free)]
      ∀ p ∈ configs, taken p.2 → b.vif ≠ 0 → exec p.1 s = .next (refuse t b 21 0))
    ∧ (∀ bs u, taken (fun b => b.kind == 2) → configFault f b = none → walkerRead t b.who b.addr 32 = (some bs, u) →
      let w := blkWord bs
      let v := bits (w 0) 56 8
      let asidb := bits (w 1) 0 13
      let asidn := bits (w 1) 16 14
      1 ≤ bits (w 0) 16 7 → bits (w 0) 16 7 ≤ 64 → 1 ≤ asidn → asidb + asidn ≤ 8192 →
      (∀ kv ∈ u.vifs, kv.1 ≠ v → overlap asidb asidn kv.2.asidb kv.2.asidn = false) →
      ∃ x, exec .vifcfg s = .next x ∧ (let g := x.vif v
        g.valid = (bits (w 0) 0 1 == 1) ∧ g.prvok = (bits (w 0) 1 1 == 1 || v == 0) ∧ g.part = bits (w 0) 8 4
        ∧ g.npend = bits (w 0) 16 7 ∧ g.asidb = asidb ∧ g.asidn = asidn ∧ g.lrod = BitVec.ofNat 64 (w 2)
        ∧ g.crod = BitVec.ofNat 64 (w 3)))
    ∧ (∀ bs u, taken (fun b => b.kind == 1) → configFault f b = none → walkerRead t b.who b.addr 32 = (some bs, u) →
      let w := blkWord bs
      let p := bits (w 0) 8 4
      let dies : BitVec 16 := BitVec.ofNat 16 (bits (w 0) 32 16)
      let bmax := bits (w 2) 32 11
      b.addr % 8 = 0 → 1 ≤ bmax → bmax ≤ 1024 → ¬ (dies = 0 ∧ (u.vif 0).part = p) →
      (∀ d, d < 16 → (u.part p).dies.getLsbD d ≠ dies.getLsbD d → dieBusy u d = false
        ∧ (dies.getLsbD d = true → ∀ kp ∈ u.parts, kp.1 ≠ p → kp.2.dies.getLsbD d = false)) →
      ∃ x, exec .partcfg s = .next x ∧ (let q := x.part p
        q.dies = dies ∧ q.qnt = bits (w 2) 0 32 ∧ ∀ d, d < 16 → dies.getLsbD d = true →
          let share : BitVec 4 := BitVec.ofNat 4 (bits (w 1) (4 * d) 4)
          if (u.part p).dies.getLsbD d = true then q.bmaxNew.toList.getD d none = some bmax ∧ q.dshNew.toList.getD d none = some share
          else q.bmax.toList.getD d 0 = bmax ∧ q.dsh.toList.getD d 0 = share))
    ∧ (∀ bs u, configFault f b = none → walkerRead t b.who b.addr 128 = (some bs, u) →
        (taken (fun b => b.kind == 3 && !b.free) → groupRecordOk b bs = true → ∃ x, exec .groupcfgForm s = .next x
          ∧ kvGet x.groups u.nextId = some (groupOf b bs) ∧ (groupOf b bs).st = .forming)
        ∧ (taken (fun b => b.kind == 3 && !b.free) → groupRecordOk b bs = false → exec .groupcfgForm s =
          .next (refuse (writeGroupRecord u (groupOf b bs) (bits (blkWord bs 0) 32 8) 3 []) b 24 0))
        ∧ (∀ kg, taken (fun b => b.kind == 3 && b.free) → groupOfHandle u (bits (blkWord bs 0) 32 8) = some kg →
          ∃ x, exec .groupcfgFree s = .next x ∧ (x.group kg.1).st = .freed))
    ∧ (∀ g, kvGet s.groups a = some g → g.st = .forming →
        (∃ x, exec .groupFormTimeout s = .next x ∧ (x.group a).st = .freed)
        ∧ (let ls := lanesFor s g ((s.cur.ev.ints.headD []).map (·.toNat))
          lanesOk ls = true → freeHandles s ≠ [] → ∃ x, exec .groupFormed s = .next x ∧ (x.group a).st = .formed
            ∧ (x.group a).lanes = ls ∧ (x.group a).handle ∈ freeHandles s
            ∧ ∀ p ∈ (x.group a).lost, s.module.deadLanes.getLsbD p.2.1 = true))

/-- LWIN and CWIN move one record through a rod, report their status and raise its flags; register writes, function reset and
the completion timer act on the VIF; the host reads the registers; a function that is not up answers nothing.
(18_launch_scheduling.md: host windows and registers, 20_bringup_health.md: registers, R3, R394, R397, R411, R433, R434.) That a
window which is shut answers 4 (log 77), that a page move which holds a window ends first (log 36), and the registers of the
configuration space (log 125) are the model's choice. -/
def Obligations.HostWindows : Prop :=
  ∀ (s : State),
    let e := s.cur.ev
    let f := s.vif e.a
    let up := s.functionUp e.a
    let zeros := List.replicate e.num (0 : Byte)
    let lwin := throughWindow s f.asidb f.lrod 17 (lwinEnq f.asidb f.lrod e.bytes)
    let cwin := throughWindow s f.asidb f.crod 18 (fun t => deviceDeq t 0 f.asidb f.crod 256)
    let flags (b g : Vif) (lref rodq : Prop) [Decidable lref] [Decidable rodq] : Prop :=
      g.iflag = b.iflag ||| (if lref then 2 else 0) ||| (if rodq then 4 else 0)
      ∧ g.msi1 = b.msi1 + (if lref ∧ b.iflag.getLsbD 1 = false then 1 else 0) + (if rodq ∧ b.iflag.getLsbD 2 = false then 1 else 0)
      ∧ g.msi0 = b.msi0
    (up = decide (s.module.ready = true ∧ (e.a = 0 ∨ e.a ≤ s.module.vfs)))
    ∧ (up = false → exec .lwin s = .next s ∧ (e.ctx = 0 → exec .hostRegisterWrite s = .next s)
        ∧ ∃ t, exec .cwin s = .next t ∧ t.module.reply = zeros ∧ t.vifs = s.vifs ∧ SameBytes s t)
    ∧ (∀ st, windowState s f.asidb f.lrod 17 = st →
        (∀ n t, st = 0 → deviceEnq s 0 f.asidb f.lrod e.bytes = (n, t) → n ≠ heldStatus → lwin = (n, [], t))
        ∧ (st ≠ 0 → st ≠ heldStatus → lwin = (st, [], s)))
    ∧ (∀ st, windowState s f.asidb f.crod 18 = st →
        (∀ n bead t, st = 0 → deviceDeq s 0 f.asidb f.crod 256 = (n, bead, t) → n ≠ heldStatus → cwin = (n, bead, t))
        ∧ (st ≠ 0 → st ≠ heldStatus → cwin = (st, [], s)))
    ∧ (up = true →
      (∀ st x t, e.b = 0 → e.bytes.length = 64 → lwin = (st, x, t) →
        (st = heldStatus → exec .lwin s = .next t)
        ∧ (st ≠ heldStatus → ∃ u, exec .lwin s = .next u ∧ SameBytes t u ∧ (u.vif e.a).lst = st
          ∧ (u.vif e.a).accB = (if st = 0 then ((t.vif e.a).accB + 1) % 2 ^ 24 else (t.vif e.a).accB)
          ∧ (u.vif e.a).refd = (if st = 0 then (t.vif e.a).refd else ((t.vif e.a).refd + 1) % 2 ^ 24)
          ∧ flags (t.vif e.a) (u.vif e.a) (st ≠ 0) (st = 3 ∨ st = 4)))
      ∧ (e.b ≠ 0 ∨ e.bytes.length ≠ 64 → ∃ u, exec .lwin s = .next u ∧ SameBytes s u ∧ (u.vif e.a).lst = 5
          ∧ (u.vif e.a).refd = (f.refd + 1) % 2 ^ 24 ∧ (u.vif e.a).accB = f.accB ∧ flags f (u.vif e.a) True False)
      ∧ (∀ st bead t, e.b = 0 → e.num = 256 → cwin = (st, bead, t) →
        (st = heldStatus → exec .cwin s = .next t)
        ∧ (st ≠ heldStatus → ∃ u, exec .cwin s = .next u ∧ SameBytes t u ∧ (u.vif e.a).cst = st
          ∧ u.module.reply = (if st = 0 then bead else zeros) ∧ u.module.abort = false
          ∧ flags (t.vif e.a) (u.vif e.a) False (st = 3 ∨ st = 4)))
      ∧ (e.b ≠ 0 ∨ e.num ≠ 256 → ∃ u, exec .cwin s = .next u ∧ SameBytes s u ∧ (u.vif e.a).cst = 5
          ∧ u.module.reply = zeros ∧ flags f (u.vif e.a) False False)
      ∧ (e.ctx = 0 → ∃ u, exec .hostRegisterWrite s = .next u ∧ SameBytes s u ∧ (∀ v, v ≠ e.a → u.vif v = s.vif v)
          ∧ (let g := u.vif e.a
            let n := e.num % 256
            (e.b = 0x208 → g = if n ≠ 0 ∧ n ≤ f.pcnt then
                { f with modcnt := n, pcnt := 0, iflag := f.iflag ||| 1, msi0 := f.msi0 + 1 } else { f with modcnt := n })
            ∧ (e.b = 0x210 → g = { f with modtmr := e.num % 65536 })
            ∧ (e.b = 0x220 → g = { f with iflag := f.iflag &&& ~~~(BitVec.ofNat 3 e.num) })
            ∧ (e.b ∉ [0x208, 0x210, 0x220] → g = f))))
    ∧ (e.ctx ≠ 0 → ∃ u, exec .hostRegisterWrite s = .next u ∧ SameBytes s u ∧ u.vifs = s.vifs
        ∧ u.module.vfs = (if e.ctx = 1 ∧ s.module.ready = true then min 255 e.num else s.module.vfs)
        ∧ u.module.aer = (if e.ctx = 2 then s.module.aer &&& ~~~(BitVec.ofNat 32 e.num) else s.module.aer))
    ∧ (∃ u, exec .functionReset s = .next u ∧ SameBytes s u ∧ (∀ v, v ≠ e.a → u.vif v = s.vif v)
        ∧ u.vif e.a = { f with lst := 0, cst := 0, accB := 0, refd := 0, modcnt := 1, modtmr := 0, pcnt := 0, iflag := 0 })
    ∧ (f.modtmr ≠ 0 → 0 < f.pcnt → ∃ u, exec .completionTimerExpiry s = .next u ∧ SameBytes s u
        ∧ (∀ v, v ≠ e.a → u.vif v = s.vif v)
        ∧ u.vif e.a = { f with pcnt := 0, iflag := f.iflag ||| 1, msi0 := f.msi0 + 1 })
    ∧ (∀ v, e.num = v + 1 → e.b = 8 →
        let g := s.vif v
        let m := s.module
        let reads (off x : Nat) : Prop := e.a = off → ∃ u, exec .hostMemoryRead s = .next u
          ∧ u.module.reply = bytesOf x 8 ∧ u.module.abort = false ∧ u.vifs = s.vifs ∧ SameBytes s u
        (s.functionUp v = true → reads 0x200 (g.lst + 2 ^ 8 * g.cst + 2 ^ 16 * g.accB + 2 ^ 40 * g.refd) ∧ reads 0x208 g.modcnt
            ∧ reads 0x210 g.modtmr ∧ reads 0x218 g.pcnt ∧ reads 0x220 g.iflag.toNat
            ∧ ∀ off, off % 8 = 0 → off < 0x100 → reads off 0)
        ∧ (v = 0 → reads 0x300 (m.stage + 2 ^ 4 * m.ready.toNat + 2 ^ 5 * m.fail.toNat + 2 ^ 8 * m.err
            + 2 ^ 16 * m.nrev.toNat))
        ∧ (s.functionUp v = false → ∀ off, off % 8 = 0 → v ≠ 0 ∨ off ≠ 0x300 → reads off 0))

/-- Monitor samples, caps, wear counts, soft errors and failing links: what each records, limits, counts or
takes out of service, INTP.THERM and INTP.LINK among it. (19_links_fabric.md: links, buses, 20_bringup_health.md: monitors,
power, heat, wear, R371, R373, R415, R417, R418, R421, R423, R440, R442, R443, R444.) That an error in a register raises UNCORR
at once (log 70), which service cores see INTP.LINK (log 71), and that seconds and hours are counted in samples (log 72), are
the model's choice. -/
def Obligations.LinksPowerAndHealth : Prop :=
  ∀ (s : State),
    let e := s.cur.ev
    let a := e.a
    let wear (t : State) (die key : Nat) : Nat := (kvGet (t.die die).wear key).getD 0
    let sampled := { s.die a with temps := e.ints.getD 0 [], volts := e.ints.getD 1 [], procs := e.ints.getD 2 [] }
    let column := columnOf a
    let now (i : Nat) : Die := if i = a then sampled else s.die i
    (a < 16 → tooHot sampled = false → ∃ t, exec .monitorSample s = .next t ∧ (t.die a).temps = sampled.temps
        ∧ (t.die a).volts = sampled.volts ∧ (t.die a).procs = sampled.procs ∧ wear t a 0x900 = wear s a 0x900 + 1
        ∧ (overFirst sampled = true → ∀ c ∈ serviceCores a, (t.core c).intp.getLsbD 4 = true)
        ∧ (veryHot sampled = true → t.module.refresh2 = true ∧ ∀ d, d < 16 → (t.die d).tcap = 800)
        ∧ ∀ i ∈ column, ((t.die i).warm = true ↔ (∃ j ∈ column, overFirst (now j) = true)
          ∨ ((∃ j ∈ column, (s.die j).warm = true) ∧ ∃ j ∈ column, nearFirst (now j) = true)))
    ∧ ((∀ d, d < 16 → (s.die d).hot = false) → tooHot (s.die (2 * a)) = false → tooHot (s.die (2 * a + 1)) = false →
        ∃ t, exec .thermalCapStep s = .next t ∧ ∀ d, d = 2 * a ∨ d = 2 * a + 1 → (t.die d).tcap =
          if (s.die (2 * a)).warm = true ∨ (s.die (2 * a + 1)).warm = true then (s.die d).tcap - 100
          else min 2200 ((s.die d).tcap + 100))
    ∧ (∃ t, exec .powerSample s = .next t ∧ t.ctxs = s.ctxs ∧ SameBytes s t
        ∧ t.module.overP = (if s.module.plim < a then (s.module.overP + 1) % 10 else 0)
        ∧ t.module.underP = (if 100 * a < 95 * s.module.plim then (s.module.underP + 1) % 100 else 0)
        ∧ (s.module.plim < a → s.module.overP = 9 → ∀ d, d < 16 → (t.die d).pcap = (s.die d).pcap - 100))
    ∧ ((∀ d, d < 16 → ((s.die d).wear.map (·.1)).Nodup ∧ ∀ p ∈ (s.die d).wear, p.1 < 65536) →
        ∃ t, exec .wearFlush s = .next t ∧ SameBytes s t ∧ ∀ d key, d < 16 → key < 65536 →
          wearRead t d key = wearRead s d key ∧ onDie t d key = 0)
    ∧ (let kind := e.b % 4
      let key := 2 ^ 16 * a + 2 ^ 12 * kind + e.num % 2 ^ 12
      let n := 1 + (if e.ctx = 1 then (kvGet s.module.replays key).getD 0 else 0)
      let limit := if kind = 3 then 64 else 16
      ∃ t, exec .flitReplay s = .next t ∧ wear t a (0x600 + kind) = wear s a (0x600 + kind) + 1
        ∧ kvGet t.module.replays key = some n
        ∧ (n ≤ limit → SameBytes s t ∧ t.ctxs = s.ctxs ∧ t.module.outOfService = s.module.outOfService
            ∧ t.module.deadLanes = s.module.deadLanes)
        ∧ (limit < n → kind = 3 → t.module.deadLanes.getLsbD (e.num % 16) = true)
        ∧ (limit < n → kind ≠ 3 → t.module.outOfService = true))
    ∧ (∃ t, exec .meshLinkFailure s = .next t ∧ t.module.outOfService = true
        ∧ ∀ kc ∈ s.ctxs, placed (s.ctx kc.1) = true → placed kc.2 = true → (s.ctx kc.1).fatal = none →
          (t.ctx kc.1).ctrl.cause = causeWord .linkFail 0 true ∧ (t.ctx kc.1).fatal.isSome = true)
    ∧ (∃ t, exec .scaleoutLaneFailure s = .next t ∧ t.module.deadLanes.getLsbD (a % 16) = true
        ∧ t.module.lastLane = a % 16 ∧ (∀ key g, kvGet t.groups key = some g → ∀ p ∈ g.lanes, p.2.getLsbD (a % 16) = false)
        ∧ ∀ key g, kvGet s.groups key = some g → ∀ p ∈ g.lanes, p.2.getLsbD (a % 16) = true →
            ∃ q ∈ (t.group key).lost, q.1 = p.1 ∧ q.2.1 = a % 16)
    ∧ (∀ (m : BitVec 16) (x y : Nat), m ≠ 0 →
        let ls := laneList m
        let lane := ls.getD ((16 * x + y) % ls.length) 0
        pairLane m x y = some lane ∧ m.getLsbD lane = true)
    ∧ (∃ t, exec .vbusWireFault s = .next t ∧ t.module.remaps = s.module.remaps ++ [(a % 512, e.b)] ∧ SameBytes s t)
    ∧ ((∀ r ∈ s.module.remaps, r.1 / 64 ≠ a / 2) →
        let wanted : Die := match e.ints with
          | (x :: _) :: _ => { s.die a with target := x.toNat }
          | _ => s.die a
        let g := s.group e.num
        let bit : BitVec 16 := BitVec.ofNat 16 (2 ^ (e.b - 1))
        let joins := a = 14 ∧ 1 ≤ e.b ∧ e.b ≤ 16 ∧ g.st = .formed ∧ idleLanes s &&& bit ≠ 0 ∧ ∃ x ∈ g.lost, x.1 = e.ctx ∧ x.2.2 ≠ 0
        ∃ t, exec .quiesce s = .next t ∧ (t.die a).clock = wanted.effective ∧ t.module.remaps = s.module.remaps
          ∧ (¬ joins → t.groups = s.groups ∧ SameBytes s t)
          ∧ (joins → (t.group e.num).lanes = g.lanes.map (fun p => if p.1 = e.ctx then (p.1, p.2 ||| bit) else p)
            ∧ (t.group e.num).lost = g.lost.map (fun x => if x.1 = e.ctx then (x.1, x.2.1, x.2.2 - 1) else x)))
    ∧ (e.b = 0 → e.num < 9 → wear s a (0x400 + e.num) < wearMax → ∃ t, exec .softError s = .next t
        ∧ wear t a (0x400 + e.num) = wear s a (0x400 + e.num) + 1
        ∧ t.ctxs = s.ctxs ∧ t.poison = s.poison ∧ SameBytes s t)
    ∧ (e.b = 1 → e.num = 0 → (kvGet s.ctxs e.ctx).isSome = true → (s.ctx e.ctx).fatal = none → (s.ctx e.ctx).res ≠ .gone →
        ∃ t, exec .softError s = .next t ∧ (t.ctx e.ctx).ctrl.cause = causeWord .uncorr 0 true
          ∧ (t.ctx e.ctx).fatal.isSome = true)
    ∧ (e.b = 1 → e.num ∈ [1, 3, 7, 8] → ∃ t, exec .softError s = .next t ∧ rowOf (e.nat 0 0) ∈ t.poison
        ∧ (rowOf (e.nat 0 0) ∈ t.l2bad ↔ e.num = 3) ∧ SameBytes s t)
    ∧ (e.b = 1 → e.num ∈ [2, 4, 5, 6] → wear s a (0x400 + e.num) < wearMax → ∃ t, exec .softError s = .next t
        ∧ wear t a (0x400 + e.num) = wear s a (0x400 + e.num) + 1 ∧ t.ctxs = s.ctxs ∧ t.poison = s.poison ∧ SameBytes s t)
    ∧ (2 ≤ e.b → (kvGet s.ctxs e.ctx).isSome = true → (s.ctx e.ctx).ctrl.chk = true → ∃ t, exec .softError s = .next t
        ∧ (t.ctx e.ctx).mirrorDiff = some (e.nat 0 0 % 6) ∧ SameBytes s t)

/-- Resets and power: volatile state is lost, flash and the secure element stay; boot goes stage by stage and stops with a code;
SPDM requests of the physical function are answered. (20_bringup_health.md: boot, attestation, wear, R372, R433, R434, R435,
R436, R437, R440, R441, R444.) What outlives a reset besides these (log 74), that scratchpads read zero after it (log 4), how
SPDM frames what it says (log 23), the header of an image (log 123), and the setup that firmware chooses (log 124), are the
model's choice. -/
def Obligations.PowerBootAndAttestation : Prop :=
  ∀ (s : State),
    let e := s.cur.ev
    let m := s.module
    let zeroed (t : State) : Prop := ∀ x, x < 2 ^ 64 ∨ 2 ^ 72 ≤ x → t.byteAt x = 0
    let cold (t : State) : Prop := t.ctxs = [] ∧ t.cmds = [] ∧ t.waiters = [] ∧ t.tlb = [] ∧ t.walks = [] ∧ t.nests = [] ∧ t.cores = []
      ∧ t.asidTable = none ∧ t.module.stage = 0 ∧ t.module.ready = false ∧ t.module.fail = false
      ∧ t.module.suspect = m.suspect ∧ t.module.floor = m.floor ∧ t.module.floorB = m.floorB ∧ t.module.revoked = m.revoked
      ∧ t.module.loaded = m.loaded ∧ zeroed t ∧ ∀ x, 2 ^ 64 ≤ x → x < 2 ^ 72 → t.byteAt x = s.byteAt x
    let stage := m.stage + 1
    let image := m.firmware.image.signed
    (∃ t, exec .moduleReset s = .next t ∧ cold t ∧ t.module.powered = true ∧ t.module.flash = m.flash)
    ∧ (∃ t, exec .powerLoss s = .next t ∧ cold t ∧ t.module.powered = false ∧ t.module.flash = m.flash)
    ∧ (∃ t, exec .orderlyShutdown s = .next t ∧ cold t ∧ t.module.powered = false
        ∧ ((∀ d, d < 16 → ((s.die d).wear.map (·.1)).Nodup ∧ ∀ p ∈ (s.die d).wear, p.1 < 65536) →
          ∀ d key, d < 16 → key < 65536 → wearRead t d key = wearRead s d key))
    ∧ (m.ready = true ∨ m.fail = true ∨ 6 ≤ m.stage → exec .bootStage s = .next s)
    ∧ (m.ready = false → m.fail = false → m.stage < 6 →
        (stageErrors s stage = [] → ∃ t, exec .bootStage s = .next t ∧ t.module.stage = stage ∧ t.module.fail = false
          ∧ t.module.ready = decide (stage = 6)
          ∧ (stage = 2 → t.module.image = image.version)
          ∧ (stage = 4 → zeroed t ∧ ∀ d, d < 16 → ∀ c ∈ serviceCores d, ∃ k, (t.core c).bank0 = some k
            ∧ (t.ctx k).res = .resident ∧ (t.ctx k).ctrl.prv = true ∧ (t.ctx k).core = c)
          ∧ (stage = 5 → m.floor ≤ t.module.floor ∧ m.floorB ≤ t.module.floorB ∧ m.revoked &&& t.module.revoked = m.revoked)
          ∧ (stage = 6 → t.asidTable.isSome = true ∧ (t.vif 0).valid = true ∧ (t.vif 0).prvok = true
            ∧ t.module.nrev = m.firmware.image.nrev))
        ∧ (stageErrors s stage ≠ [] → ∃ t, exec .bootStage s = .next t ∧ t.module.stage = stage ∧ t.module.fail = true
          ∧ t.module.ready = false ∧ t.module.err ∈ stageErrors s stage))
    ∧ (let keys (rom : Fin 4 → List Byte) (key : List Byte) (j : Fin 4) : Prop := rom j = Config.sha384 key
      (stageErrors s 2 = [] ↔ signaturesVerify image = true ∧ m.floor ≤ image.svn
        ∧ (∃ j, keys Config.romRsaHash image.rsaKey j ∧ m.revoked.getLsbD j.val = false)
        ∧ (∃ j, keys Config.romSlhHash image.slhKey j ∧ m.revoked.getLsbD (4 + j.val) = false))
      ∧ ∀ n ∈ stageErrors s 2, n = 1 ∨ n = 2 ∨ n = 3)
    ∧ (∀ i ∈ ([.getVersion, .getCapabilities, .negotiateAlgorithms, .getDigests, .getCertificate, .challenge,
          .getMeasurements] : List Instr),
        (e.ctx ≠ 0 → exec i s = .next s)
        ∧ (e.ctx = 0 → ∃ t, exec i s = .next t ∧ t.ctxs = s.ctxs ∧ t.module.abort = false ∧ SameBytes s t
          ∧ t.module.transcript = (if i = .getVersion then [] else m.transcript) ++ e.bytes ++ t.module.reply
          ∧ (i = .getVersion → t.module.spdm = 1 ∧ t.module.said = some (.version 1 3))
          ∧ (i ≠ .getVersion → m.spdm ≤ t.module.spdm)
          ∧ (i = .negotiateAlgorithms → t.module.said = some (.algorithms .rsapss3072 .sha384))
          ∧ (i = .getMeasurements → e.a = 0xFF → ∃ bs sig, t.module.said = some (.measurements bs sig)
            ∧ bs.map (·.1) = [1, 2, 3, 4, 0xF0] ∧ bs.head? = some (1, Config.sha384 Config.rom)
            ∧ sig = Config.rsaSign Config.secureElement.rsaKeys.secret (m.transcript ++ e.bytes))))

/-- Encoding and decoding agree: a well-formed instruction has one word, which decodes to it, and a word that
decodes encodes back to itself. (09_encoding.md: formats, opcode map, R200, R202, R203, R204, R210, R212) -/
def Obligations.DecodeEncode : Prop :=
  (∀ (i : Instr), i.WellFormed → (hdrOf i).isSome = true → ∃ w, encode i = some w ∧ decodeWord w = .ok i
      ∧ ∀ rest, decodeBytes (bytesOf w.toNat 8 ++ rest) = .ok (i, rest))
  ∧ ∀ (w : Word) (i : Instr), decodeWord w = .ok i → encode i = some w ∧ i.WellFormed

/-- Words written out from the encoding tables decode to the instructions they stand for, and reserved words are
refused with their reason. (09_encoding.md: formats, opcode map, R200, R203, R210, R212) -/
def Obligations.DecodedWords : Prop :=
  decodeWord 0xE020018210070000 = .ok (.add ⟨.S, true, false, false, false, false, false, 0⟩ ⟨3, 1, 2, 0, 7, 0, 0, 0⟩)
  ∧ decodeWord 0x604A028000000007 = .ok (.li ⟨.L, true, false, false, false, false, false, 0⟩ ⟨5, 0, 7⟩)
  ∧ decodeWord 0x20040241FFFFFFFD = .ok (.brc ⟨.A, true, false, false, false, false, false, 0⟩ ⟨4, 2, 0, 1, 4294967293⟩)
  ∧ decodeWord 0xA06140841808C000 = .ok (.fadd ⟨.C, true, false, false, false, false, true, 2⟩ ⟨1, 2, 3, 0, 8, 3, 0, 0⟩)
  ∧ decodeWord 0xA4A0220A30090000 = .ok (.vadd ⟨.C, true, false, false, true, false, false, 1⟩ ⟨4, 5, 6, 0, 9, 0, 0, 0⟩)
  ∧ decodeWord 0x612003904B60FFF8 = .ok (.ld ⟨.L, true, false, false, false, false, false, 0⟩ ⟨7, 8, 9, 3, 3, 0, 0, 65528⟩)
  ∧ decodeWord 0xA142102106000000 = .ok (.mma ⟨.C, true, false, false, false, false, false, 0⟩ ⟨2, 1, 2, 3, 0, 0, 0, 0⟩)
  ∧ decodeWord 0x6160008418820002 = .ok (.copy ⟨.L, true, false, false, false, false, false, 0⟩ ⟨1, 2, 3, 4, 1, 0, 0, 2⟩)
  ∧ decodeWord 0xE180008418800001 = .ok (.enq ⟨.S, true, false, false, false, false, false, 0⟩ ⟨1, 2, 3, 4, 0, 0, 0, 1⟩)
  ∧ decodeWord 0x61A0010600000000 = .ok (.sqget ⟨.L, true, false, false, false, false, false, 0⟩ ⟨2, 3, 0, 0, 0, 0, 0, 0⟩)
  ∧ decodeWord 0x61C0030004000000 = .ok (.mfc ⟨.L, true, false, false, false, false, false, 0⟩ ⟨6, 0, 32, 0⟩)
  ∧ decodeWord 0x61E0000000000000 = .error 1
  ∧ decodeWord 0x601C000000000000 = .error 2

/-- Every step keeps memory in its canonical form, leaves no write of the step uncommitted and no word half
executed. (05_ordering.md: what a step performs, 95: each table row is one indivisible step) -/
def Obligations.StepKeepsInvariant : Prop :=
  ∀ (s t : State), s.Inv → StepsTo s t → t.Inv

/-- At reset the invariant holds, nothing is placed, every byte reads zero, no rod of the device is registered, and every core
has the reset values of SPLIT, CYCLE and INTP. (20_bringup_health.md: module reset, R85, R360, R435.) What memory reads before
anything has written it (log 4), and the thermal cap, the empty tables and rods (log 3), are the model's choice. -/
def Obligations.ResetState : Prop :=
  State.reset.Inv ∧ (∀ a, State.reset.byteAt a = 0)
  ∧ State.reset.ctxs = [] ∧ State.reset.cmds = [] ∧ State.reset.waiters = [] ∧ State.reset.tlb = []
  ∧ State.reset.module.powered = true ∧ State.reset.module.stage = 0 ∧ State.reset.module.ready = false
  ∧ (∀ k, (State.reset.core k).h0 = 8 ∧ (State.reset.core k).pend = 0 ∧ (State.reset.core k).cycle = 0
      ∧ (State.reset.core k).intp = 0 ∧ (State.reset.core k).bank0 = none ∧ (State.reset.core k).bank1 = none)
  ∧ ∀ d, (State.reset.die d).engRod = none ∧ (State.reset.die d).hintRod = none ∧ (State.reset.die d).repRod = none
      ∧ (State.reset.die d).saveRod = none ∧ (State.reset.die d).tcap = 2200

/-- A step of a lane whose next word decodes runs exec of that instruction, between the preparation and the end of its bundle;
a step of an event runs exec of the event; a module without power obeys a module reset only. (03_execution.md: bundles,
retirement, 20_bringup_health.md: heat, R60, R62, R63, R65, R212, R444.) That the head of the agenda moves next (log 1), and that
the model stops where the module has no power (log 96), are the model's choice. -/
def Obligations.StepRunsDecoded : Prop :=
  (∀ (s : State) (k : Nat) (l : Lane) (as : List Agent) (pc : Nat) (w : Word) (i : Instr),
      s.agenda = .lane k l :: as → s.module.powered = true → laneRuns { s with agenda := as } k l = true →
      let u := State.updCtx { s with agenda := as } k (fun c => c.settleGives l)
      CanIssue u k l pc w i →
      step s = match exec i (startWord u k l pc w i) with
        | .next t => .next (closeStep s.mem (endWord u k l pc w i t))
        | .fault e => .fault e
        | .refused e => .refused e)
  ∧ (∀ (s : State) (as : List Agent) (i : Instr) (e : Ev), s.agenda = .event i e :: as → s.module.powered = true →
      step s = match exec i { s with agenda := as, cur := { Issue.idle with ev := e } } with
        | .next t => .next (closeStep s.mem t)
        | .fault e => .fault e
        | .refused e => .refused e)
  ∧ ∀ (s : State) (i : Instr) (e : Ev) (as : List Agent), s.agenda = .event i e :: as → s.module.powered = false →
      i ≠ .moduleReset → step s = .fault .moduleOff
end

