-- ==== Sys2Proof/Laws/Maps.lean ====
section
/-! SUPPORT. Finite maps, and the canonical form of memory that every memory operation keeps. -/

namespace Sys2Proof.Machine

variable {α : Type}

@[simp] theorem kv_get_put (m : Kv α) (k : Nat) (x : α) : kvGet (kvPut m k x) k = some x := by
  induction m with
  | nil => simp [kvPut, kvGet]
  | cons p m ih =>
    obtain ⟨j, y⟩ := p
    simp only [kvPut]
    split
    · simp [kvGet]
    · split
      · simp [kvGet]
      · rename_i h1 h2
        simp [kvGet, Ne.symm h2, ih]

theorem kv_get_put_ne (m : Kv α) {j k : Nat} (x : α) (h : j ≠ k) : kvGet (kvPut m k x) j = kvGet m j := by
  induction m with
  | nil => simp [kvPut, kvGet, Ne.symm h]
  | cons p m ih =>
    obtain ⟨i, y⟩ := p
    simp only [kvPut]
    split
    · simp [kvGet, Ne.symm h]
    · split
      · rename_i h1 h2
        subst h2
        simp [kvGet, Ne.symm h]
      · simp [kvGet, ih]

@[simp] theorem kv_get_del (m : Kv α) (k : Nat) : kvGet (kvDel m k) k = none := by
  induction m with
  | nil => rfl
  | cons p m ih =>
    obtain ⟨j, y⟩ := p
    simp only [kvDel]
    split
    · exact ih
    · rename_i h
      simp [kvGet, h, ih]

theorem kv_get_del_ne (m : Kv α) {j k : Nat} (h : j ≠ k) : kvGet (kvDel m k) j = kvGet m j := by
  induction m with
  | nil => rfl
  | cons p m ih =>
    obtain ⟨i, y⟩ := p
    simp only [kvDel]
    split
    · rename_i h1
      subst h1
      simp [kvGet, Ne.symm h, ih]
    · simp [kvGet, ih]

/-! ### Memory -/

theorem mem_wf_mono {lo lo' : Nat} (h : lo' ≤ lo) {m : List Host.Cell} (hm : memWfFrom lo m = true) :
    memWfFrom lo' m = true := by
  cases m with
  | nil => rfl
  | cons p m =>
    obtain ⟨a, b⟩ := p
    simp only [memWfFrom, Bool.and_eq_true, decide_eq_true_eq] at hm ⊢
    exact ⟨⟨le_trans h hm.1.1, hm.1.2⟩, hm.2⟩

theorem mem_wf_del {lo : Nat} {m : List Host.Cell} (a : Nat) (hm : memWfFrom lo m = true) :
    memWfFrom lo (kvDel m a) = true := by
  induction m generalizing lo with
  | nil => rfl
  | cons p m ih =>
    obtain ⟨j, b⟩ := p
    simp only [memWfFrom, Bool.and_eq_true, decide_eq_true_eq] at hm
    simp only [kvDel]
    split
    · exact mem_wf_mono (by omega) (ih hm.2)
    · simp only [memWfFrom, Bool.and_eq_true, decide_eq_true_eq]
      exact ⟨hm.1, ih hm.2⟩

theorem mem_wf_put {lo : Nat} {m : List Host.Cell} {a : Nat} {b : Byte} (ha : lo ≤ a) (hb : b ≠ 0)
    (hm : memWfFrom lo m = true) : memWfFrom lo (kvPut m a b) = true := by
  induction m generalizing lo with
  | nil => simp only [kvPut, memWfFrom, Bool.and_eq_true, decide_eq_true_eq, bne_iff_ne]; exact ⟨⟨ha, hb⟩, trivial⟩
  | cons p m ih =>
    obtain ⟨j, c⟩ := p
    simp only [memWfFrom, Bool.and_eq_true, decide_eq_true_eq, bne_iff_ne] at hm
    simp only [kvPut]
    split
    · rename_i h
      simp only [memWfFrom, Bool.and_eq_true, decide_eq_true_eq, bne_iff_ne]
      exact ⟨⟨ha, hb⟩, ⟨h, hm.1.2⟩, hm.2⟩
    · split
      · rename_i h
        subst h
        simp only [memWfFrom, Bool.and_eq_true, decide_eq_true_eq, bne_iff_ne]
        exact ⟨⟨ha, hb⟩, hm.2⟩
      · rename_i h1 h2
        simp only [memWfFrom, Bool.and_eq_true, decide_eq_true_eq, bne_iff_ne]
        exact ⟨hm.1, ih (by omega) hm.2⟩

/-- Writing a byte keeps the canonical form. -/
theorem mem_put_wf {m : List Host.Cell} (a : Nat) (b : Byte) (hm : Memory.wf m = true) :
    Memory.wf (memPut m a b) = true := by
  unfold memPut
  split
  · exact mem_wf_del a hm
  · rename_i h
    exact mem_wf_put (Nat.zero_le a) h hm

/-- Committing what a step has written keeps the canonical form. -/
theorem commit_mem_wf {m : List Host.Cell} (w : List Host.Cell) (hm : Memory.wf m = true) :
    Memory.wf (commitMem m w) = true := by
  induction w with
  | nil => exact hm
  | cons c w ih => exact mem_put_wf c.1 c.2 ih

/-- Memory as it stands after reset is in canonical form. -/
theorem reset_mem_wf : Memory.wf State.reset.mem = true := rfl

@[simp] theorem mem_get_put (m : List Host.Cell) (a : Nat) (b : Byte) : memGet (memPut m a b) a = b := by
  unfold memGet memPut
  split
  · rename_i h
    simp [h]
  · simp

theorem mem_get_put_ne (m : List Host.Cell) {a c : Nat} (b : Byte) (h : c ≠ a) :
    memGet (memPut m a b) c = memGet m c := by
  unfold memGet memPut
  split
  · rw [kv_get_del_ne m h]
  · rw [kv_get_put_ne m b h]

/-- Committing does not change what a byte reads as. -/
theorem mem_get_commit (m w : List Host.Cell) (a : Nat) :
    memGet (commitMem m w) a = match kvGet w a with | some b => b | none => memGet m a := by
  induction w with
  | nil => rfl
  | cons c w ih =>
    obtain ⟨j, b⟩ := c
    change memGet (memPut (commitMem m w) j b) a = _
    by_cases h : j = a
    · subst h; simp [kvGet]
    · rw [mem_get_put_ne _ _ (Ne.symm h), ih]; simp [kvGet, h]

@[simp] theorem State.byteAt_setByte (s : State) (a : Nat) (b : Byte) : (s.setByte a b).byteAt a = b := by
  simp [State.byteAt, State.setByte, kvGet]

theorem State.byteAt_setByte_ne (s : State) {a c : Nat} (b : Byte) (h : c ≠ a) :
    (s.setByte a b).byteAt c = s.byteAt c := by
  simp [State.byteAt, State.setByte, kvGet, Ne.symm h]

/-- A store of several bytes leaves every byte outside it. -/
theorem State.byteAt_writeBytes_outside (s : State) (a : Nat) (bs : List Byte) {c : Nat}
    (h : c < a ∨ a + bs.length ≤ c) : (s.writeBytes a bs).byteAt c = s.byteAt c := by
  induction bs generalizing s a with
  | nil => rfl
  | cons b bs ih =>
    simp only [List.length_cons] at h
    rw [State.writeBytes, ih _ _ (by omega), s.byteAt_setByte_ne b (by omega)]

/-- Each byte of a store of several bytes reads as stored. -/
theorem State.byteAt_writeBytes (s : State) (a : Nat) (bs : List Byte) {i : Nat} (h : i < bs.length) :
    (s.writeBytes a bs).byteAt (a + i) = bs.getD i 0 := by
  induction bs generalizing s a i with
  | nil => simp at h
  | cons b bs ih =>
    rw [State.writeBytes]
    cases i with
    | zero => rw [State.byteAt_writeBytes_outside _ _ _ (by omega)]; simp
    | succ i =>
      have := ih (s.setByte a b) (a + 1) (i := i) (by simpa using h)
      rw [show a + (i + 1) = a + 1 + i by omega, this]
      simp

@[simp] theorem bytes_of_length (v n : Nat) : (bytesOf v n).length = n := by
  induction n generalizing v with
  | zero => rfl
  | succ n ih => simp [bytesOf, ih]

@[simp] theorem State.readBytes_length (s : State) (a n : Nat) : (s.readBytes a n).length = n := by
  induction n generalizing a with
  | zero => rfl
  | succ n ih => simp [State.readBytes, ih]

/-- A number of `n` bytes is what its bytes hold. -/
theorem le_nat_bytes_of (v n : Nat) : leNat (bytesOf v n) = v % 256 ^ n := by
  induction n generalizing v with
  | zero => simp [bytesOf, leNat, Nat.mod_one]
  | succ n ih =>
    rw [bytesOf, leNat, ih, BitVec.toNat_ofNat, pow_succ' 256 n, Nat.mod_mul, show 2 ^ 8 = 256 from rfl]

end Sys2Proof.Machine
end

