-- ==== Sys2Proof/Laws/State.lean ====
section
/-! SUPPORT. What each update of the state leaves as it was, one lemma for a field and an update, and what a
read gives after an update. -/

namespace Sys2Proof.Machine

variable (s : State)

/-! ### setCtx -/

@[simp] theorem State.setCtx_mem (k : Nat) (c : Ctx) : (s.setCtx k c).mem = s.mem := rfl
@[simp] theorem State.setCtx_wlog (k : Nat) (c : Ctx) : (s.setCtx k c).wlog = s.wlog := rfl
@[simp] theorem State.setCtx_poison (k : Nat) (c : Ctx) : (s.setCtx k c).poison = s.poison := rfl
@[simp] theorem State.setCtx_l2bad (k : Nat) (c : Ctx) : (s.setCtx k c).l2bad = s.l2bad := rfl
@[simp] theorem State.setCtx_cores (k : Nat) (c : Ctx) : (s.setCtx k c).cores = s.cores := rfl
@[simp] theorem State.setCtx_dies (k : Nat) (c : Ctx) : (s.setCtx k c).dies = s.dies := rfl
@[simp] theorem State.setCtx_vifs (k : Nat) (c : Ctx) : (s.setCtx k c).vifs = s.vifs := rfl
@[simp] theorem State.setCtx_parts (k : Nat) (c : Ctx) : (s.setCtx k c).parts = s.parts := rfl
@[simp] theorem State.setCtx_nests (k : Nat) (c : Ctx) : (s.setCtx k c).nests = s.nests := rfl
@[simp] theorem State.setCtx_groups (k : Nat) (c : Ctx) : (s.setCtx k c).groups = s.groups := rfl
@[simp] theorem State.setCtx_cmds (k : Nat) (c : Ctx) : (s.setCtx k c).cmds = s.cmds := rfl
@[simp] theorem State.setCtx_doneCmds (k : Nat) (c : Ctx) : (s.setCtx k c).doneCmds = s.doneCmds := rfl
@[simp] theorem State.setCtx_incs (k : Nat) (c : Ctx) : (s.setCtx k c).incs = s.incs := rfl
@[simp] theorem State.setCtx_waiters (k : Nat) (c : Ctx) : (s.setCtx k c).waiters = s.waiters := rfl
@[simp] theorem State.setCtx_beads (k : Nat) (c : Ctx) : (s.setCtx k c).beads = s.beads := rfl
@[simp] theorem State.setCtx_signals (k : Nat) (c : Ctx) : (s.setCtx k c).signals = s.signals := rfl
@[simp] theorem State.setCtx_debts (k : Nat) (c : Ctx) : (s.setCtx k c).debts = s.debts := rfl
@[simp] theorem State.setCtx_tlb (k : Nat) (c : Ctx) : (s.setCtx k c).tlb = s.tlb := rfl
@[simp] theorem State.setCtx_walks (k : Nat) (c : Ctx) : (s.setCtx k c).walks = s.walks := rfl
@[simp] theorem State.setCtx_moves (k : Nat) (c : Ctx) : (s.setCtx k c).moves = s.moves := rfl
@[simp] theorem State.setCtx_asidTable (k : Nat) (c : Ctx) : (s.setCtx k c).asidTable = s.asidTable := rfl
@[simp] theorem State.setCtx_aperBase (k : Nat) (c : Ctx) : (s.setCtx k c).aperBase = s.aperBase := rfl
@[simp] theorem State.setCtx_aperSize (k : Nat) (c : Ctx) : (s.setCtx k c).aperSize = s.aperSize := rfl
@[simp] theorem State.setCtx_index (k : Nat) (c : Ctx) : (s.setCtx k c).index = s.index := rfl
@[simp] theorem State.setCtx_nextSer (k : Nat) (c : Ctx) : (s.setCtx k c).nextSer = s.nextSer := rfl
@[simp] theorem State.setCtx_nextId (k : Nat) (c : Ctx) : (s.setCtx k c).nextId = s.nextId := rfl
@[simp] theorem State.setCtx_module (k : Nat) (c : Ctx) : (s.setCtx k c).module = s.module := rfl
@[simp] theorem State.setCtx_agenda (k : Nat) (c : Ctx) : (s.setCtx k c).agenda = s.agenda := rfl
@[simp] theorem State.setCtx_cur (k : Nat) (c : Ctx) : (s.setCtx k c).cur = s.cur := rfl
@[simp] theorem State.setCtx_fresh (k : Nat) (c : Ctx) : (s.setCtx k c).fresh = s.fresh := rfl

/-! ### updCtx -/

@[simp] theorem State.updCtx_mem (k : Nat) (f : Ctx → Ctx) : (s.updCtx k f).mem = s.mem := rfl
@[simp] theorem State.updCtx_wlog (k : Nat) (f : Ctx → Ctx) : (s.updCtx k f).wlog = s.wlog := rfl
@[simp] theorem State.updCtx_poison (k : Nat) (f : Ctx → Ctx) : (s.updCtx k f).poison = s.poison := rfl
@[simp] theorem State.updCtx_l2bad (k : Nat) (f : Ctx → Ctx) : (s.updCtx k f).l2bad = s.l2bad := rfl
@[simp] theorem State.updCtx_cores (k : Nat) (f : Ctx → Ctx) : (s.updCtx k f).cores = s.cores := rfl
@[simp] theorem State.updCtx_dies (k : Nat) (f : Ctx → Ctx) : (s.updCtx k f).dies = s.dies := rfl
@[simp] theorem State.updCtx_vifs (k : Nat) (f : Ctx → Ctx) : (s.updCtx k f).vifs = s.vifs := rfl
@[simp] theorem State.updCtx_parts (k : Nat) (f : Ctx → Ctx) : (s.updCtx k f).parts = s.parts := rfl
@[simp] theorem State.updCtx_nests (k : Nat) (f : Ctx → Ctx) : (s.updCtx k f).nests = s.nests := rfl
@[simp] theorem State.updCtx_groups (k : Nat) (f : Ctx → Ctx) : (s.updCtx k f).groups = s.groups := rfl
@[simp] theorem State.updCtx_cmds (k : Nat) (f : Ctx → Ctx) : (s.updCtx k f).cmds = s.cmds := rfl
@[simp] theorem State.updCtx_doneCmds (k : Nat) (f : Ctx → Ctx) : (s.updCtx k f).doneCmds = s.doneCmds := rfl
@[simp] theorem State.updCtx_incs (k : Nat) (f : Ctx → Ctx) : (s.updCtx k f).incs = s.incs := rfl
@[simp] theorem State.updCtx_waiters (k : Nat) (f : Ctx → Ctx) : (s.updCtx k f).waiters = s.waiters := rfl
@[simp] theorem State.updCtx_beads (k : Nat) (f : Ctx → Ctx) : (s.updCtx k f).beads = s.beads := rfl
@[simp] theorem State.updCtx_signals (k : Nat) (f : Ctx → Ctx) : (s.updCtx k f).signals = s.signals := rfl
@[simp] theorem State.updCtx_debts (k : Nat) (f : Ctx → Ctx) : (s.updCtx k f).debts = s.debts := rfl
@[simp] theorem State.updCtx_tlb (k : Nat) (f : Ctx → Ctx) : (s.updCtx k f).tlb = s.tlb := rfl
@[simp] theorem State.updCtx_walks (k : Nat) (f : Ctx → Ctx) : (s.updCtx k f).walks = s.walks := rfl
@[simp] theorem State.updCtx_moves (k : Nat) (f : Ctx → Ctx) : (s.updCtx k f).moves = s.moves := rfl
@[simp] theorem State.updCtx_asidTable (k : Nat) (f : Ctx → Ctx) : (s.updCtx k f).asidTable = s.asidTable := rfl
@[simp] theorem State.updCtx_aperBase (k : Nat) (f : Ctx → Ctx) : (s.updCtx k f).aperBase = s.aperBase := rfl
@[simp] theorem State.updCtx_aperSize (k : Nat) (f : Ctx → Ctx) : (s.updCtx k f).aperSize = s.aperSize := rfl
@[simp] theorem State.updCtx_index (k : Nat) (f : Ctx → Ctx) : (s.updCtx k f).index = s.index := rfl
@[simp] theorem State.updCtx_nextSer (k : Nat) (f : Ctx → Ctx) : (s.updCtx k f).nextSer = s.nextSer := rfl
@[simp] theorem State.updCtx_nextId (k : Nat) (f : Ctx → Ctx) : (s.updCtx k f).nextId = s.nextId := rfl
@[simp] theorem State.updCtx_module (k : Nat) (f : Ctx → Ctx) : (s.updCtx k f).module = s.module := rfl
@[simp] theorem State.updCtx_agenda (k : Nat) (f : Ctx → Ctx) : (s.updCtx k f).agenda = s.agenda := rfl
@[simp] theorem State.updCtx_cur (k : Nat) (f : Ctx → Ctx) : (s.updCtx k f).cur = s.cur := rfl
@[simp] theorem State.updCtx_fresh (k : Nat) (f : Ctx → Ctx) : (s.updCtx k f).fresh = s.fresh := rfl

/-! ### updLane -/

@[simp] theorem State.updLane_mem (k : Nat) (l : Lane) (f : LaneSt → LaneSt) : (s.updLane k l f).mem = s.mem := rfl
@[simp] theorem State.updLane_wlog (k : Nat) (l : Lane) (f : LaneSt → LaneSt) : (s.updLane k l f).wlog = s.wlog := rfl
@[simp] theorem State.updLane_poison (k : Nat) (l : Lane) (f : LaneSt → LaneSt) : (s.updLane k l f).poison = s.poison := rfl
@[simp] theorem State.updLane_l2bad (k : Nat) (l : Lane) (f : LaneSt → LaneSt) : (s.updLane k l f).l2bad = s.l2bad := rfl
@[simp] theorem State.updLane_cores (k : Nat) (l : Lane) (f : LaneSt → LaneSt) : (s.updLane k l f).cores = s.cores := rfl
@[simp] theorem State.updLane_dies (k : Nat) (l : Lane) (f : LaneSt → LaneSt) : (s.updLane k l f).dies = s.dies := rfl
@[simp] theorem State.updLane_vifs (k : Nat) (l : Lane) (f : LaneSt → LaneSt) : (s.updLane k l f).vifs = s.vifs := rfl
@[simp] theorem State.updLane_parts (k : Nat) (l : Lane) (f : LaneSt → LaneSt) : (s.updLane k l f).parts = s.parts := rfl
@[simp] theorem State.updLane_nests (k : Nat) (l : Lane) (f : LaneSt → LaneSt) : (s.updLane k l f).nests = s.nests := rfl
@[simp] theorem State.updLane_groups (k : Nat) (l : Lane) (f : LaneSt → LaneSt) : (s.updLane k l f).groups = s.groups := rfl
@[simp] theorem State.updLane_cmds (k : Nat) (l : Lane) (f : LaneSt → LaneSt) : (s.updLane k l f).cmds = s.cmds := rfl
@[simp] theorem State.updLane_doneCmds (k : Nat) (l : Lane) (f : LaneSt → LaneSt) : (s.updLane k l f).doneCmds = s.doneCmds := rfl
@[simp] theorem State.updLane_incs (k : Nat) (l : Lane) (f : LaneSt → LaneSt) : (s.updLane k l f).incs = s.incs := rfl
@[simp] theorem State.updLane_waiters (k : Nat) (l : Lane) (f : LaneSt → LaneSt) : (s.updLane k l f).waiters = s.waiters := rfl
@[simp] theorem State.updLane_beads (k : Nat) (l : Lane) (f : LaneSt → LaneSt) : (s.updLane k l f).beads = s.beads := rfl
@[simp] theorem State.updLane_signals (k : Nat) (l : Lane) (f : LaneSt → LaneSt) : (s.updLane k l f).signals = s.signals := rfl
@[simp] theorem State.updLane_debts (k : Nat) (l : Lane) (f : LaneSt → LaneSt) : (s.updLane k l f).debts = s.debts := rfl
@[simp] theorem State.updLane_tlb (k : Nat) (l : Lane) (f : LaneSt → LaneSt) : (s.updLane k l f).tlb = s.tlb := rfl
@[simp] theorem State.updLane_walks (k : Nat) (l : Lane) (f : LaneSt → LaneSt) : (s.updLane k l f).walks = s.walks := rfl
@[simp] theorem State.updLane_moves (k : Nat) (l : Lane) (f : LaneSt → LaneSt) : (s.updLane k l f).moves = s.moves := rfl
@[simp] theorem State.updLane_asidTable (k : Nat) (l : Lane) (f : LaneSt → LaneSt) : (s.updLane k l f).asidTable = s.asidTable := rfl
@[simp] theorem State.updLane_aperBase (k : Nat) (l : Lane) (f : LaneSt → LaneSt) : (s.updLane k l f).aperBase = s.aperBase := rfl
@[simp] theorem State.updLane_aperSize (k : Nat) (l : Lane) (f : LaneSt → LaneSt) : (s.updLane k l f).aperSize = s.aperSize := rfl
@[simp] theorem State.updLane_index (k : Nat) (l : Lane) (f : LaneSt → LaneSt) : (s.updLane k l f).index = s.index := rfl
@[simp] theorem State.updLane_nextSer (k : Nat) (l : Lane) (f : LaneSt → LaneSt) : (s.updLane k l f).nextSer = s.nextSer := rfl
@[simp] theorem State.updLane_nextId (k : Nat) (l : Lane) (f : LaneSt → LaneSt) : (s.updLane k l f).nextId = s.nextId := rfl
@[simp] theorem State.updLane_module (k : Nat) (l : Lane) (f : LaneSt → LaneSt) : (s.updLane k l f).module = s.module := rfl
@[simp] theorem State.updLane_agenda (k : Nat) (l : Lane) (f : LaneSt → LaneSt) : (s.updLane k l f).agenda = s.agenda := rfl
@[simp] theorem State.updLane_cur (k : Nat) (l : Lane) (f : LaneSt → LaneSt) : (s.updLane k l f).cur = s.cur := rfl
@[simp] theorem State.updLane_fresh (k : Nat) (l : Lane) (f : LaneSt → LaneSt) : (s.updLane k l f).fresh = s.fresh := rfl

/-! ### updMe -/

@[simp] theorem State.updMe_mem (f : Ctx → Ctx) : (s.updMe f).mem = s.mem := rfl
@[simp] theorem State.updMe_wlog (f : Ctx → Ctx) : (s.updMe f).wlog = s.wlog := rfl
@[simp] theorem State.updMe_poison (f : Ctx → Ctx) : (s.updMe f).poison = s.poison := rfl
@[simp] theorem State.updMe_l2bad (f : Ctx → Ctx) : (s.updMe f).l2bad = s.l2bad := rfl
@[simp] theorem State.updMe_cores (f : Ctx → Ctx) : (s.updMe f).cores = s.cores := rfl
@[simp] theorem State.updMe_dies (f : Ctx → Ctx) : (s.updMe f).dies = s.dies := rfl
@[simp] theorem State.updMe_vifs (f : Ctx → Ctx) : (s.updMe f).vifs = s.vifs := rfl
@[simp] theorem State.updMe_parts (f : Ctx → Ctx) : (s.updMe f).parts = s.parts := rfl
@[simp] theorem State.updMe_nests (f : Ctx → Ctx) : (s.updMe f).nests = s.nests := rfl
@[simp] theorem State.updMe_groups (f : Ctx → Ctx) : (s.updMe f).groups = s.groups := rfl
@[simp] theorem State.updMe_cmds (f : Ctx → Ctx) : (s.updMe f).cmds = s.cmds := rfl
@[simp] theorem State.updMe_doneCmds (f : Ctx → Ctx) : (s.updMe f).doneCmds = s.doneCmds := rfl
@[simp] theorem State.updMe_incs (f : Ctx → Ctx) : (s.updMe f).incs = s.incs := rfl
@[simp] theorem State.updMe_waiters (f : Ctx → Ctx) : (s.updMe f).waiters = s.waiters := rfl
@[simp] theorem State.updMe_beads (f : Ctx → Ctx) : (s.updMe f).beads = s.beads := rfl
@[simp] theorem State.updMe_signals (f : Ctx → Ctx) : (s.updMe f).signals = s.signals := rfl
@[simp] theorem State.updMe_debts (f : Ctx → Ctx) : (s.updMe f).debts = s.debts := rfl
@[simp] theorem State.updMe_tlb (f : Ctx → Ctx) : (s.updMe f).tlb = s.tlb := rfl
@[simp] theorem State.updMe_walks (f : Ctx → Ctx) : (s.updMe f).walks = s.walks := rfl
@[simp] theorem State.updMe_moves (f : Ctx → Ctx) : (s.updMe f).moves = s.moves := rfl
@[simp] theorem State.updMe_asidTable (f : Ctx → Ctx) : (s.updMe f).asidTable = s.asidTable := rfl
@[simp] theorem State.updMe_aperBase (f : Ctx → Ctx) : (s.updMe f).aperBase = s.aperBase := rfl
@[simp] theorem State.updMe_aperSize (f : Ctx → Ctx) : (s.updMe f).aperSize = s.aperSize := rfl
@[simp] theorem State.updMe_index (f : Ctx → Ctx) : (s.updMe f).index = s.index := rfl
@[simp] theorem State.updMe_nextSer (f : Ctx → Ctx) : (s.updMe f).nextSer = s.nextSer := rfl
@[simp] theorem State.updMe_nextId (f : Ctx → Ctx) : (s.updMe f).nextId = s.nextId := rfl
@[simp] theorem State.updMe_module (f : Ctx → Ctx) : (s.updMe f).module = s.module := rfl
@[simp] theorem State.updMe_agenda (f : Ctx → Ctx) : (s.updMe f).agenda = s.agenda := rfl
@[simp] theorem State.updMe_cur (f : Ctx → Ctx) : (s.updMe f).cur = s.cur := rfl
@[simp] theorem State.updMe_fresh (f : Ctx → Ctx) : (s.updMe f).fresh = s.fresh := rfl

/-! ### updMyLane -/

@[simp] theorem State.updMyLane_mem (f : LaneSt → LaneSt) : (s.updMyLane f).mem = s.mem := rfl
@[simp] theorem State.updMyLane_wlog (f : LaneSt → LaneSt) : (s.updMyLane f).wlog = s.wlog := rfl
@[simp] theorem State.updMyLane_poison (f : LaneSt → LaneSt) : (s.updMyLane f).poison = s.poison := rfl
@[simp] theorem State.updMyLane_l2bad (f : LaneSt → LaneSt) : (s.updMyLane f).l2bad = s.l2bad := rfl
@[simp] theorem State.updMyLane_cores (f : LaneSt → LaneSt) : (s.updMyLane f).cores = s.cores := rfl
@[simp] theorem State.updMyLane_dies (f : LaneSt → LaneSt) : (s.updMyLane f).dies = s.dies := rfl
@[simp] theorem State.updMyLane_vifs (f : LaneSt → LaneSt) : (s.updMyLane f).vifs = s.vifs := rfl
@[simp] theorem State.updMyLane_parts (f : LaneSt → LaneSt) : (s.updMyLane f).parts = s.parts := rfl
@[simp] theorem State.updMyLane_nests (f : LaneSt → LaneSt) : (s.updMyLane f).nests = s.nests := rfl
@[simp] theorem State.updMyLane_groups (f : LaneSt → LaneSt) : (s.updMyLane f).groups = s.groups := rfl
@[simp] theorem State.updMyLane_cmds (f : LaneSt → LaneSt) : (s.updMyLane f).cmds = s.cmds := rfl
@[simp] theorem State.updMyLane_doneCmds (f : LaneSt → LaneSt) : (s.updMyLane f).doneCmds = s.doneCmds := rfl
@[simp] theorem State.updMyLane_incs (f : LaneSt → LaneSt) : (s.updMyLane f).incs = s.incs := rfl
@[simp] theorem State.updMyLane_waiters (f : LaneSt → LaneSt) : (s.updMyLane f).waiters = s.waiters := rfl
@[simp] theorem State.updMyLane_beads (f : LaneSt → LaneSt) : (s.updMyLane f).beads = s.beads := rfl
@[simp] theorem State.updMyLane_signals (f : LaneSt → LaneSt) : (s.updMyLane f).signals = s.signals := rfl
@[simp] theorem State.updMyLane_debts (f : LaneSt → LaneSt) : (s.updMyLane f).debts = s.debts := rfl
@[simp] theorem State.updMyLane_tlb (f : LaneSt → LaneSt) : (s.updMyLane f).tlb = s.tlb := rfl
@[simp] theorem State.updMyLane_walks (f : LaneSt → LaneSt) : (s.updMyLane f).walks = s.walks := rfl
@[simp] theorem State.updMyLane_moves (f : LaneSt → LaneSt) : (s.updMyLane f).moves = s.moves := rfl
@[simp] theorem State.updMyLane_asidTable (f : LaneSt → LaneSt) : (s.updMyLane f).asidTable = s.asidTable := rfl
@[simp] theorem State.updMyLane_aperBase (f : LaneSt → LaneSt) : (s.updMyLane f).aperBase = s.aperBase := rfl
@[simp] theorem State.updMyLane_aperSize (f : LaneSt → LaneSt) : (s.updMyLane f).aperSize = s.aperSize := rfl
@[simp] theorem State.updMyLane_index (f : LaneSt → LaneSt) : (s.updMyLane f).index = s.index := rfl
@[simp] theorem State.updMyLane_nextSer (f : LaneSt → LaneSt) : (s.updMyLane f).nextSer = s.nextSer := rfl
@[simp] theorem State.updMyLane_nextId (f : LaneSt → LaneSt) : (s.updMyLane f).nextId = s.nextId := rfl
@[simp] theorem State.updMyLane_module (f : LaneSt → LaneSt) : (s.updMyLane f).module = s.module := rfl
@[simp] theorem State.updMyLane_agenda (f : LaneSt → LaneSt) : (s.updMyLane f).agenda = s.agenda := rfl
@[simp] theorem State.updMyLane_cur (f : LaneSt → LaneSt) : (s.updMyLane f).cur = s.cur := rfl
@[simp] theorem State.updMyLane_fresh (f : LaneSt → LaneSt) : (s.updMyLane f).fresh = s.fresh := rfl

/-! ### wrS -/

@[simp] theorem State.wrS_mem (d : BitVec 6) (v : Word) (n : Nat) : (s.wrS d v n).mem = s.mem := rfl
@[simp] theorem State.wrS_wlog (d : BitVec 6) (v : Word) (n : Nat) : (s.wrS d v n).wlog = s.wlog := rfl
@[simp] theorem State.wrS_poison (d : BitVec 6) (v : Word) (n : Nat) : (s.wrS d v n).poison = s.poison := rfl
@[simp] theorem State.wrS_l2bad (d : BitVec 6) (v : Word) (n : Nat) : (s.wrS d v n).l2bad = s.l2bad := rfl
@[simp] theorem State.wrS_cores (d : BitVec 6) (v : Word) (n : Nat) : (s.wrS d v n).cores = s.cores := rfl
@[simp] theorem State.wrS_dies (d : BitVec 6) (v : Word) (n : Nat) : (s.wrS d v n).dies = s.dies := rfl
@[simp] theorem State.wrS_vifs (d : BitVec 6) (v : Word) (n : Nat) : (s.wrS d v n).vifs = s.vifs := rfl
@[simp] theorem State.wrS_parts (d : BitVec 6) (v : Word) (n : Nat) : (s.wrS d v n).parts = s.parts := rfl
@[simp] theorem State.wrS_nests (d : BitVec 6) (v : Word) (n : Nat) : (s.wrS d v n).nests = s.nests := rfl
@[simp] theorem State.wrS_groups (d : BitVec 6) (v : Word) (n : Nat) : (s.wrS d v n).groups = s.groups := rfl
@[simp] theorem State.wrS_cmds (d : BitVec 6) (v : Word) (n : Nat) : (s.wrS d v n).cmds = s.cmds := rfl
@[simp] theorem State.wrS_doneCmds (d : BitVec 6) (v : Word) (n : Nat) : (s.wrS d v n).doneCmds = s.doneCmds := rfl
@[simp] theorem State.wrS_incs (d : BitVec 6) (v : Word) (n : Nat) : (s.wrS d v n).incs = s.incs := rfl
@[simp] theorem State.wrS_waiters (d : BitVec 6) (v : Word) (n : Nat) : (s.wrS d v n).waiters = s.waiters := rfl
@[simp] theorem State.wrS_beads (d : BitVec 6) (v : Word) (n : Nat) : (s.wrS d v n).beads = s.beads := rfl
@[simp] theorem State.wrS_signals (d : BitVec 6) (v : Word) (n : Nat) : (s.wrS d v n).signals = s.signals := rfl
@[simp] theorem State.wrS_debts (d : BitVec 6) (v : Word) (n : Nat) : (s.wrS d v n).debts = s.debts := rfl
@[simp] theorem State.wrS_tlb (d : BitVec 6) (v : Word) (n : Nat) : (s.wrS d v n).tlb = s.tlb := rfl
@[simp] theorem State.wrS_walks (d : BitVec 6) (v : Word) (n : Nat) : (s.wrS d v n).walks = s.walks := rfl
@[simp] theorem State.wrS_moves (d : BitVec 6) (v : Word) (n : Nat) : (s.wrS d v n).moves = s.moves := rfl
@[simp] theorem State.wrS_asidTable (d : BitVec 6) (v : Word) (n : Nat) : (s.wrS d v n).asidTable = s.asidTable := rfl
@[simp] theorem State.wrS_aperBase (d : BitVec 6) (v : Word) (n : Nat) : (s.wrS d v n).aperBase = s.aperBase := rfl
@[simp] theorem State.wrS_aperSize (d : BitVec 6) (v : Word) (n : Nat) : (s.wrS d v n).aperSize = s.aperSize := rfl
@[simp] theorem State.wrS_index (d : BitVec 6) (v : Word) (n : Nat) : (s.wrS d v n).index = s.index := rfl
@[simp] theorem State.wrS_nextSer (d : BitVec 6) (v : Word) (n : Nat) : (s.wrS d v n).nextSer = s.nextSer := rfl
@[simp] theorem State.wrS_nextId (d : BitVec 6) (v : Word) (n : Nat) : (s.wrS d v n).nextId = s.nextId := rfl
@[simp] theorem State.wrS_module (d : BitVec 6) (v : Word) (n : Nat) : (s.wrS d v n).module = s.module := rfl
@[simp] theorem State.wrS_agenda (d : BitVec 6) (v : Word) (n : Nat) : (s.wrS d v n).agenda = s.agenda := rfl
@[simp] theorem State.wrS_cur (d : BitVec 6) (v : Word) (n : Nat) : (s.wrS d v n).cur = s.cur := rfl
@[simp] theorem State.wrS_fresh (d : BitVec 6) (v : Word) (n : Nat) : (s.wrS d v n).fresh = s.fresh := rfl

/-! ### wrF -/

@[simp] theorem State.wrF_mem (d : BitVec 6) (v : Word) (n : Nat) : (s.wrF d v n).mem = s.mem := rfl
@[simp] theorem State.wrF_wlog (d : BitVec 6) (v : Word) (n : Nat) : (s.wrF d v n).wlog = s.wlog := rfl
@[simp] theorem State.wrF_poison (d : BitVec 6) (v : Word) (n : Nat) : (s.wrF d v n).poison = s.poison := rfl
@[simp] theorem State.wrF_l2bad (d : BitVec 6) (v : Word) (n : Nat) : (s.wrF d v n).l2bad = s.l2bad := rfl
@[simp] theorem State.wrF_cores (d : BitVec 6) (v : Word) (n : Nat) : (s.wrF d v n).cores = s.cores := rfl
@[simp] theorem State.wrF_dies (d : BitVec 6) (v : Word) (n : Nat) : (s.wrF d v n).dies = s.dies := rfl
@[simp] theorem State.wrF_vifs (d : BitVec 6) (v : Word) (n : Nat) : (s.wrF d v n).vifs = s.vifs := rfl
@[simp] theorem State.wrF_parts (d : BitVec 6) (v : Word) (n : Nat) : (s.wrF d v n).parts = s.parts := rfl
@[simp] theorem State.wrF_nests (d : BitVec 6) (v : Word) (n : Nat) : (s.wrF d v n).nests = s.nests := rfl
@[simp] theorem State.wrF_groups (d : BitVec 6) (v : Word) (n : Nat) : (s.wrF d v n).groups = s.groups := rfl
@[simp] theorem State.wrF_cmds (d : BitVec 6) (v : Word) (n : Nat) : (s.wrF d v n).cmds = s.cmds := rfl
@[simp] theorem State.wrF_doneCmds (d : BitVec 6) (v : Word) (n : Nat) : (s.wrF d v n).doneCmds = s.doneCmds := rfl
@[simp] theorem State.wrF_incs (d : BitVec 6) (v : Word) (n : Nat) : (s.wrF d v n).incs = s.incs := rfl
@[simp] theorem State.wrF_waiters (d : BitVec 6) (v : Word) (n : Nat) : (s.wrF d v n).waiters = s.waiters := rfl
@[simp] theorem State.wrF_beads (d : BitVec 6) (v : Word) (n : Nat) : (s.wrF d v n).beads = s.beads := rfl
@[simp] theorem State.wrF_signals (d : BitVec 6) (v : Word) (n : Nat) : (s.wrF d v n).signals = s.signals := rfl
@[simp] theorem State.wrF_debts (d : BitVec 6) (v : Word) (n : Nat) : (s.wrF d v n).debts = s.debts := rfl
@[simp] theorem State.wrF_tlb (d : BitVec 6) (v : Word) (n : Nat) : (s.wrF d v n).tlb = s.tlb := rfl
@[simp] theorem State.wrF_walks (d : BitVec 6) (v : Word) (n : Nat) : (s.wrF d v n).walks = s.walks := rfl
@[simp] theorem State.wrF_moves (d : BitVec 6) (v : Word) (n : Nat) : (s.wrF d v n).moves = s.moves := rfl
@[simp] theorem State.wrF_asidTable (d : BitVec 6) (v : Word) (n : Nat) : (s.wrF d v n).asidTable = s.asidTable := rfl
@[simp] theorem State.wrF_aperBase (d : BitVec 6) (v : Word) (n : Nat) : (s.wrF d v n).aperBase = s.aperBase := rfl
@[simp] theorem State.wrF_aperSize (d : BitVec 6) (v : Word) (n : Nat) : (s.wrF d v n).aperSize = s.aperSize := rfl
@[simp] theorem State.wrF_index (d : BitVec 6) (v : Word) (n : Nat) : (s.wrF d v n).index = s.index := rfl
@[simp] theorem State.wrF_nextSer (d : BitVec 6) (v : Word) (n : Nat) : (s.wrF d v n).nextSer = s.nextSer := rfl
@[simp] theorem State.wrF_nextId (d : BitVec 6) (v : Word) (n : Nat) : (s.wrF d v n).nextId = s.nextId := rfl
@[simp] theorem State.wrF_module (d : BitVec 6) (v : Word) (n : Nat) : (s.wrF d v n).module = s.module := rfl
@[simp] theorem State.wrF_agenda (d : BitVec 6) (v : Word) (n : Nat) : (s.wrF d v n).agenda = s.agenda := rfl
@[simp] theorem State.wrF_cur (d : BitVec 6) (v : Word) (n : Nat) : (s.wrF d v n).cur = s.cur := rfl
@[simp] theorem State.wrF_fresh (d : BitVec 6) (v : Word) (n : Nat) : (s.wrF d v n).fresh = s.fresh := rfl

/-! ### wrV -/

@[simp] theorem State.wrV_mem (d : BitVec 6) (v : VWord) (n : Nat) : (s.wrV d v n).mem = s.mem := rfl
@[simp] theorem State.wrV_wlog (d : BitVec 6) (v : VWord) (n : Nat) : (s.wrV d v n).wlog = s.wlog := rfl
@[simp] theorem State.wrV_poison (d : BitVec 6) (v : VWord) (n : Nat) : (s.wrV d v n).poison = s.poison := rfl
@[simp] theorem State.wrV_l2bad (d : BitVec 6) (v : VWord) (n : Nat) : (s.wrV d v n).l2bad = s.l2bad := rfl
@[simp] theorem State.wrV_cores (d : BitVec 6) (v : VWord) (n : Nat) : (s.wrV d v n).cores = s.cores := rfl
@[simp] theorem State.wrV_dies (d : BitVec 6) (v : VWord) (n : Nat) : (s.wrV d v n).dies = s.dies := rfl
@[simp] theorem State.wrV_vifs (d : BitVec 6) (v : VWord) (n : Nat) : (s.wrV d v n).vifs = s.vifs := rfl
@[simp] theorem State.wrV_parts (d : BitVec 6) (v : VWord) (n : Nat) : (s.wrV d v n).parts = s.parts := rfl
@[simp] theorem State.wrV_nests (d : BitVec 6) (v : VWord) (n : Nat) : (s.wrV d v n).nests = s.nests := rfl
@[simp] theorem State.wrV_groups (d : BitVec 6) (v : VWord) (n : Nat) : (s.wrV d v n).groups = s.groups := rfl
@[simp] theorem State.wrV_cmds (d : BitVec 6) (v : VWord) (n : Nat) : (s.wrV d v n).cmds = s.cmds := rfl
@[simp] theorem State.wrV_doneCmds (d : BitVec 6) (v : VWord) (n : Nat) : (s.wrV d v n).doneCmds = s.doneCmds := rfl
@[simp] theorem State.wrV_incs (d : BitVec 6) (v : VWord) (n : Nat) : (s.wrV d v n).incs = s.incs := rfl
@[simp] theorem State.wrV_waiters (d : BitVec 6) (v : VWord) (n : Nat) : (s.wrV d v n).waiters = s.waiters := rfl
@[simp] theorem State.wrV_beads (d : BitVec 6) (v : VWord) (n : Nat) : (s.wrV d v n).beads = s.beads := rfl
@[simp] theorem State.wrV_signals (d : BitVec 6) (v : VWord) (n : Nat) : (s.wrV d v n).signals = s.signals := rfl
@[simp] theorem State.wrV_debts (d : BitVec 6) (v : VWord) (n : Nat) : (s.wrV d v n).debts = s.debts := rfl
@[simp] theorem State.wrV_tlb (d : BitVec 6) (v : VWord) (n : Nat) : (s.wrV d v n).tlb = s.tlb := rfl
@[simp] theorem State.wrV_walks (d : BitVec 6) (v : VWord) (n : Nat) : (s.wrV d v n).walks = s.walks := rfl
@[simp] theorem State.wrV_moves (d : BitVec 6) (v : VWord) (n : Nat) : (s.wrV d v n).moves = s.moves := rfl
@[simp] theorem State.wrV_asidTable (d : BitVec 6) (v : VWord) (n : Nat) : (s.wrV d v n).asidTable = s.asidTable := rfl
@[simp] theorem State.wrV_aperBase (d : BitVec 6) (v : VWord) (n : Nat) : (s.wrV d v n).aperBase = s.aperBase := rfl
@[simp] theorem State.wrV_aperSize (d : BitVec 6) (v : VWord) (n : Nat) : (s.wrV d v n).aperSize = s.aperSize := rfl
@[simp] theorem State.wrV_index (d : BitVec 6) (v : VWord) (n : Nat) : (s.wrV d v n).index = s.index := rfl
@[simp] theorem State.wrV_nextSer (d : BitVec 6) (v : VWord) (n : Nat) : (s.wrV d v n).nextSer = s.nextSer := rfl
@[simp] theorem State.wrV_nextId (d : BitVec 6) (v : VWord) (n : Nat) : (s.wrV d v n).nextId = s.nextId := rfl
@[simp] theorem State.wrV_module (d : BitVec 6) (v : VWord) (n : Nat) : (s.wrV d v n).module = s.module := rfl
@[simp] theorem State.wrV_agenda (d : BitVec 6) (v : VWord) (n : Nat) : (s.wrV d v n).agenda = s.agenda := rfl
@[simp] theorem State.wrV_cur (d : BitVec 6) (v : VWord) (n : Nat) : (s.wrV d v n).cur = s.cur := rfl
@[simp] theorem State.wrV_fresh (d : BitVec 6) (v : VWord) (n : Nat) : (s.wrV d v n).fresh = s.fresh := rfl

/-! ### wrP -/

@[simp] theorem State.wrP_mem (d : Nat) (v : PWord) (n : Nat) : (s.wrP d v n).mem = s.mem := rfl
@[simp] theorem State.wrP_wlog (d : Nat) (v : PWord) (n : Nat) : (s.wrP d v n).wlog = s.wlog := rfl
@[simp] theorem State.wrP_poison (d : Nat) (v : PWord) (n : Nat) : (s.wrP d v n).poison = s.poison := rfl
@[simp] theorem State.wrP_l2bad (d : Nat) (v : PWord) (n : Nat) : (s.wrP d v n).l2bad = s.l2bad := rfl
@[simp] theorem State.wrP_cores (d : Nat) (v : PWord) (n : Nat) : (s.wrP d v n).cores = s.cores := rfl
@[simp] theorem State.wrP_dies (d : Nat) (v : PWord) (n : Nat) : (s.wrP d v n).dies = s.dies := rfl
@[simp] theorem State.wrP_vifs (d : Nat) (v : PWord) (n : Nat) : (s.wrP d v n).vifs = s.vifs := rfl
@[simp] theorem State.wrP_parts (d : Nat) (v : PWord) (n : Nat) : (s.wrP d v n).parts = s.parts := rfl
@[simp] theorem State.wrP_nests (d : Nat) (v : PWord) (n : Nat) : (s.wrP d v n).nests = s.nests := rfl
@[simp] theorem State.wrP_groups (d : Nat) (v : PWord) (n : Nat) : (s.wrP d v n).groups = s.groups := rfl
@[simp] theorem State.wrP_cmds (d : Nat) (v : PWord) (n : Nat) : (s.wrP d v n).cmds = s.cmds := rfl
@[simp] theorem State.wrP_doneCmds (d : Nat) (v : PWord) (n : Nat) : (s.wrP d v n).doneCmds = s.doneCmds := rfl
@[simp] theorem State.wrP_incs (d : Nat) (v : PWord) (n : Nat) : (s.wrP d v n).incs = s.incs := rfl
@[simp] theorem State.wrP_waiters (d : Nat) (v : PWord) (n : Nat) : (s.wrP d v n).waiters = s.waiters := rfl
@[simp] theorem State.wrP_beads (d : Nat) (v : PWord) (n : Nat) : (s.wrP d v n).beads = s.beads := rfl
@[simp] theorem State.wrP_signals (d : Nat) (v : PWord) (n : Nat) : (s.wrP d v n).signals = s.signals := rfl
@[simp] theorem State.wrP_debts (d : Nat) (v : PWord) (n : Nat) : (s.wrP d v n).debts = s.debts := rfl
@[simp] theorem State.wrP_tlb (d : Nat) (v : PWord) (n : Nat) : (s.wrP d v n).tlb = s.tlb := rfl
@[simp] theorem State.wrP_walks (d : Nat) (v : PWord) (n : Nat) : (s.wrP d v n).walks = s.walks := rfl
@[simp] theorem State.wrP_moves (d : Nat) (v : PWord) (n : Nat) : (s.wrP d v n).moves = s.moves := rfl
@[simp] theorem State.wrP_asidTable (d : Nat) (v : PWord) (n : Nat) : (s.wrP d v n).asidTable = s.asidTable := rfl
@[simp] theorem State.wrP_aperBase (d : Nat) (v : PWord) (n : Nat) : (s.wrP d v n).aperBase = s.aperBase := rfl
@[simp] theorem State.wrP_aperSize (d : Nat) (v : PWord) (n : Nat) : (s.wrP d v n).aperSize = s.aperSize := rfl
@[simp] theorem State.wrP_index (d : Nat) (v : PWord) (n : Nat) : (s.wrP d v n).index = s.index := rfl
@[simp] theorem State.wrP_nextSer (d : Nat) (v : PWord) (n : Nat) : (s.wrP d v n).nextSer = s.nextSer := rfl
@[simp] theorem State.wrP_nextId (d : Nat) (v : PWord) (n : Nat) : (s.wrP d v n).nextId = s.nextId := rfl
@[simp] theorem State.wrP_module (d : Nat) (v : PWord) (n : Nat) : (s.wrP d v n).module = s.module := rfl
@[simp] theorem State.wrP_agenda (d : Nat) (v : PWord) (n : Nat) : (s.wrP d v n).agenda = s.agenda := rfl
@[simp] theorem State.wrP_cur (d : Nat) (v : PWord) (n : Nat) : (s.wrP d v n).cur = s.cur := rfl
@[simp] theorem State.wrP_fresh (d : Nat) (v : PWord) (n : Nat) : (s.wrP d v n).fresh = s.fresh := rfl

/-! ### setCore -/

@[simp] theorem State.setCore_mem (k : Nat) (c : CoreSt) : (s.setCore k c).mem = s.mem := rfl
@[simp] theorem State.setCore_wlog (k : Nat) (c : CoreSt) : (s.setCore k c).wlog = s.wlog := rfl
@[simp] theorem State.setCore_poison (k : Nat) (c : CoreSt) : (s.setCore k c).poison = s.poison := rfl
@[simp] theorem State.setCore_l2bad (k : Nat) (c : CoreSt) : (s.setCore k c).l2bad = s.l2bad := rfl
@[simp] theorem State.setCore_ctxs (k : Nat) (c : CoreSt) : (s.setCore k c).ctxs = s.ctxs := rfl
@[simp] theorem State.setCore_dies (k : Nat) (c : CoreSt) : (s.setCore k c).dies = s.dies := rfl
@[simp] theorem State.setCore_vifs (k : Nat) (c : CoreSt) : (s.setCore k c).vifs = s.vifs := rfl
@[simp] theorem State.setCore_parts (k : Nat) (c : CoreSt) : (s.setCore k c).parts = s.parts := rfl
@[simp] theorem State.setCore_nests (k : Nat) (c : CoreSt) : (s.setCore k c).nests = s.nests := rfl
@[simp] theorem State.setCore_groups (k : Nat) (c : CoreSt) : (s.setCore k c).groups = s.groups := rfl
@[simp] theorem State.setCore_cmds (k : Nat) (c : CoreSt) : (s.setCore k c).cmds = s.cmds := rfl
@[simp] theorem State.setCore_doneCmds (k : Nat) (c : CoreSt) : (s.setCore k c).doneCmds = s.doneCmds := rfl
@[simp] theorem State.setCore_incs (k : Nat) (c : CoreSt) : (s.setCore k c).incs = s.incs := rfl
@[simp] theorem State.setCore_waiters (k : Nat) (c : CoreSt) : (s.setCore k c).waiters = s.waiters := rfl
@[simp] theorem State.setCore_beads (k : Nat) (c : CoreSt) : (s.setCore k c).beads = s.beads := rfl
@[simp] theorem State.setCore_signals (k : Nat) (c : CoreSt) : (s.setCore k c).signals = s.signals := rfl
@[simp] theorem State.setCore_debts (k : Nat) (c : CoreSt) : (s.setCore k c).debts = s.debts := rfl
@[simp] theorem State.setCore_tlb (k : Nat) (c : CoreSt) : (s.setCore k c).tlb = s.tlb := rfl
@[simp] theorem State.setCore_walks (k : Nat) (c : CoreSt) : (s.setCore k c).walks = s.walks := rfl
@[simp] theorem State.setCore_moves (k : Nat) (c : CoreSt) : (s.setCore k c).moves = s.moves := rfl
@[simp] theorem State.setCore_asidTable (k : Nat) (c : CoreSt) : (s.setCore k c).asidTable = s.asidTable := rfl
@[simp] theorem State.setCore_aperBase (k : Nat) (c : CoreSt) : (s.setCore k c).aperBase = s.aperBase := rfl
@[simp] theorem State.setCore_aperSize (k : Nat) (c : CoreSt) : (s.setCore k c).aperSize = s.aperSize := rfl
@[simp] theorem State.setCore_index (k : Nat) (c : CoreSt) : (s.setCore k c).index = s.index := rfl
@[simp] theorem State.setCore_nextSer (k : Nat) (c : CoreSt) : (s.setCore k c).nextSer = s.nextSer := rfl
@[simp] theorem State.setCore_nextId (k : Nat) (c : CoreSt) : (s.setCore k c).nextId = s.nextId := rfl
@[simp] theorem State.setCore_module (k : Nat) (c : CoreSt) : (s.setCore k c).module = s.module := rfl
@[simp] theorem State.setCore_agenda (k : Nat) (c : CoreSt) : (s.setCore k c).agenda = s.agenda := rfl
@[simp] theorem State.setCore_cur (k : Nat) (c : CoreSt) : (s.setCore k c).cur = s.cur := rfl
@[simp] theorem State.setCore_fresh (k : Nat) (c : CoreSt) : (s.setCore k c).fresh = s.fresh := rfl

/-! ### updCore -/

@[simp] theorem State.updCore_mem (k : Nat) (f : CoreSt → CoreSt) : (s.updCore k f).mem = s.mem := rfl
@[simp] theorem State.updCore_wlog (k : Nat) (f : CoreSt → CoreSt) : (s.updCore k f).wlog = s.wlog := rfl
@[simp] theorem State.updCore_poison (k : Nat) (f : CoreSt → CoreSt) : (s.updCore k f).poison = s.poison := rfl
@[simp] theorem State.updCore_l2bad (k : Nat) (f : CoreSt → CoreSt) : (s.updCore k f).l2bad = s.l2bad := rfl
@[simp] theorem State.updCore_ctxs (k : Nat) (f : CoreSt → CoreSt) : (s.updCore k f).ctxs = s.ctxs := rfl
@[simp] theorem State.updCore_dies (k : Nat) (f : CoreSt → CoreSt) : (s.updCore k f).dies = s.dies := rfl
@[simp] theorem State.updCore_vifs (k : Nat) (f : CoreSt → CoreSt) : (s.updCore k f).vifs = s.vifs := rfl
@[simp] theorem State.updCore_parts (k : Nat) (f : CoreSt → CoreSt) : (s.updCore k f).parts = s.parts := rfl
@[simp] theorem State.updCore_nests (k : Nat) (f : CoreSt → CoreSt) : (s.updCore k f).nests = s.nests := rfl
@[simp] theorem State.updCore_groups (k : Nat) (f : CoreSt → CoreSt) : (s.updCore k f).groups = s.groups := rfl
@[simp] theorem State.updCore_cmds (k : Nat) (f : CoreSt → CoreSt) : (s.updCore k f).cmds = s.cmds := rfl
@[simp] theorem State.updCore_doneCmds (k : Nat) (f : CoreSt → CoreSt) : (s.updCore k f).doneCmds = s.doneCmds := rfl
@[simp] theorem State.updCore_incs (k : Nat) (f : CoreSt → CoreSt) : (s.updCore k f).incs = s.incs := rfl
@[simp] theorem State.updCore_waiters (k : Nat) (f : CoreSt → CoreSt) : (s.updCore k f).waiters = s.waiters := rfl
@[simp] theorem State.updCore_beads (k : Nat) (f : CoreSt → CoreSt) : (s.updCore k f).beads = s.beads := rfl
@[simp] theorem State.updCore_signals (k : Nat) (f : CoreSt → CoreSt) : (s.updCore k f).signals = s.signals := rfl
@[simp] theorem State.updCore_debts (k : Nat) (f : CoreSt → CoreSt) : (s.updCore k f).debts = s.debts := rfl
@[simp] theorem State.updCore_tlb (k : Nat) (f : CoreSt → CoreSt) : (s.updCore k f).tlb = s.tlb := rfl
@[simp] theorem State.updCore_walks (k : Nat) (f : CoreSt → CoreSt) : (s.updCore k f).walks = s.walks := rfl
@[simp] theorem State.updCore_moves (k : Nat) (f : CoreSt → CoreSt) : (s.updCore k f).moves = s.moves := rfl
@[simp] theorem State.updCore_asidTable (k : Nat) (f : CoreSt → CoreSt) : (s.updCore k f).asidTable = s.asidTable := rfl
@[simp] theorem State.updCore_aperBase (k : Nat) (f : CoreSt → CoreSt) : (s.updCore k f).aperBase = s.aperBase := rfl
@[simp] theorem State.updCore_aperSize (k : Nat) (f : CoreSt → CoreSt) : (s.updCore k f).aperSize = s.aperSize := rfl
@[simp] theorem State.updCore_index (k : Nat) (f : CoreSt → CoreSt) : (s.updCore k f).index = s.index := rfl
@[simp] theorem State.updCore_nextSer (k : Nat) (f : CoreSt → CoreSt) : (s.updCore k f).nextSer = s.nextSer := rfl
@[simp] theorem State.updCore_nextId (k : Nat) (f : CoreSt → CoreSt) : (s.updCore k f).nextId = s.nextId := rfl
@[simp] theorem State.updCore_module (k : Nat) (f : CoreSt → CoreSt) : (s.updCore k f).module = s.module := rfl
@[simp] theorem State.updCore_agenda (k : Nat) (f : CoreSt → CoreSt) : (s.updCore k f).agenda = s.agenda := rfl
@[simp] theorem State.updCore_cur (k : Nat) (f : CoreSt → CoreSt) : (s.updCore k f).cur = s.cur := rfl
@[simp] theorem State.updCore_fresh (k : Nat) (f : CoreSt → CoreSt) : (s.updCore k f).fresh = s.fresh := rfl

/-! ### setDie -/

@[simp] theorem State.setDie_mem (k : Nat) (d : Die) : (s.setDie k d).mem = s.mem := rfl
@[simp] theorem State.setDie_wlog (k : Nat) (d : Die) : (s.setDie k d).wlog = s.wlog := rfl
@[simp] theorem State.setDie_poison (k : Nat) (d : Die) : (s.setDie k d).poison = s.poison := rfl
@[simp] theorem State.setDie_l2bad (k : Nat) (d : Die) : (s.setDie k d).l2bad = s.l2bad := rfl
@[simp] theorem State.setDie_ctxs (k : Nat) (d : Die) : (s.setDie k d).ctxs = s.ctxs := rfl
@[simp] theorem State.setDie_cores (k : Nat) (d : Die) : (s.setDie k d).cores = s.cores := rfl
@[simp] theorem State.setDie_vifs (k : Nat) (d : Die) : (s.setDie k d).vifs = s.vifs := rfl
@[simp] theorem State.setDie_parts (k : Nat) (d : Die) : (s.setDie k d).parts = s.parts := rfl
@[simp] theorem State.setDie_nests (k : Nat) (d : Die) : (s.setDie k d).nests = s.nests := rfl
@[simp] theorem State.setDie_groups (k : Nat) (d : Die) : (s.setDie k d).groups = s.groups := rfl
@[simp] theorem State.setDie_cmds (k : Nat) (d : Die) : (s.setDie k d).cmds = s.cmds := rfl
@[simp] theorem State.setDie_doneCmds (k : Nat) (d : Die) : (s.setDie k d).doneCmds = s.doneCmds := rfl
@[simp] theorem State.setDie_incs (k : Nat) (d : Die) : (s.setDie k d).incs = s.incs := rfl
@[simp] theorem State.setDie_waiters (k : Nat) (d : Die) : (s.setDie k d).waiters = s.waiters := rfl
@[simp] theorem State.setDie_beads (k : Nat) (d : Die) : (s.setDie k d).beads = s.beads := rfl
@[simp] theorem State.setDie_signals (k : Nat) (d : Die) : (s.setDie k d).signals = s.signals := rfl
@[simp] theorem State.setDie_debts (k : Nat) (d : Die) : (s.setDie k d).debts = s.debts := rfl
@[simp] theorem State.setDie_tlb (k : Nat) (d : Die) : (s.setDie k d).tlb = s.tlb := rfl
@[simp] theorem State.setDie_walks (k : Nat) (d : Die) : (s.setDie k d).walks = s.walks := rfl
@[simp] theorem State.setDie_moves (k : Nat) (d : Die) : (s.setDie k d).moves = s.moves := rfl
@[simp] theorem State.setDie_asidTable (k : Nat) (d : Die) : (s.setDie k d).asidTable = s.asidTable := rfl
@[simp] theorem State.setDie_aperBase (k : Nat) (d : Die) : (s.setDie k d).aperBase = s.aperBase := rfl
@[simp] theorem State.setDie_aperSize (k : Nat) (d : Die) : (s.setDie k d).aperSize = s.aperSize := rfl
@[simp] theorem State.setDie_index (k : Nat) (d : Die) : (s.setDie k d).index = s.index := rfl
@[simp] theorem State.setDie_nextSer (k : Nat) (d : Die) : (s.setDie k d).nextSer = s.nextSer := rfl
@[simp] theorem State.setDie_nextId (k : Nat) (d : Die) : (s.setDie k d).nextId = s.nextId := rfl
@[simp] theorem State.setDie_module (k : Nat) (d : Die) : (s.setDie k d).module = s.module := rfl
@[simp] theorem State.setDie_agenda (k : Nat) (d : Die) : (s.setDie k d).agenda = s.agenda := rfl
@[simp] theorem State.setDie_cur (k : Nat) (d : Die) : (s.setDie k d).cur = s.cur := rfl
@[simp] theorem State.setDie_fresh (k : Nat) (d : Die) : (s.setDie k d).fresh = s.fresh := rfl

/-! ### updDie -/

@[simp] theorem State.updDie_mem (k : Nat) (f : Die → Die) : (s.updDie k f).mem = s.mem := rfl
@[simp] theorem State.updDie_wlog (k : Nat) (f : Die → Die) : (s.updDie k f).wlog = s.wlog := rfl
@[simp] theorem State.updDie_poison (k : Nat) (f : Die → Die) : (s.updDie k f).poison = s.poison := rfl
@[simp] theorem State.updDie_l2bad (k : Nat) (f : Die → Die) : (s.updDie k f).l2bad = s.l2bad := rfl
@[simp] theorem State.updDie_ctxs (k : Nat) (f : Die → Die) : (s.updDie k f).ctxs = s.ctxs := rfl
@[simp] theorem State.updDie_cores (k : Nat) (f : Die → Die) : (s.updDie k f).cores = s.cores := rfl
@[simp] theorem State.updDie_vifs (k : Nat) (f : Die → Die) : (s.updDie k f).vifs = s.vifs := rfl
@[simp] theorem State.updDie_parts (k : Nat) (f : Die → Die) : (s.updDie k f).parts = s.parts := rfl
@[simp] theorem State.updDie_nests (k : Nat) (f : Die → Die) : (s.updDie k f).nests = s.nests := rfl
@[simp] theorem State.updDie_groups (k : Nat) (f : Die → Die) : (s.updDie k f).groups = s.groups := rfl
@[simp] theorem State.updDie_cmds (k : Nat) (f : Die → Die) : (s.updDie k f).cmds = s.cmds := rfl
@[simp] theorem State.updDie_doneCmds (k : Nat) (f : Die → Die) : (s.updDie k f).doneCmds = s.doneCmds := rfl
@[simp] theorem State.updDie_incs (k : Nat) (f : Die → Die) : (s.updDie k f).incs = s.incs := rfl
@[simp] theorem State.updDie_waiters (k : Nat) (f : Die → Die) : (s.updDie k f).waiters = s.waiters := rfl
@[simp] theorem State.updDie_beads (k : Nat) (f : Die → Die) : (s.updDie k f).beads = s.beads := rfl
@[simp] theorem State.updDie_signals (k : Nat) (f : Die → Die) : (s.updDie k f).signals = s.signals := rfl
@[simp] theorem State.updDie_debts (k : Nat) (f : Die → Die) : (s.updDie k f).debts = s.debts := rfl
@[simp] theorem State.updDie_tlb (k : Nat) (f : Die → Die) : (s.updDie k f).tlb = s.tlb := rfl
@[simp] theorem State.updDie_walks (k : Nat) (f : Die → Die) : (s.updDie k f).walks = s.walks := rfl
@[simp] theorem State.updDie_moves (k : Nat) (f : Die → Die) : (s.updDie k f).moves = s.moves := rfl
@[simp] theorem State.updDie_asidTable (k : Nat) (f : Die → Die) : (s.updDie k f).asidTable = s.asidTable := rfl
@[simp] theorem State.updDie_aperBase (k : Nat) (f : Die → Die) : (s.updDie k f).aperBase = s.aperBase := rfl
@[simp] theorem State.updDie_aperSize (k : Nat) (f : Die → Die) : (s.updDie k f).aperSize = s.aperSize := rfl
@[simp] theorem State.updDie_index (k : Nat) (f : Die → Die) : (s.updDie k f).index = s.index := rfl
@[simp] theorem State.updDie_nextSer (k : Nat) (f : Die → Die) : (s.updDie k f).nextSer = s.nextSer := rfl
@[simp] theorem State.updDie_nextId (k : Nat) (f : Die → Die) : (s.updDie k f).nextId = s.nextId := rfl
@[simp] theorem State.updDie_module (k : Nat) (f : Die → Die) : (s.updDie k f).module = s.module := rfl
@[simp] theorem State.updDie_agenda (k : Nat) (f : Die → Die) : (s.updDie k f).agenda = s.agenda := rfl
@[simp] theorem State.updDie_cur (k : Nat) (f : Die → Die) : (s.updDie k f).cur = s.cur := rfl
@[simp] theorem State.updDie_fresh (k : Nat) (f : Die → Die) : (s.updDie k f).fresh = s.fresh := rfl

/-! ### updVif -/

@[simp] theorem State.updVif_mem (k : Nat) (f : Vif → Vif) : (s.updVif k f).mem = s.mem := rfl
@[simp] theorem State.updVif_wlog (k : Nat) (f : Vif → Vif) : (s.updVif k f).wlog = s.wlog := rfl
@[simp] theorem State.updVif_poison (k : Nat) (f : Vif → Vif) : (s.updVif k f).poison = s.poison := rfl
@[simp] theorem State.updVif_l2bad (k : Nat) (f : Vif → Vif) : (s.updVif k f).l2bad = s.l2bad := rfl
@[simp] theorem State.updVif_ctxs (k : Nat) (f : Vif → Vif) : (s.updVif k f).ctxs = s.ctxs := rfl
@[simp] theorem State.updVif_cores (k : Nat) (f : Vif → Vif) : (s.updVif k f).cores = s.cores := rfl
@[simp] theorem State.updVif_dies (k : Nat) (f : Vif → Vif) : (s.updVif k f).dies = s.dies := rfl
@[simp] theorem State.updVif_parts (k : Nat) (f : Vif → Vif) : (s.updVif k f).parts = s.parts := rfl
@[simp] theorem State.updVif_nests (k : Nat) (f : Vif → Vif) : (s.updVif k f).nests = s.nests := rfl
@[simp] theorem State.updVif_groups (k : Nat) (f : Vif → Vif) : (s.updVif k f).groups = s.groups := rfl
@[simp] theorem State.updVif_cmds (k : Nat) (f : Vif → Vif) : (s.updVif k f).cmds = s.cmds := rfl
@[simp] theorem State.updVif_doneCmds (k : Nat) (f : Vif → Vif) : (s.updVif k f).doneCmds = s.doneCmds := rfl
@[simp] theorem State.updVif_incs (k : Nat) (f : Vif → Vif) : (s.updVif k f).incs = s.incs := rfl
@[simp] theorem State.updVif_waiters (k : Nat) (f : Vif → Vif) : (s.updVif k f).waiters = s.waiters := rfl
@[simp] theorem State.updVif_beads (k : Nat) (f : Vif → Vif) : (s.updVif k f).beads = s.beads := rfl
@[simp] theorem State.updVif_signals (k : Nat) (f : Vif → Vif) : (s.updVif k f).signals = s.signals := rfl
@[simp] theorem State.updVif_debts (k : Nat) (f : Vif → Vif) : (s.updVif k f).debts = s.debts := rfl
@[simp] theorem State.updVif_tlb (k : Nat) (f : Vif → Vif) : (s.updVif k f).tlb = s.tlb := rfl
@[simp] theorem State.updVif_walks (k : Nat) (f : Vif → Vif) : (s.updVif k f).walks = s.walks := rfl
@[simp] theorem State.updVif_moves (k : Nat) (f : Vif → Vif) : (s.updVif k f).moves = s.moves := rfl
@[simp] theorem State.updVif_asidTable (k : Nat) (f : Vif → Vif) : (s.updVif k f).asidTable = s.asidTable := rfl
@[simp] theorem State.updVif_aperBase (k : Nat) (f : Vif → Vif) : (s.updVif k f).aperBase = s.aperBase := rfl
@[simp] theorem State.updVif_aperSize (k : Nat) (f : Vif → Vif) : (s.updVif k f).aperSize = s.aperSize := rfl
@[simp] theorem State.updVif_index (k : Nat) (f : Vif → Vif) : (s.updVif k f).index = s.index := rfl
@[simp] theorem State.updVif_nextSer (k : Nat) (f : Vif → Vif) : (s.updVif k f).nextSer = s.nextSer := rfl
@[simp] theorem State.updVif_nextId (k : Nat) (f : Vif → Vif) : (s.updVif k f).nextId = s.nextId := rfl
@[simp] theorem State.updVif_module (k : Nat) (f : Vif → Vif) : (s.updVif k f).module = s.module := rfl
@[simp] theorem State.updVif_agenda (k : Nat) (f : Vif → Vif) : (s.updVif k f).agenda = s.agenda := rfl
@[simp] theorem State.updVif_cur (k : Nat) (f : Vif → Vif) : (s.updVif k f).cur = s.cur := rfl
@[simp] theorem State.updVif_fresh (k : Nat) (f : Vif → Vif) : (s.updVif k f).fresh = s.fresh := rfl

/-! ### updPart -/

@[simp] theorem State.updPart_mem (k : Nat) (f : Partition → Partition) : (s.updPart k f).mem = s.mem := rfl
@[simp] theorem State.updPart_wlog (k : Nat) (f : Partition → Partition) : (s.updPart k f).wlog = s.wlog := rfl
@[simp] theorem State.updPart_poison (k : Nat) (f : Partition → Partition) : (s.updPart k f).poison = s.poison := rfl
@[simp] theorem State.updPart_l2bad (k : Nat) (f : Partition → Partition) : (s.updPart k f).l2bad = s.l2bad := rfl
@[simp] theorem State.updPart_ctxs (k : Nat) (f : Partition → Partition) : (s.updPart k f).ctxs = s.ctxs := rfl
@[simp] theorem State.updPart_cores (k : Nat) (f : Partition → Partition) : (s.updPart k f).cores = s.cores := rfl
@[simp] theorem State.updPart_dies (k : Nat) (f : Partition → Partition) : (s.updPart k f).dies = s.dies := rfl
@[simp] theorem State.updPart_vifs (k : Nat) (f : Partition → Partition) : (s.updPart k f).vifs = s.vifs := rfl
@[simp] theorem State.updPart_nests (k : Nat) (f : Partition → Partition) : (s.updPart k f).nests = s.nests := rfl
@[simp] theorem State.updPart_groups (k : Nat) (f : Partition → Partition) : (s.updPart k f).groups = s.groups := rfl
@[simp] theorem State.updPart_cmds (k : Nat) (f : Partition → Partition) : (s.updPart k f).cmds = s.cmds := rfl
@[simp] theorem State.updPart_doneCmds (k : Nat) (f : Partition → Partition) : (s.updPart k f).doneCmds = s.doneCmds := rfl
@[simp] theorem State.updPart_incs (k : Nat) (f : Partition → Partition) : (s.updPart k f).incs = s.incs := rfl
@[simp] theorem State.updPart_waiters (k : Nat) (f : Partition → Partition) : (s.updPart k f).waiters = s.waiters := rfl
@[simp] theorem State.updPart_beads (k : Nat) (f : Partition → Partition) : (s.updPart k f).beads = s.beads := rfl
@[simp] theorem State.updPart_signals (k : Nat) (f : Partition → Partition) : (s.updPart k f).signals = s.signals := rfl
@[simp] theorem State.updPart_debts (k : Nat) (f : Partition → Partition) : (s.updPart k f).debts = s.debts := rfl
@[simp] theorem State.updPart_tlb (k : Nat) (f : Partition → Partition) : (s.updPart k f).tlb = s.tlb := rfl
@[simp] theorem State.updPart_walks (k : Nat) (f : Partition → Partition) : (s.updPart k f).walks = s.walks := rfl
@[simp] theorem State.updPart_moves (k : Nat) (f : Partition → Partition) : (s.updPart k f).moves = s.moves := rfl
@[simp] theorem State.updPart_asidTable (k : Nat) (f : Partition → Partition) : (s.updPart k f).asidTable = s.asidTable := rfl
@[simp] theorem State.updPart_aperBase (k : Nat) (f : Partition → Partition) : (s.updPart k f).aperBase = s.aperBase := rfl
@[simp] theorem State.updPart_aperSize (k : Nat) (f : Partition → Partition) : (s.updPart k f).aperSize = s.aperSize := rfl
@[simp] theorem State.updPart_index (k : Nat) (f : Partition → Partition) : (s.updPart k f).index = s.index := rfl
@[simp] theorem State.updPart_nextSer (k : Nat) (f : Partition → Partition) : (s.updPart k f).nextSer = s.nextSer := rfl
@[simp] theorem State.updPart_nextId (k : Nat) (f : Partition → Partition) : (s.updPart k f).nextId = s.nextId := rfl
@[simp] theorem State.updPart_module (k : Nat) (f : Partition → Partition) : (s.updPart k f).module = s.module := rfl
@[simp] theorem State.updPart_agenda (k : Nat) (f : Partition → Partition) : (s.updPart k f).agenda = s.agenda := rfl
@[simp] theorem State.updPart_cur (k : Nat) (f : Partition → Partition) : (s.updPart k f).cur = s.cur := rfl
@[simp] theorem State.updPart_fresh (k : Nat) (f : Partition → Partition) : (s.updPart k f).fresh = s.fresh := rfl

/-! ### updNest -/

@[simp] theorem State.updNest_mem (k : Nat) (f : Nest → Nest) : (s.updNest k f).mem = s.mem := rfl
@[simp] theorem State.updNest_wlog (k : Nat) (f : Nest → Nest) : (s.updNest k f).wlog = s.wlog := rfl
@[simp] theorem State.updNest_poison (k : Nat) (f : Nest → Nest) : (s.updNest k f).poison = s.poison := rfl
@[simp] theorem State.updNest_l2bad (k : Nat) (f : Nest → Nest) : (s.updNest k f).l2bad = s.l2bad := rfl
@[simp] theorem State.updNest_ctxs (k : Nat) (f : Nest → Nest) : (s.updNest k f).ctxs = s.ctxs := rfl
@[simp] theorem State.updNest_cores (k : Nat) (f : Nest → Nest) : (s.updNest k f).cores = s.cores := rfl
@[simp] theorem State.updNest_dies (k : Nat) (f : Nest → Nest) : (s.updNest k f).dies = s.dies := rfl
@[simp] theorem State.updNest_vifs (k : Nat) (f : Nest → Nest) : (s.updNest k f).vifs = s.vifs := rfl
@[simp] theorem State.updNest_parts (k : Nat) (f : Nest → Nest) : (s.updNest k f).parts = s.parts := rfl
@[simp] theorem State.updNest_groups (k : Nat) (f : Nest → Nest) : (s.updNest k f).groups = s.groups := rfl
@[simp] theorem State.updNest_cmds (k : Nat) (f : Nest → Nest) : (s.updNest k f).cmds = s.cmds := rfl
@[simp] theorem State.updNest_doneCmds (k : Nat) (f : Nest → Nest) : (s.updNest k f).doneCmds = s.doneCmds := rfl
@[simp] theorem State.updNest_incs (k : Nat) (f : Nest → Nest) : (s.updNest k f).incs = s.incs := rfl
@[simp] theorem State.updNest_waiters (k : Nat) (f : Nest → Nest) : (s.updNest k f).waiters = s.waiters := rfl
@[simp] theorem State.updNest_beads (k : Nat) (f : Nest → Nest) : (s.updNest k f).beads = s.beads := rfl
@[simp] theorem State.updNest_signals (k : Nat) (f : Nest → Nest) : (s.updNest k f).signals = s.signals := rfl
@[simp] theorem State.updNest_debts (k : Nat) (f : Nest → Nest) : (s.updNest k f).debts = s.debts := rfl
@[simp] theorem State.updNest_tlb (k : Nat) (f : Nest → Nest) : (s.updNest k f).tlb = s.tlb := rfl
@[simp] theorem State.updNest_walks (k : Nat) (f : Nest → Nest) : (s.updNest k f).walks = s.walks := rfl
@[simp] theorem State.updNest_moves (k : Nat) (f : Nest → Nest) : (s.updNest k f).moves = s.moves := rfl
@[simp] theorem State.updNest_asidTable (k : Nat) (f : Nest → Nest) : (s.updNest k f).asidTable = s.asidTable := rfl
@[simp] theorem State.updNest_aperBase (k : Nat) (f : Nest → Nest) : (s.updNest k f).aperBase = s.aperBase := rfl
@[simp] theorem State.updNest_aperSize (k : Nat) (f : Nest → Nest) : (s.updNest k f).aperSize = s.aperSize := rfl
@[simp] theorem State.updNest_index (k : Nat) (f : Nest → Nest) : (s.updNest k f).index = s.index := rfl
@[simp] theorem State.updNest_nextSer (k : Nat) (f : Nest → Nest) : (s.updNest k f).nextSer = s.nextSer := rfl
@[simp] theorem State.updNest_nextId (k : Nat) (f : Nest → Nest) : (s.updNest k f).nextId = s.nextId := rfl
@[simp] theorem State.updNest_module (k : Nat) (f : Nest → Nest) : (s.updNest k f).module = s.module := rfl
@[simp] theorem State.updNest_agenda (k : Nat) (f : Nest → Nest) : (s.updNest k f).agenda = s.agenda := rfl
@[simp] theorem State.updNest_cur (k : Nat) (f : Nest → Nest) : (s.updNest k f).cur = s.cur := rfl
@[simp] theorem State.updNest_fresh (k : Nat) (f : Nest → Nest) : (s.updNest k f).fresh = s.fresh := rfl

/-! ### updGroup -/

@[simp] theorem State.updGroup_mem (k : Nat) (f : Group → Group) : (s.updGroup k f).mem = s.mem := rfl
@[simp] theorem State.updGroup_wlog (k : Nat) (f : Group → Group) : (s.updGroup k f).wlog = s.wlog := rfl
@[simp] theorem State.updGroup_poison (k : Nat) (f : Group → Group) : (s.updGroup k f).poison = s.poison := rfl
@[simp] theorem State.updGroup_l2bad (k : Nat) (f : Group → Group) : (s.updGroup k f).l2bad = s.l2bad := rfl
@[simp] theorem State.updGroup_ctxs (k : Nat) (f : Group → Group) : (s.updGroup k f).ctxs = s.ctxs := rfl
@[simp] theorem State.updGroup_cores (k : Nat) (f : Group → Group) : (s.updGroup k f).cores = s.cores := rfl
@[simp] theorem State.updGroup_dies (k : Nat) (f : Group → Group) : (s.updGroup k f).dies = s.dies := rfl
@[simp] theorem State.updGroup_vifs (k : Nat) (f : Group → Group) : (s.updGroup k f).vifs = s.vifs := rfl
@[simp] theorem State.updGroup_parts (k : Nat) (f : Group → Group) : (s.updGroup k f).parts = s.parts := rfl
@[simp] theorem State.updGroup_nests (k : Nat) (f : Group → Group) : (s.updGroup k f).nests = s.nests := rfl
@[simp] theorem State.updGroup_cmds (k : Nat) (f : Group → Group) : (s.updGroup k f).cmds = s.cmds := rfl
@[simp] theorem State.updGroup_doneCmds (k : Nat) (f : Group → Group) : (s.updGroup k f).doneCmds = s.doneCmds := rfl
@[simp] theorem State.updGroup_incs (k : Nat) (f : Group → Group) : (s.updGroup k f).incs = s.incs := rfl
@[simp] theorem State.updGroup_waiters (k : Nat) (f : Group → Group) : (s.updGroup k f).waiters = s.waiters := rfl
@[simp] theorem State.updGroup_beads (k : Nat) (f : Group → Group) : (s.updGroup k f).beads = s.beads := rfl
@[simp] theorem State.updGroup_signals (k : Nat) (f : Group → Group) : (s.updGroup k f).signals = s.signals := rfl
@[simp] theorem State.updGroup_debts (k : Nat) (f : Group → Group) : (s.updGroup k f).debts = s.debts := rfl
@[simp] theorem State.updGroup_tlb (k : Nat) (f : Group → Group) : (s.updGroup k f).tlb = s.tlb := rfl
@[simp] theorem State.updGroup_walks (k : Nat) (f : Group → Group) : (s.updGroup k f).walks = s.walks := rfl
@[simp] theorem State.updGroup_moves (k : Nat) (f : Group → Group) : (s.updGroup k f).moves = s.moves := rfl
@[simp] theorem State.updGroup_asidTable (k : Nat) (f : Group → Group) : (s.updGroup k f).asidTable = s.asidTable := rfl
@[simp] theorem State.updGroup_aperBase (k : Nat) (f : Group → Group) : (s.updGroup k f).aperBase = s.aperBase := rfl
@[simp] theorem State.updGroup_aperSize (k : Nat) (f : Group → Group) : (s.updGroup k f).aperSize = s.aperSize := rfl
@[simp] theorem State.updGroup_index (k : Nat) (f : Group → Group) : (s.updGroup k f).index = s.index := rfl
@[simp] theorem State.updGroup_nextSer (k : Nat) (f : Group → Group) : (s.updGroup k f).nextSer = s.nextSer := rfl
@[simp] theorem State.updGroup_nextId (k : Nat) (f : Group → Group) : (s.updGroup k f).nextId = s.nextId := rfl
@[simp] theorem State.updGroup_module (k : Nat) (f : Group → Group) : (s.updGroup k f).module = s.module := rfl
@[simp] theorem State.updGroup_agenda (k : Nat) (f : Group → Group) : (s.updGroup k f).agenda = s.agenda := rfl
@[simp] theorem State.updGroup_cur (k : Nat) (f : Group → Group) : (s.updGroup k f).cur = s.cur := rfl
@[simp] theorem State.updGroup_fresh (k : Nat) (f : Group → Group) : (s.updGroup k f).fresh = s.fresh := rfl

/-! ### setByte -/

@[simp] theorem State.setByte_mem (a : Nat) (b : Byte) : (s.setByte a b).mem = s.mem := rfl
@[simp] theorem State.setByte_poison (a : Nat) (b : Byte) : (s.setByte a b).poison = s.poison := rfl
@[simp] theorem State.setByte_l2bad (a : Nat) (b : Byte) : (s.setByte a b).l2bad = s.l2bad := rfl
@[simp] theorem State.setByte_ctxs (a : Nat) (b : Byte) : (s.setByte a b).ctxs = s.ctxs := rfl
@[simp] theorem State.setByte_cores (a : Nat) (b : Byte) : (s.setByte a b).cores = s.cores := rfl
@[simp] theorem State.setByte_dies (a : Nat) (b : Byte) : (s.setByte a b).dies = s.dies := rfl
@[simp] theorem State.setByte_vifs (a : Nat) (b : Byte) : (s.setByte a b).vifs = s.vifs := rfl
@[simp] theorem State.setByte_parts (a : Nat) (b : Byte) : (s.setByte a b).parts = s.parts := rfl
@[simp] theorem State.setByte_nests (a : Nat) (b : Byte) : (s.setByte a b).nests = s.nests := rfl
@[simp] theorem State.setByte_groups (a : Nat) (b : Byte) : (s.setByte a b).groups = s.groups := rfl
@[simp] theorem State.setByte_cmds (a : Nat) (b : Byte) : (s.setByte a b).cmds = s.cmds := rfl
@[simp] theorem State.setByte_doneCmds (a : Nat) (b : Byte) : (s.setByte a b).doneCmds = s.doneCmds := rfl
@[simp] theorem State.setByte_incs (a : Nat) (b : Byte) : (s.setByte a b).incs = s.incs := rfl
@[simp] theorem State.setByte_waiters (a : Nat) (b : Byte) : (s.setByte a b).waiters = s.waiters := rfl
@[simp] theorem State.setByte_beads (a : Nat) (b : Byte) : (s.setByte a b).beads = s.beads := rfl
@[simp] theorem State.setByte_signals (a : Nat) (b : Byte) : (s.setByte a b).signals = s.signals := rfl
@[simp] theorem State.setByte_debts (a : Nat) (b : Byte) : (s.setByte a b).debts = s.debts := rfl
@[simp] theorem State.setByte_tlb (a : Nat) (b : Byte) : (s.setByte a b).tlb = s.tlb := rfl
@[simp] theorem State.setByte_walks (a : Nat) (b : Byte) : (s.setByte a b).walks = s.walks := rfl
@[simp] theorem State.setByte_moves (a : Nat) (b : Byte) : (s.setByte a b).moves = s.moves := rfl
@[simp] theorem State.setByte_asidTable (a : Nat) (b : Byte) : (s.setByte a b).asidTable = s.asidTable := rfl
@[simp] theorem State.setByte_aperBase (a : Nat) (b : Byte) : (s.setByte a b).aperBase = s.aperBase := rfl
@[simp] theorem State.setByte_aperSize (a : Nat) (b : Byte) : (s.setByte a b).aperSize = s.aperSize := rfl
@[simp] theorem State.setByte_index (a : Nat) (b : Byte) : (s.setByte a b).index = s.index := rfl
@[simp] theorem State.setByte_nextSer (a : Nat) (b : Byte) : (s.setByte a b).nextSer = s.nextSer := rfl
@[simp] theorem State.setByte_nextId (a : Nat) (b : Byte) : (s.setByte a b).nextId = s.nextId := rfl
@[simp] theorem State.setByte_module (a : Nat) (b : Byte) : (s.setByte a b).module = s.module := rfl
@[simp] theorem State.setByte_agenda (a : Nat) (b : Byte) : (s.setByte a b).agenda = s.agenda := rfl
@[simp] theorem State.setByte_cur (a : Nat) (b : Byte) : (s.setByte a b).cur = s.cur := rfl
@[simp] theorem State.setByte_fresh (a : Nat) (b : Byte) : (s.setByte a b).fresh = s.fresh := rfl

/-! ### setRes -/

@[simp] theorem State.setRes_mem (r : Issued) : (s.setRes r).mem = s.mem := rfl
@[simp] theorem State.setRes_wlog (r : Issued) : (s.setRes r).wlog = s.wlog := rfl
@[simp] theorem State.setRes_poison (r : Issued) : (s.setRes r).poison = s.poison := rfl
@[simp] theorem State.setRes_l2bad (r : Issued) : (s.setRes r).l2bad = s.l2bad := rfl
@[simp] theorem State.setRes_ctxs (r : Issued) : (s.setRes r).ctxs = s.ctxs := rfl
@[simp] theorem State.setRes_cores (r : Issued) : (s.setRes r).cores = s.cores := rfl
@[simp] theorem State.setRes_dies (r : Issued) : (s.setRes r).dies = s.dies := rfl
@[simp] theorem State.setRes_vifs (r : Issued) : (s.setRes r).vifs = s.vifs := rfl
@[simp] theorem State.setRes_parts (r : Issued) : (s.setRes r).parts = s.parts := rfl
@[simp] theorem State.setRes_nests (r : Issued) : (s.setRes r).nests = s.nests := rfl
@[simp] theorem State.setRes_groups (r : Issued) : (s.setRes r).groups = s.groups := rfl
@[simp] theorem State.setRes_cmds (r : Issued) : (s.setRes r).cmds = s.cmds := rfl
@[simp] theorem State.setRes_doneCmds (r : Issued) : (s.setRes r).doneCmds = s.doneCmds := rfl
@[simp] theorem State.setRes_incs (r : Issued) : (s.setRes r).incs = s.incs := rfl
@[simp] theorem State.setRes_waiters (r : Issued) : (s.setRes r).waiters = s.waiters := rfl
@[simp] theorem State.setRes_beads (r : Issued) : (s.setRes r).beads = s.beads := rfl
@[simp] theorem State.setRes_signals (r : Issued) : (s.setRes r).signals = s.signals := rfl
@[simp] theorem State.setRes_debts (r : Issued) : (s.setRes r).debts = s.debts := rfl
@[simp] theorem State.setRes_tlb (r : Issued) : (s.setRes r).tlb = s.tlb := rfl
@[simp] theorem State.setRes_walks (r : Issued) : (s.setRes r).walks = s.walks := rfl
@[simp] theorem State.setRes_moves (r : Issued) : (s.setRes r).moves = s.moves := rfl
@[simp] theorem State.setRes_asidTable (r : Issued) : (s.setRes r).asidTable = s.asidTable := rfl
@[simp] theorem State.setRes_aperBase (r : Issued) : (s.setRes r).aperBase = s.aperBase := rfl
@[simp] theorem State.setRes_aperSize (r : Issued) : (s.setRes r).aperSize = s.aperSize := rfl
@[simp] theorem State.setRes_index (r : Issued) : (s.setRes r).index = s.index := rfl
@[simp] theorem State.setRes_nextSer (r : Issued) : (s.setRes r).nextSer = s.nextSer := rfl
@[simp] theorem State.setRes_nextId (r : Issued) : (s.setRes r).nextId = s.nextId := rfl
@[simp] theorem State.setRes_module (r : Issued) : (s.setRes r).module = s.module := rfl
@[simp] theorem State.setRes_agenda (r : Issued) : (s.setRes r).agenda = s.agenda := rfl
@[simp] theorem State.setRes_fresh (r : Issued) : (s.setRes r).fresh = s.fresh := rfl

/-! ### Reads after updates -/

@[simp] theorem State.ctx_setCtx (k : Nat) (c : Ctx) : (s.setCtx k c).ctx k = c := by
  simp [State.ctx, State.setCtx]

theorem State.ctx_setCtx_ne {j k : Nat} (c : Ctx) (h : j ≠ k) : (s.setCtx k c).ctx j = s.ctx j := by
  simp [State.ctx, State.setCtx, kv_get_put_ne _ _ h]

@[simp] theorem State.ctx_updCtx (k : Nat) (f : Ctx → Ctx) : (s.updCtx k f).ctx k = f (s.ctx k) := by
  simp [State.updCtx]

theorem State.ctx_updCtx_ne {j k : Nat} (f : Ctx → Ctx) (h : j ≠ k) : (s.updCtx k f).ctx j = s.ctx j := by
  simp [State.updCtx, State.ctx_setCtx_ne _ _ h]

@[simp] theorem State.core_updCore (k : Nat) (f : CoreSt → CoreSt) : (s.updCore k f).core k = f (s.core k) := by
  simp [State.core, State.updCore, State.setCore]

theorem State.core_updCore_ne {j k : Nat} (f : CoreSt → CoreSt) (h : j ≠ k) :
    (s.updCore k f).core j = s.core j := by
  simp [State.core, State.updCore, State.setCore, kv_get_put_ne _ _ h]

@[simp] theorem State.die_updDie (k : Nat) (f : Die → Die) : (s.updDie k f).die k = f (s.die k) := by
  simp [State.die, State.updDie, State.setDie]

theorem State.die_updDie_ne {j k : Nat} (f : Die → Die) (h : j ≠ k) : (s.updDie k f).die j = s.die j := by
  simp [State.die, State.updDie, State.setDie, kv_get_put_ne _ _ h]

@[simp] theorem State.vif_updVif (k : Nat) (f : Vif → Vif) : (s.updVif k f).vif k = f (s.vif k) := by
  simp [State.vif, State.updVif]

theorem State.vif_updVif_ne {j k : Nat} (f : Vif → Vif) (h : j ≠ k) : (s.updVif k f).vif j = s.vif j := by
  simp [State.vif, State.updVif, kv_get_put_ne _ _ h]

@[simp] theorem State.nest_updNest (k : Nat) (f : Nest → Nest) : (s.updNest k f).nest k = f (s.nest k) := by
  simp [State.nest, State.updNest]

@[simp] theorem State.me_updMe (f : Ctx → Ctx) : (s.updMe f).me = f s.me := by
  simp [State.me, State.updMe]

@[simp] theorem Ctx.lane_setLane (c : Ctx) (l : Lane) (x : LaneSt) : (c.setLane l x).lane l = x := by
  cases l <;> rfl

theorem Ctx.lane_setLane_ne (c : Ctx) {m l : Lane} (x : LaneSt) (h : m ≠ l) : (c.setLane l x).lane m = c.lane m := by
  cases m <;> cases l <;> first | rfl | exact absurd rfl h

@[simp] theorem Ctx.lane_updLane (c : Ctx) (l : Lane) (f : LaneSt → LaneSt) :
    (c.updLane l f).lane l = f (c.lane l) := by
  simp [Ctx.updLane]

theorem Ctx.lane_updLane_ne (c : Ctx) {m l : Lane} (f : LaneSt → LaneSt) (h : m ≠ l) :
    (c.updLane l f).lane m = c.lane m := by
  simp [Ctx.updLane, Ctx.lane_setLane_ne _ _ h]

@[simp] theorem State.lane_updLane (k : Nat) (l : Lane) (f : LaneSt → LaneSt) :
    (s.updLane k l f).lane k l = f (s.lane k l) := by
  simp [State.lane, State.updLane]

@[simp] theorem State.myLane_updMyLane (f : LaneSt → LaneSt) : (s.updMyLane f).myLane = f s.myLane := by
  simp [State.myLane, State.me, State.updMyLane, State.updLane]

/-! ### Writing a lane leaves the rest of its context -/

@[simp] theorem Ctx.setLane_core (c : Ctx) (l : Lane) (x : LaneSt) : (c.setLane l x).core = c.core := by cases l <;> rfl
@[simp] theorem Ctx.updLane_core (c : Ctx) (l : Lane) (f : LaneSt → LaneSt) : (c.updLane l f).core = c.core := c.setLane_core l _
@[simp] theorem Ctx.setLane_bank (c : Ctx) (l : Lane) (x : LaneSt) : (c.setLane l x).bank = c.bank := by cases l <;> rfl
@[simp] theorem Ctx.updLane_bank (c : Ctx) (l : Lane) (f : LaneSt → LaneSt) : (c.updLane l f).bank = c.bank := c.setLane_bank l _
@[simp] theorem Ctx.setLane_res (c : Ctx) (l : Lane) (x : LaneSt) : (c.setLane l x).res = c.res := by cases l <;> rfl
@[simp] theorem Ctx.updLane_res (c : Ctx) (l : Lane) (f : LaneSt → LaneSt) : (c.updLane l f).res = c.res := c.setLane_res l _
@[simp] theorem Ctx.setLane_nest (c : Ctx) (l : Lane) (x : LaneSt) : (c.setLane l x).nest = c.nest := by cases l <;> rfl
@[simp] theorem Ctx.updLane_nest (c : Ctx) (l : Lane) (f : LaneSt → LaneSt) : (c.updLane l f).nest = c.nest := c.setLane_nest l _
@[simp] theorem Ctx.setLane_point (c : Ctx) (l : Lane) (x : LaneSt) : (c.setLane l x).point = c.point := by cases l <;> rfl
@[simp] theorem Ctx.updLane_point (c : Ctx) (l : Lane) (f : LaneSt → LaneSt) : (c.updLane l f).point = c.point := c.setLane_point l _
@[simp] theorem Ctx.setLane_vif (c : Ctx) (l : Lane) (x : LaneSt) : (c.setLane l x).vif = c.vif := by cases l <;> rfl
@[simp] theorem Ctx.updLane_vif (c : Ctx) (l : Lane) (f : LaneSt → LaneSt) : (c.updLane l f).vif = c.vif := c.setLane_vif l _
@[simp] theorem Ctx.setLane_part (c : Ctx) (l : Lane) (x : LaneSt) : (c.setLane l x).part = c.part := by cases l <;> rfl
@[simp] theorem Ctx.updLane_part (c : Ctx) (l : Lane) (f : LaneSt → LaneSt) : (c.updLane l f).part = c.part := c.setLane_part l _
@[simp] theorem Ctx.setLane_prio (c : Ctx) (l : Lane) (x : LaneSt) : (c.setLane l x).prio = c.prio := by cases l <;> rfl
@[simp] theorem Ctx.updLane_prio (c : Ctx) (l : Lane) (f : LaneSt → LaneSt) : (c.updLane l f).prio = c.prio := c.setLane_prio l _
@[simp] theorem Ctx.setLane_f (c : Ctx) (l : Lane) (x : LaneSt) : (c.setLane l x).f = c.f := by cases l <;> rfl
@[simp] theorem Ctx.updLane_f (c : Ctx) (l : Lane) (f : LaneSt → LaneSt) : (c.updLane l f).f = c.f := c.setLane_f l _
@[simp] theorem Ctx.setLane_v (c : Ctx) (l : Lane) (x : LaneSt) : (c.setLane l x).v = c.v := by cases l <;> rfl
@[simp] theorem Ctx.updLane_v (c : Ctx) (l : Lane) (f : LaneSt → LaneSt) : (c.updLane l f).v = c.v := c.setLane_v l _
@[simp] theorem Ctx.setLane_p (c : Ctx) (l : Lane) (x : LaneSt) : (c.setLane l x).p = c.p := by cases l <;> rfl
@[simp] theorem Ctx.updLane_p (c : Ctx) (l : Lane) (f : LaneSt → LaneSt) : (c.updLane l f).p = c.p := c.setLane_p l _
@[simp] theorem Ctx.setLane_acc (c : Ctx) (l : Lane) (x : LaneSt) : (c.setLane l x).acc = c.acc := by cases l <;> rfl
@[simp] theorem Ctx.updLane_acc (c : Ctx) (l : Lane) (f : LaneSt → LaneSt) : (c.updLane l f).acc = c.acc := c.setLane_acc l _
@[simp] theorem Ctx.setLane_ctrl (c : Ctx) (l : Lane) (x : LaneSt) : (c.setLane l x).ctrl = c.ctrl := by cases l <;> rfl
@[simp] theorem Ctx.updLane_ctrl (c : Ctx) (l : Lane) (f : LaneSt → LaneSt) : (c.updLane l f).ctrl = c.ctrl := c.setLane_ctrl l _
@[simp] theorem Ctx.setLane_mtcs (c : Ctx) (l : Lane) (x : LaneSt) : (c.setLane l x).mtcs = c.mtcs := by cases l <;> rfl
@[simp] theorem Ctx.updLane_mtcs (c : Ctx) (l : Lane) (f : LaneSt → LaneSt) : (c.updLane l f).mtcs = c.mtcs := c.setLane_mtcs l _
@[simp] theorem Ctx.setLane_olds (c : Ctx) (l : Lane) (x : LaneSt) : (c.setLane l x).olds = c.olds := by cases l <;> rfl
@[simp] theorem Ctx.setLane_rebinds (c : Ctx) (l : Lane) (x : LaneSt) : (c.setLane l x).rebinds = c.rebinds := by cases l <;> rfl
@[simp] theorem Ctx.updLane_olds (c : Ctx) (l : Lane) (f : LaneSt → LaneSt) : (c.updLane l f).olds = c.olds := c.setLane_olds l _
@[simp] theorem Ctx.updLane_rebinds (c : Ctx) (l : Lane) (f : LaneSt → LaneSt) : (c.updLane l f).rebinds = c.rebinds := c.setLane_rebinds l _
@[simp] theorem Ctx.setLane_ovl0 (c : Ctx) (l : Lane) (x : LaneSt) : (c.setLane l x).ovl0 = c.ovl0 := by cases l <;> rfl
@[simp] theorem Ctx.updLane_ovl0 (c : Ctx) (l : Lane) (f : LaneSt → LaneSt) : (c.updLane l f).ovl0 = c.ovl0 := c.setLane_ovl0 l _
@[simp] theorem Ctx.setLane_ovl1 (c : Ctx) (l : Lane) (x : LaneSt) : (c.setLane l x).ovl1 = c.ovl1 := by cases l <;> rfl
@[simp] theorem Ctx.updLane_ovl1 (c : Ctx) (l : Lane) (f : LaneSt → LaneSt) : (c.updLane l f).ovl1 = c.ovl1 := c.setLane_ovl1 l _
@[simp] theorem Ctx.setLane_ovlWait (c : Ctx) (l : Lane) (x : LaneSt) : (c.setLane l x).ovlWait = c.ovlWait := by cases l <;> rfl
@[simp] theorem Ctx.updLane_ovlWait (c : Ctx) (l : Lane) (f : LaneSt → LaneSt) : (c.updLane l f).ovlWait = c.ovlWait := c.setLane_ovlWait l _
@[simp] theorem Ctx.setLane_loopTab (c : Ctx) (l : Lane) (x : LaneSt) : (c.setLane l x).loopTab = c.loopTab := by cases l <;> rfl
@[simp] theorem Ctx.updLane_loopTab (c : Ctx) (l : Lane) (f : LaneSt → LaneSt) : (c.updLane l f).loopTab = c.loopTab := c.setLane_loopTab l _
@[simp] theorem Ctx.setLane_binds (c : Ctx) (l : Lane) (x : LaneSt) : (c.setLane l x).binds = c.binds := by cases l <;> rfl
@[simp] theorem Ctx.updLane_binds (c : Ctx) (l : Lane) (f : LaneSt → LaneSt) : (c.updLane l f).binds = c.binds := c.setLane_binds l _
@[simp] theorem Ctx.setLane_slatePins (c : Ctx) (l : Lane) (x : LaneSt) : (c.setLane l x).slatePins = c.slatePins := by cases l <;> rfl
@[simp] theorem Ctx.updLane_slatePins (c : Ctx) (l : Lane) (f : LaneSt → LaneSt) : (c.updLane l f).slatePins = c.slatePins := c.setLane_slatePins l _
@[simp] theorem Ctx.setLane_slateWrites (c : Ctx) (l : Lane) (x : LaneSt) : (c.setLane l x).slateWrites = c.slateWrites := by cases l <;> rfl
@[simp] theorem Ctx.updLane_slateWrites (c : Ctx) (l : Lane) (f : LaneSt → LaneSt) : (c.updLane l f).slateWrites = c.slateWrites := c.setLane_slateWrites l _
@[simp] theorem Ctx.setLane_slateOwed (c : Ctx) (l : Lane) (x : LaneSt) : (c.setLane l x).slateOwed = c.slateOwed := by cases l <;> rfl
@[simp] theorem Ctx.updLane_slateOwed (c : Ctx) (l : Lane) (f : LaneSt → LaneSt) : (c.updLane l f).slateOwed = c.slateOwed := c.setLane_slateOwed l _
@[simp] theorem Ctx.setLane_tablePins (c : Ctx) (l : Lane) (x : LaneSt) : (c.setLane l x).tablePins = c.tablePins := by cases l <;> rfl
@[simp] theorem Ctx.updLane_tablePins (c : Ctx) (l : Lane) (f : LaneSt → LaneSt) : (c.updLane l f).tablePins = c.tablePins := c.setLane_tablePins l _
@[simp] theorem Ctx.setLane_lut (c : Ctx) (l : Lane) (x : LaneSt) : (c.setLane l x).lut = c.lut := by cases l <;> rfl
@[simp] theorem Ctx.updLane_lut (c : Ctx) (l : Lane) (f : LaneSt → LaneSt) : (c.updLane l f).lut = c.lut := c.setLane_lut l _
@[simp] theorem Ctx.setLane_fatal (c : Ctx) (l : Lane) (x : LaneSt) : (c.setLane l x).fatal = c.fatal := by cases l <;> rfl
@[simp] theorem Ctx.updLane_fatal (c : Ctx) (l : Lane) (f : LaneSt → LaneSt) : (c.updLane l f).fatal = c.fatal := c.setLane_fatal l _
@[simp] theorem Ctx.setLane_mirrorDiff (c : Ctx) (l : Lane) (x : LaneSt) : (c.setLane l x).mirrorDiff = c.mirrorDiff := by cases l <;> rfl
@[simp] theorem Ctx.updLane_mirrorDiff (c : Ctx) (l : Lane) (f : LaneSt → LaneSt) : (c.updLane l f).mirrorDiff = c.mirrorDiff := c.setLane_mirrorDiff l _
@[simp] theorem Ctx.setLane_image (c : Ctx) (l : Lane) (x : LaneSt) : (c.setLane l x).image = c.image := by cases l <;> rfl
@[simp] theorem Ctx.updLane_image (c : Ctx) (l : Lane) (f : LaneSt → LaneSt) : (c.updLane l f).image = c.image := c.setLane_image l _
@[simp] theorem Ctx.setLane_quantum (c : Ctx) (l : Lane) (x : LaneSt) : (c.setLane l x).quantum = c.quantum := by cases l <;> rfl
@[simp] theorem Ctx.updLane_quantum (c : Ctx) (l : Lane) (f : LaneSt → LaneSt) : (c.updLane l f).quantum = c.quantum := c.setLane_quantum l _
@[simp] theorem Ctx.setLane_resume (c : Ctx) (l : Lane) (x : LaneSt) : (c.setLane l x).resume = c.resume := by cases l <;> rfl
@[simp] theorem Ctx.updLane_resume (c : Ctx) (l : Lane) (f : LaneSt → LaneSt) : (c.updLane l f).resume = c.resume := c.setLane_resume l _
@[simp] theorem Ctx.setLane_reportDue (c : Ctx) (l : Lane) (x : LaneSt) : (c.setLane l x).reportDue = c.reportDue := by cases l <;> rfl
@[simp] theorem Ctx.updLane_reportDue (c : Ctx) (l : Lane) (f : LaneSt → LaneSt) : (c.updLane l f).reportDue = c.reportDue := c.setLane_reportDue l _

/-! ### Registers -/

@[simp] theorem LaneSt.put_s0 (x : LaneSt) (v : Word) (n : Nat) : x.putS 0 v n = x := rfl

theorem LaneSt.putS_same (x : LaneSt) {d : Nat} (v : Word) (n : Nat) (h : 0 < d) (h' : d < 32) :
    (x.putS d v n).s.getD d 0 = v := by
  simp [LaneSt.putS, Nat.ne_of_gt h, Vector.getD, h']

theorem LaneSt.putS_other (x : LaneSt) {d j : Nat} (v : Word) (n : Nat) (h : j ≠ d) :
    (x.putS d v n).s.getD j 0 = x.s.getD j 0 := by
  unfold LaneSt.putS
  split
  · rfl
  · simp [Vector.getD, Array.getD_eq_getD_getElem?, Ne.symm h]

@[simp] theorem State.srcS_zero (pos : Nat) : s.srcS pos 0 = 0 := rfl

@[simp] theorem State.srcP_zero (pos : Nat) : s.srcP pos 0 = BitVec.allOnes 32 := rfl

/-- What a lane's next bundle reads of a register that a bound of one bundle wrote. -/
theorem settle_none {l : List InFlight} {rf : RegFile} {i : Nat} (cur w n pick : Nat) (h : oldValues l rf i = []) :
    settle l rf i cur w n pick = cur := by
  simp [settle, h]

end Sys2Proof.Machine
end

