-- ==== Sys2Proof/Laws/Ops.lean ====
section
/-! SUPPORT. What the shared operations can do, said once: gates, operations run as meanings, traps, faults, meeting
points, and the byte-level operations that memory accesses are made of. -/

namespace Sys2Proof.Machine

variable {s t : State}

/-! ### Gates (R201, R211) -/

theorem gate_active {h : Hdr} (ha : s.active h = true) (k : State → Res) : gate h s k = k s := by
  simp [gate, ha]

theorem gate_inactive {h : Hdr} (ha : s.active h = false) (k : State → Res) : gate h s k = .next s := by
  simp [gate, ha]

theorem plain_active {h : Hdr} (ha : s.active h = true) (f : State → State) : plain h s f = .next (f s) :=
  gate_active ha _

theorem plain_inactive {h : Hdr} (ha : s.active h = false) (f : State → State) : plain h s f = .next s :=
  gate_inactive ha _

/-- A plain instruction always completes: with its effect, or, inactive, with none. -/
theorem plain_cases (h : Hdr) (s : State) (f : State → State) :
    plain h s f = .next (f s) ∨ plain h s f = .next s := by
  cases ha : s.active h
  · exact .inr (plain_inactive ha f)
  · exact .inl (plain_active ha f)

theorem gateOp_active {h : Hdr} (ha : s.active h = true) (m : Op Unit) : gateOp h s m = runOp s m :=
  gate_active ha _

theorem gateOp_inactive {h : Hdr} (ha : s.active h = false) (m : Op Unit) : gateOp h s m = .next s :=
  gate_inactive ha _

theorem privileged_held (hp : s.me.holdsPriv = true) (opc : Nat) (k : State → Res) : privileged s opc k = k s := by
  simp [privileged, hp]

theorem privileged_trap (hp : s.me.holdsPriv = false) (opc : Nat) (k : State → Res) :
    privileged s opc k = .next (trapHere s .privilege opc 0) := by
  simp [privileged, hp]

/-! ### Operations as meanings -/

theorem runOp_ok {m : Op Unit} (h : m.run.run s = (.ok (), t)) : runOp s m = .next t := by
  simp only [runOp, h]

theorem runOp_halt {m : Op Unit} {e : Halt} (h : m.run.run s = (.error e, t)) :
    runOp s m = .next (settleHalt (keepTranslations s t) e) := by
  simp only [runOp, h]

/-- An operation run as a meaning always leads to a next state: the one it leaves when it completes, else the one
before it, but for translations and free values, with a trap, a fault or a stall. -/
theorem runOp_cases (s : State) (m : Op Unit) :
    (∃ t, m.run.run s = (.ok (), t) ∧ runOp s m = .next t)
    ∨ ∃ e t, m.run.run s = (.error e, t) ∧ runOp s m = .next (settleHalt (keepTranslations s t) e) := by
  rcases h : m.run.run s with ⟨r, t⟩
  cases r with
  | ok u => exact .inl ⟨t, rfl, runOp_ok h⟩
  | error e => exact .inr ⟨e, t, rfl, runOp_halt h⟩

/-- Every gated operation leads to a next state. -/
theorem gateOp_next (h : Hdr) (s : State) (m : Op Unit) : ∃ t, gateOp h s m = .next t := by
  cases ha : s.active h
  · exact ⟨s, gateOp_inactive ha m⟩
  · rw [gateOp_active ha]
    rcases runOp_cases s m with ⟨t, _, h⟩ | ⟨e, t, _, h⟩ <;> exact ⟨_, h⟩

@[simp] theorem keepTranslations_mem (s t : State) : (keepTranslations s t).mem = s.mem := rfl
@[simp] theorem keepTranslations_wlog (s t : State) : (keepTranslations s t).wlog = s.wlog := rfl
@[simp] theorem keepTranslations_ctxs (s t : State) : (keepTranslations s t).ctxs = s.ctxs := rfl
@[simp] theorem keepTranslations_cores (s t : State) : (keepTranslations s t).cores = s.cores := rfl
@[simp] theorem keepTranslations_dies (s t : State) : (keepTranslations s t).dies = s.dies := rfl
@[simp] theorem keepTranslations_cur (s t : State) : (keepTranslations s t).cur = s.cur := rfl
@[simp] theorem keepTranslations_self (s : State) : keepTranslations s s = s := rfl

/-! ### The pieces of an operation -/

@[simp] theorem run_pure {α : Type} (a : α) (s : State) : ((pure a : Op α).run.run s) = (.ok a, s) := rfl

@[simp] theorem run_throw {α : Type} (e : Halt) (s : State) : ((throw e : Op α).run.run s) = (.error e, s) := rfl

@[simp] theorem run_get (s : State) : ((get : Op State).run.run s) = (.ok s, s) := rfl

@[simp] theorem run_set (t s : State) : ((set t : Op Unit).run.run s) = (.ok (), t) := rfl

@[simp] theorem run_modify (f : State → State) (s : State) : ((modify f : Op Unit).run.run s) = (.ok (), f s) := rfl

theorem run_bind_ok {α β : Type} {m : Op α} {a : α} (h : m.run.run s = (.ok a, t)) (f : α → Op β) :
    (m >>= f).run.run s = (f a).run.run t := by
  rw [ExceptT.run_bind, StateT.run_bind, h]
  rfl

theorem run_bind_error {α β : Type} {m : Op α} {e : Halt} (h : m.run.run s = (.error e, t)) (f : α → Op β) :
    (m >>= f).run.run s = (.error e, t) := by
  rw [ExceptT.run_bind, StateT.run_bind, h]
  rfl

/-- A free value is taken from the state's own counter, and nothing else changes. -/
theorem run_free (kind : Nat) (s : State) :
    (Op.free kind).run.run s = (.ok (Config.free kind s.fresh), { s with fresh := s.fresh + 1 }) := rfl

/-- An address that translates with nothing cached anew. -/
theorem run_xlat_ok {w : Who} {write : Bool} {va : Nat} {x : Xlat} (h : Sees s w write va x) :
    (xlat w write va).run.run s = (.ok x, s) := by
  unfold xlat
  rw [run_bind_ok (run_get s)]
  simp only [h.1]
  rw [run_bind_ok (run_set s s)]
  split
  · next p hp =>
    split at hp
    · next hh => simp [h.2 hh] at hp
    · simp at hp
  · rfl

/-- An address that does not translate: a precise trap (R389). -/
theorem run_xlat_fault {w : Who} {write : Bool} {va : Nat} {f : TransFault}
    (h : s.translate (dieOfCore w.core) w.asid w.priv write va = (.error f, t)) (hw : s.walkError w.asid va = none) :
    (xlat w write va).run.run s = (.error (.trap f.cause (if write then 1 else 0) (BitVec.ofNat 64 va)), t) := by
  unfold xlat
  rw [run_bind_ok (run_get s)]
  simp only [h, hw, ite_self]
  rw [run_bind_ok (run_set t s)]
  rfl

/-- An error in an entry that a walk reads: UNCORR (R371). -/
theorem run_xlat_uncorr {w : Who} {write : Bool} {va p : Nat}
    (hn : (s.tlbHits (dieOfCore w.core) w.asid va).isEmpty = true) (hw : s.walkError w.asid va = some p) :
    ∃ t, (xlat w write va).run.run s = (.error (.fatal .uncorr (uncorrDetail p) (BitVec.ofNat 64 p)), t) := by
  refine ⟨(s.translate (dieOfCore w.core) w.asid w.priv write va).2, ?_⟩
  unfold xlat
  rw [run_bind_ok (run_get s)]
  simp only [hn, hw, if_true]
  rw [run_bind_ok (run_set _ s)]
  rfl

/-- An address of 2^57 or above is not canonical (R377). -/
theorem translate_noncanon {va : Nat} (h : 2 ^ 57 ≤ va) (s : State) (die asid : Nat) (priv write : Bool) :
    s.translate die asid priv write va = (.error .noncanon, s) := by
  simp only [State.translate, if_pos h]

/-- A scratchpad access that reaches its bytes. -/
theorem run_laneSpan_ok {a n : Nat} {write : Bool} {xs : List (List Nat)} (h : s.spadSpan s.me a n write = some xs)
    (hb : s.boardHit s.cur.ctx xs.flatten = false) : (laneSpan a n write).run.run s = (.ok xs, s) := by
  unfold laneSpan
  rw [run_bind_ok (run_get s)]
  simp [h, hb]
  rfl

/-- A scratchpad address without a meaning (R88). -/
theorem run_laneSpan_fault {a n : Nat} {write : Bool} (h : s.spadSpan s.me a n write = none) :
    (laneSpan a n write).run.run s = (.error (.fatal .spadAddr 0 (BitVec.ofNat 64 a)), s) := by
  unfold laneSpan
  rw [run_bind_ok (run_get s)]
  simp only [h]
  rfl

/-- A scratchpad read while no write need still be performed, and with no error (R127, R371). -/
theorem run_spadSee_ok {locs : List Nat} (h : s.poisoned locs = none) (hp : s.scratchPending = []) (me : Party)
    (unit : Nat) : (spadSee me unit locs).run.run s = (.ok (locs.map s.byteAt), s) := by
  unfold spadSee
  rw [run_bind_ok (run_get s)]
  simp only [h, hp, List.isEmpty_nil]
  rfl

theorem run_spadReadBy_ok {locs : List Nat} (h : s.poisoned locs = none) (hp : s.scratchPending = []) (unit : Nat) :
    (spadReadBy unit locs).run.run s = (.ok (locs.map s.byteAt), s) := by
  unfold spadReadBy
  rw [run_bind_ok (run_get s)]
  exact run_spadSee_ok h hp _ _

theorem run_spadRead_ok {locs : List Nat} (h : s.poisoned locs = none) (hp : s.scratchPending = []) :
    (spadRead locs).run.run s = (.ok (locs.map s.byteAt), s) := run_spadReadBy_ok h hp 1

/-- Nothing comes before an operation of the core at a home. -/
theorem run_drainFor_none {core : Nat} (h : NoneFirst s core) (loc n : Nat) :
    (drainFor core loc n).run.run s = (.ok (), s) := by
  unfold drainFor
  rw [run_bind_ok (run_get s)]
  unfold drainWhere
  rw [run_bind_ok (run_get s)]
  simp only [h.2 loc n]
  rfl

/-! ### Traps and faults -/

@[simp] theorem setRes_res (s : State) (r : Issued) : (s.setRes r).cur.res = r := rfl

@[simp] theorem trapHere_res (s : State) (c : Cause) (d : Nat) (a : Word) : (trapHere s c d a).cur.res = .trapped := rfl

/-- Delivery goes to the user handler, to the system handler, or to service (R363, R364), unless a class-F fault has
been recorded. -/
theorem deliver_cases {k : Nat} (hf : (s.ctx k).fatal = none) (c : Cause) (lane detail : Nat) (addr u v : Word) :
    deliver s k c lane detail addr u v = enterHandler s k c lane detail addr (vecPc u) 1
    ∨ deliver s k c lane detail addr u v = enterHandler s k c lane detail addr (vecPc v) 2
    ∨ deliver s k c lane detail addr u v = serviceDelivery s k c lane detail addr := by
  simp only [deliver, hf, Option.isSome_none, Bool.false_eq_true, if_false]
  split
  · exact .inl rfl
  · split
    · exact .inr (.inl rfl)
    · exact .inr (.inr rfl)

/-- For a context that is to end with a class-F fault there is no delivery (R371). -/
theorem deliver_fatal {k : Nat} (hf : (s.ctx k).fatal.isSome = true) (c : Cause) (lane detail : Nat) (addr u v : Word) :
    deliver s k c lane detail addr u v = s.updCtx k (fun x => { x with fatal := some ⟨0, 0, 0⟩ }) := by
  simp only [deliver, hf, if_true]

/-- Entering a handler changes only its own context (R363). -/
theorem enterHandler_ctx (s : State) (k : Nat) (c : Cause) (lane detail : Nat) (addr : Word) (target : Nat)
    (h : BitVec 2) :
    let x := (enterHandler s k c lane detail addr target h).ctx k
    x.ctrl.hnd = h ∧ x.ctrl.cause = causeWord c lane false ∧ x.ctrl.faddr = addr
      ∧ ∀ l, (x.lane l).pc = target ∧ (x.lane l).epc = ((s.ctx k).lane l).resumePoint ∧ (x.lane l).ended = false := by
  intro x
  have hx : x = (enterHandler s k c lane detail addr target h).ctx k := rfl
  simp only [enterHandler, State.ctx_updCtx] at hx
  rw [hx]
  refine ⟨rfl, rfl, rfl, fun l => ?_⟩
  cases l <;> exact ⟨rfl, rfl, rfl⟩

/-- A recorded fault stays as it was recorded first (R371). -/
theorem recordFatal_kept {k : Nat} (hf : (s.ctx k).fatal.isSome = true) (c : Cause) (hc : c ≠ .uncorr)
    (lane detail : Nat) (addr : Word) (pc : Option Nat) (cmd : Option (Lane × BitVec 16)) :
    (recordFatal s k c lane detail addr pc cmd).ctx k = s.ctx k := by
  unfold recordFatal
  split
  · rfl
  · simp [countUncorr, hc, hf]

/-- A fault of a context without one: lanes may go on for 64 instructions each (R371). -/
theorem recordFatal_first {k : Nat} (hk : (kvGet s.ctxs k).isSome = true) (hf : (s.ctx k).fatal = none)
    (hr : (s.ctx k).res ≠ .gone) (c : Cause) (hc : c ≠ .uncorr) (lane detail : Nat) (addr : Word)
    (pc : Option Nat) (cmd : Option (Lane × BitVec 16)) :
    let x := (recordFatal s k c lane detail addr pc cmd).ctx k
    x.fatal = some ⟨64, 64, 64⟩ ∧ x.ctrl.cause = causeWord c lane true ∧ x.ctrl.faddr = addr
      ∧ x.ctrl.finfo = finfoWord detail pc cmd := by
  unfold recordFatal
  rw [if_neg (by simpa [← Option.isSome_iff_ne_none] using hk)]
  simp [countUncorr, hc, hf, hr]

/-! ### Meeting points (R71) -/

/-- A lane that reaches a meeting point before the others waits for them. -/
theorem atMeeting_early (h : s.allMet = false) (act : State → State) :
    atMeeting s act = (s.updMyLane (fun x => { x with arrived := true })).setRes .met := by
  simp [atMeeting, h]

/-- The last lane to reach it brings about the effect, once. -/
theorem atMeeting_last (h : s.allMet = true) (act : State → State) :
    atMeeting s act = (act (countMeeting s s.cur.ctx)).setRes .met := by
  simp [atMeeting, h]

end Sys2Proof.Machine
end

