-- ==== Sys2Proof/Laws/PerInstr.lean ====
section
/-! SUPPORT. For every instruction: its word has 64 bits and carries the common fields of R200 where the
decoder reads them. Events have no word. -/

namespace Sys2Proof.Laws.EncodedHeader

/-- The word of the instruction, if it has one, is below 2^64, and the decoder reads its common fields back. -/
def Statement (i : Instr) : Prop := ∀ w, encodeNat i = some w → w < 2 ^ 64 ∧ hdrOf i = some (hdrAt w)

theorem bit_beq (b : Bool) : (bit b == 1) = b := by cases b <;> rfl

theorem bit_le (b : Bool) : bit b ≤ 1 := by cases b <;> decide

theorem lane_bits_lt (l : LaneF) : laneBits l < 4 := by cases l <;> decide

theorem lane_of_bits (l : LaneF) : laneOfBits (laneBits l) = l := by cases l <;> rfl

/-- The fields of a header stay apart from the operands below bit 45. -/
theorem pack_hdr (h : Hdr) (opc p : Nat) (ho : opc < 256) (hp : p < 2 ^ 45) :
    packHdr h opc + p < 2 ^ 64 ∧ hdrAt (packHdr h opc + p) = h := by
  obtain ⟨lane, stop, pl, pr, gl, gr, pinv, pred⟩ := h
  have h1 := lane_bits_lt lane
  have h2 := bit_le stop
  have h3 := bit_le pl
  have h4 := bit_le pr
  have h5 := bit_le gl
  have h6 := bit_le gr
  have h7 := bit_le pinv
  have h8 := pred.isLt
  refine ⟨by simp only [packHdr]; omega, ?_⟩
  simp only [packHdr, hdrAt, Hdr.mk.injEq]
  refine ⟨?_, ?_, ?_, ?_, ?_, ?_, ?_, ?_⟩
  · have : (laneBits lane * 2 ^ 62 + bit stop * 2 ^ 61 + bit pl * 2 ^ 60 + bit pr * 2 ^ 59 + bit gl * 2 ^ 58
        + bit gr * 2 ^ 57 + opc * 2 ^ 49 + bit pinv * 2 ^ 48 + pred.toNat * 2 ^ 45 + p) / 2 ^ 62 = laneBits lane := by
      omega
    rw [this, lane_of_bits]
  · exact (congrArg (· == 1) (by omega)).trans (bit_beq stop)
  · exact (congrArg (· == 1) (by omega)).trans (bit_beq pl)
  · exact (congrArg (· == 1) (by omega)).trans (bit_beq pr)
  · exact (congrArg (· == 1) (by omega)).trans (bit_beq gl)
  · exact (congrArg (· == 1) (by omega)).trans (bit_beq gr)
  · exact (congrArg (· == 1) (by omega)).trans (bit_beq pinv)
  · apply BitVec.eq_of_toNat_eq
    rw [BitVec.toNat_ofNat]
    omega

theorem pack_reg (o : RegOps) : packReg o < 2 ^ 45 := by
  have := o.d.isLt; have := o.a.isLt; have := o.b.isLt; have := o.c.isLt
  have := o.t.isLt; have := o.rm.isLt; have := o.sub.isLt; have := o.mod.isLt
  simp only [packReg]; omega

theorem pack_ri (o : RiOps) : packRi o < 2 ^ 45 := by
  have := o.d.isLt; have := o.a.isLt; have := o.imm.isLt
  simp only [packRi]; omega

theorem pack_br (o : BrOps) : packBr o < 2 ^ 45 := by
  have := o.cr.isLt; have := o.own.isLt; have := o.ck.isLt; have := o.cc.isLt; have := o.off.isLt
  simp only [packBr]; omega

theorem pack_mem (o : MemOps) : packMem o < 2 ^ 45 := by
  have := o.d.isLt; have := o.base.isLt; have := o.idx.isLt; have := o.sz.isLt
  have := o.sc.isLt; have := o.ord.isLt; have := o.scope.isLt; have := o.off.isLt
  simp only [packMem]; omega

theorem pack_eng (o : EngOps) : packEng o < 2 ^ 45 := by
  have := o.dst.isLt; have := o.src.isLt; have := o.desc.isLt; have := o.ctr.isLt
  have := o.inc.isLt; have := o.seqf.isLt; have := o.sub.isLt; have := o.fl.isLt
  simp only [packEng]; omega

theorem pack_mat (o : MatOps) : packMat o < 2 ^ 45 := by
  have := o.acc.isLt; have := o.a.isLt; have := o.b.isLt; have := o.k.isLt
  have := o.ta.isLt; have := o.tb.isLt; have := o.sub.isLt; have := o.fl.isLt
  simp only [packMat]; omega

theorem pack_sys (o : SysOps) : packSys o < 2 ^ 45 := by
  have := o.d.isLt; have := o.a.isLt; have := o.ctrl.isLt; have := o.sub.isLt
  simp only [packSys]; omega

/-- The statement, for an instruction whose word is a header over operands. -/
theorem of_pack {i : Instr} {h : Hdr} (opc p : Nat) (he : encodeNat i = some (packHdr h opc + p))
    (hh : hdrOf i = some h) (ho : opc < 256) (hp : p < 2 ^ 45) : Statement i := by
  intro w hw
  obtain rfl : packHdr h opc + p = w := by simpa [he] using hw
  obtain ⟨h1, h2⟩ := pack_hdr h opc p ho hp
  exact ⟨h1, by rw [h2, hh]⟩

/-- The statement, for an event. -/
theorem of_event {i : Instr} (he : encodeNat i = none) : Statement i := by
  intro w hw
  simp [he] at hw

theorem nop (h : Hdr) (o : RegOps) : Statement (.nop h o) :=
  of_pack 0x00 _ rfl rfl (by decide) (pack_reg o)
theorem br (h : Hdr) (o : BrOps) : Statement (.br h o) :=
  of_pack 0x01 _ rfl rfl (by decide) (pack_br o)
theorem brc (h : Hdr) (o : BrOps) : Statement (.brc h o) :=
  of_pack 0x02 _ rfl rfl (by decide) (pack_br o)
theorem brx (h : Hdr) (o : BrOps) : Statement (.brx h o) :=
  of_pack 0x03 _ rfl rfl (by decide) (pack_br o)
theorem call (h : Hdr) (o : BrOps) : Statement (.call h o) :=
  of_pack 0x04 _ rfl rfl (by decide) (pack_br o)
theorem callx (h : Hdr) (o : BrOps) : Statement (.callx h o) :=
  of_pack 0x05 _ rfl rfl (by decide) (pack_br o)
theorem ret (h : Hdr) (o : BrOps) : Statement (.ret h o) :=
  of_pack 0x06 _ rfl rfl (by decide) (pack_br o)
theorem loop (h : Hdr) (o : BrOps) : Statement (.loop h o) :=
  of_pack 0x07 _ rfl rfl (by decide) (pack_br o)
theorem sync (h : Hdr) (o : RegOps) : Statement (.sync h o) :=
  of_pack 0x08 _ rfl rfl (by decide) (pack_reg o)
theorem endLane (h : Hdr) (o : RegOps) : Statement (.endLane h o) :=
  of_pack 0x09 _ rfl rfl (by decide) (pack_reg o)
theorem trap (h : Hdr) (o : RiOps) : Statement (.trap h o) :=
  of_pack 0x0A _ rfl rfl (by decide) (pack_ri o)
theorem bkpt (h : Hdr) (o : RiOps) : Statement (.bkpt h o) :=
  of_pack 0x0B _ rfl rfl (by decide) (pack_ri o)
theorem stk (h : Hdr) (o : RiOps) : Statement (.stk h o) :=
  of_pack 0x0C _ rfl rfl (by decide) (pack_ri o)
theorem ovl (h : Hdr) (o : RegOps) : Statement (.ovl h o) :=
  of_pack 0x0D _ rfl rfl (by decide) (pack_reg o)
theorem add (h : Hdr) (o : RegOps) : Statement (.add h o) :=
  of_pack 0x10 _ rfl rfl (by decide) (pack_reg o)
theorem sub (h : Hdr) (o : RegOps) : Statement (.sub h o) :=
  of_pack 0x11 _ rfl rfl (by decide) (pack_reg o)
theorem addi (h : Hdr) (o : RiOps) : Statement (.addi h o) :=
  of_pack 0x12 _ rfl rfl (by decide) (pack_ri o)
theorem mul (h : Hdr) (o : RegOps) : Statement (.mul h o) :=
  of_pack 0x13 _ rfl rfl (by decide) (pack_reg o)
theorem mulh (h : Hdr) (o : RegOps) : Statement (.mulh h o) :=
  of_pack 0x14 _ rfl rfl (by decide) (pack_reg o)
theorem div (h : Hdr) (o : RegOps) : Statement (.div h o) :=
  of_pack 0x15 _ rfl rfl (by decide) (pack_reg o)
theorem rem (h : Hdr) (o : RegOps) : Statement (.rem h o) :=
  of_pack 0x16 _ rfl rfl (by decide) (pack_reg o)
theorem and (h : Hdr) (o : RegOps) : Statement (.and h o) :=
  of_pack 0x17 _ rfl rfl (by decide) (pack_reg o)
theorem or (h : Hdr) (o : RegOps) : Statement (.or h o) :=
  of_pack 0x18 _ rfl rfl (by decide) (pack_reg o)
theorem xor (h : Hdr) (o : RegOps) : Statement (.xor h o) :=
  of_pack 0x19 _ rfl rfl (by decide) (pack_reg o)
theorem andn (h : Hdr) (o : RegOps) : Statement (.andn h o) :=
  of_pack 0x1A _ rfl rfl (by decide) (pack_reg o)
theorem shl (h : Hdr) (o : RegOps) : Statement (.shl h o) :=
  of_pack 0x1B _ rfl rfl (by decide) (pack_reg o)
theorem shr (h : Hdr) (o : RegOps) : Statement (.shr h o) :=
  of_pack 0x1C _ rfl rfl (by decide) (pack_reg o)
theorem sar (h : Hdr) (o : RegOps) : Statement (.sar h o) :=
  of_pack 0x1D _ rfl rfl (by decide) (pack_reg o)
theorem rotr (h : Hdr) (o : RegOps) : Statement (.rotr h o) :=
  of_pack 0x1E _ rfl rfl (by decide) (pack_reg o)
theorem clz (h : Hdr) (o : RegOps) : Statement (.clz h o) :=
  of_pack 0x1F _ rfl rfl (by decide) (pack_reg o)
theorem popc (h : Hdr) (o : RegOps) : Statement (.popc h o) :=
  of_pack 0x20 _ rfl rfl (by decide) (pack_reg o)
theorem min (h : Hdr) (o : RegOps) : Statement (.min h o) :=
  of_pack 0x21 _ rfl rfl (by decide) (pack_reg o)
theorem max (h : Hdr) (o : RegOps) : Statement (.max h o) :=
  of_pack 0x22 _ rfl rfl (by decide) (pack_reg o)
theorem cmp (h : Hdr) (o : RegOps) : Statement (.cmp h o) :=
  of_pack 0x23 _ rfl rfl (by decide) (pack_reg o)
theorem sel (h : Hdr) (o : RegOps) : Statement (.sel h o) :=
  of_pack 0x24 _ rfl rfl (by decide) (pack_reg o)
theorem li (h : Hdr) (o : RiOps) : Statement (.li h o) :=
  of_pack 0x25 _ rfl rfl (by decide) (pack_ri o)
theorem lih (h : Hdr) (o : RiOps) : Statement (.lih h o) :=
  of_pack 0x26 _ rfl rfl (by decide) (pack_ri o)
theorem mov (h : Hdr) (o : RegOps) : Statement (.mov h o) :=
  of_pack 0x27 _ rfl rfl (by decide) (pack_reg o)
theorem bfx (h : Hdr) (o : RegOps) : Statement (.bfx h o) :=
  of_pack 0x28 _ rfl rfl (by decide) (pack_reg o)
theorem bfi (h : Hdr) (o : RegOps) : Statement (.bfi h o) :=
  of_pack 0x29 _ rfl rfl (by decide) (pack_reg o)
theorem addx (h : Hdr) (o : RegOps) : Statement (.addx h o) :=
  of_pack 0x2A _ rfl rfl (by decide) (pack_reg o)
theorem abs (h : Hdr) (o : RegOps) : Statement (.abs h o) :=
  of_pack 0x2B _ rfl rfl (by decide) (pack_reg o)
theorem andi (h : Hdr) (o : RiOps) : Statement (.andi h o) :=
  of_pack 0x2C _ rfl rfl (by decide) (pack_ri o)
theorem ori (h : Hdr) (o : RiOps) : Statement (.ori h o) :=
  of_pack 0x2D _ rfl rfl (by decide) (pack_ri o)
theorem xori (h : Hdr) (o : RiOps) : Statement (.xori h o) :=
  of_pack 0x2E _ rfl rfl (by decide) (pack_ri o)
theorem muli (h : Hdr) (o : RiOps) : Statement (.muli h o) :=
  of_pack 0x2F _ rfl rfl (by decide) (pack_ri o)
theorem fadd (h : Hdr) (o : RegOps) : Statement (.fadd h o) :=
  of_pack 0x30 _ rfl rfl (by decide) (pack_reg o)
theorem fsub (h : Hdr) (o : RegOps) : Statement (.fsub h o) :=
  of_pack 0x31 _ rfl rfl (by decide) (pack_reg o)
theorem fmul (h : Hdr) (o : RegOps) : Statement (.fmul h o) :=
  of_pack 0x32 _ rfl rfl (by decide) (pack_reg o)
theorem ffma (h : Hdr) (o : RegOps) : Statement (.ffma h o) :=
  of_pack 0x33 _ rfl rfl (by decide) (pack_reg o)
theorem fdiv (h : Hdr) (o : RegOps) : Statement (.fdiv h o) :=
  of_pack 0x34 _ rfl rfl (by decide) (pack_reg o)
theorem fsqrt (h : Hdr) (o : RegOps) : Statement (.fsqrt h o) :=
  of_pack 0x35 _ rfl rfl (by decide) (pack_reg o)
theorem fmin (h : Hdr) (o : RegOps) : Statement (.fmin h o) :=
  of_pack 0x36 _ rfl rfl (by decide) (pack_reg o)
theorem fmax (h : Hdr) (o : RegOps) : Statement (.fmax h o) :=
  of_pack 0x37 _ rfl rfl (by decide) (pack_reg o)
theorem fcmp (h : Hdr) (o : RegOps) : Statement (.fcmp h o) :=
  of_pack 0x38 _ rfl rfl (by decide) (pack_reg o)
theorem fcvt (h : Hdr) (o : RegOps) : Statement (.fcvt h o) :=
  of_pack 0x39 _ rfl rfl (by decide) (pack_reg o)
theorem fsgn (h : Hdr) (o : RegOps) : Statement (.fsgn h o) :=
  of_pack 0x3A _ rfl rfl (by decide) (pack_reg o)
theorem fclass (h : Hdr) (o : RegOps) : Statement (.fclass h o) :=
  of_pack 0x3B _ rfl rfl (by decide) (pack_reg o)
theorem fmvs (h : Hdr) (o : RegOps) : Statement (.fmvs h o) :=
  of_pack 0x3C _ rfl rfl (by decide) (pack_reg o)
theorem fli (h : Hdr) (o : RiOps) : Statement (.fli h o) :=
  of_pack 0x3D _ rfl rfl (by decide) (pack_ri o)
theorem fsel (h : Hdr) (o : RegOps) : Statement (.fsel h o) :=
  of_pack 0x3E _ rfl rfl (by decide) (pack_reg o)
theorem pand (h : Hdr) (o : RegOps) : Statement (.pand h o) :=
  of_pack 0x40 _ rfl rfl (by decide) (pack_reg o)
theorem por (h : Hdr) (o : RegOps) : Statement (.por h o) :=
  of_pack 0x41 _ rfl rfl (by decide) (pack_reg o)
theorem pxor (h : Hdr) (o : RegOps) : Statement (.pxor h o) :=
  of_pack 0x42 _ rfl rfl (by decide) (pack_reg o)
theorem pandn (h : Hdr) (o : RegOps) : Statement (.pandn h o) :=
  of_pack 0x43 _ rfl rfl (by decide) (pack_reg o)
theorem pset (h : Hdr) (o : RegOps) : Statement (.pset h o) :=
  of_pack 0x44 _ rfl rfl (by decide) (pack_reg o)
theorem psave (h : Hdr) (o : RegOps) : Statement (.psave h o) :=
  of_pack 0x45 _ rfl rfl (by decide) (pack_reg o)
theorem prest (h : Hdr) (o : RegOps) : Statement (.prest h o) :=
  of_pack 0x46 _ rfl rfl (by decide) (pack_reg o)
theorem pqry (h : Hdr) (o : RegOps) : Statement (.pqry h o) :=
  of_pack 0x47 _ rfl rfl (by decide) (pack_reg o)
theorem xput (h : Hdr) (o : RegOps) : Statement (.xput h o) :=
  of_pack 0x48 _ rfl rfl (by decide) (pack_reg o)
theorem xget (h : Hdr) (o : RegOps) : Statement (.xget h o) :=
  of_pack 0x49 _ rfl rfl (by decide) (pack_reg o)
theorem rdcnt (h : Hdr) (o : RegOps) : Statement (.rdcnt h o) :=
  of_pack 0x4B _ rfl rfl (by decide) (pack_reg o)
theorem vadd (h : Hdr) (o : RegOps) : Statement (.vadd h o) :=
  of_pack 0x50 _ rfl rfl (by decide) (pack_reg o)
theorem vsub (h : Hdr) (o : RegOps) : Statement (.vsub h o) :=
  of_pack 0x51 _ rfl rfl (by decide) (pack_reg o)
theorem vmul (h : Hdr) (o : RegOps) : Statement (.vmul h o) :=
  of_pack 0x52 _ rfl rfl (by decide) (pack_reg o)
theorem vfma (h : Hdr) (o : RegOps) : Statement (.vfma h o) :=
  of_pack 0x53 _ rfl rfl (by decide) (pack_reg o)
theorem vmin (h : Hdr) (o : RegOps) : Statement (.vmin h o) :=
  of_pack 0x54 _ rfl rfl (by decide) (pack_reg o)
theorem vmax (h : Hdr) (o : RegOps) : Statement (.vmax h o) :=
  of_pack 0x55 _ rfl rfl (by decide) (pack_reg o)
theorem vsgn (h : Hdr) (o : RegOps) : Statement (.vsgn h o) :=
  of_pack 0x56 _ rfl rfl (by decide) (pack_reg o)
theorem vcmp (h : Hdr) (o : RegOps) : Statement (.vcmp h o) :=
  of_pack 0x57 _ rfl rfl (by decide) (pack_reg o)
theorem vsel (h : Hdr) (o : RegOps) : Statement (.vsel h o) :=
  of_pack 0x58 _ rfl rfl (by decide) (pack_reg o)
theorem vcvt (h : Hdr) (o : RegOps) : Statement (.vcvt h o) :=
  of_pack 0x59 _ rfl rfl (by decide) (pack_reg o)
theorem vquant (h : Hdr) (o : RegOps) : Statement (.vquant h o) :=
  of_pack 0x5A _ rfl rfl (by decide) (pack_reg o)
theorem vdeq (h : Hdr) (o : RegOps) : Statement (.vdeq h o) :=
  of_pack 0x5B _ rfl rfl (by decide) (pack_reg o)
theorem vexp2 (h : Hdr) (o : RegOps) : Statement (.vexp2 h o) :=
  of_pack 0x5C _ rfl rfl (by decide) (pack_reg o)
theorem vlog2 (h : Hdr) (o : RegOps) : Statement (.vlog2 h o) :=
  of_pack 0x5D _ rfl rfl (by decide) (pack_reg o)
theorem vrcp (h : Hdr) (o : RegOps) : Statement (.vrcp h o) :=
  of_pack 0x5E _ rfl rfl (by decide) (pack_reg o)
theorem vrsq (h : Hdr) (o : RegOps) : Statement (.vrsq h o) :=
  of_pack 0x5F _ rfl rfl (by decide) (pack_reg o)
theorem vtanh (h : Hdr) (o : RegOps) : Statement (.vtanh h o) :=
  of_pack 0x60 _ rfl rfl (by decide) (pack_reg o)
theorem vred (h : Hdr) (o : RegOps) : Statement (.vred h o) :=
  of_pack 0x61 _ rfl rfl (by decide) (pack_reg o)
theorem vscan (h : Hdr) (o : RegOps) : Statement (.vscan h o) :=
  of_pack 0x62 _ rfl rfl (by decide) (pack_reg o)
theorem vperm (h : Hdr) (o : RegOps) : Statement (.vperm h o) :=
  of_pack 0x63 _ rfl rfl (by decide) (pack_reg o)
theorem vbcast (h : Hdr) (o : RegOps) : Statement (.vbcast h o) :=
  of_pack 0x64 _ rfl rfl (by decide) (pack_reg o)
theorem vslide (h : Hdr) (o : RegOps) : Statement (.vslide h o) :=
  of_pack 0x65 _ rfl rfl (by decide) (pack_reg o)
theorem viadd (h : Hdr) (o : RegOps) : Statement (.viadd h o) :=
  of_pack 0x66 _ rfl rfl (by decide) (pack_reg o)
theorem visub (h : Hdr) (o : RegOps) : Statement (.visub h o) :=
  of_pack 0x67 _ rfl rfl (by decide) (pack_reg o)
theorem vimul (h : Hdr) (o : RegOps) : Statement (.vimul h o) :=
  of_pack 0x68 _ rfl rfl (by decide) (pack_reg o)
theorem vimnx (h : Hdr) (o : RegOps) : Statement (.vimnx h o) :=
  of_pack 0x69 _ rfl rfl (by decide) (pack_reg o)
theorem vand (h : Hdr) (o : RegOps) : Statement (.vand h o) :=
  of_pack 0x6A _ rfl rfl (by decide) (pack_reg o)
theorem vor (h : Hdr) (o : RegOps) : Statement (.vor h o) :=
  of_pack 0x6B _ rfl rfl (by decide) (pack_reg o)
theorem vxor (h : Hdr) (o : RegOps) : Statement (.vxor h o) :=
  of_pack 0x6C _ rfl rfl (by decide) (pack_reg o)
theorem vshl (h : Hdr) (o : RegOps) : Statement (.vshl h o) :=
  of_pack 0x6D _ rfl rfl (by decide) (pack_reg o)
theorem vshr (h : Hdr) (o : RegOps) : Statement (.vshr h o) :=
  of_pack 0x6E _ rfl rfl (by decide) (pack_reg o)
theorem vmov (h : Hdr) (o : RegOps) : Statement (.vmov h o) :=
  of_pack 0x6F _ rfl rfl (by decide) (pack_reg o)
theorem viota (h : Hdr) (o : RegOps) : Statement (.viota h o) :=
  of_pack 0x70 _ rfl rfl (by decide) (pack_reg o)
theorem vextr (h : Hdr) (o : RegOps) : Statement (.vextr h o) :=
  of_pack 0x71 _ rfl rfl (by decide) (pack_reg o)
theorem vins (h : Hdr) (o : RegOps) : Statement (.vins h o) :=
  of_pack 0x72 _ rfl rfl (by decide) (pack_reg o)
theorem vcomp (h : Hdr) (o : RegOps) : Statement (.vcomp h o) :=
  of_pack 0x73 _ rfl rfl (by decide) (pack_reg o)
theorem vexpd (h : Hdr) (o : RegOps) : Statement (.vexpd h o) :=
  of_pack 0x74 _ rfl rfl (by decide) (pack_reg o)
theorem vpack (h : Hdr) (o : RegOps) : Statement (.vpack h o) :=
  of_pack 0x75 _ rfl rfl (by decide) (pack_reg o)
theorem vunpk (h : Hdr) (o : RegOps) : Statement (.vunpk h o) :=
  of_pack 0x76 _ rfl rfl (by decide) (pack_reg o)
theorem vclamp (h : Hdr) (o : RegOps) : Statement (.vclamp h o) :=
  of_pack 0x77 _ rfl rfl (by decide) (pack_reg o)
theorem vcprs (h : Hdr) (o : RegOps) : Statement (.vcprs h o) :=
  of_pack 0x78 _ rfl rfl (by decide) (pack_reg o)
theorem vosm (h : Hdr) (o : RegOps) : Statement (.vosm h o) :=
  of_pack 0x79 _ rfl rfl (by decide) (pack_reg o)
theorem vld (h : Hdr) (o : MemOps) : Statement (.vld h o) :=
  of_pack 0x80 _ rfl rfl (by decide) (pack_mem o)
theorem vst (h : Hdr) (o : MemOps) : Statement (.vst h o) :=
  of_pack 0x81 _ rfl rfl (by decide) (pack_mem o)
theorem vldx (h : Hdr) (o : MemOps) : Statement (.vldx h o) :=
  of_pack 0x82 _ rfl rfl (by decide) (pack_mem o)
theorem vstx (h : Hdr) (o : MemOps) : Statement (.vstx h o) :=
  of_pack 0x83 _ rfl rfl (by decide) (pack_mem o)
theorem vldb (h : Hdr) (o : MemOps) : Statement (.vldb h o) :=
  of_pack 0x84 _ rfl rfl (by decide) (pack_mem o)
theorem lds (h : Hdr) (o : MemOps) : Statement (.lds h o) :=
  of_pack 0x85 _ rfl rfl (by decide) (pack_mem o)
theorem sts (h : Hdr) (o : MemOps) : Statement (.sts h o) :=
  of_pack 0x86 _ rfl rfl (by decide) (pack_mem o)
theorem vldg (h : Hdr) (o : MemOps) : Statement (.vldg h o) :=
  of_pack 0x87 _ rfl rfl (by decide) (pack_mem o)
theorem vstg (h : Hdr) (o : MemOps) : Statement (.vstg h o) :=
  of_pack 0x88 _ rfl rfl (by decide) (pack_mem o)
theorem vgath (h : Hdr) (o : MemOps) : Statement (.vgath h o) :=
  of_pack 0x89 _ rfl rfl (by decide) (pack_mem o)
theorem vscat (h : Hdr) (o : MemOps) : Statement (.vscat h o) :=
  of_pack 0x8A _ rfl rfl (by decide) (pack_mem o)
theorem prfg (h : Hdr) (o : MemOps) : Statement (.prfg h o) :=
  of_pack 0x8B _ rfl rfl (by decide) (pack_mem o)
theorem ld (h : Hdr) (o : MemOps) : Statement (.ld h o) :=
  of_pack 0x90 _ rfl rfl (by decide) (pack_mem o)
theorem st (h : Hdr) (o : MemOps) : Statement (.st h o) :=
  of_pack 0x91 _ rfl rfl (by decide) (pack_mem o)
theorem atom (h : Hdr) (o : MemOps) : Statement (.atom h o) :=
  of_pack 0x92 _ rfl rfl (by decide) (pack_mem o)
theorem redm (h : Hdr) (o : MemOps) : Statement (.redm h o) :=
  of_pack 0x93 _ rfl rfl (by decide) (pack_mem o)
theorem vatom (h : Hdr) (o : MemOps) : Statement (.vatom h o) :=
  of_pack 0x94 _ rfl rfl (by decide) (pack_mem o)
theorem vredm (h : Hdr) (o : MemOps) : Statement (.vredm h o) :=
  of_pack 0x95 _ rfl rfl (by decide) (pack_mem o)
theorem waita (h : Hdr) (o : MemOps) : Statement (.waita h o) :=
  of_pack 0x96 _ rfl rfl (by decide) (pack_mem o)
theorem fence (h : Hdr) (o : MemOps) : Statement (.fence h o) :=
  of_pack 0x97 _ rfl rfl (by decide) (pack_mem o)
theorem bind (h : Hdr) (o : RegOps) : Statement (.bind h o) :=
  of_pack 0x98 _ rfl rfl (by decide) (pack_reg o)
theorem unbind (h : Hdr) (o : RegOps) : Statement (.unbind h o) :=
  of_pack 0x99 _ rfl rfl (by decide) (pack_reg o)
theorem cinv (h : Hdr) (o : MemOps) : Statement (.cinv h o) :=
  of_pack 0x9A _ rfl rfl (by decide) (pack_mem o)
theorem mzero (h : Hdr) (o : MatOps) : Statement (.mzero h o) :=
  of_pack 0xA0 _ rfl rfl (by decide) (pack_mat o)
theorem mma (h : Hdr) (o : MatOps) : Statement (.mma h o) :=
  of_pack 0xA1 _ rfl rfl (by decide) (pack_mat o)
theorem mld (h : Hdr) (o : MatOps) : Statement (.mld h o) :=
  of_pack 0xA2 _ rfl rfl (by decide) (pack_mat o)
theorem mst (h : Hdr) (o : MatOps) : Statement (.mst h o) :=
  of_pack 0xA3 _ rfl rfl (by decide) (pack_mat o)
theorem mldt (h : Hdr) (o : MatOps) : Statement (.mldt h o) :=
  of_pack 0xA4 _ rfl rfl (by decide) (pack_mat o)
theorem lutmv (h : Hdr) (o : MatOps) : Statement (.lutmv h o) :=
  of_pack 0xA5 _ rfl rfl (by decide) (pack_mat o)
theorem lutld (h : Hdr) (o : MatOps) : Statement (.lutld h o) :=
  of_pack 0xA6 _ rfl rfl (by decide) (pack_mat o)
theorem macc (h : Hdr) (o : MatOps) : Statement (.macc h o) :=
  of_pack 0xA7 _ rfl rfl (by decide) (pack_mat o)
theorem mred (h : Hdr) (o : MatOps) : Statement (.mred h o) :=
  of_pack 0xA8 _ rfl rfl (by decide) (pack_mat o)
theorem mrow (h : Hdr) (o : MatOps) : Statement (.mrow h o) :=
  of_pack 0xA9 _ rfl rfl (by decide) (pack_mat o)
theorem copy (h : Hdr) (o : EngOps) : Statement (.copy h o) :=
  of_pack 0xB0 _ rfl rfl (by decide) (pack_eng o)
theorem copyt (h : Hdr) (o : EngOps) : Statement (.copyt h o) :=
  of_pack 0xB1 _ rfl rfl (by decide) (pack_eng o)
theorem fill (h : Hdr) (o : EngOps) : Statement (.fill h o) :=
  of_pack 0xB2 _ rfl rfl (by decide) (pack_eng o)
theorem qcvt (h : Hdr) (o : EngOps) : Statement (.qcvt h o) :=
  of_pack 0xB3 _ rfl rfl (by decide) (pack_eng o)
theorem plane (h : Hdr) (o : EngOps) : Statement (.plane h o) :=
  of_pack 0xB4 _ rfl rfl (by decide) (pack_eng o)
theorem pref (h : Hdr) (o : EngOps) : Statement (.pref h o) :=
  of_pack 0xBC _ rfl rfl (by decide) (pack_eng o)
theorem waitc (h : Hdr) (o : RegOps) : Statement (.waitc h o) :=
  of_pack 0xB5 _ rfl rfl (by decide) (pack_reg o)
theorem testc (h : Hdr) (o : RegOps) : Statement (.testc h o) :=
  of_pack 0xB6 _ rfl rfl (by decide) (pack_reg o)
theorem testcQ (h : Hdr) (o : RegOps) : Statement (.testcQ h o) :=
  of_pack 0xB6 _ rfl rfl (by decide) (pack_reg o)
theorem cset (h : Hdr) (o : RegOps) : Statement (.cset h o) :=
  of_pack 0xB7 _ rfl rfl (by decide) (pack_reg o)
theorem edep (h : Hdr) (o : RegOps) : Statement (.edep h o) :=
  of_pack 0xB8 _ rfl rfl (by decide) (pack_reg o)
theorem fsend (h : Hdr) (o : EngOps) : Statement (.fsend h o) :=
  of_pack 0xB9 _ rfl rfl (by decide) (pack_eng o)
theorem frecv (h : Hdr) (o : EngOps) : Statement (.frecv h o) :=
  of_pack 0xBA _ rfl rfl (by decide) (pack_eng o)
theorem fcoll (h : Hdr) (o : EngOps) : Statement (.fcoll h o) :=
  of_pack 0xBB _ rfl rfl (by decide) (pack_eng o)
theorem enq (h : Hdr) (o : RegOps) : Statement (.enq h o) :=
  of_pack 0xC0 _ rfl rfl (by decide) (pack_reg o)
theorem deq (h : Hdr) (o : RegOps) : Statement (.deq h o) :=
  of_pack 0xC1 _ rfl rfl (by decide) (pack_reg o)
theorem rodinit (h : Hdr) (o : RegOps) : Statement (.rodinit h o) :=
  of_pack 0xC2 _ rfl rfl (by decide) (pack_reg o)
theorem rodqry (h : Hdr) (o : RegOps) : Statement (.rodqry h o) :=
  of_pack 0xC3 _ rfl rfl (by decide) (pack_reg o)
theorem rodclose (h : Hdr) (o : RegOps) : Statement (.rodclose h o) :=
  of_pack 0xC4 _ rfl rfl (by decide) (pack_reg o)
theorem rodadmDrain (h : Hdr) (o : SysOps) : Statement (.rodadmDrain h o) :=
  of_pack 0xEB _ rfl rfl (by decide) (pack_sys o)
theorem rodadmReopen (h : Hdr) (o : SysOps) : Statement (.rodadmReopen h o) :=
  of_pack 0xEB _ rfl rfl (by decide) (pack_sys o)
theorem rodadmRepair (h : Hdr) (o : SysOps) : Statement (.rodadmRepair h o) :=
  of_pack 0xEB _ rfl rfl (by decide) (pack_sys o)
theorem rodadmRetire (h : Hdr) (o : SysOps) : Statement (.rodadmRetire h o) :=
  of_pack 0xEB _ rfl rfl (by decide) (pack_sys o)
theorem barW (h : Hdr) (o : RegOps) : Statement (.barW h o) :=
  of_pack 0xC5 _ rfl rfl (by decide) (pack_reg o)
theorem barArr (h : Hdr) (o : RegOps) : Statement (.barArr h o) :=
  of_pack 0xC5 _ rfl rfl (by decide) (pack_reg o)
theorem barWt (h : Hdr) (o : RegOps) : Statement (.barWt h o) :=
  of_pack 0xC5 _ rfl rfl (by decide) (pack_reg o)
theorem barInit (h : Hdr) (o : RegOps) : Statement (.barInit h o) :=
  of_pack 0xC5 _ rfl rfl (by decide) (pack_reg o)
theorem slinit (h : Hdr) (o : RegOps) : Statement (.slinit h o) :=
  of_pack 0xC9 _ rfl rfl (by decide) (pack_reg o)
theorem slacqRd (h : Hdr) (o : RegOps) : Statement (.slacqRd h o) :=
  of_pack 0xC7 _ rfl rfl (by decide) (pack_reg o)
theorem slacqWr (h : Hdr) (o : RegOps) : Statement (.slacqWr h o) :=
  of_pack 0xC7 _ rfl rfl (by decide) (pack_reg o)
theorem slpub (h : Hdr) (o : RegOps) : Statement (.slpub h o) :=
  of_pack 0xC6 _ rfl rfl (by decide) (pack_reg o)
theorem slrel (h : Hdr) (o : RegOps) : Statement (.slrel h o) :=
  of_pack 0xC8 _ rfl rfl (by decide) (pack_reg o)
theorem sqget (h : Hdr) (o : RegOps) : Statement (.sqget h o) :=
  of_pack 0xD0 _ rfl rfl (by decide) (pack_reg o)
theorem sqaccQ (h : Hdr) (o : RegOps) : Statement (.sqaccQ h o) :=
  of_pack 0xD1 _ rfl rfl (by decide) (pack_reg o)
theorem sqaccP (h : Hdr) (o : RegOps) : Statement (.sqaccP h o) :=
  of_pack 0xD1 _ rfl rfl (by decide) (pack_reg o)
theorem sqcommit (h : Hdr) (o : RegOps) : Statement (.sqcommit h o) :=
  of_pack 0xD2 _ rfl rfl (by decide) (pack_reg o)
theorem sqparkAdmit (h : Hdr) (o : RegOps) : Statement (.sqparkAdmit h o) :=
  of_pack 0xD3 _ rfl rfl (by decide) (pack_reg o)
theorem sqparkImport (h : Hdr) (o : RegOps) : Statement (.sqparkImport h o) :=
  of_pack 0xD3 _ rfl rfl (by decide) (pack_reg o)
theorem sqparkPark (h : Hdr) (o : RegOps) : Statement (.sqparkPark h o) :=
  of_pack 0xD3 _ rfl rfl (by decide) (pack_reg o)
theorem sqparkAbort (h : Hdr) (o : RegOps) : Statement (.sqparkAbort h o) :=
  of_pack 0xD3 _ rfl rfl (by decide) (pack_reg o)
theorem sqparkResume (h : Hdr) (o : RegOps) : Statement (.sqparkResume h o) :=
  of_pack 0xD3 _ rfl rfl (by decide) (pack_reg o)
theorem sqparkMigout (h : Hdr) (o : RegOps) : Statement (.sqparkMigout h o) :=
  of_pack 0xD3 _ rfl rfl (by decide) (pack_reg o)
theorem sqparkMigdone (h : Hdr) (o : RegOps) : Statement (.sqparkMigdone h o) :=
  of_pack 0xD3 _ rfl rfl (by decide) (pack_reg o)
theorem sqparkMigabort (h : Hdr) (o : RegOps) : Statement (.sqparkMigabort h o) :=
  of_pack 0xD3 _ rfl rfl (by decide) (pack_reg o)
theorem sqparkRetire (h : Hdr) (o : RegOps) : Statement (.sqparkRetire h o) :=
  of_pack 0xD3 _ rfl rfl (by decide) (pack_reg o)
theorem sqparkPreempt (h : Hdr) (o : RegOps) : Statement (.sqparkPreempt h o) :=
  of_pack 0xD3 _ rfl rfl (by decide) (pack_reg o)
theorem kvmap (h : Hdr) (o : RegOps) : Statement (.kvmap h o) :=
  of_pack 0xD4 _ rfl rfl (by decide) (pack_reg o)
theorem kvunpin (h : Hdr) (o : RegOps) : Statement (.kvunpin h o) :=
  of_pack 0xD5 _ rfl rfl (by decide) (pack_reg o)
theorem kvapp (h : Hdr) (o : EngOps) : Statement (.kvapp h o) :=
  of_pack 0xD6 _ rfl rfl (by decide) (pack_eng o)
theorem pfxlk (h : Hdr) (o : RegOps) : Statement (.pfxlk h o) :=
  of_pack 0xD7 _ rfl rfl (by decide) (pack_reg o)
theorem pfxins (h : Hdr) (o : RegOps) : Statement (.pfxins h o) :=
  of_pack 0xD8 _ rfl rfl (by decide) (pack_reg o)
theorem pfxrel (h : Hdr) (o : RegOps) : Statement (.pfxrel h o) :=
  of_pack 0xD9 _ rfl rfl (by decide) (pack_reg o)
theorem psel (h : Hdr) (o : EngOps) : Statement (.psel h o) :=
  of_pack 0xDA _ rfl rfl (by decide) (pack_eng o)
theorem sample (h : Hdr) (o : RegOps) : Statement (.sample h o) :=
  of_pack 0xDB _ rfl rfl (by decide) (pack_reg o)
theorem rngdraw (h : Hdr) (o : RegOps) : Statement (.rngdraw h o) :=
  of_pack 0xDC _ rfl rfl (by decide) (pack_reg o)
theorem btinv (h : Hdr) (o : SysOps) : Statement (.btinv h o) :=
  of_pack 0xE7 _ rfl rfl (by decide) (pack_sys o)
theorem pfxadmInit (h : Hdr) (o : SysOps) : Statement (.pfxadmInit h o) :=
  of_pack 0xEA _ rfl rfl (by decide) (pack_sys o)
theorem pfxadmDemote (h : Hdr) (o : SysOps) : Statement (.pfxadmDemote h o) :=
  of_pack 0xEA _ rfl rfl (by decide) (pack_sys o)
theorem pfxadmPromote (h : Hdr) (o : SysOps) : Statement (.pfxadmPromote h o) :=
  of_pack 0xEA _ rfl rfl (by decide) (pack_sys o)
theorem pfxadmEvict (h : Hdr) (o : SysOps) : Statement (.pfxadmEvict h o) :=
  of_pack 0xEA _ rfl rfl (by decide) (pack_sys o)
theorem pfxadmFlush (h : Hdr) (o : SysOps) : Statement (.pfxadmFlush h o) :=
  of_pack 0xEA _ rfl rfl (by decide) (pack_sys o)
theorem mfc (h : Hdr) (o : SysOps) : Statement (.mfc h o) :=
  of_pack 0xE0 _ rfl rfl (by decide) (pack_sys o)
theorem mtc (h : Hdr) (o : SysOps) : Statement (.mtc h o) :=
  of_pack 0xE1 _ rfl rfl (by decide) (pack_sys o)
theorem eret (h : Hdr) (o : SysOps) : Statement (.eret h o) :=
  of_pack 0xE2 _ rfl rfl (by decide) (pack_sys o)
theorem ctxsw (h : Hdr) (o : SysOps) : Statement (.ctxsw h o) :=
  of_pack 0xE3 _ rfl rfl (by decide) (pack_sys o)
theorem ctxspill (h : Hdr) (o : SysOps) : Statement (.ctxspill h o) :=
  of_pack 0xE4 _ rfl rfl (by decide) (pack_sys o)
theorem ctxspillKill (h : Hdr) (o : SysOps) : Statement (.ctxspillKill h o) :=
  of_pack 0xE4 _ rfl rfl (by decide) (pack_sys o)
theorem ctxfill (h : Hdr) (o : SysOps) : Statement (.ctxfill h o) :=
  of_pack 0xE5 _ rfl rfl (by decide) (pack_sys o)
theorem ctxfillResume (h : Hdr) (o : SysOps) : Statement (.ctxfillResume h o) :=
  of_pack 0xE5 _ rfl rfl (by decide) (pack_sys o)
theorem waiti (h : Hdr) (o : SysOps) : Statement (.waiti h o) :=
  of_pack 0xE8 _ rfl rfl (by decide) (pack_sys o)
theorem tlbinvVa (h : Hdr) (o : SysOps) : Statement (.tlbinvVa h o) :=
  of_pack 0xE6 _ rfl rfl (by decide) (pack_sys o)
theorem tlbinvAsid (h : Hdr) (o : SysOps) : Statement (.tlbinvAsid h o) :=
  of_pack 0xE6 _ rfl rfl (by decide) (pack_sys o)
theorem tlbinvAll (h : Hdr) (o : SysOps) : Statement (.tlbinvAll h o) :=
  of_pack 0xE6 _ rfl rfl (by decide) (pack_sys o)
theorem tlbinvBind (h : Hdr) (o : SysOps) : Statement (.tlbinvBind h o) :=
  of_pack 0xE6 _ rfl rfl (by decide) (pack_sys o)
theorem tlbinvUnbind (h : Hdr) (o : SysOps) : Statement (.tlbinvUnbind h o) :=
  of_pack 0xE6 _ rfl rfl (by decide) (pack_sys o)
theorem tlbinvInit (h : Hdr) (o : SysOps) : Statement (.tlbinvInit h o) :=
  of_pack 0xE6 _ rfl rfl (by decide) (pack_sys o)
theorem migrMove (h : Hdr) (o : SysOps) : Statement (.migrMove h o) :=
  of_pack 0xE9 _ rfl rfl (by decide) (pack_sys o)
theorem migrCnt (h : Hdr) (o : SysOps) : Statement (.migrCnt h o) :=
  of_pack 0xE9 _ rfl rfl (by decide) (pack_sys o)
theorem migrRetry (h : Hdr) (o : SysOps) : Statement (.migrRetry h o) :=
  of_pack 0xE9 _ rfl rfl (by decide) (pack_sys o)
theorem migrInit (h : Hdr) (o : SysOps) : Statement (.migrInit h o) :=
  of_pack 0xE9 _ rfl rfl (by decide) (pack_sys o)
theorem monrdTemp (h : Hdr) (o : SysOps) : Statement (.monrdTemp h o) :=
  of_pack 0xEC _ rfl rfl (by decide) (pack_sys o)
theorem monrdVolt (h : Hdr) (o : SysOps) : Statement (.monrdVolt h o) :=
  of_pack 0xEC _ rfl rfl (by decide) (pack_sys o)
theorem monrdProc (h : Hdr) (o : SysOps) : Statement (.monrdProc h o) :=
  of_pack 0xEC _ rfl rfl (by decide) (pack_sys o)
theorem monrdSlow (h : Hdr) (o : SysOps) : Statement (.monrdSlow h o) :=
  of_pack 0xEC _ rfl rfl (by decide) (pack_sys o)
theorem monrdWear (h : Hdr) (o : SysOps) : Statement (.monrdWear h o) :=
  of_pack 0xEC _ rfl rfl (by decide) (pack_sys o)
theorem monrdPlace (h : Hdr) (o : SysOps) : Statement (.monrdPlace h o) :=
  of_pack 0xEC _ rfl rfl (by decide) (pack_sys o)
theorem monrdRev (h : Hdr) (o : SysOps) : Statement (.monrdRev h o) :=
  of_pack 0xEC _ rfl rfl (by decide) (pack_sys o)
theorem overlayFillComplete : Statement .overlayFillComplete := of_event rfl
theorem engineCommandStart : Statement .engineCommandStart := of_event rfl
theorem relocSteal : Statement .relocSteal := of_event rfl
theorem engineCommandComplete : Statement .engineCommandComplete := of_event rfl
theorem engineTranslationFault : Statement .engineTranslationFault := of_event rfl
theorem fcollMemberReport : Statement .fcollMemberReport := of_event rfl
theorem fcollDecision : Statement .fcollDecision := of_event rfl
theorem fcollRtoExpiry : Statement .fcollRtoExpiry := of_event rfl
theorem fcollHomeSilentExpiry : Statement .fcollHomeSilentExpiry := of_event rfl
theorem rodCommit : Statement .rodCommit := of_event rfl
theorem rodWaitCancel : Statement .rodWaitCancel := of_event rfl
theorem waitTableRetry : Statement .waitTableRetry := of_event rfl
theorem commitComplete : Statement .commitComplete := of_event rfl
theorem completionRecordPost : Statement .completionRecordPost := of_event rfl
theorem deferredBeadEnqueue : Statement .deferredBeadEnqueue := of_event rfl
theorem draftShareApply : Statement .draftShareApply := of_event rfl
theorem kvappEntryUpdate : Statement .kvappEntryUpdate := of_event rfl
theorem btinvSignal : Statement .btinvSignal := of_event rfl
theorem timer : Statement .timer := of_event rfl
theorem laneDeadlock : Statement .laneDeadlock := of_event rfl
theorem contextFaultEnd : Statement .contextFaultEnd := of_event rfl
theorem contextComplete : Statement .contextComplete := of_event rfl
theorem placePoint : Statement .placePoint := of_event rfl
theorem nestComplete : Statement .nestComplete := of_event rfl
theorem launchNest : Statement .launchNest := of_event rfl
theorem partcfg : Statement .partcfg := of_event rfl
theorem vifcfg : Statement .vifcfg := of_event rfl
theorem groupcfgForm : Statement .groupcfgForm := of_event rfl
theorem groupcfgFree : Statement .groupcfgFree := of_event rfl
theorem groupFormed : Statement .groupFormed := of_event rfl
theorem groupFormTimeout : Statement .groupFormTimeout := of_event rfl
theorem bankSwap : Statement .bankSwap := of_event rfl
theorem quantumExpiry : Statement .quantumExpiry := of_event rfl
theorem backgroundSpillDone : Statement .backgroundSpillDone := of_event rfl
theorem wakeNotice : Statement .wakeNotice := of_event rfl
theorem wakeFallbackExpiry : Statement .wakeFallbackExpiry := of_event rfl
theorem splitApply : Statement .splitApply := of_event rfl
theorem lwin : Statement .lwin := of_event rfl
theorem cwin : Statement .cwin := of_event rfl
theorem hostRegisterWrite : Statement .hostRegisterWrite := of_event rfl
theorem functionReset : Statement .functionReset := of_event rfl
theorem completionTimerExpiry : Statement .completionTimerExpiry := of_event rfl
theorem atsInvalidation : Statement .atsInvalidation := of_event rfl
theorem pageRequestResponse : Statement .pageRequestResponse := of_event rfl
theorem flitReplay : Statement .flitReplay := of_event rfl
theorem meshLinkFailure : Statement .meshLinkFailure := of_event rfl
theorem scaleoutLaneFailure : Statement .scaleoutLaneFailure := of_event rfl
theorem vbusWireFault : Statement .vbusWireFault := of_event rfl
theorem quiesce : Statement .quiesce := of_event rfl
theorem monitorSample : Statement .monitorSample := of_event rfl
theorem thermalCapStep : Statement .thermalCapStep := of_event rfl
theorem powerSample : Statement .powerSample := of_event rfl
theorem wearFlush : Statement .wearFlush := of_event rfl
theorem moduleReset : Statement .moduleReset := of_event rfl
theorem bootStage : Statement .bootStage := of_event rfl
theorem getVersion : Statement .getVersion := of_event rfl
theorem getCapabilities : Statement .getCapabilities := of_event rfl
theorem negotiateAlgorithms : Statement .negotiateAlgorithms := of_event rfl
theorem getDigests : Statement .getDigests := of_event rfl
theorem getCertificate : Statement .getCertificate := of_event rfl
theorem challenge : Statement .challenge := of_event rfl
theorem getMeasurements : Statement .getMeasurements := of_event rfl
theorem globalWritePerformed : Statement .globalWritePerformed := of_event rfl
theorem accumulatorWriteLands : Statement .accumulatorWriteLands := of_event rfl
theorem hostMemoryWrite : Statement .hostMemoryWrite := of_event rfl
theorem hostMemoryRead : Statement .hostMemoryRead := of_event rfl
theorem hostDoorbell : Statement .hostDoorbell := of_event rfl
theorem softError : Statement .softError := of_event rfl
theorem powerLoss : Statement .powerLoss := of_event rfl
theorem orderlyShutdown : Statement .orderlyShutdown := of_event rfl

end Sys2Proof.Laws.EncodedHeader
end

