-- ==== Sys2Proof/Tests/Slice0.lean ====
section
/-! SUPPORT. Tests. Words and results are written out from the tables of the spec. The last part shows, for every
obligation with hypotheses, concrete states and operands that meet the hypotheses of each of its clauses. -/

namespace Sys2Proof.Tests

open Sys2Proof Sys2Proof.Machine

set_option Elab.async false

/-! ### Decoding: a word of every instruction, field by field from R200, R203 and R210 -/

theorem test_decode_0x : ∀ p ∈ ([
    (0x2000000000000000, .nop ⟨.A, true, false, false, false, false, false, 0⟩ ⟨0, 0, 0, 0, 0, 0, 0, 0⟩),
    (0x20020000FD3EFEBE, .br ⟨.A, true, false, false, false, false, false, 0⟩ ⟨0, 0, 0, 0, 4248764094⟩),
    (0x20040FA21EBA56EF, .brc ⟨.A, true, false, false, false, false, false, 0⟩ ⟨31, 1, 0, 2, 515528431⟩),
    (0x200603E000000000, .brx ⟨.A, true, false, false, false, false, false, 0⟩ ⟨7, 3, 0, 0, 0⟩),
    (0x20080000FD3EFEBE, .call ⟨.A, true, false, false, false, false, false, 0⟩ ⟨0, 0, 0, 0, 4248764094⟩),
    (0x200A07E000000000, .callx ⟨.A, true, false, false, false, false, false, 0⟩ ⟨15, 3, 0, 0, 0⟩),
    (0x200C068000000000, .ret ⟨.A, true, false, false, false, false, false, 0⟩ ⟨13, 0, 0, 0, 0⟩),
    (0x000E11947CFAFB94, .loop ⟨.A, false, false, false, false, false, false, 0⟩ ⟨35, 0, 2, 4, 2096823188⟩),
    (0x2010000000000000, .sync ⟨.A, true, false, false, false, false, false, 0⟩ ⟨0, 0, 0, 0, 0, 0, 0, 0⟩),
    (0x2012000000000000, .endLane ⟨.A, true, false, false, false, false, false, 0⟩ ⟨0, 0, 0, 0, 0, 0, 0, 0⟩),
    (0x001400000000FD2F, .trap ⟨.A, false, false, false, false, false, false, 0⟩ ⟨0, 0, 64815⟩),
    (0x001600000000FD2F, .bkpt ⟨.A, false, false, false, false, false, false, 0⟩ ⟨0, 0, 64815⟩),
    (0x20180000FD3AFEB8, .stk ⟨.A, true, false, false, false, false, false, 0⟩ ⟨0, 0, 4248501944⟩),
    (0x201A002C480000C0, .ovl ⟨.A, true, false, false, false, false, false, 0⟩ ⟨0, 22, 9, 0, 0, 0, 3, 0⟩)] : List (Word × Instr)), decodeWord p.1 = .ok p.2 := by decide +kernel

theorem test_decode_1x : ∀ p ∈ ([
    (0xB621E916E8070001, .add ⟨.C, true, true, false, true, true, true, 7⟩ ⟨18, 11, 29, 0, 7, 0, 0, 1⟩),
    (0xAE234790D8070001, .sub ⟨.C, true, false, true, true, true, true, 2⟩ ⟨15, 8, 27, 0, 7, 0, 0, 1⟩),
    (0xA425E60B6C89FA84, .addi ⟨.C, true, false, false, true, false, true, 7⟩ ⟨12, 5, 6115949188⟩),
    (0xAC27ED9CF0070001, .mul ⟨.C, true, false, true, true, false, true, 7⟩ ⟨27, 14, 30, 0, 7, 0, 0, 1⟩),
    (0xA4296D2C38070000, .mulh ⟨.C, true, false, false, true, false, true, 3⟩ ⟨26, 22, 7, 0, 7, 0, 0, 0⟩),
    (0xA42B6D2E38050000, .div ⟨.C, true, false, false, true, false, true, 3⟩ ⟨26, 23, 7, 0, 5, 0, 0, 0⟩),
    (0xA42D6D2C38070000, .rem ⟨.C, true, false, false, true, false, true, 3⟩ ⟨26, 22, 7, 0, 7, 0, 0, 0⟩),
    (0xEE2E05ACB0000000, .and ⟨.S, true, false, true, true, true, false, 0⟩ ⟨11, 22, 22, 0, 0, 0, 0, 0⟩),
    (0xEE3005ACB0000000, .or ⟨.S, true, false, true, true, true, false, 0⟩ ⟨11, 22, 22, 0, 0, 0, 0, 0⟩),
    (0xEE3205ACB0000000, .xor ⟨.S, true, false, true, true, true, false, 0⟩ ⟨11, 22, 22, 0, 0, 0, 0, 0⟩),
    (0xEE3405ACB0000000, .andn ⟨.S, true, false, true, true, true, false, 0⟩ ⟨11, 22, 22, 0, 0, 0, 0, 0⟩),
    (0x8E37E71298060000, .shl ⟨.C, false, false, true, true, true, true, 7⟩ ⟨14, 9, 19, 0, 6, 0, 0, 0⟩),
    (0x8439AD2F38070000, .shr ⟨.C, false, false, false, true, false, true, 5⟩ ⟨26, 23, 39, 0, 7, 0, 0, 0⟩),
    (0xAE3B079518070000, .sar ⟨.C, true, false, true, true, true, true, 0⟩ ⟨15, 10, 35, 0, 7, 0, 0, 0⟩),
    (0xAE3DE614A8070000, .rotr ⟨.C, true, false, true, true, true, true, 7⟩ ⟨12, 10, 21, 0, 7, 0, 0, 0⟩),
    (0xAC3FE50E00050000, .clz ⟨.C, true, false, true, true, false, true, 7⟩ ⟨10, 7, 0, 0, 5, 0, 0, 0⟩)] : List (Word × Instr)), decodeWord p.1 = .ok p.2 := by decide +kernel

theorem test_decode_2x : ∀ p ∈ ([
    (0xAC41E50E00050000, .popc ⟨.C, true, false, true, true, false, true, 7⟩ ⟨10, 7, 0, 0, 5, 0, 0, 0⟩),
    (0xA4436D2E38050000, .min ⟨.C, true, false, false, true, false, true, 3⟩ ⟨26, 23, 7, 0, 5, 0, 0, 0⟩),
    (0xB245ED06B8070000, .max ⟨.C, true, true, false, false, true, true, 7⟩ ⟨26, 3, 23, 0, 7, 0, 0, 0⟩),
    (0xAE47E614A8060140, .cmp ⟨.C, true, false, true, true, true, true, 7⟩ ⟨12, 10, 21, 0, 6, 0, 5, 0⟩),
    (0xA6486CBCBAA00000, .sel ⟨.C, true, false, false, true, true, false, 3⟩ ⟨25, 30, 23, 21, 0, 0, 0, 0⟩),
    (0xA44BE6016C91FA8C, .li ⟨.C, true, false, false, true, false, true, 7⟩ ⟨12, 0, 6116473484⟩),
    (0xA44CE60A6C98FA94, .lih ⟨.C, true, false, false, true, false, false, 7⟩ ⟨12, 5, 1821964948⟩),
    (0xEE4E05AC00000000, .mov ⟨.S, true, false, true, true, true, false, 0⟩ ⟨11, 22, 0, 0, 0, 0, 0, 0⟩),
    (0x8E51EE14000019CB, .bfx ⟨.C, false, false, true, true, true, true, 7⟩ ⟨28, 10, 0, 0, 0, 0, 103, 11⟩),
    (0xBC53EC145800038B, .bfi ⟨.C, true, true, true, true, false, true, 7⟩ ⟨24, 10, 11, 0, 0, 0, 14, 11⟩),
    (0xAE55E310D0000180, .addx ⟨.C, true, false, true, true, true, true, 7⟩ ⟨6, 8, 26, 0, 0, 0, 6, 0⟩),
    (0xAC57E50C00070001, .abs ⟨.C, true, false, true, true, false, true, 7⟩ ⟨10, 6, 0, 0, 7, 0, 0, 1⟩),
    (0xA458E60A6C98FA94, .andi ⟨.C, true, false, false, true, false, false, 7⟩ ⟨12, 5, 1821964948⟩),
    (0x865A4E884A99FE81, .ori ⟨.C, false, false, false, true, true, false, 2⟩ ⟨29, 4, 1251606145⟩),
    (0x865C4E884A99FE81, .xori ⟨.C, false, false, false, true, true, false, 2⟩ ⟨29, 4, 1251606145⟩),
    (0x865E4E884A99FE80, .muli ⟨.C, false, false, false, true, true, false, 2⟩ ⟨29, 4, 1251606144⟩)] : List (Word × Instr)), decodeWord p.1 = .ok p.2 := by decide +kernel

theorem test_decode_3x : ∀ p ∈ ([
    (0xA860E4BCF80BC000, .fadd ⟨.C, true, false, true, false, false, false, 7⟩ ⟨9, 30, 31, 0, 11, 3, 0, 0⟩),
    (0xA4632D3EB80AC000, .fsub ⟨.C, true, false, false, true, false, true, 1⟩ ⟨26, 31, 23, 0, 10, 3, 0, 0⟩),
    (0xAE65C734680A8000, .fmul ⟨.C, true, false, true, true, true, true, 6⟩ ⟨14, 26, 13, 0, 10, 2, 0, 0⟩),
    (0xA4678ABC3B6A4000, .ffma ⟨.C, true, false, false, true, false, true, 4⟩ ⟨21, 30, 7, 27, 10, 1, 0, 0⟩),
    (0x86690F9EB80BC000, .fdiv ⟨.C, false, false, false, true, true, true, 0⟩ ⟨31, 15, 23, 0, 11, 3, 0, 0⟩),
    (0xAE6BA7A4000AC000, .fsqrt ⟨.C, true, false, true, true, true, true, 5⟩ ⟨15, 18, 0, 0, 10, 3, 0, 0⟩),
    (0xA46DED3E78090000, .fmin ⟨.C, true, false, false, true, false, true, 7⟩ ⟨26, 31, 15, 0, 9, 0, 0, 0⟩),
    (0x866FCF9C780B0000, .fmax ⟨.C, false, false, false, true, true, true, 6⟩ ⟨31, 14, 15, 0, 11, 0, 0, 0⟩),
    (0xAE7102B8E80B0180, .fcmp ⟨.C, true, false, true, true, true, true, 0⟩ ⟨5, 28, 29, 0, 11, 0, 6, 0⟩),
    (0x8E72AABE000B0341, .fcvt ⟨.C, false, false, true, true, true, false, 5⟩ ⟨21, 31, 0, 0, 11, 0, 13, 1⟩),
    (0xA475ED3A78090000, .fsgn ⟨.C, true, false, false, true, false, true, 7⟩ ⟨26, 29, 15, 0, 9, 0, 0, 0⟩),
    (0xB277CE36000C0000, .fclass ⟨.C, true, true, false, false, true, true, 6⟩ ⟨28, 27, 0, 0, 12, 0, 0, 0⟩),
    (0x9C79A8BC00000001, .fmvs ⟨.C, false, true, true, true, false, true, 5⟩ ⟨17, 30, 0, 0, 0, 0, 0, 1⟩),
    (0xB47A4E00FA8CA49C, .fli ⟨.C, true, true, false, true, false, false, 2⟩ ⟨28, 0, 4203521180⟩),
    (0x847DEDBC78E00000, .fsel ⟨.C, false, false, false, true, false, true, 7⟩ ⟨27, 30, 15, 7, 0, 0, 0, 0⟩)] : List (Word × Instr)), decodeWord p.1 = .ok p.2 := by decide +kernel

theorem test_decode_4x : ∀ p ∈ ([
    (0x9E81C20638000000, .pand ⟨.C, false, true, true, true, true, true, 6⟩ ⟨4, 3, 7, 0, 0, 0, 0, 0⟩),
    (0x9E83C20638000000, .por ⟨.C, false, true, true, true, true, true, 6⟩ ⟨4, 3, 7, 0, 0, 0, 0, 0⟩),
    (0x9E85C20638000000, .pxor ⟨.C, false, true, true, true, true, true, 6⟩ ⟨4, 3, 7, 0, 0, 0, 0, 0⟩),
    (0x9E87C20638000000, .pandn ⟨.C, false, true, true, true, true, true, 6⟩ ⟨4, 3, 7, 0, 0, 0, 0, 0⟩),
    (0xAE89A39400000080, .pset ⟨.C, true, false, true, true, true, true, 5⟩ ⟨7, 10, 0, 0, 0, 0, 2, 0⟩),
    (0xAE8BA78000000000, .psave ⟨.C, true, false, true, true, true, true, 5⟩ ⟨15, 0, 0, 0, 0, 0, 0, 0⟩),
    (0xBA8CE03400003E40, .prest ⟨.C, true, true, true, false, true, false, 7⟩ ⟨0, 26, 0, 0, 0, 0, 249, 0⟩),
    (0xAE8FA78400000080, .pqry ⟨.C, true, false, true, true, true, true, 5⟩ ⟨15, 2, 0, 0, 0, 0, 2, 0⟩),
    (0x8E91E01400000040, .xput ⟨.C, false, false, true, true, true, true, 7⟩ ⟨0, 10, 0, 0, 0, 0, 1, 0⟩),
    (0x8E93E60000000040, .xget ⟨.C, false, false, true, true, true, true, 7⟩ ⟨12, 0, 0, 0, 0, 0, 1, 0⟩),
    (0x8E97E60000000040, .rdcnt ⟨.C, false, false, true, true, true, true, 7⟩ ⟨12, 0, 0, 0, 0, 0, 1, 0⟩)] : List (Word × Instr)), decodeWord p.1 = .ok p.2 := by decide +kernel

theorem test_decode_5x : ∀ p ∈ ([
    (0xAEA1C584E80B8000, .vadd ⟨.C, true, false, true, true, true, true, 6⟩ ⟨11, 2, 29, 0, 11, 2, 0, 0⟩),
    (0xAEA3C73648094000, .vsub ⟨.C, true, false, true, true, true, true, 6⟩ ⟨14, 27, 9, 0, 9, 1, 0, 0⟩),
    (0xAEA5C736400A8000, .vmul ⟨.C, true, false, true, true, true, true, 6⟩ ⟨14, 27, 8, 0, 10, 2, 0, 0⟩),
    (0x86A72E3EBA0B8000, .vfma ⟨.C, false, false, false, true, true, true, 1⟩ ⟨28, 31, 23, 16, 11, 2, 0, 0⟩),
    (0xA4A9ED3E78090000, .vmin ⟨.C, true, false, false, true, false, true, 7⟩ ⟨26, 31, 15, 0, 9, 0, 0, 0⟩),
    (0xA4ABED3E78090000, .vmax ⟨.C, true, false, false, true, false, true, 7⟩ ⟨26, 31, 15, 0, 9, 0, 0, 0⟩),
    (0xA4ADED3E78090000, .vsgn ⟨.C, true, false, false, true, false, true, 7⟩ ⟨26, 31, 15, 0, 9, 0, 0, 0⟩),
    (0xAEAFE33A50050000, .vcmp ⟨.C, true, false, true, true, true, true, 7⟩ ⟨6, 29, 10, 0, 5, 0, 0, 0⟩),
    (0x86B1ECB65AED0000, .vsel ⟨.C, false, false, false, true, true, true, 7⟩ ⟨25, 27, 11, 23, 13, 0, 0, 0⟩),
    (0xB6B3CB36000DC2C5, .vcvt ⟨.C, true, true, false, true, true, true, 6⟩ ⟨22, 27, 0, 0, 13, 3, 11, 5⟩),
    (0x8AB5ECBC7AE00046, .vquant ⟨.C, false, false, true, false, true, true, 7⟩ ⟨25, 30, 15, 23, 0, 0, 1, 6⟩),
    (0xACB7E53C780A0004, .vdeq ⟨.C, true, false, true, true, false, true, 7⟩ ⟨10, 30, 15, 0, 10, 0, 0, 4⟩),
    (0x9CB9A8BE000A0000, .vexp2 ⟨.C, false, true, true, true, false, true, 5⟩ ⟨17, 31, 0, 0, 10, 0, 0, 0⟩),
    (0x9CBBA8BE000A0000, .vlog2 ⟨.C, false, true, true, true, false, true, 5⟩ ⟨17, 31, 0, 0, 10, 0, 0, 0⟩),
    (0x9CBDA8BE000A0000, .vrcp ⟨.C, false, true, true, true, false, true, 5⟩ ⟨17, 31, 0, 0, 10, 0, 0, 0⟩),
    (0x9CBFA8BE000A0000, .vrsq ⟨.C, false, true, true, true, false, true, 5⟩ ⟨17, 31, 0, 0, 10, 0, 0, 0⟩)] : List (Word × Instr)), decodeWord p.1 = .ok p.2 := by decide +kernel

theorem test_decode_6x : ∀ p ∈ ([
    (0x9CC1A8BE000A0000, .vtanh ⟨.C, false, true, true, true, false, true, 5⟩ ⟨17, 31, 0, 0, 10, 0, 0, 0⟩),
    (0xAEC3A33200030081, .vred ⟨.C, true, false, true, true, true, true, 5⟩ ⟨6, 25, 0, 0, 3, 0, 2, 1⟩),
    (0xAEC5A33200030081, .vscan ⟨.C, true, false, true, true, true, true, 5⟩ ⟨6, 25, 0, 0, 3, 0, 2, 1⟩),
    (0xA4C7ED3678090000, .vperm ⟨.C, true, false, false, true, false, true, 7⟩ ⟨26, 27, 15, 0, 9, 0, 0, 0⟩),
    (0xBAC9EC0E580C0080, .vbcast ⟨.C, true, true, true, false, true, true, 7⟩ ⟨24, 7, 11, 0, 12, 0, 2, 0⟩),
    (0x90CB4EBE79ED0000, .vslide ⟨.C, false, true, false, false, false, true, 2⟩ ⟨29, 31, 15, 15, 13, 0, 0, 0⟩),
    (0xACCDE53C78030000, .viadd ⟨.C, true, false, true, true, false, true, 7⟩ ⟨10, 30, 15, 0, 3, 0, 0, 0⟩),
    (0xACCFE53C78030000, .visub ⟨.C, true, false, true, true, false, true, 7⟩ ⟨10, 30, 15, 0, 3, 0, 0, 0⟩),
    (0xA4D1ED3E78010040, .vimul ⟨.C, true, false, false, true, false, true, 7⟩ ⟨26, 31, 15, 0, 1, 0, 1, 0⟩),
    (0xA4D3ED3E78010000, .vimnx ⟨.C, true, false, false, true, false, true, 7⟩ ⟨26, 31, 15, 0, 1, 0, 0, 0⟩),
    (0xA4D5ED3678090000, .vand ⟨.C, true, false, false, true, false, true, 7⟩ ⟨26, 27, 15, 0, 9, 0, 0, 0⟩),
    (0xA4D7ED3678090000, .vor ⟨.C, true, false, false, true, false, true, 7⟩ ⟨26, 27, 15, 0, 9, 0, 0, 0⟩),
    (0xA4D9ED3678090000, .vxor ⟨.C, true, false, false, true, false, true, 7⟩ ⟨26, 27, 15, 0, 9, 0, 0, 0⟩),
    (0xA4DBED3E78010000, .vshl ⟨.C, true, false, false, true, false, true, 7⟩ ⟨26, 31, 15, 0, 1, 0, 0, 0⟩),
    (0xA4DDED3E78010000, .vshr ⟨.C, true, false, false, true, false, true, 7⟩ ⟨26, 31, 15, 0, 1, 0, 0, 0⟩),
    (0xAEDFA7A8000A0000, .vmov ⟨.C, true, false, true, true, true, true, 5⟩ ⟨15, 20, 0, 0, 10, 0, 0, 0⟩)] : List (Word × Instr)), decodeWord p.1 = .ok p.2 := by decide +kernel

theorem test_decode_7x : ∀ p ∈ ([
    (0x84E1AD2F18050000, .viota ⟨.C, false, false, false, true, false, true, 5⟩ ⟨26, 23, 35, 0, 5, 0, 0, 0⟩),
    (0xA4E3AD3738090000, .vextr ⟨.C, true, false, false, true, false, true, 5⟩ ⟨26, 27, 39, 0, 9, 0, 0, 0⟩),
    (0xAEE50799300B0000, .vins ⟨.C, true, false, true, true, true, true, 0⟩ ⟨15, 12, 38, 0, 11, 0, 0, 0⟩),
    (0xAEE7C632000DC086, .vcomp ⟨.C, true, false, true, true, true, true, 6⟩ ⟨12, 25, 0, 0, 13, 3, 2, 6⟩),
    (0xAEE9A7A8000A0000, .vexpd ⟨.C, true, false, true, true, true, true, 5⟩ ⟨15, 20, 0, 0, 10, 0, 0, 0⟩),
    (0xACEBE53C78050000, .vpack ⟨.C, true, false, true, true, false, true, 7⟩ ⟨10, 30, 15, 0, 5, 0, 0, 0⟩),
    (0xAEECC7B800060040, .vunpk ⟨.C, true, false, true, true, true, false, 6⟩ ⟨15, 28, 0, 0, 6, 0, 1, 0⟩),
    (0xA4EF0ABCFB6A0000, .vclamp ⟨.C, true, false, false, true, false, true, 0⟩ ⟨21, 30, 31, 27, 10, 0, 0, 0⟩),
    (0xAEF1A7A8000A0000, .vcprs ⟨.C, true, false, true, true, true, true, 5⟩ ⟨15, 20, 0, 0, 10, 0, 0, 0⟩),
    (0x86F3ECBC7AEA0000, .vosm ⟨.C, false, false, false, true, true, true, 7⟩ ⟨25, 30, 15, 23, 10, 0, 0, 0⟩)] : List (Word × Instr)), decodeWord p.1 = .ok p.2 := by decide +kernel

theorem test_decode_8x : ∀ p ∈ ([
    (0xBD00AD9491E0B8D3, .vld ⟨.C, true, true, true, true, false, false, 5⟩ ⟨27, 10, 18, 1, 7, 0, 0, 47315⟩),
    (0xBD02AD9411E0B8D3, .vst ⟨.C, true, true, true, true, false, false, 5⟩ ⟨27, 10, 2, 1, 7, 0, 0, 47315⟩),
    (0xBD04AD9411E0B8D3, .vldx ⟨.C, true, true, true, true, false, false, 5⟩ ⟨27, 10, 2, 1, 7, 0, 0, 47315⟩),
    (0xBB06AF853B40C8A2, .vstx ⟨.C, true, true, true, false, true, false, 5⟩ ⟨31, 2, 39, 3, 2, 0, 0, 51362⟩),
    (0xBD08AD9411E0B8D3, .vldb ⟨.C, true, true, true, true, false, false, 5⟩ ⟨27, 10, 2, 1, 7, 0, 0, 47315⟩),
    (0x970A2D44A280BECF, .lds ⟨.C, false, true, false, true, true, false, 1⟩ ⟨26, 34, 20, 2, 4, 0, 0, 48847⟩),
    (0x950DA3AD39E03C41, .sts ⟨.C, false, true, false, true, false, true, 5⟩ ⟨7, 22, 39, 1, 7, 0, 0, 15425⟩),
    (0x990FAFAD29E02441, .vldg ⟨.C, false, true, true, false, false, true, 5⟩ ⟨31, 22, 37, 1, 7, 0, 0, 9281⟩),
    (0xBD10AD9411E0B8D3, .vstg ⟨.C, true, true, true, true, false, false, 5⟩ ⟨27, 10, 2, 1, 7, 0, 0, 47315⟩),
    (0x971265A473E066A2, .vgath ⟨.C, false, true, false, true, true, false, 3⟩ ⟨11, 18, 14, 3, 7, 0, 0, 26274⟩),
    (0x971465A473E066A2, .vscat ⟨.C, false, true, false, true, true, false, 3⟩ ⟨11, 18, 14, 3, 7, 0, 0, 26274⟩),
    (0xBF16A0141860AFD3, .prfg ⟨.C, true, true, true, true, true, false, 5⟩ ⟨0, 10, 3, 0, 3, 0, 0, 45011⟩)] : List (Word × Instr)), decodeWord p.1 = .ok p.2 := by decide +kernel

theorem test_decode_9x : ∀ p ∈ ([
    (0xB7200D4EC2827ECA, .ld ⟨.C, true, true, false, true, true, false, 0⟩ ⟨26, 39, 24, 2, 4, 0, 2, 32458⟩),
    (0xAD222306CAD2D88F, .st ⟨.C, true, false, true, true, false, false, 1⟩ ⟨6, 3, 25, 2, 6, 2, 2, 55439⟩),
    (0x9724CBCC6212524F, .atom ⟨.C, false, true, false, true, true, false, 6⟩ ⟨23, 38, 12, 2, 0, 2, 2, 21071⟩),
    (0x9F26E0444A12794F, .redm ⟨.C, false, true, true, true, true, false, 7⟩ ⟨0, 34, 9, 2, 0, 2, 2, 31055⟩),
    (0x9F28ABA26A32A20E, .vatom ⟨.C, false, true, true, true, true, false, 5⟩ ⟨23, 17, 13, 2, 1, 2, 2, 41486⟩),
    (0xBF2A88AA6B32820E, .vredm ⟨.C, true, true, true, true, true, false, 4⟩ ⟨17, 21, 13, 3, 1, 2, 2, 33294⟩),
    (0x752C07261A092EEE, .waita ⟨.L, true, true, false, true, false, false, 0⟩ ⟨14, 19, 3, 2, 0, 1, 1, 12014⟩),
    (0xAD2FE000001B0000, .fence ⟨.C, true, false, true, true, false, true, 7⟩ ⟨0, 0, 0, 0, 0, 3, 3, 0⟩),
    (0xA7306CACBA6000C0, .bind ⟨.C, true, false, false, true, true, false, 3⟩ ⟨25, 22, 23, 19, 0, 0, 3, 0⟩),
    (0x7D320ABC03E00000, .unbind ⟨.L, true, true, true, true, false, false, 0⟩ ⟨21, 30, 0, 31, 0, 0, 0, 0⟩),
    (0xBF3480446900F947, .cinv ⟨.C, true, true, true, true, true, false, 4⟩ ⟨0, 34, 13, 1, 0, 0, 0, 63815⟩)] : List (Word × Instr)), decodeWord p.1 = .ok p.2 := by decide +kernel

theorem test_decode_Ax : ∀ p ∈ ([
    (0x9F41B80000000000, .mzero ⟨.C, false, true, true, true, true, true, 5⟩ ⟨3, 0, 0, 0, 0, 0, 0, 0⟩),
    (0xBF43E38D30000016, .mma ⟨.C, true, true, true, true, true, true, 7⟩ ⟨0, 28, 26, 24, 0, 0, 0, 22⟩),
    (0xB74559C03EB00008, .mld ⟨.C, true, true, false, true, true, true, 2⟩ ⟨3, 14, 0, 31, 11, 0, 0, 8⟩),
    (0xB74759C03EA000CA, .mst ⟨.C, true, true, false, true, true, true, 2⟩ ⟨3, 14, 0, 31, 10, 0, 3, 10⟩),
    (0xB7495CC03CA00008, .mldt ⟨.C, true, true, false, true, true, true, 2⟩ ⟨3, 38, 0, 30, 10, 0, 0, 8⟩),
    (0xB74B580C3E0900C0, .lutmv ⟨.C, true, true, false, true, true, true, 2⟩ ⟨3, 0, 24, 31, 0, 18, 3, 0⟩),
    (0xAF4DC3E034000002, .lutld ⟨.C, true, false, true, true, true, true, 6⟩ ⟨0, 31, 0, 26, 0, 0, 0, 2⟩),
    (0xBF4FB00000000780, .macc ⟨.C, true, true, true, true, true, true, 5⟩ ⟨2, 0, 0, 0, 0, 0, 30, 0⟩),
    (0xBF51AB6000A00600, .mred ⟨.C, true, true, true, true, true, true, 5⟩ ⟨1, 27, 0, 0, 10, 0, 24, 0⟩),
    (0x9F533B6D80B00240, .mrow ⟨.C, false, true, true, true, true, true, 1⟩ ⟨3, 27, 27, 0, 11, 0, 9, 0⟩)] : List (Word × Instr)), decodeWord p.1 = .ok p.2 := by decide +kernel

theorem test_decode_Bx : ∀ p ∈ ([
    (0x7D60132A595E806E, .copy ⟨.L, true, true, true, true, false, false, 0⟩ ⟨38, 21, 11, 10, 15, 1, 1, 46⟩),
    (0xE9620CA474DA807D, .copyt ⟨.S, true, false, true, false, false, false, 0⟩ ⟨25, 18, 14, 38, 13, 1, 1, 61⟩),
    (0x7D6412BA53D680A4, .fill ⟨.L, true, true, true, true, false, false, 0⟩ ⟨37, 29, 10, 30, 11, 1, 2, 36⟩),
    (0x656602B25BF6980C, .qcvt ⟨.L, true, false, false, true, false, false, 0⟩ ⟨5, 25, 11, 31, 11, 1, 96, 12⟩),
    (0x7D6813BA53D280E0, .plane ⟨.L, true, true, true, true, false, false, 0⟩ ⟨39, 29, 10, 30, 9, 1, 3, 32⟩),
    (0x6F78003722F68062, .pref ⟨.L, true, false, true, true, true, false, 0⟩ ⟨0, 27, 36, 23, 11, 1, 1, 34⟩),
    (0xEF6A05ACB0000000, .waitc ⟨.S, true, false, true, true, true, false, 0⟩ ⟨11, 22, 22, 0, 0, 0, 0, 0⟩),
    (0xEF6C05ACB0000000, .testc ⟨.S, true, false, true, true, true, false, 0⟩ ⟨11, 22, 22, 0, 0, 0, 0, 0⟩),
    (0xEF6C0DAC00000080, .testcQ ⟨.S, true, false, true, true, true, false, 0⟩ ⟨27, 22, 0, 0, 0, 0, 2, 0⟩),
    (0xEF6E002CB8000000, .cset ⟨.S, true, false, true, true, true, false, 0⟩ ⟨0, 22, 23, 0, 0, 0, 0, 0⟩),
    (0xEF70002CB8000000, .edep ⟨.S, true, false, true, true, true, false, 0⟩ ⟨0, 22, 23, 0, 0, 0, 0, 0⟩),
    (0x4D720AA739FD001A, .fsend ⟨.L, false, false, true, true, false, false, 0⟩ ⟨21, 19, 39, 15, 14, 2, 0, 26⟩),
    (0x7D7412A05BF48026, .frecv ⟨.L, true, true, true, true, false, false, 0⟩ ⟨37, 16, 11, 31, 10, 1, 0, 38⟩),
    (0x7D7612A05BD4802E, .fcoll ⟨.L, true, true, true, true, false, false, 0⟩ ⟨37, 16, 11, 30, 10, 1, 0, 46⟩)] : List (Word × Instr)), decodeWord p.1 = .ok p.2 := by decide +kernel

theorem test_decode_Cx : ∀ p ∈ ([
    (0xA7806CACBAE00040, .enq ⟨.C, true, false, false, true, true, false, 3⟩ ⟨25, 22, 23, 23, 0, 0, 1, 0⟩),
    (0xA7826CACBAE00040, .deq ⟨.C, true, false, false, true, true, false, 3⟩ ⟨25, 22, 23, 23, 0, 0, 1, 0⟩),
    (0xA7846CACBAE00040, .rodinit ⟨.C, true, false, false, true, true, false, 3⟩ ⟨25, 22, 23, 23, 0, 0, 1, 0⟩),
    (0xAF87E61448000040, .rodqry ⟨.C, true, false, true, true, true, true, 7⟩ ⟨12, 10, 9, 0, 0, 0, 1, 0⟩),
    (0x8F89E61400000040, .rodclose ⟨.C, false, false, true, true, true, true, 7⟩ ⟨12, 10, 0, 0, 0, 0, 1, 0⟩),
    (0xEF8A05AC00000000, .barW ⟨.S, true, false, true, true, true, false, 0⟩ ⟨11, 22, 0, 0, 0, 0, 0, 0⟩),
    (0xEF8A05AC00000040, .barArr ⟨.S, true, false, true, true, true, false, 0⟩ ⟨11, 22, 0, 0, 0, 0, 1, 0⟩),
    (0xA58A6FAEB8000080, .barWt ⟨.C, true, false, false, true, false, false, 3⟩ ⟨31, 23, 23, 0, 0, 0, 2, 0⟩),
    (0xEF8A0DACB00000C0, .barInit ⟨.S, true, false, true, true, true, false, 0⟩ ⟨27, 22, 22, 0, 0, 0, 3, 0⟩),
    (0xA7926CBCBAA00000, .slinit ⟨.C, true, false, false, true, true, false, 3⟩ ⟨25, 30, 23, 21, 0, 0, 0, 0⟩),
    (0x9F8FE21400000001, .slacqRd ⟨.C, false, true, true, true, true, true, 7⟩ ⟨4, 10, 0, 0, 0, 0, 0, 1⟩),
    (0x9F8FE21400000041, .slacqWr ⟨.C, false, true, true, true, true, true, 7⟩ ⟨4, 10, 0, 0, 0, 0, 1, 1⟩),
    (0xEF8C05AC00000000, .slpub ⟨.S, true, false, true, true, true, false, 0⟩ ⟨11, 22, 0, 0, 0, 0, 0, 0⟩),
    (0xEF9005ACB0000000, .slrel ⟨.S, true, false, true, true, true, false, 0⟩ ⟨11, 22, 22, 0, 0, 0, 0, 0⟩)] : List (Word × Instr)), decodeWord p.1 = .ok p.2 := by decide +kernel

theorem test_decode_Dx_0 : ∀ p ∈ ([
    (0x9FA1E21400000001, .sqget ⟨.C, false, true, true, true, true, true, 7⟩ ⟨4, 10, 0, 0, 0, 0, 0, 1⟩),
    (0xEFA205ACB0000000, .sqaccQ ⟨.S, true, false, true, true, true, false, 0⟩ ⟨11, 22, 22, 0, 0, 0, 0, 0⟩),
    (0xA7A26CBCBAA00040, .sqaccP ⟨.C, true, false, false, true, true, false, 3⟩ ⟨25, 30, 23, 21, 0, 0, 1, 0⟩),
    (0xA7A46CBCBAA00000, .sqcommit ⟨.C, true, false, false, true, true, false, 3⟩ ⟨25, 30, 23, 21, 0, 0, 0, 0⟩),
    (0xEFA605AC00000000, .sqparkAdmit ⟨.S, true, false, true, true, true, false, 0⟩ ⟨11, 22, 0, 0, 0, 0, 0, 0⟩),
    (0xEFA605AC00000040, .sqparkImport ⟨.S, true, false, true, true, true, false, 0⟩ ⟨11, 22, 0, 0, 0, 0, 1, 0⟩),
    (0xEFA605AE00000080, .sqparkPark ⟨.S, true, false, true, true, true, false, 0⟩ ⟨11, 23, 0, 0, 0, 0, 2, 0⟩),
    (0xEFA60DAC000000C0, .sqparkAbort ⟨.S, true, false, true, true, true, false, 0⟩ ⟨27, 22, 0, 0, 0, 0, 3, 0⟩),
    (0xEFA60DAC00000100, .sqparkResume ⟨.S, true, false, true, true, true, false, 0⟩ ⟨27, 22, 0, 0, 0, 0, 4, 0⟩),
    (0xEFA60DAC00000140, .sqparkMigout ⟨.S, true, false, true, true, true, false, 0⟩ ⟨27, 22, 0, 0, 0, 0, 5, 0⟩),
    (0xEFA60DAC00000180, .sqparkMigdone ⟨.S, true, false, true, true, true, false, 0⟩ ⟨27, 22, 0, 0, 0, 0, 6, 0⟩),
    (0xEFA60DAC000001C0, .sqparkMigabort ⟨.S, true, false, true, true, true, false, 0⟩ ⟨27, 22, 0, 0, 0, 0, 7, 0⟩),
    (0xEFA60DAC00000200, .sqparkRetire ⟨.S, true, false, true, true, true, false, 0⟩ ⟨27, 22, 0, 0, 0, 0, 8, 0⟩),
    (0xEFA60DAC00000240, .sqparkPreempt ⟨.S, true, false, true, true, true, false, 0⟩ ⟨27, 22, 0, 0, 0, 0, 9, 0⟩),
    (0xA7A86CBCBAA00000, .kvmap ⟨.C, true, false, false, true, true, false, 3⟩ ⟨25, 30, 23, 21, 0, 0, 0, 0⟩),
    (0xEFAA05ACB0000000, .kvunpin ⟨.S, true, false, true, true, true, false, 0⟩ ⟨11, 22, 22, 0, 0, 0, 0, 0⟩)] : List (Word × Instr)), decodeWord p.1 = .ok p.2 := by decide +kernel

theorem test_decode_Dx_1 : ∀ p ∈ ([
    (0xD5AC0DB50B3F0020, .kvapp ⟨.S, false, true, false, true, false, false, 0⟩ ⟨27, 26, 33, 25, 15, 2, 0, 32⟩),
    (0xA7AE6CBCBAA00000, .pfxlk ⟨.C, true, false, false, true, true, false, 3⟩ ⟨25, 30, 23, 21, 0, 0, 0, 0⟩),
    (0xEFB005ACB0000000, .pfxins ⟨.S, true, false, true, true, true, false, 0⟩ ⟨11, 22, 22, 0, 0, 0, 0, 0⟩),
    (0xEFB205ACB0000000, .pfxrel ⟨.S, true, false, true, true, true, false, 0⟩ ⟨11, 22, 22, 0, 0, 0, 0, 0⟩),
    (0xD5B40DB50B3F0020, .psel ⟨.S, false, true, false, true, false, false, 0⟩ ⟨27, 26, 33, 25, 15, 2, 0, 32⟩),
    (0xA7B66CACBA6000C0, .sample ⟨.C, true, false, false, true, true, false, 3⟩ ⟨25, 22, 23, 19, 0, 0, 3, 0⟩),
    (0xAFB9E61448000040, .rngdraw ⟨.C, true, false, true, true, true, true, 7⟩ ⟨12, 10, 9, 0, 0, 0, 1, 0⟩)] : List (Word × Instr)), decodeWord p.1 = .ok p.2 := by decide +kernel

theorem test_decode_Ex_0 : ∀ p ∈ ([
    (0xEFD605AC00000000, .rodadmDrain ⟨.S, true, false, true, true, true, false, 0⟩ ⟨11, 22, 0, 0⟩),
    (0x7DD60BA800002000, .rodadmReopen ⟨.L, true, true, true, true, false, false, 0⟩ ⟨23, 20, 0, 1⟩),
    (0x87D7EB9C00004000, .rodadmRepair ⟨.C, false, false, false, true, true, true, 7⟩ ⟨23, 14, 0, 2⟩),
    (0xADD7E78C00006000, .rodadmRetire ⟨.C, true, false, true, true, false, true, 7⟩ ⟨15, 6, 0, 3⟩),
    (0xF7CE0DAC00000000, .btinv ⟨.S, true, true, false, true, true, false, 0⟩ ⟨27, 22, 0, 0⟩),
    (0xEFD405AC00000000, .pfxadmInit ⟨.S, true, false, true, true, true, false, 0⟩ ⟨11, 22, 0, 0⟩),
    (0xEFD405AC00002000, .pfxadmDemote ⟨.S, true, false, true, true, true, false, 0⟩ ⟨11, 22, 0, 1⟩),
    (0x9FD5E31E00004000, .pfxadmPromote ⟨.C, false, true, true, true, true, true, 7⟩ ⟨6, 15, 0, 2⟩),
    (0xEFD405AC00006000, .pfxadmEvict ⟨.S, true, false, true, true, true, false, 0⟩ ⟨11, 22, 0, 3⟩),
    (0xAFD5A69A00008000, .pfxadmFlush ⟨.C, true, false, true, true, true, true, 5⟩ ⟨13, 13, 0, 4⟩),
    (0xBDC1EB002DC00000, .mfc ⟨.C, true, true, true, true, false, true, 7⟩ ⟨22, 0, 366, 0⟩),
    (0x8FC3E0442DA00000, .mtc ⟨.C, false, false, true, true, true, true, 7⟩ ⟨0, 34, 365, 0⟩),
    (0x21C4000000000000, .eret ⟨.A, true, false, false, false, false, false, 0⟩ ⟨0, 0, 0, 0⟩),
    (0x21C6000000000000, .ctxsw ⟨.A, true, false, false, false, false, false, 0⟩ ⟨0, 0, 0, 0⟩),
    (0xEFC805AC00000000, .ctxspill ⟨.S, true, false, true, true, true, false, 0⟩ ⟨11, 22, 0, 0⟩),
    (0x9FC9E21C00002000, .ctxspillKill ⟨.C, false, true, true, true, true, true, 7⟩ ⟨4, 14, 0, 1⟩)] : List (Word × Instr)), decodeWord p.1 = .ok p.2 := by decide +kernel

theorem test_decode_Ex_1 : ∀ p ∈ ([
    (0xEFCA05AC00000000, .ctxfill ⟨.S, true, false, true, true, true, false, 0⟩ ⟨11, 22, 0, 0⟩),
    (0xADCBE78C00002000, .ctxfillResume ⟨.C, true, false, true, true, false, true, 7⟩ ⟨15, 6, 0, 1⟩),
    (0x21D0004C00000000, .waiti ⟨.A, true, false, false, false, false, false, 0⟩ ⟨0, 38, 0, 0⟩),
    (0xEFCC05AC00000000, .tlbinvVa ⟨.S, true, false, true, true, true, false, 0⟩ ⟨11, 22, 0, 0⟩),
    (0x7DCC0BAE00002000, .tlbinvAsid ⟨.L, true, true, true, true, false, false, 0⟩ ⟨23, 23, 0, 1⟩),
    (0xADCDE78C00004000, .tlbinvAll ⟨.C, true, false, true, true, false, true, 7⟩ ⟨15, 6, 0, 2⟩),
    (0x87CDEB1600006000, .tlbinvBind ⟨.C, false, false, false, true, true, true, 7⟩ ⟨22, 11, 0, 3⟩),
    (0xADCDE68C00008000, .tlbinvUnbind ⟨.C, true, false, true, true, false, true, 7⟩ ⟨13, 6, 0, 4⟩),
    (0x9FCDE31E0000A000, .tlbinvInit ⟨.C, false, true, true, true, true, true, 7⟩ ⟨6, 15, 0, 5⟩),
    (0xEFD205AC00000000, .migrMove ⟨.S, true, false, true, true, true, false, 0⟩ ⟨11, 22, 0, 0⟩),
    (0x6FD207BA00002000, .migrCnt ⟨.L, true, false, true, true, true, false, 0⟩ ⟨15, 29, 0, 1⟩),
    (0x87D3EB9C00004000, .migrRetry ⟨.C, false, false, false, true, true, true, 7⟩ ⟨23, 14, 0, 2⟩),
    (0x87D3EB1C00006000, .migrInit ⟨.C, false, false, false, true, true, true, 7⟩ ⟨22, 14, 0, 3⟩),
    (0xEFD805AC00000000, .monrdTemp ⟨.S, true, false, true, true, true, false, 0⟩ ⟨11, 22, 0, 0⟩),
    (0xEFD807AC00002000, .monrdVolt ⟨.S, true, false, true, true, true, false, 0⟩ ⟨15, 22, 0, 1⟩),
    (0x9FD9E29E00004000, .monrdProc ⟨.C, false, true, true, true, true, true, 7⟩ ⟨5, 15, 0, 2⟩)] : List (Word × Instr)), decodeWord p.1 = .ok p.2 := by decide +kernel

theorem test_decode_Ex_2 : ∀ p ∈ ([
    (0x9FD9E29C00006000, .monrdSlow ⟨.C, false, true, true, true, true, true, 7⟩ ⟨5, 14, 0, 3⟩),
    (0x9FD9E29C00008000, .monrdWear ⟨.C, false, true, true, true, true, true, 7⟩ ⟨5, 14, 0, 4⟩),
    (0xEFD805AC0000A000, .monrdPlace ⟨.S, true, false, true, true, true, false, 0⟩ ⟨11, 22, 0, 5⟩),
    (0xADD9E58C0000C000, .monrdRev ⟨.C, true, false, true, true, false, true, 7⟩ ⟨11, 6, 0, 6⟩)] : List (Word × Instr)), decodeWord p.1 = .ok p.2 := by decide +kernel

/-! ### Terms that are no instructions, one or more for each check of R212 -/

/-- A header of a lane, with nothing else. -/
def hd (l : LaneF) : Hdr := ⟨l, true, false, false, false, false, false, 0⟩

def r0 : RegOps := ⟨0, 0, 0, 0, 0, 0, 0, 0⟩
def i0 : RiOps := ⟨0, 0, 0⟩
def b0 : BrOps := ⟨0, 0, 0, 0, 0⟩
def m0 : MemOps := ⟨0, 0, 0, 0, 0, 0, 0, 0⟩
def e0 : EngOps := ⟨0, 0, 0, 0, 0, 0, 0, 0⟩
def a0 : MatOps := ⟨0, 0, 0, 0, 0, 0, 0, 0⟩
def y0 : SysOps := ⟨0, 0, 0, 0⟩

theorem test_reasons_3_to_6 : ∀ p ∈ ([
    (.nop (hd .L) r0, 3), (.add (hd .A) { r0 with t := 6 }, 3), (.fadd (hd .L) { r0 with t := 10 }, 3),
    (.vadd (hd .S) { r0 with t := 10 }, 3), (.vld (hd .L) m0, 3), (.vatom (hd .L) { m0 with sz := 2 }, 3),
    (.mzero (hd .L) a0, 3), (.copy (hd .C) e0, 3), (.cset (hd .C) r0, 3), (.enq (hd .A) r0, 3), (.eret (hd .L) y0, 3),
    (.mfc (hd .A) y0, 3), (.add { hd .L with pred := 1 } { r0 with t := 6 }, 4),
    (.ld { hd .S with pinv := true } m0, 4), (.nop { hd .A with pl := true } r0, 5), (.sync { hd .A with gr := true } r0, 5),
    (.add (hd .L) { r0 with t := 6, a := 40 }, 6), (.add (hd .L) { r0 with t := 6, d := 32 }, 6),
    (.fadd (hd .C) { r0 with t := 10, a := 32 }, 6), (.pand (hd .C) { r0 with d := 8 }, 6), (.vld (hd .C) { m0 with base := 63 }, 6),
    (.enq (hd .L) { r0 with c := 40 }, 6), (.ret (hd .A) { b0 with cr := 40 }, 6)] : List (Instr × Nat)),
    illegalReason p.1 = some p.2 ∧ ¬ p.1.WellFormed := by decide +kernel

theorem test_reason_7 : ∀ i ∈ ([
    .add (hd .L) { r0 with t := 3 }, .cmp (hd .L) { r0 with t := 6, sub := 6 }, .mulh (hd .L) { r0 with t := 6, mod := 1 },
    .brc (hd .A) b0, .loop (hd .A) { b0 with ck := 3, off := 1 }, .bfx (hd .L) { r0 with mod := 60, sub := 4 },
    .bfi (hd .L) { r0 with sub := 0x80 }, .fadd (hd .C) { r0 with t := 6 }, .fmvs (hd .C) { r0 with mod := 2 },
    .pset (hd .C) { r0 with sub := 3 }, .rdcnt (hd .L) { r0 with sub := 2 }, .viadd (hd .C) { r0 with t := 10 },
    .vcmp (hd .C) { r0 with t := 10, sub := 7 }, .vcvt (hd .C) { r0 with t := 10, sub := 31 },
    .vred (hd .C) { r0 with t := 4, sub := 9 }, .vbcast (hd .C) { r0 with t := 4, sub := 3 }, .vld (hd .C) { m0 with sz := 4 },
    .ld (hd .L) { m0 with sz := 7 }, .st (hd .L) { m0 with sz := 4 }, .ld (hd .L) { m0 with ord := 2 },
    .ld (hd .L) { m0 with ord := 1, scope := 5 }, .atom (hd .L) { m0 with sz := 1 }, .atom (hd .L) { m0 with sz := 2, off := 0xD000 },
    .fence (hd .L) m0, .mma (hd .C) { a0 with ta := 20 }, .mst (hd .C) { a0 with ta := 4 },
    .copy (hd .L) { e0 with seqf := 3 }, .copyt (hd .L) e0, .fill (hd .L) { e0 with sub := 4 },
    .waitc (hd .L) { r0 with sub := 2 }, .enq (hd .L) { r0 with sub := 2 }, .deq (hd .L) { r0 with mod := 2 },
    .barArr (hd .L) r0, .slacqRd (hd .L) { r0 with sub := 1 }, .sqaccP (hd .L) r0, .sqparkPark (hd .L) { r0 with sub := 10 },
    .sample (hd .L) { r0 with sub := 4 }, .mfc (hd .L) { y0 with ctrl := 0x007 }, .tlbinvVa (hd .L) { y0 with sub := 6 },
    .monrdTemp (hd .L) { y0 with sub := 1 }, .rodadmDrain (hd .L) { y0 with sub := 4 }] : List Instr),
    illegalReason i = some 7 ∧ ¬ i.WellFormed := by decide +kernel

theorem test_reason_8 : ∀ i ∈ ([
    .nop (hd .A) { r0 with d := 1 }, .endLane (hd .A) { r0 with mod := 1 }, .br (hd .A) { b0 with cr := 1 },
    .trap (hd .A) { i0 with imm := 0x10000 }, .stk (hd .A) { i0 with imm := 4 }, .and (hd .L) { r0 with t := 6 },
    .mov (hd .L) { r0 with b := 1 }, .add (hd .L) { r0 with t := 6, rm := 1 }, .add (hd .L) { r0 with t := 6, c := 1 },
    .lih (hd .L) { i0 with imm := 0x80000000 }, .li (hd .L) { i0 with a := 1 }, .pand (hd .C) { r0 with t := 1 },
    .xget (hd .L) { r0 with a := 1 }, .vcmp (hd .C) { r0 with t := 10, sub := 16 }, .vsel (hd .C) { r0 with t := 4, rm := 1 },
    .redm (hd .L) { m0 with sz := 2, d := 1 }, .fence (hd .L) { m0 with ord := 1, base := 1 }, .cinv (hd .L) { m0 with sz := 2, base := 1 },
    .mzero (hd .C) { a0 with a := 1 }, .macc (hd .C) { a0 with sub := 32 }, .qcvt (hd .L) { e0 with sub := 0x8C },
    .plane (hd .L) { e0 with sub := 8 }, .pref (hd .L) { e0 with dst := 1 }, .waitc { hd .C with pred := 1 } r0, .edep (hd .L) { r0 with d := 1 }, .rodclose (hd .L) { r0 with b := 1 },
    .barInit (hd .L) { r0 with sub := 3, c := 1 }, .kvunpin (hd .L) { r0 with c := 1 }, .mfc (hd .L) { y0 with a := 1, ctrl := 1 },
    .eret (hd .A) { y0 with ctrl := 1 }, .btinv (hd .L) { y0 with ctrl := 1 }] : List Instr),
    illegalReason i = some 8 ∧ ¬ i.WellFormed := by decide +kernel

/-- A branch target outside 0 to 16,383 (R206) and a LOOP with an empty body (R231). -/
theorem test_reason_9 :
    targetOutside 16383 (.br (hd .A) { b0 with off := 1 }) = true ∧ targetOutside 16383 (.br (hd .A) b0) = false
    ∧ targetOutside 0 (.call (hd .A) { b0 with off := 0xFFFFFFFF }) = true
    ∧ illegalReason (.loop (hd .A) b0) = some 9 ∧ illegalReason (.loop (hd .A) { b0 with off := 1 }) = none := by
  decide +kernel

/-- Bits [12:0] of a system word, an opcode that none has, and a reserved one (R209, R212). -/
theorem test_refused_words :
    decodeWord 0x61C0030004000001 = .error 8 ∧ decodeWord 0x601C000000000000 = .error 2
    ∧ decodeWord 0x61E0000000000000 = .error 1 := by decide +kernel

/-! ### The words that the spec gives as examples -/

theorem test_spec_words : ∀ p ∈ ([
    (0x2014000000000005, .trap (hd .A) { i0 with imm := 5 }), (0x20180001FFFFFF00, .stk (hd .A) { i0 with imm := 0x1FFFFFF00 }),
    (0x4024030C00000040, .addi { hd .L with stop := false } ⟨6, 6, 64⟩),
    (0x7120020A030B0010, .ld { hd .L with pl := true } ⟨4, 5, 0, 3, 0, 1, 3, 16⟩),
    (0xE1D6020A00000000, .rodadmDrain (hd .S) { y0 with d := 4, a := 5 }),
    (0x200E001000000001, .loop (hd .A) { b0 with ck := 2, off := 1 }),
    (0xA020061908060000, .add (hd .C) { r0 with d := 12, a := 12, b := 33, t := 6 }), (0x2012000000000000, .endLane (hd .A) r0),
    (0xA0A66412510A0000, .vfma { hd .C with pred := 3 } { r0 with d := 8, a := 9, b := 10, c := 8, t := 10 }),
    (0xA100019802000100, .vld (hd .C) { m0 with d := 3, base := 12, sz := 2, off := 256 }),
    (0xA14209869CC88000, .mma (hd .C) { a0 with acc := 1, a := 12, b := 13, k := 14, ta := 12, tb := 17 }),
    (0x6124020A331B0008, .atom (hd .L) ⟨4, 5, 6, 3, 0, 3, 3, 8⟩), (0xE180020A30E00000, .enq (hd .S) { r0 with d := 4, a := 5, b := 6, c := 7 }),
    (0xB548018000800008, .mldt { hd .C with pl := true, gl := true } { a0 with a := 12, ta := 8, fl := 8 }),
    (0xA127602503007000, .redm { hd .C with pinv := true, pred := 3 } ⟨0, 18, 32, 3, 0, 0, 0, 0x7000⟩),
    (0x61C00F0002000000, .mfc (hd .L) { y0 with d := 30, ctrl := 0x010 }), (0x61C2003C02000000, .mtc (hd .L) { y0 with a := 30, ctrl := 0x010 }),
    (0x21C4000000000000, .eret (hd .A) y0), (0x21C6000000000000, .ctxsw (hd .A) y0),
    (0x61CC020A00002000, .tlbinvAsid (hd .L) { y0 with d := 4, a := 5, sub := 1 }),
    (0xE1D2020A00000000, .migrMove (hd .S) { y0 with d := 4, a := 5 })] : List (Word × Instr)),
    decodeWord p.1 = .ok p.2 := by decide +kernel

/-- With SCOPE 5 the LD of the example is ILLEGAL with reason 7. -/
theorem test_spec_illegal_scope : decodeWord 0x7120020A030D0010 = .error 7 := by decide +kernel

/-! ### Numbers: the worked examples of 02_numbers.md and 11_vector.md -/

/-- In RNE every x below 464, and 464 itself, rounds to 448 in e4m3 (code 0x7E). -/
theorem test_e4m3_midpoint :
    roundNum (fpFmt 12) 0 false (.fin false 464 0) = (0x7E, false) ∧ roundNum (fpFmt 12) 0 false (.fin false 463 0) = (0x7E, false)
    ∧ (roundNum (fpFmt 12) 0 false (.fin false 465 0)).1 ≠ 0x7E := by decide +kernel

/-- A block with amax 3.0 quantised to e4m3 takes scale code 0x3E. -/
theorem test_choose_scale : chooseScale 12 [.fin false 3 0, .fin true 1 0] = 0x3E := by decide +kernel

/-- Plane code 182 with scale 2^-10: 0.0625, 0.03125, 0.046875, 0.0546875 and 0.05322265625 as bf16 or f32 bits. -/
theorem test_plane_values :
    ([[1], [1, 0], [1, 0, 1], [1, 0, 1, 1], [1, 0, 1, 1, 0, 1, 1, 0]].map
      (fun bs => (roundNum (fpFmt 10) 0 false (planeScaled 0x28 bs)).1))
    = [0x3D800000, 0x3D000000, 0x3D400000, 0x3D600000, 0x3D5A0000] := by decide +kernel

/-- Sixteen products of 2^-24 added to 1.0 in one group give 1 + 2^-20; an FMA chain stays at 1.0. -/
theorem test_group_dot :
    (roundNum (fpFmt 10) 0 false (groupDot (fpFmt 10) 0 (.fin false 1 0)
      (List.replicate 16 (.fin false 1 (-12), .fin false 1 (-12))))).1 = 0x3F800008
    ∧ fpFma (fpFmt 10) 0 0x39800000 0x39800000 0x3F800000 = 0x3F800000 := by decide +kernel

/-- The rows of the VOSM example. -/
theorem test_vosm : [(0xFF800000, 0x40400000, 0), (0x40000000, 0x3F800000, 0x40A00000), (0x3F800000, 0x40400000, 0x40C00000),
      (0xFF800000, 0xFF800000, 0), (0, 0x3F000000, 0x3F800000)].map (fun x => fpVosm x.1 x.2.1 x.2.2)
    = [0, 0x40A00000, 0x3FC00000, 0, 0x3F3504F3] := by decide +kernel

/-! ### Small states -/

/-- Registers of a lane, s0 first. -/
def sregs (rs : List (Nat × Word)) : Vector Word 32 := rs.foldl (fun v r => v.setIfInBounds r.1 r.2) (Vector.replicate 32 0)

/-- A context resident alone on core 0, bank 0, every lane at PC 5. -/
def ctx0 (rs : List (Nat × Word)) : Ctx :=
  let x : LaneSt := { LaneSt.reset with pc := 5, s := sregs rs }
  { Ctx.reset with res := .resident, laneL := x, laneC := x, laneS := x }

/-- The state in which its lane L is executing a word. -/
def stateOf (c : Ctx) (m : List Host.Cell) : State :=
  { State.reset with ctxs := [(0, c)], cores := [(0, { CoreSt.reset with bank0 := some 0 })], mem := m
                     cur := { Issue.idle with pc := 5 } }

def base (rs : List (Nat × Word)) : State := stateOf (ctx0 rs) []

/-- The same with privilege. -/
def privileged (rs : List (Nat × Word)) : State :=
  let c := ctx0 rs
  stateOf { c with ctrl := { c.ctrl with prv := true } } []

def withEv (e : Ev) (s : State) : State := { s with cur := { s.cur with ev := e } }

def onLane (l : Lane) (s : State) : State := { s with cur := { s.cur with lane := l } }

/-- The register `d` of the issuing lane after a word. -/
def sOut (r : Res) (d : Nat) : Option Nat :=
  match r with
  | .next t => some (t.myLane.s.getD d 0).toNat
  | _ => none

/-- A fact about the next state. -/
def nextIs (r : Res) (p : State → Bool) : Bool :=
  match r with
  | .next t => p t
  | _ => false

/-! ### Scalar instructions (R238 to R252) -/

/-- The example of R240. -/
theorem test_div_rem :
    let s := base [(1, 0xFFFFFFF9), (2, 2)]
    sOut (exec (.div (hd .L) { r0 with d := 3, a := 1, b := 2, t := 4 }) s) 3 = some 0xFFFFFFFFFFFFFFFD
    ∧ sOut (exec (.rem (hd .L) { r0 with d := 3, a := 1, b := 2, t := 4 }) s) 3 = some 0xFFFFFFFFFFFFFFFF
    ∧ sOut (exec (.div (hd .L) { r0 with d := 3, a := 1, b := 2, t := 5 }) s) 3 = some 0x7FFFFFFC
    ∧ sOut (exec (.rem (hd .L) { r0 with d := 3, a := 1, b := 2, t := 5 }) s) 3 = some 1
    ∧ sOut (exec (.div (hd .L) { r0 with d := 3, a := 1, b := 0, t := 7 }) s) 3 = some 0xFFFFFFFFFFFFFFFF := by decide +kernel

theorem test_add_sat :
    let s := base [(1, 0x7FFFFFFF), (2, 1)]
    sOut (exec (.add (hd .L) { r0 with d := 3, a := 1, b := 2, t := 4, mod := 1 }) s) 3 = some 0x7FFFFFFF
    ∧ sOut (exec (.add (hd .L) { r0 with d := 3, a := 1, b := 2, t := 4 }) s) 3 = some 0xFFFFFFFF80000000
    ∧ sOut (exec (.sub (hd .L) { r0 with d := 3, a := 0, b := 2, t := 7, mod := 1 }) s) 3 = some 0 := by decide +kernel

theorem test_shifts_take_their_count_modulo_the_width :
    let s := base [(1, 0x80000001), (2, 33)]
    sOut (exec (.shl (hd .L) { r0 with d := 3, a := 1, b := 2, t := 5 }) s) 3 = some 2
    ∧ sOut (exec (.sar (hd .L) { r0 with d := 3, a := 1, b := 2, t := 4 }) s) 3 = some 0xFFFFFFFFC0000000
    ∧ sOut (exec (.rotr (hd .L) { r0 with d := 3, a := 1, b := 2, t := 5 }) s) 3 = some 0xC0000000
    ∧ sOut (exec (.clz (hd .L) { r0 with d := 3, a := 0, t := 4 }) s) 3 = some 32
    ∧ sOut (exec (.popc (hd .L) { r0 with d := 3, a := 1, t := 6 }) s) 3 = some 2 := by decide +kernel

theorem test_words_and_immediates :
    let s := base [(1, 0x123456789ABCDEF0), (2, 0xFF)]
    sOut (exec (.bfx (hd .L) { r0 with d := 3, a := 1, mod := 4, sub := 64 + 7 }) s) 3 = some 0xFFFFFFFFFFFFFFEF
    ∧ sOut (exec (.bfi (hd .L) { r0 with d := 3, a := 2, b := 1, mod := 60, sub := 3 }) s) 3 = some 0xF23456789ABCDEF0
    ∧ sOut (exec (.addx (hd .L) { r0 with d := 3, a := 2, b := 2, sub := 3 }) s) 3 = some 0x8F7
    ∧ sOut (exec (.li (hd .L) ⟨3, 0, 0x1FFFFFFFF⟩) s) 3 = some 0xFFFFFFFFFFFFFFFF
    ∧ sOut (exec (.lih (hd .L) ⟨3, 2, 1⟩) s) 3 = some 0x2000000FF
    ∧ sOut (exec (.muli (hd .L) ⟨3, 2, 0x1FFFFFFFE⟩) s) 3 = some 0xFFFFFFFFFFFFFE02
    ∧ sOut (exec (.add (hd .L) { r0 with d := 0, a := 1, b := 2, t := 6 }) s) 0 = some 0 := by decide +kernel

/-- 1.0 + 2^-24 is a tie and stays 1.0; 1.0 / 3.0 rounds to 0x3EAAAAAB; the square root of 2 to 0x3FB504F3. -/
theorem test_scalar_float :
    fpAdd (fpFmt 10) 0 0x3F800000 0x33800000 = 0x3F800000 ∧ fpAdd (fpFmt 10) 2 0x3F800000 0x33800000 = 0x3F800001
    ∧ fpDiv (fpFmt 10) 0 0x3F800000 0x40400000 = 0x3EAAAAAB ∧ fpSqrt (fpFmt 10) 0 0x40000000 = 0x3FB504F3
    ∧ fpMul (fpFmt 11) 0 0x4008000000000000 0x4000000000000000 = 0x4018000000000000
    ∧ convertBits 10 4 1 true 0xBFC00000 = 0xFFFFFFFF := by decide +kernel

theorem test_predicates :
    let s := onLane .C (base [(1, 5)])
    nextIs (exec (.pset (hd .C) { r0 with d := 2, a := 1, sub := 2 }) s) (fun t => t.me.p.getD 2 0 == 0x1F)
    ∧ nextIs (exec (.pset (hd .C) { r0 with d := 2, a := 1, sub := 1 }) s) (fun t => t.me.p.getD 2 0 == 0xFFFFFFFF)
    ∧ sOut (exec (.pqry (hd .C) { r0 with d := 3, a := 0 }) s) 3 = some 32
    ∧ nextIs (exec (.pset (hd .C) { r0 with d := 0, a := 1, sub := 2 }) s) (fun t => t.me.p.getD 0 0 == 0) := by decide +kernel

/-- A word of lane C whose predicate is false changes nothing. -/
theorem test_predicated_off :
    exec (.add { hd .C with pinv := true } { r0 with d := 3, a := 1, b := 1, t := 6 }) (onLane .C (base [(1, 5)]))
      = .next (onLane .C (base [(1, 5)])) := by rfl

/-! ### Vectors (R256 to R276) -/

/-- A state in which v1 holds 0, 1, 2 … as 32-bit elements, v2 the squares, and p2 the bits 1, 2 and 4. -/
def vecState : State :=
  let c := ctx0 [(1, 7), (2, 3)]
  onLane .C (stateOf { c with
    v := ((Vector.replicate 32 0).setIfInBounds 1 (vword 32 (List.range 32))).setIfInBounds 2
      (vword 32 ((List.range 32).map (fun j => j * j)))
    p := (Vector.replicate 8 0).setIfInBounds 2 0x16 } [])

/-- The first elements of v3 after a word. -/
def vOut (i : Instr) (w n : Nat) : List Nat :=
  match exec i vecState with
  | .next t => (elemsOf w (t.me.v.getD 3 0)).take n
  | _ => []

/-- The example of VCPRS: elements 1, 2 and 4 go to elements 0, 1 and 2, and the rest become zero. -/
theorem test_vcprs : vOut (.vcprs { hd .C with pred := 2 } { r0 with d := 3, a := 2, t := 5 }) 32 6 = [1, 4, 16, 0, 0, 0] := by
  decide +kernel

theorem test_vexpd : vOut (.vexpd { hd .C with pred := 2 } { r0 with d := 3, a := 2, t := 5 }) 32 6 = [0, 0, 1, 0, 4, 0] := by
  decide +kernel

theorem test_viadd_masked : vOut (.viadd { hd .C with pred := 2 } { r0 with d := 3, a := 1, b := 2, t := 5 }) 32 6
    = [0, 2, 6, 0, 20, 0] := by decide +kernel

theorem test_viota : vOut (.viota (hd .C) { r0 with d := 3, a := 1, b := 2, t := 1 }) 8 4 = [7, 10, 13, 16] := by decide +kernel

theorem test_vred_vscan :
    vOut (.vred (hd .C) { r0 with d := 3, a := 1, t := 5 }) 32 3 = [496, 0, 0]
    ∧ vOut (.vscan (hd .C) { r0 with d := 3, a := 1, t := 5 }) 32 5 = [0, 1, 3, 6, 10] := by decide +kernel

theorem test_vperm_vslide :
    vOut (.vperm (hd .C) { r0 with d := 3, a := 2, b := 1, t := 5 }) 32 4 = [0, 1, 4, 9]
    ∧ vOut (.vbcast (hd .C) { r0 with d := 3, a := 1, t := 2 }) 16 3 = [7, 7, 7] := by decide +kernel

/-! ### Concrete states that meet the hypotheses of the obligations

`runB m s p`: the operation `m` completes from `s`, and its result and the state that it leaves meet `p`. -/

def runB {α : Type} (m : Op α) (s : State) (p : α → State → Bool) : Bool :=
  match m.run.run s with
  | (.ok a, t) => p a t
  | _ => false

theorem runs_of_runB {α : Type} {m : Op α} {s : State} {p : α → State → Bool} (h : runB m s p = true) :
    ∃ a t, Runs s m a t ∧ p a t = true := by
  unfold runB at h
  split at h
  · rename_i a t e
    exact ⟨a, t, e, h⟩
  · cases h

/-- A state of a context in which a predicate of lane C is false. -/
theorem witness_TypedIntegerResults : (base []).active (hd .L) = true ∧ (onLane .C (base [])).active (hd .C) = true := by
  decide +kernel

theorem witness_BitCountAndShiftResults : (base []).active (hd .S) = true ∧ (onLane .C vecState).active { hd .C with pred := 2, pinv := true } = true := by
  decide +kernel

theorem witness_WordAndImmediateResults :
    (base []).active (hd .L) = true
    ∧ (∀ i ∈ ([.and (hd .L) r0, .or (hd .L) r0, .xor (hd .L) r0, .andn (hd .L) r0, .sel (hd .L) r0, .mov (hd .L) r0,
        .addx (hd .L) { r0 with sub := 7 }, .bfx (hd .L) { r0 with mod := 63 }, .bfi (hd .L) { r0 with sub := 63 }, .li (hd .L) i0,
        .lih (hd .L) i0] : List Instr), illegalReason i = none)
    ∧ 64 < (63 : BitVec 6).toNat + ((1 : BitVec 8).toNat % 64 + 1) ∧ (0x80 : BitVec 8).getLsbD 7 = true := by decide +kernel

theorem witness_ScalarFloatResults : (onLane .C (base [])).active (hd .C) = true := by decide +kernel

theorem witness_PredicateAndExchangeResults :
    let q : LaneQ := { LaneQ.empty with fromL := [⟨true, 7, []⟩], fromR := [⟨false, 0, []⟩] }
    let s : State := (onLane .C (base [])).updMyLane (fun x => { x with normal := q })
    s.active (hd .C) = true ∧ s.active { hd .C with pinv := true } = false
    ∧ s.me.queueFrom .C false = [⟨true, 7, []⟩] ∧ s.me.queueFrom .C true = [⟨false, 0, []⟩] := by decide +kernel

theorem witness_CounterReadsAndVectorSelect :
    (base []).active (hd .L) = true ∧ illegalReason (.rdcnt (hd .L) { r0 with sub := 1 }) = none
    ∧ illegalReason (.vsel (hd .C) { r0 with t := 13 }) = none := by decide +kernel

theorem witness_VectorConversionResults : vecState.active (hd .C) = true := by decide +kernel

theorem witness_VectorReductionAndPermuteResults :
    vecState.active (hd .C) = true ∧ r0.sub = 0 ∧ ({ r0 with sub := 1 } : RegOps).sub = 1 ∧ ({ r0 with sub := 2 } : RegOps).sub = 2 := by
  decide +kernel

theorem witness_InactiveWordsChangeNothing :
    vecState.active { hd .C with pred := 2 } = false ∧ vecState.active { hd .C with pinv := true } = false := by decide +kernel

/-- Division by zero, the most negative dividend by -1, and an ordinary pair, for a signed and an unsigned type. -/
theorem witness_DivisionCorners :
    let s := base [(1, 0x80000000), (2, 0xFFFFFFFF), (3, 0x8000000000000000), (4, 0xFFFFFFFFFFFFFFFF), (5, 7)]
    s.active (hd .L) = true ∧ (r0.mod.getLsbD 0 = false)
    ∧ s.srcInt 2 0 4 = 0 ∧ s.srcInt 2 0 7 = 0
    ∧ (s.srcInt 1 1 4 = -2 ^ 31 ∧ s.srcInt 2 2 4 = -1) ∧ (s.srcInt 1 3 6 = -2 ^ 63 ∧ s.srcInt 2 4 6 = -1)
    ∧ (s.srcInt 2 5 4 ≠ 0 ∧ s.srcInt 2 5 5 = 7) := by decide +kernel

theorem witness_BundleReadsBeforeItWrites :
    let s : State := { base [] with cur := { (base []).cur with snap := some (ctx0 [(1, 5)]) } }
    s.cur.snap = some (ctx0 [(1, 5)]) := rfl

/-- A write of s1 and of s31 with no write of it in flight, with a bound of one bundle and of more. -/
theorem witness_RegisterReadAfterWrite :
    oldValues LaneSt.reset.inflight .s 1 = [] ∧ oldValues LaneSt.reset.inflight .s 31 = [] ∧ 0 < 1 ∧ 31 < 32 := by decide +kernel

theorem witness_ScalarFrame :
    nextIs (exec (.add (hd .L) { r0 with d := 3, a := 1, t := 6 }) (base [(1, 5)])) (fun t => t.myLane.s.getD 3 0 == 5) = true
    ∧ nextIs (exec (.fadd (hd .C) { r0 with d := 3, a := 1, t := 10 }) vecState) (fun t => t.me.f.getD 3 0 == 0) = true
    ∧ nextIs (exec (.pand (hd .C) { r0 with d := 3, a := 2, b := 0 }) vecState) (fun t => t.me.p.getD 3 0 == 0x16) = true
    ∧ nextIs (exec (.li (hd .L) ⟨3, 0, 9⟩) (base [])) (fun t => t.myLane.s.getD 3 0 == 9) = true := by decide +kernel

theorem witness_VectorElementWrites :
    let es (w : Nat) : List Nat := List.replicate (elemCount w) (2 ^ w - 1)
    ∀ w ∈ [8, 16, 32, 64], (es w).length = elemCount w ∧ (∀ x ∈ es w, x < 2 ^ w) ∧ (31 : BitVec 6).toNat < 32 := by decide +kernel

/-- RET to 16,383 passes, and to 16,384 does not. -/
theorem witness_BranchesAndCalls :
    let s := base [(1, 16383), (2, 16384)]
    (s.srcS 0 1).toNat < 16384 ∧ 16384 ≤ (s.srcS 0 2).toNat := by decide +kernel

/-- An owner with room and a target of 16,383; a target of 16,384; an owner for whose outcomes a queue of 4 is full;
another lane with an outcome, and with none. -/
theorem witness_OwnedBranches :
    let o : BrOps := { b0 with cr := 1, own := 1, cc := 1 }
    let s := base [(1, 16383), (2, 16384)]
    let four : LaneQ := { LaneQ.empty with outs := List.replicate 4 ⟨true, 9⟩ }
    let full := s.updLane 0 .C (fun x => { x with normal := four })
    let other := onLane .C full
    (s.cur.lane = ownerLane o ∧ s.me.outcomeRoom .L = true ∧ (s.srcS 0 o.cr).toNat < 16384)
    ∧ (s.cur.lane = ownerLane o ∧ 16384 ≤ (s.srcS 0 ({ o with cr := 2 } : BrOps).cr).toNat)
    ∧ (full.cur.lane = ownerLane o ∧ full.me.outcomeRoom .L = false ∧ (full.srcS 0 o.cr).toNat < 16384)
    ∧ (other.cur.lane ≠ ownerLane o ∧ (other.me.queues .C).outs = ⟨true, 9⟩ :: List.replicate 3 ⟨true, 9⟩)
    ∧ ((onLane .S s).cur.lane ≠ ownerLane o ∧ ((onLane .S s).me.queues .S).outs = []) := by decide +kernel

/-- LOOP with count 0, with 7 entries on the stack and with 8; STK down to SLIM and below it; one limit that an MTC has
replaced and the lane may still see beside the present one, both above the new value. -/
theorem witness_LoopsAndStacks :
    let s := base [(2, 0x1000)]
    let v (i n : Nat) : Level := ⟨0, i, true, 5, n, 0x70, 8⟩
    let nest : Nest := { (default : Nest) with levels := [v 3 2, ⟨0, 4, false, 5, 2, 0, 1⟩, v 3 4, v 6 2] }
    let d : State := ({ s with nests := [(9, nest)] }).updMe (fun c => { c with nest := 9, loopTab := [0, 0, 0, 0, 0, 2] })
    let drives (e : Nat) (x : Level) : Prop := x ∈ (d.nest d.me.nest).levels ∧ x.kind = 0 ∧ x.ltidx = e ∧ x.iregEn = true
    let q (n : Nat) : State := s.updMyLane (fun x => { x with normal := { x.normal with loops := List.replicate n ⟨6, 9, 2, 0, none⟩ } })
    let k : State := s.updMyLane (fun x => { x with slim := 0xFF8 })
    let two : State := k.updMe (fun c => { c with mtcs := 1, olds := [⟨0x010, 0xFF4, 0⟩] })
    let limits (t : State) : List Word := t.myLane.slim :: oldCtrls t t.cur.ctx .L (0x00F + laneCode .L)
    let down8 : BitVec 33 := 0x1FFFFFFF8
    let down16 : BitVec 33 := 0x1FFFFFFF0
    (loopCount s { b0 with ck := 0, off := 1 }).1 = 0
    ∧ ((loopCount s { b0 with cc := 3, off := 1 }).1 ≠ 0 ∧ ((q 7).me.queues .L).loops.length < 8)
    ∧ 8 ≤ ((q 8).me.queues .L).loops.length
    ∧ (loopCount d { b0 with ck := 2, cc := 5, off := 1 } = (2, some 5) ∧ (d.me.queues .L).loops.length < 8
      ∧ (d.nest d.me.nest).levels = [v 3 2, ⟨0, 4, false, 5, 2, 0, 1⟩] ++ v 3 4 :: [v 6 2] ∧ drives 5 (v 3 4) ∧ drives 5 (v 6 2)
      ∧ (∀ u ∈ [v 6 2], drives 5 u → u.ireg ≠ 3) ∧ ∀ x ∈ (d.nest d.me.nest).levels, drives 5 x → x.ireg ≠ 4)
    ∧ limits k = [0xFF8] ∧ limits two = [0xFF8, 0xFF4]
    ∧ 0xFF8 ≤ (k.srcS 0 2 + down8.signExtend 64).toNat
    ∧ (down16.toInt < 0 ∧ (two.srcS 0 2 + down16.signExtend 64).toNat < 0xFF4) := by decide +kernel

/-- Lane L alone at the meeting point, and with the others there; an OVL of 1 and of 8,192 words. -/
theorem witness_MeetingPoints :
    let s := base [(1, 0x100000000000000), (2, 1), (3, 8192)]
    let m := (s.updLane 0 .C (fun x => { x with arrived := true })).updLane 0 .S (fun x => { x with arrived := true })
    let loop : State := m.updMyLane (fun x => { x with normal := { x.normal with loops := [⟨2, 5, 3, 0, none⟩] } })
    s.allMet = false ∧ m.allMet = true
    ∧ loop.allMet = true ∧ (endCheck loop.cur.pc loop.cur.pc (loop.me.queues .L).loops).2.isSome = true
    ∧ (endCheck m.cur.pc m.cur.pc (m.me.queues .L).loops).2 = none
    ∧ ovlOperandsOk (m.me.laneL.land.srcS 1 0) (m.me.laneL.land.srcS 2 0) = true
    ∧ ovlOperandsOk (m.me.laneL.land.srcS 1 0) (m.me.laneL.land.srcS 3 0) = true := by decide +kernel

/-- A user handler; a system handler only; none; a handler that runs. The word stands alone, and ends a loop. -/
theorem witness_SoftwareTraps :
    let s (u t : Word) (hnd : BitVec 2) : State := (base []).updMe (fun c => { c with
      laneC := { c.laneC with ended := true }, laneS := { c.laneS with arrived := true }
      ctrl := { c.ctrl with utvec := u, tvec := t, hnd := hnd } })
    let on : Word := 0x8000000000003FFF
    let loop : State := (s on 0 0).updMyLane (fun x => { x with normal := { x.normal with loops := [⟨2, 5, 3, 0, none⟩] } })
    (∀ x ∈ [s on on 0, s 0 on 0, s 0 0 0, s on on 1], x.allMet = true ∧ x.me.fatal = none ∧ (x.die x.myDie).repRod = none
      ∧ (x.me.laneL.parked = none ∧ x.me.laneC.parked = none ∧ x.me.laneS.parked = none))
    ∧ ((s on on 0).me.ctrl.hnd = 0 ∧ (s on on 0).me.ctrl.utvec.getLsbD 63 = true)
    ∧ ((s 0 on 0).me.ctrl.utvec.getLsbD 63 = false ∧ (s 0 on 0).me.ctrl.tvec.getLsbD 63 = true)
    ∧ ((s 0 0 0).me.ctrl.tvec.getLsbD 63 = false ∧ (s on on 1).me.ctrl.hnd ≠ 0)
    ∧ (endCheck loop.cur.pc loop.cur.pc (loop.me.queues .L).loops).2 = some ⟨2, 5, 2, 1, none⟩ := by decide +kernel

/-! ### A mapped address space

ASID 0 has its descriptor at 2^24, its root at 0x1010000 and a table at 0x1020000, whose first entry maps the
512 MiB from virtual address 2^56 to the frame at 0, with W and U set; the translation is cached. -/

/-- Numbers in order of address. -/
def insertWord (w : Nat × Nat × Nat) : List (Nat × Nat × Nat) → List (Nat × Nat × Nat)
  | [] => [w]
  | x :: xs => if w.1 ≤ x.1 then w :: x :: xs else x :: insertWord w xs

/-- Memory that holds numbers apart from one another: address, length in bytes, value. -/
def mem (ws : List (Nat × Nat × Nat)) : List Host.Cell :=
  (ws.foldr insertWord []).flatMap (fun w =>
    ((List.range w.2.1).map (fun i => (w.1 + i, BitVec.ofNat 8 (w.2.2 / 256 ^ i)))).filter (fun c => c.2 != 0))

def ent : TlbEnt := ⟨0, 0, 0, 2 ^ 56, 2 ^ 29, 0, true, true, false, false, false, false⟩

def tables : List (Nat × Nat × Nat) :=
  [(0x1000000, 8, 1), (0x1000008, 8, 0x1010000), (0x1010000, 8, 0x1020001), (0x1020000, 8, 0xF)]

/-- A context with registers, in mapped memory that holds numbers. -/
def mapped (c : Ctx) (ws : List (Nat × Nat × Nat)) : State :=
  { stateOf c (mem (tables ++ ws)) with tlb := [ent], asidTable := some 0x1000000 }

/-- What makes a state one in which the address space is mapped. -/
def Mapped (u : State) : Prop :=
  u.tlb = [ent] ∧ u.asidTable = some 0x1000000 ∧ u.readNat 0x1000000 8 = 1 ∧ u.readNat 0x1000008 8 = 0x1010000
    ∧ u.readNat 0x1010000 8 = 0x1020001 ∧ u.readNat 0x1020000 8 = 0xF

theorem readBytes_congr {s u : State} {a n : Nat} (h : ∀ i, i < n → u.byteAt (a + i) = s.byteAt (a + i)) :
    u.readBytes a n = s.readBytes a n := by
  induction n generalizing a with
  | zero => rfl
  | succ n ih =>
    simp only [State.readBytes]
    rw [show u.byteAt a = s.byteAt a from h 0 (by omega),
      ih (fun i hi => by rw [show a + 1 + i = a + (i + 1) by omega]; exact h (i + 1) (by omega))]

theorem Mapped.same {s u : State} (h : Mapped s) {but : Nat → Prop} (w : SameWalks s u but)
    (hb : ∀ a, 0x1000000 ≤ a → a < 0x1020008 → ¬ but a) : Mapped u := by
  obtain ⟨h1, h2, h3, h4, h5, h6⟩ := h
  obtain ⟨w1, w2, -, w3, -, -, -⟩ := w
  have r (a : Nat) (ha : 0x1000000 ≤ a) (hb' : a + 8 ≤ 0x1020008) : u.readNat a 8 = s.readNat a 8 := by
    unfold State.readNat
    rw [readBytes_congr (fun i hi => w1 _ (hb _ (by omega) (by omega)))]
  exact ⟨w2.trans h1, w3.trans h2, by rw [r _ (by omega) (by omega), h3], by rw [r _ (by omega) (by omega), h4],
    by rw [r _ (by omega) (by omega), h5], by rw [r _ (by omega) (by omega), h6]⟩

/-- The translation of an address of the mapped page. -/
def xl (k : Nat) : Xlat := ⟨k, false, false, false, 2 ^ 56, 2 ^ 29⟩

theorem Mapped.root {u : State} (h : Mapped u) : u.rootOf 0 = some 0x1010000 ∧ u.asidGen 0 = 0 := by
  obtain ⟨-, h2, h3, h4, -, -⟩ := h
  have d : u.field 0x1000000 0 1 = 1 := by simp [State.field, h3, bits]
  exact ⟨by simp [State.rootOf, State.asidDesc, h2, d, h4], by simp [State.asidGen, State.asidDesc, h2, State.field, h3, bits]⟩

theorem Mapped.walkFrom {u : State} (h : Mapped u) {k : Nat} (hk : k < 2 ^ 29) :
    u.walkFrom 0 0 0 (2 ^ 56 + k) 0x1010000 walkLevels = .ok ent := by
  obtain ⟨-, -, -, -, h5, h6⟩ := h
  have b1 : bits (2 ^ 56 + k) 42 14 = 0 := by unfold bits; omega
  have b2 : bits (2 ^ 56 + k) 29 13 = 0 := by unfold bits; omega
  have b4 : (2 ^ 56 + k) / 2 ^ 29 * 2 ^ 29 = 2 ^ 56 := by omega
  have e1 (n : Nat) : walkEntry 0 0 0 n 0x1020001 (42, 14, 0, 0x10000) = .ok (.inl 0x1020000) := rfl
  have e2 : walkEntry 0 0 0 (2 ^ 56 + k) 0xF (29, 13, 2 ^ 29, 0x800) = .ok (.inr ent) := by
    simp only [walkEntry, b4]
    rfl
  simp only [walkLevels, State.walkFrom, b1, b2, Nat.mul_zero, Nat.add_zero, h5, e1, h6, e2]

theorem Mapped.hits {u : State} (h : Mapped u) {k : Nat} (hk : k < 2 ^ 29) : u.tlbHits 0 0 (2 ^ 56 + k) = [ent] := by
  have g := h.root.2
  simp [State.tlbHits, h.1, g, ent]
  omega

theorem Mapped.translate {u : State} (h : Mapped u) {k : Nat} (hk : k < 2 ^ 29) (priv write : Bool) :
    u.translate 0 0 priv write (2 ^ 56 + k) = (.ok (xl k), u) := by
  have b : bits (2 ^ 56 + k) 56 1 = 1 := by unfold bits; omega
  have n : ¬ 2 ^ 57 ≤ 2 ^ 56 + k := by omega
  have b3 : paValid k = true := by unfold paValid; simp; omega
  obtain ⟨r, g⟩ := h.root
  unfold State.translate
  rw [if_neg n, if_pos b]
  simp only [r, g, h.walkFrom hk, h.hits hk]
  cases write <;> cases priv <;> simp [useEnt, State.entLoc, ent, xl, h.1, b3]

theorem Mapped.sees {u : State} (h : Mapped u) {w : Who} (hd : dieOfCore w.core = 0) (ha : w.asid = 0) {k : Nat}
    (hk : k < 2 ^ 29) (write : Bool) : Sees u w write (2 ^ 56 + k) (xl k) := by
  refine ⟨by rw [hd, ha]; exact h.translate hk _ _, fun e => ?_⟩
  rw [hd, ha, h.hits hk] at e
  cases e

/-- The issuing lane is on die 0, in address space 0. -/
def Who0 (w : Who) : Prop := dieOfCore w.core = 0 ∧ w.asid = 0

/-- Every access within the mapped page reaches its bytes. -/
theorem Mapped.memReach {s : State} (h : Mapped s) (ha : Who0 s.who) {write : Bool} {ok : Xlat → Bool} {k n : Nat}
    (hp : ∀ p ∈ pieces (2 ^ 56 + k) n, 2 ^ 56 ≤ p.1 ∧ p.1 + p.2 ≤ 2 ^ 56 + 2 ^ 29 ∧ 1 ≤ p.2)
    (hok : ∀ j, ok (xl j) = true) : MemReach s write ok (2 ^ 56 + k) n (fun a => a - 2 ^ 56) := by
  intro p hm
  obtain ⟨h1, h2, h3⟩ := hp p hm
  have e : 2 ^ 56 + (p.1 - 2 ^ 56) = p.1 := by omega
  refine ⟨xl (p.1 - 2 ^ 56), ?_, hok _, ?_, ?_⟩
  · have m := h.sees ha.1 ha.2 (k := p.1 - 2 ^ 56) (by omega) write
    rwa [e] at m
  · simp only [xl]; omega
  · intro i hi
    simp only [xl]; omega

theorem Mapped.firmReach {s : State} (h : Mapped s) (ha : Who0 s.who) {ok : Xlat → Bool} {k : Nat} (hk : k < 2 ^ 29)
    {but : Nat → Prop} (hb : ∀ a, 0x1000000 ≤ a → a < 0x1020008 → ¬ but a) (hok : ok (xl k) = true) :
    FirmReach s ok (2 ^ 56 + k) (fun a => a - 2 ^ 56) but :=
  ⟨xl k, fun _ w => (h.same w hb).sees ha.1 ha.2 hk _, hok, by simp [xl]⟩

theorem noneFirst_of_empty {s : State} {core : Nat} (hw : (s.core core).wpath = []) (hp : s.pendings = []) :
    NoneFirst s core := ⟨hw, fun _ _ => by rw [hp]; rfl⟩

theorem unmoved_of_empty {s : State} (h : s.moves = []) (loc : Nat) : Unmoved s loc := fun m hm => by rw [h] at hm; cases hm

theorem Mapped.objectAt {s : State} (h : Mapped s) (ha : Who0 s.who) (hw : (s.core s.me.core).wpath = []) (hq : s.pendings = [])
    (hm : s.moves = []) {a : Word} {k : Nat} (hk : k < 2 ^ 29) (e : a.toNat = 2 ^ 56 + k) : ObjectAt s a k :=
  ⟨noneFirst_of_empty hw hq, unmoved_of_empty hm k, xl k, by rw [e]; exact h.sees ha.1 ha.2 hk _, rfl, by omega, rfl, rfl⟩

theorem quiet_of_empty {s : State} (hw : (s.core s.me.core).wpath = []) (hq : s.pendings = [])
    (h1 : (s.core s.me.core).l1 = []) (h2 : (s.die s.myDie).rdc = []) : Quiet s := by
  refine ⟨noneFirst_of_empty hw hq, fun line d h => ?_⟩
  rw [h1, h2] at h
  rcases h with h | h <;> cases h

/-- Registers and vectors for the accesses below: s1 names scratchpad byte 0x100, s2 the mapped byte 0x2000, v2 offsets
0, 4, 8 …; p2 holds the bits 1, 2 and 4. -/
def memCtx : Ctx :=
  let c := ctx0 [(1, 0x100), (2, 0x100000000002000), (3, 7), (4, 4)]
  { c with
    v := ((Vector.replicate 32 0).setIfInBounds 1 (vword 32 (List.range 32))).setIfInBounds 2
      (vword 32 ((List.range 32).map (fun j => 4 * j)))
    p := (Vector.replicate 8 0).setIfInBounds 2 0x16 }

def memState : State := mapped memCtx [(0x2000, 8, 0x1122334455667788)]

theorem memState_mapped : Mapped memState := by unfold Mapped; decide +kernel

def onC : State := onLane .C memState

theorem onC_mapped : Mapped onC := by unfold Mapped; decide +kernel

theorem who0 : Who0 onC.who := ⟨rfl, rfl⟩

/-- A scratchpad byte of group 0 of bank 0 of core 0. -/
def spad0 (n a : Nat) : List (List Nat) := [(List.range n).map (fun i => spadLoc 0 (a + i))]

def mWord : MemOps := { m0 with d := 3, base := 1, sz := 2 }

/-- Contiguous, strided, indexed and single accesses, with all elements active and with three. -/
theorem witness_ScratchpadLoads :
    onC.scratchPending = []
    ∧ SpadReach onC false 4 (contiguous onC (hd .C) mWord) (spad0 4)
    ∧ SpadReach onC false 4 (strided onC { hd .C with pred := 2 } { mWord with idx := 4 }) (spad0 4)
    ∧ SpadReach onC false 4 (indexed onC { hd .C with pred := 2 } { mWord with idx := 2, sc := 4 }) (spad0 4)
    ∧ activePositions (onC.mask { hd .C with pinv := true }) 32 = [] ∧ activePositions (onC.mask (hd .C)) 32 ≠ []
    ∧ SpadReach onC false 4 [(0, (onC.ea mWord).toNat)] (spad0 4) ∧ onC.active (hd .C) = true
    ∧ onC.spadSpan onC.me (onC.ea { mWord with base := 2 }).toNat 4 false = none
    ∧ onC.spadSpan onC.me (onC.ea { mWord with base := 2 }).toNat 4 true = none := by
  unfold SpadReach; decide +kernel

theorem witness_ScratchpadStores :
    SpadReach onC true 4 (contiguous onC (hd .C) mWord) (spad0 4)
    ∧ SpadReach onC true 4 (strided onC { hd .C with pred := 2 } { mWord with idx := 4 }) (spad0 4)
    ∧ SpadReach onC true 4 (indexed onC (hd .C) { mWord with idx := 2, sc := 4 }) (spad0 4)
    ∧ SpadReach onC true 8 [(0, (onC.ea { mWord with sz := 3 }).toNat)] (spad0 8) ∧ onC.active (hd .C) = true := by
  unfold SpadReach; decide +kernel

def gWord : MemOps := { m0 with d := 3, base := 2, sz := 2 }

/-- An access of the mapped page, aligned to its pieces. -/
theorem reach {s : State} (h : Mapped s) (ha : Who0 s.who) (write : Bool) {ok : Xlat → Bool} (hok : ∀ j, ok (xl j) = true)
    (a n : Nat) (hp : (decide (2 ^ 56 ≤ a) && (pieces a n).all (fun p => decide (2 ^ 56 ≤ p.1) && decide (p.1 + p.2 ≤ 2 ^ 56 + 2 ^ 29)
      && decide (1 ≤ p.2))) = true) : MemReach s write ok a n (fun a => a - 2 ^ 56) := by
  simp only [Bool.and_eq_true, decide_eq_true_eq, List.all_eq_true] at hp
  obtain ⟨k, rfl⟩ : ∃ k, a = 2 ^ 56 + k := ⟨a - 2 ^ 56, by omega⟩
  exact h.memReach ha (fun p hm => ⟨(hp.2 p hm).1.1, (hp.2 p hm).1.2, (hp.2 p hm).2⟩) hok

theorem clean_of_none {s : State} (h : s.poison = []) (va n : Nat) (at_ : Nat → Nat) : Clean s va n at_ := by
  intro i _
  simp [State.poisoned, h]

theorem witness_GlobalLoads :
    Quiet onC ∧ onC.active (hd .C) = true ∧ (onC.ea gWord).toNat % 4 = 0
    ∧ MemReach onC false anyPage (onC.ea gWord).toNat 4 (fun a => a - 2 ^ 56) ∧ Clean onC (onC.ea gWord).toNat 4 (fun a => a - 2 ^ 56)
    ∧ (∀ e ∈ contiguous onC (hd .C) gWord, MemReach onC false anyPage e.2 4 (fun a => a - 2 ^ 56))
    ∧ (∀ l ∈ linesOf 4 (contiguous onC (hd .C) gWord), MemReach onC false anyPage (64 * l) 64 (fun a => a - 2 ^ 56))
    ∧ (∀ e ∈ indexed onC { hd .C with pred := 2 } { gWord with idx := 2 }, MemReach onC false anyPage e.2 4 (fun a => a - 2 ^ 56)) := by
  have r := reach onC_mapped who0 (ok := anyPage) false (fun _ => rfl)
  refine ⟨quiet_of_empty rfl rfl rfl rfl, by decide +kernel, by decide +kernel, r _ _ (by decide +kernel), clean_of_none rfl _ _ _,
    fun e he => r _ _ ?_, fun l hl => r _ _ ?_, fun e he => r _ _ ?_⟩
  · revert e; decide +kernel
  · revert l; decide +kernel
  · revert e; decide +kernel

theorem witness_GlobalStores :
    (∀ e ∈ [(0, (onC.ea gWord).toNat)], MemReach onC true anyPage e.2 4 (fun a => a - 2 ^ 56))
    ∧ onC.active (hd .C) = true ∧ NoneFirst onC onC.me.core ∧ (onC.ea gWord).toNat % 4 = 0
    ∧ (∀ e ∈ contiguous onC (hd .C) gWord, MemReach onC true anyPage e.2 4 (fun a => a - 2 ^ 56))
    ∧ (∀ r ∈ storePieces (onC.ea gWord).toNat (maskedBytes 4 32 (contiguous onC (hd .C) gWord) (onC.srcE 0 gWord.d 32)),
        MemReach onC true anyPage r.1 r.2.length (fun a => a - 2 ^ 56))
    ∧ (∀ e ∈ indexed onC (hd .C) { gWord with idx := 2 }, MemReach onC true anyPage e.2 4 (fun a => a - 2 ^ 56)) := by
  have r := reach onC_mapped who0 (ok := anyPage) true (fun _ => rfl)
  refine ⟨fun e he => r _ _ ?_, by decide +kernel, noneFirst_of_empty rfl rfl, by decide +kernel, fun e he => r _ _ ?_, fun e he => r _ _ ?_,
    fun e he => r _ _ ?_⟩
  all_goals revert e; decide +kernel

/-- An address above the mapped page, a misaligned one, and one that is not canonical. -/
theorem witness_GlobalAccessFaults :
    let s := mapped (ctx0 [(1, 0x200000000000000), (2, 0x100000000002001)]) []
    let o : MemOps := { m0 with d := 3, base := 1, sz := 2 }
    let q : MemOps := { o with base := 2, ord := 1, scope := 3 }
    s.active (hd .L) = true
    ∧ s.translate 0 s.who.asid s.who.priv false (s.ea o).toNat = (.error .noncanon, s) ∧ s.walkError s.who.asid (s.ea o).toNat = none ∧ (s.ea o).toNat % 4 = 0
    ∧ s.translate 0 s.who.asid s.who.priv true (s.ea o).toNat = (.error .noncanon, s) ∧ s.walkError s.who.asid (s.ea o).toNat = none ∧ ordRel o = false
    ∧ s.translate 0 s.who.asid s.who.priv true (s.aopEa o).toNat = (.error .noncanon, s) ∧ s.walkError s.who.asid (s.aopEa o).toNat = none ∧ (s.aopEa o).toNat % 4 = 0
    ∧ q.ord ≠ 0 ∧ (s.ea q).toNat % 4 ≠ 0 ∧ (s.aopEa q).toNat % 4 ≠ 0 ∧ ordRel q = false := by
  decide +kernel

/-- An ATOM of 8 bytes; a VATOM of three elements from the start, and one that goes on after element 1. -/
theorem witness_AtomicOperations :
    let o : MemOps := { gWord with sz := 3 }
    let q : MemOps := { gWord with idx := 2 }
    let h : Hdr := { hd .C with pred := 2 }
    let at_ : Nat → Nat := fun a => a - 2 ^ 56
    let ok := atomicPage true
    let todo := (atomicElems onC h q).map (fun e => (e.1, e.2.toNat))
    NoneFirst onC onC.me.core ∧ onC.active h = false ∧ onC.active (hd .C) = true
    ∧ (onC.aopEa o).toNat % 8 = 0 ∧ MemReach onC true ok (onC.aopEa o).toNat 8 at_ ∧ Clean onC (onC.aopEa o).toNat 8 at_
    ∧ todo.map (·.1) = [1, 2, 4] ∧ onC.me.ctrl.vamask.getLsbD 32 = false
    ∧ (let mid := onC.updMe (fun c => { c with ctrl := { c.ctrl with vamask := 0x100000002 } })
      ((atomicElems mid h q).filter (fun e => !(mid.me.ctrl.vamask.getLsbD 32 && mid.me.ctrl.vamask.getLsbD e.1))).map (·.1) = [2, 4])
    ∧ ∀ e ∈ todo, e.2 % 4 = 0
      ∧ FirmReach onC ok e.2 at_ (fun a => ∃ e ∈ todo, at_ e.2 ≤ a ∧ a < at_ e.2 + 4)
      ∧ ∀ i, i < 4 → onC.poisoned [at_ e.2 + i] = none := by
  have t : (atomicElems onC { hd .C with pred := 2 } { gWord with idx := 2 }).map (fun e => (e.1, e.2.toNat))
      = [(1, 2 ^ 56 + 0x2004), (2, 2 ^ 56 + 0x2008), (4, 2 ^ 56 + 0x2010)] := by decide +kernel
  have f (k : Nat) (hk : k < 2 ^ 29) : FirmReach onC (atomicPage true) (2 ^ 56 + k) (fun a => a - 2 ^ 56)
      (fun a => ∃ e ∈ [(1, 2 ^ 56 + 0x2004), (2, 2 ^ 56 + 0x2008), (4, 2 ^ 56 + 0x2010)], e.2 - 2 ^ 56 ≤ a ∧ a < e.2 - 2 ^ 56 + 4) := by
    refine onC_mapped.firmReach who0 hk (fun a h1 _ => ?_) rfl
    rintro ⟨e, he, h2, h3⟩
    fin_cases he <;> simp only at h2 h3 <;> omega
  simp only [t]
  refine ⟨noneFirst_of_empty rfl rfl, by decide +kernel, by decide +kernel, by decide +kernel,
    reach onC_mapped who0 true (fun _ => rfl) _ _ (by decide +kernel), clean_of_none rfl _ _ _, rfl, by decide +kernel,
    by decide +kernel, ?_⟩
  intro e he
  have p : onC.poison = [] := rfl
  fin_cases he <;> exact ⟨by norm_num, f _ (by norm_num), fun i _ => by simp [State.poisoned, p]⟩

/-- A reduction, vector reductions, and a WAITA whose condition holds and one whose condition does not. -/
theorem witness_ReductionsAndWaits :
    let o : MemOps := { gWord with sz := 3, idx := 3 }
    let at_ : Nat → Nat := fun a => a - 2 ^ 56
    let x := onC.homeValue at_ (onC.aopEa o).toNat 8
    let ok : Xlat → Bool := fun x => !x.host
    NoneFirst onC onC.me.core ∧ onC.active (hd .C) = true ∧ (onC.aopEa o).toNat % 8 = 0
    ∧ MemReach onC true (fun x => !x.host || aopCode o.off == 0) (onC.aopEa o).toNat 8 at_
    ∧ (∀ e ∈ atomicElems onC { hd .C with pred := 2 } { gWord with idx := 2 }, e.2.toNat % 4 = 0
        ∧ MemReach onC true (fun x => !x.host || aopCode gWord.off == 0) e.2.toNat 4 at_)
    ∧ MemReach onC false ok (onC.aopEa o).toNat 8 at_ ∧ Clean onC (onC.aopEa o).toNat 8 at_
    ∧ waitCond 1 64 x (bits (onC.srcS 2 o.idx).toNat 0 64) = true ∧ waitCond 0 64 x (bits (onC.srcS 2 o.idx).toNat 0 64) = false
    ∧ aopCode ({ o with off := 0x1000 } : MemOps).off = 1 ∧ aopCode o.off = 0 := by
  refine ⟨noneFirst_of_empty rfl rfl, by decide +kernel, by decide +kernel, reach onC_mapped who0 true (fun _ => rfl) _ _ (by decide +kernel), ?_,
    reach onC_mapped who0 false (fun _ => rfl) _ _ (by decide +kernel), clean_of_none rfl _ _ _, by decide +kernel,
    by decide +kernel, by decide +kernel, by decide +kernel⟩
  intro e he
  refine ⟨?_, reach onC_mapped who0 true (fun _ => rfl) _ _ ?_⟩
  all_goals revert e; decide +kernel

/-- 31 bindings and 32; a region of one byte and of 2^48; a region of none, and one that ends above 2^57. -/
theorem witness_FencesBindingsInvalidation :
    let s := base [(1, 1), (2, 0x1000000000000), (3, 0x1FFFFFFFFFFFFFF)]
    let full (n : Nat) : State := s.updMe (fun c => { c with binds := List.replicate n ⟨0, 1, 0, 0⟩ })
    let ok (b len : Word) : Prop := 1 ≤ len.toNat ∧ len.toNat ≤ 2 ^ 48 ∧ b.toNat + len.toNat ≤ 2 ^ 57
    s.active (hd .L) = true ∧ NoneFirst s s.me.core ∧ 32 ≤ (full 32).me.binds.length ∧ (full 31).me.binds.length < 32
    ∧ ok (s.srcS 1 3) (s.srcS 2 1) ∧ ok (s.srcS 1 1) (s.srcS 2 2) ∧ ¬ ok (s.srcS 1 1) (s.srcS 2 0) ∧ ¬ ok (s.srcS 1 3) (s.srcS 2 2)
    ∧ ordAcq { m0 with ord := 3, scope := 3 } = true ∧ s.me.rebinds = [] :=
  ⟨by decide +kernel, noneFirst_of_empty (by decide +kernel) (by decide +kernel), by decide +kernel⟩

/-- CINV from s2, the mapped byte 0x2000, for s4 bytes: copies of the line that they name and of another; ranges of one line
and of none. -/
theorem witness_FencesBindingsInvalidation_ranges :
    let copy : CacheLine := ⟨0, []⟩
    let s : State := onC.updCore 0 (fun c => { c with l1 := [(0x80, copy), (0x240, copy)] })
    let o : MemOps := { m0 with base := 2, idx := 4, sz := 1 }
    let from_ := (s.srcS 1 o.base + offWord o.off).toNat
    let n := (s.srcS 2 o.idx).toNat
    let names (line : Nat) : Prop := ∃ a e, from_ ≤ a ∧ a < from_ + n ∧ 2 ^ 56 ≤ a ∧ a < 2 ^ 57
      ∧ s.walk s.me.ctrl.asid.toNat a = .ok e ∧ (e.pa + (a - e.va)) / 64 = line
    s.active (hd .C) = true ∧ o.sz.toNat = 1 ∧ names 0x80 ∧ 2 ^ 56 ≤ from_ ∧ kvGet (s.core s.me.core).l1 0x240 = some copy
    ∧ copy.vas = [] ∧ ¬ names 0x240 ∧ (s.srcS 2 0).toNat = 0 := by
  have h : Mapped (onC.updCore 0 (fun c => { c with l1 := [(0x80, ⟨0, []⟩), (0x240, ⟨0, []⟩)] })) := by unfold Mapped; decide +kernel
  have w (k : Nat) (hk : k < 2 ^ 29) : State.walk (onC.updCore 0 (fun c => { c with l1 := [(0x80, ⟨0, []⟩), (0x240, ⟨0, []⟩)] })) 0 (2 ^ 56 + k)
      = .ok ent := by
    unfold State.walk
    rw [h.root.1, h.root.2]
    exact h.walkFrom hk
  refine ⟨by decide +kernel, rfl, ⟨2 ^ 56 + 0x2000, ent, ?_, ?_, by norm_num, by norm_num, w _ (by norm_num), by decide⟩, ?_, rfl, rfl, ?_, ?_⟩
  · decide +kernel
  · decide +kernel
  · decide +kernel
  · rintro ⟨a, e, h1, h2, h3, -, h5, h6⟩
    have b : a < 2 ^ 56 + 0x2004 := by
      refine lt_of_lt_of_le h2 ?_
      decide +kernel
    have b' : 2 ^ 56 + 0x2000 ≤ a := by
      refine le_trans ?_ h1
      decide +kernel
    rw [show a = 2 ^ 56 + (a - 2 ^ 56) by omega] at h5
    have g := w (a - 2 ^ 56) (by omega)
    have q : ent = e := by
      have := g.symm.trans h5
      injection this
    subst q
    simp only [ent] at h6
    omega
  · decide +kernel

/-! ### Matrix engines and engine commands -/

/-- A context of lane `l` with registers, in mapped memory that holds numbers. -/
def withRegs (l : Lane) (rs : List (Nat × Word)) (ws : List (Nat × Nat × Nat)) : State := onLane l (mapped (ctx0 rs) ws)

/-- A number in the scratchpad of core 0. -/
def inSpad (a n v : Nat) : Nat × Nat × Nat := (spadLoc 0 a, n, v)

/-- Where a byte of the share of bank 0 of core 0 lies. -/
def share0 (a : Nat) : Nat := spadLoc 0 (a / 0x40000 * 0x80000 + a % 0x40000)

/-- Tiles of one element (s4) and of 64 by 64 (s0), at 0x1000; the last row and quarter; activations of K = 4. -/
theorem witness_AccumulatorMoves :
    let s := withRegs .C [(1, 0x1000), (4, 0x1010004)] []
    let o : MatOps := { a0 with a := 1, k := 4, ta := 10 }
    let sh := shapeOf (s.srcS 3 o.k).toNat false
    let full := shapeOf (s.srcS 3 a0.k).toNat false
    let reg := (s.srcS 1 o.a).toNat
    s.active (hd .C) = true ∧ s.scratchPending = []
    ∧ AccReady s 0 ∧ AccReady s 3 ∧ full.m = 64 ∧ full.n = 64 ∧ (shapeOf 0 true).m = 32
    ∧ OwnReach s ((tileElems sh).flatMap (fun e => tileAddrs reg 0 4 sh.n false e.1 e.2)) (spadLoc 0)
    ∧ OwnReach s ((tileElems sh).flatMap (fun e => tileAddrs reg 0 4 sh.n true e.1 e.2)) (spadLoc 0)
    ∧ (∀ e ∈ tileElems sh, ((tileAddrs reg 0 4 sh.n false e.1 e.2).map (spadLoc 0)).Nodup)
    ∧ OwnReach s (operandAddrs reg 0 1 4 1) (spadLoc 0) ∧ OwnReach s (operandScales reg 4 1 true) (spadLoc 0) := by
  unfold OwnReach AccReady; decide +kernel

/-- A in group 0 and B in group 1, with K = 4; a plane descriptor at 0x2000 with planes in group 1; K = 0. -/
theorem witness_MatrixProducts :
    let s := withRegs .C [(1, 0x1000), (2, 0x41000), (3, 0x2000), (4, 0x1010004)]
      [inSpad 0x2000 8 0x42000, inSpad 0x2040 8 0x43000, inSpad 0x2048 8 0x4000000001, inSpad 0x2050 8 0x101]
    let t := s.updMe (fun c => { c with lut := ⟨4, 12, false, [0, 0, 0, 0], []⟩ })
    let sh := shapeOf (s.srcS 3 (4 : BitVec 6)).toNat false
    let dataA := operandAddrs 0x1000 0 1 4 1
    let dataB := operandAddrs 0x41000 0 1 4 1
    let desc := (List.range 96).map (0x2000 + ·)
    let p := planesOf (desc.map (fun x => t.byteAt (spadLoc 0 x)))
    let apart (xs ys : List Nat) : Prop := ∀ g ∈ groupsOf s xs, g ∉ groupsOf s ys
    s.active (hd .C) = true ∧ t.active (hd .C) = true ∧ t.scratchPending = [] ∧ AccReady t 1
    ∧ (1 ≤ sh.k ∧ sh.k ≤ 4096 ∧ sh.m ≤ 64 ∧ sh.n ≤ 64)
    ∧ OwnReach s (dataA ++ operandScales 0x1000 4 1 false) share0 ∧ OwnReach s dataB share0 ∧ apart dataA dataB
    ∧ OwnReach t desc share0 ∧ planesOk p 1 1 4 = true ∧ OwnReach t (planeTouched p 1 4 1) share0
    ∧ apart dataA (planeTouched p 1 4 1) ∧ sh.k % 4 = 0 ∧ sh.k ≤ t.me.lut.k ∧ bits 0x3F0000 16 7 < 64
    ∧ (shapeOf 0 false).k = 0 ∧ 4096 < (shapeOf 4097 false).k := by
  unfold OwnReach AccReady; decide +kernel

/-- Lengths of 8 bytes; blocks at 0x2000 (shape), 0x2100 (QCVT of 32), 0x2200 (planes) and 0x2300 (collective); a
group of two with this module at rank 0; a COPY of 2^40 bytes; a scratchpad counter at 8, and one that is misaligned. -/
theorem witness_EngineCommandsIssue :
    let g : Group := { (default : Group) with st := .formed, g := 2, handle := 9 }
    let b := withRegs .L [(1, 0x1000), (2, 0x2000), (3, 8), (5, 0x2100), (6, 0x2200), (7, 0x100000000), (8, 0x100000), (9, 0x2300),
        (10, 0x10000000000), (11, 0x1001)]
      [inSpad 0x2000 8 0x400000002, inSpad 0x2008 8 4, inSpad 0x2010 8 4, inSpad 0x2018 8 1, inSpad 0x2100 8 32, inSpad 0x2108 8 0x5000,
        inSpad 0x2200 8 0x6000, inSpad 0x2240 8 0x7000, inSpad 0x2248 8 0x4000000001, inSpad 0x2250 8 0x101,
        inSpad 0x2300 8 0xA00, inSpad 0x2308 8 2, inSpad 0x2310 8 9]
    let s : State := { b with groups := [(1, g)] }
    let o (d : BitVec 6) : EngOps := { e0 with dst := 1, src := 1, desc := d, fl := 12 }
    let block (a n : Nat) : List Byte := ((List.range n).map (a + ·)).map (fun x => s.byteAt (spadLoc 0 x))
    let there (e : EngOps) (dr : Draft) : Bool := ((newCmd s e dr).rangesFrom s 0).isOk
    let sh := block 0x2000 32
    let q := block 0x2100 32
    let p := block 0x2200 96
    let c := block 0x2300 32
    s.active (hd .L) = true ∧ CmdRoom s ∧ s.scratchPending = []
    ∧ (∀ x ∈ [(0x2000, 32), (0x2100, 32), (0x2200, 96), (0x2300, 32)], OwnReach s ((List.range x.2).map (x.1 + ·)) (spadLoc 0))
    ∧ there (o 3) (draft .copy [] 8 0) = true ∧ there (o 3) (draft .fill [] 8 0) = true
    ∧ (shapeOk sh = true ∧ blkRb sh % 2 ^ bits (blkWord sh 3) 0 2 = 0 ∧ there (o 2) (draft .copyt sh 8 0) = true)
    ∧ (bits (blkWord q 0) 0 40 % 32 = 0 ∧ there (o 5) (draft .qcvt q 32 0) = true)
    ∧ (planeDstOk (planesOf p) 1 (bits (s.srcS 2 7).toNat 32 32) = true ∧ (s.srcS 1 1).toNat % 32 = 0
      ∧ there { o 7 with dst := 6 } (draft .plane p 9 0) = true)
    ∧ (groupOfPart s s.me.part = some (1, g) ∧ bits (s.srcS 0 8).toNat 20 3 < g.g
      ∧ there (o 3) ⟨.fsend, [], 8, 0, (1, 0, 0, 0), 0, some 1⟩ = true ∧ there (o 3) ⟨.frecv, [], 8, 0, (1, 0, 0, 0), 0, some 1⟩ = true)
    ∧ (groupOfHandle s (collGrp c) = some (1, g) ∧ g.st = .formed ∧ collOk c g.g = true
      ∧ (addSpots s 0 false false ((List.range (collBytes c)).map (fun i => ⟨true, 0x1000 + i⟩)) []).isOk = true
      ∧ there (o 9) ⟨.fcoll, c, collDst c g.g, 0, (1, 0, 0, 0), 0, some 1⟩ = true)
    ∧ 2 ^ 40 ≤ (s.srcS 2 10).toNat ∧ s.srcS 3 0 = 0 ∧ badCounter s (newCmd s (o 3) (draft .copy [] 0 0)) = false
    ∧ badCounter s (newCmd s { o 3 with ctr := 3, fl := 14, inc := 1 } (draft .copy [] 0 0)) = false
    ∧ badCounter s (newCmd s { o 3 with ctr := 11, fl := 14, inc := 1 } (draft .copy [] 0 0)) = true := by
  unfold OwnReach CmdRoom; decide +kernel

theorem Mapped.counterAt {s : State} (h : Mapped s) (ha : Who0 s.who) (hw : (s.core s.me.core).wpath = []) (hq : s.pendings = [])
    (hp : s.poison = []) {k : Nat} (hk : k < 2 ^ 29) (h8 : k % 8 = 0) (write : Bool) : CounterAt s false write (2 ^ 56 + k) k :=
  ⟨by omega, by simp [State.poisoned, hp], noneFirst_of_empty hw hq, xl k, h.sees ha.1 ha.2 hk write, rfl, rfl, rfl⟩

/-- A lane whose s1 names a counter in memory, s2 one in the scratchpad and s5 a command; s3 is 5, s4 is 6. -/
def countState : State :=
  withRegs .L [(1, 0x100000000002000), (2, 0x100), (3, 5), (4, 6), (5, 0x10001), (6, 0x10002)] [(0x2000, 8, 5), inSpad 0x100 8 5]

/-- Its counters hold 5; a command in flight and one with a fault, and a number that names none. -/
theorem witness_CompletionCounters :
    let b := countState
    let c := newCmd b e0 (draft .copy [] 8 0)
    let s : State := { b with cmds := [c, { c with num := 2, phase := .held, fault := some (0, false, 0) }] }
    let name (w : Word) := (laneOfCode (bits w.toNat 16 2)).bind (fun l => s.cmdOf s.cur.ctx l (BitVec.ofNat 16 w.toNat))
    b.active (hd .L) = true ∧ (s.srcS 2 3).toNat ≤ s.readNat 0x2000 8 ∧ s.readNat 0x2000 8 < (s.srcS 2 4).toNat
    ∧ name 1 = none ∧ name (s.srcS 1 5) = s.cmds.head? ∧ (name (s.srcS 1 6)).any (fun d => d.phase == .held && d.fault.isSome) = true
    ∧ s.cmds ≠ [] := by
  decide +kernel

theorem witness_CompletionCounters_at :
    let s := countState
    CounterAt s false false (s.srcS 1 1).toNat 0x2000 ∧ CounterAt s false true (s.srcS 1 1).toNat 0x2000
    ∧ CounterAt s true true (s.srcS 1 2).toNat (spadLoc 0 0x100) := by
  have h : Mapped countState := by unfold Mapped; decide +kernel
  have e : (countState.srcS 1 1).toNat = 2 ^ 56 + 0x2000 := by decide +kernel
  refine ⟨?_, ?_, by decide +kernel, by decide +kernel, by rw [if_pos rfl]; decide +kernel⟩
  all_goals
    rw [e]
    exact h.counterAt ⟨rfl, rfl⟩ rfl rfl rfl (by norm_num) rfl _
/-! ### Engine-command events, collectives, rods, barriers -/

/-- A COPY of 8 bytes from 0x100 to 0x200, queued and started, and the sibling that is idle; a FILL whose page is
absent and awaited, with the level-0 entry of its walk in the die's walk cache. -/
theorem witness_EngineCommandEvents :
    let b := withRegs .L [(1, 0x200), (2, 0x100), (3, 8), (5, 0x100000020000000)] []
    let ev : Ev := ⟨0, .L, 1, 0, 0, [], []⟩
    let o : EngOps := { e0 with dst := 1, src := 2, desc := 3, fl := 0b001100 }
    let c := newCmd b o (draft .copy [] 8 0)
    let f := newCmd b { o with dst := 5, fl := 0 } (draft .fill [] 8 0)
    let at_ (x : EngCmd) : State := { b with cmds := [x], cur := { b.cur with ev := ev } }
    let await (x : EngCmd) : State :=
      { ((at_ x).updVif 0 (fun v => { v with pageReqs := [(0, 0x100000020000000)] })) with walks := [⟨0, 0, 0, 0, 2 ^ 14, 0x1020001⟩] }
    (at_ c).evCmd = some c ∧ c.predsDone = true ∧ c.phase = .queued ∧ c.idle = false ∧ f.idle = false
    ∧ dieOfCore f.core = 0 ∧ (at_ c).scratchPending = [] ∧ c.named ev.ctx ev.lane (BitVec.ofNat 16 ev.num) = true
    ∧ (c.off = 0 ∧ c.data = [] ∧ c.sub = 0 ∧ c.fl = 0b001100 ∧ c.ctr = 0 ∧ c.len = 8)
    ∧ (∀ i, i < 8 → (at_ c).spadSpan ((at_ c).ctx 0) (offsetBy c.src (i : Nat)) 1 false = some [[spadLoc 0 (0x100 + i)]]
      ∧ (at_ c).spadSpan ((at_ c).ctx 0) (offsetBy c.dst (i : Nat)) 1 true = some [[spadLoc 0 (0x200 + i)]]
      ∧ (at_ c).poisoned [spadLoc 0 (0x100 + i)] = none)
    ∧ (∀ i, i < 8 → ∀ j, j < 8 → spadLoc 0 (0x100 + i) ≠ spadLoc 0 (0x200 + j) ∧ (spadLoc 0 (0x200 + i) = spadLoc 0 (0x200 + j) → i = j))
    ∧ (at_ { c with kind := .pref }).evCmd = some { c with kind := .pref }
    ∧ isService c.core = false ∧ ((List.range 4).map (fun i => c.core / 4 * 4 + i)).find?
        (fun j => j != c.core && engineIdle (at_ { c with fl := 1 }) j) = some 1
    ∧ (await f).evCmd = some f ∧ f.fl = 0 ∧ f.off = 0 ∧ 0 < f.len
    ∧ (await f).translate 0 f.asid.toNat ((await f).cmdWho f).priv true f.dst.toNat = (.error .absent, await f)
    ∧ pageAwaited (await f) f.asid.toNat f.dst.toNat = true := by
  refine ⟨?_, ?_, ?_, ?_, ?_, ?_, ?_, ?_, ?_⟩ <;> decide +kernel

/-- A group of two: no report, both reports, a break asked for; ranks 0 and 1. -/
theorem witness_CollectiveEvents :
    let g : Group := { (default : Group) with st := .formed, g := 2, handle := 9 }
    let c := { (newCmd (base []) e0 (draft .fcoll [] 0 0)) with ends := (1, 0, 0, 0), grp := some 1 }
    let at_ (g : Group) (b : Nat) : State := { base [] with
      groups := [(1, g)], cmds := [c], cur := { (base []).cur with ev := ⟨0, .L, 0, 1, b, [7], []⟩ } }
    (∃ x ∈ (at_ g 0).cmds, x.kind = .fcoll ∧ x.idle = false ∧ x.grp = some 1 ∧ x.acked = false)
    ∧ (at_ g 1).group 1 = g ∧ g.st = .formed ∧ 1 ≠ g.rank ∧ 1 < g.g ∧ g.reports = []
    ∧ (∀ r, r < g.g → ∃ x ∈ [(0, []), (1, [(7 : Byte)])], x.1 = r) ∧ g.breakReq = false
    ∧ collCmd (at_ g 0) 1 g.decided = some c
    ∧ ((at_ { g with breakReq := true } 0).group 1).breakReq = true ∧ (at_ { g with rank := 1 } 3).cur.ev.b = 3
    ∧ (at_ { g with breakReq := true, rank := 1 } 0).group 1 = { g with breakReq := true, rank := 1 } := by decide +kernel

/-- The control block of a rod of two elements of 8 bytes. -/
def rodCells (loc : Nat) (sp : Bool) (base head tail status : Nat) : List (Nat × Nat × Nat) :=
  let w := 0xB0D5 + 2 ^ 16 * sp.toNat + 2 ^ 32 * 3 + 2 ^ 40 + 2 ^ 48 * (rodHome loc % 256)
  [(loc, 8, w), (loc + 8, 8, base), (loc + 0x10, 8, head), (loc + 0x18, 8, tail), (loc + 0x20, 8, tail),
    (loc + 0x28, 8, 2 - dist64 head tail), (loc + 0x30, 8, 0x7FF07FF),
    (loc + 0x38, 8, status + 2 ^ 48 * crc16 (bytesOf w 8 ++ bytesOf base 8))]

def rodRef (sp : Bool) : RodRef := if sp then ⟨spadLoc 0 0x400, 0x400, true⟩ else ⟨0x3000, 0x100000000003000, false⟩

/-- s1 names the rod, s2 a bead at 0x100; s3 is its size, and s4 another. -/
def rodState (sp : Bool) (head tail status : Nat) : State :=
  withRegs .L [(1, (rodRef sp).addr), (2, 0x100), (3, 8), (4, 16)]
    (rodCells (rodRef sp).loc sp (if sp then 0x500 else 0x100000000004000) head tail status)

/-- The slots of both rods. -/
def rodSlot (sp : Bool) (k : Nat) : List Nat :=
  (List.range 8).map (fun i => if sp then spadLoc 0 (0x500 + 8 * k + i) else 0x4000 + 8 * k + i)

/-- A rod as it is initialised, a full one, one whose HEAD wraps, one with the last slot reserved next, a closed one. -/
def rodCases : List (Nat × Nat × Nat) := [(0, 0, 0), (0, 2, 0), (2 ^ 64 - 1, 0, 0), (0, 1, 0), (1, 1, 1)]

theorem rod_who : ∀ p ∈ rodCases, Who0 (rodState false p.1 p.2.1 p.2.2).who := by unfold Who0; decide +kernel

theorem rod_reach (sp : Bool) : ∀ p ∈ rodCases, RodReach (rodState sp p.1 p.2.1 p.2.2) (rodRef sp)
    ∧ RodSound (rodState sp p.1 p.2.1 p.2.2) (rodRef sp) ∧ NoWaiters (rodState sp p.1 p.2.1 p.2.2) (rodRef sp).loc := by
  intro p hp
  refine ⟨?_, ⟨?_, ?_, ?_, unmoved_of_empty rfl _⟩, fun q hq => by cases hq⟩
  · cases sp
    · refine ⟨rfl, Mapped.objectAt (k := 0x3000) ?_ (rod_who p hp) rfl rfl rfl (by norm_num) rfl⟩
      unfold Mapped
      revert p
      decide +kernel
    · unfold RodReach BlockAt Unmoved
      rw [if_pos (show (rodRef true).sp = true from rfl)]
      revert p
      decide +kernel
  · revert p; cases sp <;> decide +kernel
  · revert p; cases sp <;> decide +kernel
  · unfold rodFixHome
    rw [if_pos]
    revert p; cases sp <;> decide +kernel

theorem rod_mapped : ∀ p ∈ rodCases, Mapped (rodState false p.1 p.2.1 p.2.2) := by unfold Mapped; decide +kernel

theorem rod_slots (sp : Bool) : ∀ p ∈ rodCases, ∀ k ∈ [p.1, p.2.1], ∀ w ∈ [true, false],
    SlotAt (rodState sp p.1 p.2.1 p.2.2) (rodRef sp) k w (rodSlot sp (k % 2)) := by
  intro p hp k hk w hw
  have g : ∀ p ∈ rodCases, ∀ k ∈ [p.1, p.2.1], ∀ sp, isWorkRod (rodRef sp).loc = false ∧ (rodSlot sp (k % 2)).Nodup
      ∧ ∀ a ∈ rodSlot sp (k % 2), ¬ ((rodRef sp).loc ≤ a ∧ a < (rodRef sp).loc + 64) := by decide +kernel
  obtain ⟨g1, g2, g3⟩ := g p hp k hk sp
  refine ⟨g1, ?_, g2, g3⟩
  cases sp
  · have m := rod_mapped p hp
    have e : ∀ p ∈ rodCases, ∀ k ∈ [p.1, p.2.1], let s := rodState false p.1 p.2.1 p.2.2
        pieces ((rodBase s 0x3000 + k % rodCap s 0x3000 * 2 ^ rodElsz s 0x3000) % 2 ^ 64) (2 ^ rodElsz s 0x3000)
          = [(2 ^ 56 + (0x4000 + 8 * (k % 2)), 8)] := by decide +kernel
    rw [if_neg (by decide)]
    refine ⟨fun a => a - 2 ^ 56, ?_, fun q hq => ?_⟩
    · rw [show (rodRef false).loc = 0x3000 from rfl, e p hp k hk]
      have : k % 2 = 0 ∨ k % 2 = 1 := by omega
      rcases this with h | h <;> rw [h] <;> decide +kernel
    · rw [show (rodRef false).loc = 0x3000 from rfl, e p hp k hk, List.mem_singleton] at hq
      subst hq
      refine ⟨xl (0x4000 + 8 * (k % 2)), fun u sw => ?_, rfl, fun i hi => by simp only [xl]; omega⟩
      refine (m.same sw (fun a _ h hb => ?_)).sees (rod_who p hp).1 (rod_who p hp).2 (by omega) _
      have := hb.2
      rw [show (rodRef false).loc = 0x3000 from rfl] at this
      omega
  · rw [if_pos (show (rodRef true).sp = true from rfl)]
    refine ⟨(rodState true p.1 p.2.1 p.2.2).me, 0x400, ?_, ?_⟩
    · clear hk w hw
      revert p; decide +kernel
    · revert k; revert p; decide +kernel

/-- Every clause at a rod of `rodCases`: empty, full, closed; the right size and another. -/
theorem witness_RodTransfers (sp : Bool) :
    (∀ p ∈ rodCases, let s := rodState sp p.1 p.2.1 p.2.2
      s.active (hd .L) = true ∧ s.scratchPending = [] ∧ ((s.core s.me.core).wpath = [] ∧ s.pendings = []) ∧ (rodRef sp).addr = s.srcS 1 1
      ∧ (∀ m ∈ [8, 32], ∀ w ∈ [true, false], s.spadSpan s.me (s.srcS 2 2).toNat m w = some [(List.range m).map (fun i => spadLoc 0 (0x100 + i))])
      ∧ s.boardHit s.cur.ctx ((List.range 32).map (fun i => spadLoc 0 (0x100 + i))) = false ∧ s.poison = []
      ∧ (s.srcS 3 3).toNat = 2 ^ rodElsz s (rodRef sp).loc ∧ (s.srcS 3 4).toNat ≠ 2 ^ rodElsz s (rodRef sp).loc)
    ∧ (∀ p ∈ rodCases, ∀ k ∈ [p.1, p.2.1], BeadStands (rodState sp p.1 p.2.1 p.2.2) (rodRef sp) k (rodSlot sp (k % 2)))
    ∧ (let s := rodState sp 0 1 0; rodStatus s (rodRef sp).loc = 0 ∧ rodFree s (rodRef sp).loc = 1 ∧ rodTail s (rodRef sp).loc = 1)
    ∧ (let s := rodState sp 0 2 0; rodFree s (rodRef sp).loc = 0 ∧ rodTail s (rodRef sp).loc ≠ rodHead s (rodRef sp).loc)
    ∧ (let s := rodState sp 0 0 0; rodTail s (rodRef sp).loc = rodHead s (rodRef sp).loc ∧ rodStatus s (rodRef sp).loc = 0)
    ∧ (let s := rodState sp 1 1 1; rodTail s (rodRef sp).loc = rodHead s (rodRef sp).loc ∧ rodStatus s (rodRef sp).loc = 1) := by
  unfold BeadStands; cases sp <;> decide +kernel

/-- Valid and invalid fields for RODINIT; an open rod; with privilege, one that holds a bead, and a quarantined one. -/
theorem witness_RodAdministration :
    let s := rodState false 0 1 0
    let r := rodRef false
    let p (s : State) : State := s.updMe (fun c => { c with ctrl := { c.ctrl with prv := true } })
    let q := rodState false 0 1 2
    rodInitOk s r 0x100000000004000 3 1 0 = true ∧ rodInitOk s r 0 8 24 7 = true ∧ rodInitOk s r 0x100000000004008 3 1 0 = false
    ∧ rodInitOk s r 0 2 1 0 = false ∧ rodStatus s r.loc = 0 ∧ s.me.holdsPriv = false
    ∧ (p s).me.holdsPriv = true ∧ rodCheck12 (p s) r = .ok ∧ rodTail (p s) r.loc = rodRsv (p s) r.loc
    ∧ rodCheck12 (p q) r = .quarantined ∧ rodFieldsOk (p q) r = true ∧ dist64 (rodHead q r.loc) (rodTail q r.loc) ≤ rodCap q r.loc
    ∧ Mapped (p s) ∧ Mapped (p q) ∧ rodTail (p q) r.loc = rodRsv (p q) r.loc := by
  unfold Mapped; decide +kernel

/-- A barrier for two: none arrived, one arrived in the last phase; phases to come and past; one for none. -/
theorem witness_Barriers :
    let s (n k p : Nat) : State := withRegs .L [(1, 0x100000000003000), (2, 5), (3, 0xFFFFFFFF)]
      [(0x3000, 8, 0xBA5E + 2 ^ 32 * n), (0x3008, 8, k + 2 ^ 32 * p)]
    let again (q : Nat) : State := (s 2 1 0).updMyLane (fun x => { x with rslot := some 0, normal := { x.normal with barPhase := some (BitVec.ofNat 32 q) } })
    (∀ x ∈ [(2, 0, 0), (2, 1, 2 ^ 32 - 1), (0, 0, 0)], Mapped (s x.1 x.2.1 x.2.2) ∧ (s x.1 x.2.1 x.2.2).myLane.rslot = none
      ∧ ((s x.1 x.2.1 x.2.2).srcS 1 1).toNat % 64 = 0)
    ∧ (∀ q ∈ [0, 1], (again q).myLane.rslot.isSome = true
      ∧ ((again q).me.queues (again q).cur.lane).barPhase = some (BitVec.ofNat 32 q) ∧ barOk (again q) 0x3000 = true ∧ barPhaseAt (again q) 0x3000 = 0)
    ∧ ((s 2 0 0).srcS 2 0).toNat % 2 ^ 32 = 0
    ∧ (barOk (s 2 0 0) 0x3000 = true ∧ barArrived (s 2 0 0) 0x3000 + 1 < barCount (s 2 0 0) 0x3000)
    ∧ (barOk (s 2 1 (2 ^ 32 - 1)) 0x3000 = true ∧ barArrived (s 2 1 0) 0x3000 + 1 = barCount (s 2 1 0) 0x3000)
    ∧ phasePassed 0 ((s 2 0 0).srcS 2 3).toNat = true ∧ phasePassed 0 ((s 2 0 0).srcS 2 2).toNat = false
    ∧ barOk (s 0 0 0) 0x3000 = false ∧ ((s 0 0 0).srcS 2 2).toNat % 2 ^ 32 ≠ 0 := by
  unfold Mapped; decide +kernel

theorem barrier_objects (s : State) (h : Mapped s) (ha : Who0 s.who) (hw : (s.core s.me.core).wpath = []) (hq : s.pendings = [])
    (hm : s.moves = []) (e : s.srcS 1 1 = 0x100000000003000) : ObjectAt s (s.srcS 1 1) 0x3000 :=
  h.objectAt ha hw hq hm (by norm_num) (by rw [e]; rfl)
/-! ### Sequences, block tables, sampling, the index -/

/-- A virtual address of the mapped page. -/
def M (k : Nat) : Nat := 2 ^ 56 + k

/-- A record at 0x3000: STATE, further bits of its first word, HLEN; ITER is 3, DEPTH 1, NMAX 1. -/
def recordCells (st more hlen : Nat) : List (Nat × Nat × Nat) :=
  [(0x3000, 8, 0x5E0C + 2 ^ 16 * st + more + 7 * 2 ^ 32), (0x3008, 8, 3), (0x3010, 8, M 0x5000), (0x3018, 8, M 0x5040),
    (0x3020, 8, M 0x100000), (0x3028, 8, M 0x7000), (0x3030, 8, hlen + 64 * 2 ^ 32), (0x3038, 8, 5), (0x3050, 8, 0x10100000000)]

/-- A block table of one entry, and what the entry holds. -/
def tableCells (loc ent len first : Nat) : List (Nat × Nat × Nat) :=
  [(loc, 8, 0xB7AB + 2 ^ 32), (loc + 8, 8, M ent), (loc + 0x10, 8, M 0x6000), (loc + 0x18, 8, len * 2 ^ 32),
    (loc + 0x28, 8, 2 ^ 64 - 1), (loc + 0x30, 8, 2 ^ 64 - 1), (loc + 0x38, 4, 0xFFFFFFFF), (ent, 4, first)]

/-- A pool of four pages, the first PRIVATE. -/
def poolCells : List (Nat × Nat × Nat) :=
  [(0x6000, 8, 0x9A6E + 2 ^ 52), (0x6008, 8, M 0x200000), (0x6010, 8, 4 + 64 * 2 ^ 32), (0x6018, 8, M 0x300000), (0x6028, 8, M 0x6100), (0x6030, 8, M 0x6200),
    (0x6100, 8, 1)]

/-- Its free-page rod. -/
def freeRodCells : List (Nat × Nat × Nat) := rodCells 0x6200 false (M 0x6300) 0 0 0

/-- A lane S whose s1 names the record, s2 its ITER and s3 scratchpad byte 0x100; s4 another ITER. BTD.LEN and NN are given. -/
def seqState (st more hlen len nn : Nat) : State :=
  withRegs .S [(1, 0x100000000003000), (2, 3), (3, 0x100), (4, 4)]
    (recordCells st more hlen ++ [(0x5018, 8, len * 2 ^ 32), (0x100000, 8, nn)])

/-- The same with TBT and its pool; with `both`, with BTD and the free-page rod as well. -/
def tabledState (both : Bool) (st : Nat) : State :=
  withRegs .S [(1, 0x100000000003000), (2, 3), (3, 0x100), (4, 4)]
    (recordCells st 0 1 ++ tableCells 0x5040 0x5110 0 0xFFFFFFFF ++ poolCells
      ++ if both then tableCells 0x5000 0x5100 0 0 ++ freeRodCells else [])

def asPrivileged (s : State) : State := s.updMe (fun c => { c with ctrl := { c.ctrl with prv := true } })

/-- Bytes of the mapped page from `k` on are firmly there, whatever bytes below its tables hold. -/
theorem Mapped.firmPlace {s : State} (h : Mapped s) {w : Who} (ha : Who0 w) (hw : (s.core w.core).wpath = []) (hq : s.pendings = [])
    (hp : s.poison = []) {k n : Nat} (hk : k + n ≤ 2 ^ 29) {but : Nat → Prop}
    (hb : ∀ a, 0x1000000 ≤ a → a < 0x1020008 → ¬ but a) : FirmPlace s w (M k) n k but := by
  refine ⟨noneFirst_of_empty hw hq, by unfold M; omega, by unfold M; omega, fun i hi => ⟨by simp [State.poisoned, hp], xl (k + i), rfl, rfl, rfl,
    fun u write sw => ?_⟩⟩
  rw [show M k + i = 2 ^ 56 + (k + i) by unfold M; omega]
  exact (h.same sw hb).sees ha.1 ha.2 (by omega) write

theorem witness_SequenceRecordWrites :
    let s := seqState 1 0 1 0 1
    FirmPlace s s.who (M 0x3000) 128 0x3000 (fun a => 0x3000 ≤ a ∧ a < 0x3000 + 128) := by
  have h : Mapped (seqState 1 0 1 0 1) := by unfold Mapped; decide +kernel
  exact h.firmPlace ⟨rfl, rfl⟩ rfl rfl rfl (by norm_num) (fun a h1 _ h2 => by omega)

/-! ### Operations that complete whatever the tree holds

`Fair`: a mapped state with nothing pending, in which the record at 0x3000 names its table, its tree and its
history, and die 0 has beads that wait for full work rods, so that a further one joins them. `Does m Q`: from every
such state `m` completes, leaves such a state, and its result meets `Q`. -/

/-- A die's records are of address space 0 and partition 0, and beads wait for both of its work rods. -/
def calmDie (d : Die) : Bool :=
  d.seqs.all (fun q => q.asid == 0 && q.part == 0)
    && [true, false].all (fun draft => d.deferred.any (fun x => x.full && x.part == 0 && x.draft == draft))

/-- There is no die but die 0. -/
def calm : Kv Die → Bool
  | [(0, d)] => calmDie d
  | _ => false

structure Fair (s : State) : Prop where
  map : Mapped s
  path : ∀ kc ∈ s.cores, kc.2.wpath = []
  poison : s.poison = []
  waiters : s.waiters = []
  mine : s.me.core = 0 ∧ s.me.ctrl.asid = 0
  parts : s.parts = []
  dies : calm s.dies = true
  record : s.readNat 0x3010 8 = M 0x5000 ∧ s.readNat 0x3020 8 = M 0x100000 ∧ s.readNat 0x3028 8 = M 0x7000
    ∧ bits (s.readNat 0x3030 8) 0 32 ≤ 8 ∧ s.readNat 0x3068 8 = 0

def Does {α : Type} (m : Op α) (Q : α → Prop) : Prop := ∀ s, Fair s → ∃ a t, Runs s m a t ∧ Fair t ∧ Q a

theorem does_bind {α β : Type} {m : Op α} {f : α → Op β} {Q : α → Prop} {R : β → Prop} (h : Does m Q)
    (k : ∀ a, Q a → Does (f a) R) : Does (m >>= f) R := by
  intro s hs
  obtain ⟨a, t, r, ht, q⟩ := h s hs
  obtain ⟨b, u, r', hu, q'⟩ := k a q t ht
  exact ⟨b, u, by rw [Runs, run_bind_ok r]; exact r', hu, q'⟩

theorem does_pure {α : Type} {a : α} {Q : α → Prop} (h : Q a) : Does (pure a) Q := fun s hs => ⟨a, s, rfl, hs, h⟩

theorem does_get : Does (get : Op State) Fair := fun s hs => ⟨s, s, rfl, hs, hs⟩

theorem does_modify {f : State → State} (h : ∀ s, Fair s → Fair (f s)) : Does (modify f) (fun _ => True) :=
  fun s hs => ⟨(), f s, rfl, h s hs, trivial⟩

theorem does_forM {α : Type} {f : α → Op Unit} (l : List α) (h : ∀ a ∈ l, Does (f a) (fun _ => True)) :
    Does (l.forM f) (fun _ => True) := by
  induction l with
  | nil => exact does_pure trivial
  | cons a l ih =>
    exact does_bind (h a (by simp)) (fun _ _ => ih (fun b hb => h b (by simp [hb])))

theorem readNat_congr {s t : State} {a n : Nat} (h : ∀ i, i < n → t.byteAt (a + i) = s.byteAt (a + i)) :
    t.readNat a n = s.readNat a n := by
  unfold State.readNat
  rw [readBytes_congr h]

/-- Places outside the translation tables and the named fields of the record. -/
def elsewhere (k n : Nat) : Prop :=
  (k + n ≤ 0x3010 ∨ 0x3038 ≤ k) ∧ (k + n ≤ 0x3068 ∨ 0x3070 ≤ k) ∧ (k + n ≤ 0x1000000 ∨ 0x1020008 ≤ k)

/-- A state that differs in no more than this is fair too. -/
theorem Fair.keep {s t : State} (h : Fair s) (h1 : t.tlb = s.tlb ∧ t.asidTable = s.asidTable)
    (h2 : ∀ a, ¬ elsewhere a 1 → t.byteAt a = s.byteAt a) (h3 : ∀ kc ∈ t.cores, kc.2.wpath = []) (h4 : t.poison = [])
    (h5 : t.waiters = []) (h6 : t.ctxs = s.ctxs ∧ t.cur = s.cur) (h7 : t.parts = s.parts) (h8 : calm t.dies = true) : Fair t := by
  obtain ⟨⟨m1, m2, m3, m4, m5, m6⟩, -, -, -, mine, parts, -, c1, c2, c3, c4, c5⟩ := h
  have r (a : Nat) (ha : ∀ i, i < 8 → ¬ elsewhere (a + i) 1) : t.readNat a 8 = s.readNat a 8 :=
    readNat_congr (fun i hi => h2 _ (ha i hi))
  refine ⟨⟨h1.1.trans m1, h1.2.trans m2, (r _ ?_).trans m3, (r _ ?_).trans m4, (r _ ?_).trans m5, (r _ ?_).trans m6⟩, h3, h4, h5,
    ?_, h7.trans parts, h8, (r _ ?_).trans c1, (r _ ?_).trans c2, (r _ ?_).trans c3, ?_, (r _ ?_).trans c5⟩
  all_goals try (intro i hi; unfold elsewhere; omega)
  · unfold State.me State.ctx at mine ⊢
    rw [h6.1, h6.2]
    exact mine
  · rw [r 0x3030 (by intro i hi; unfold elsewhere; omega)]
    exact c4

theorem kv_put_mem {α : Type} {m : Kv α} {k : Nat} {x : α} {p : Nat × α} (h : p ∈ kvPut m k x) : p = (k, x) ∨ p ∈ m := by
  induction m with
  | nil => simpa [kvPut] using h
  | cons q m ih =>
    obtain ⟨j, y⟩ := q
    simp only [kvPut] at h
    split at h
    · simpa using h
    · split at h
      · simp only [List.mem_cons] at h ⊢
        tauto
      · simp only [List.mem_cons] at h ⊢
        rcases h with h | h
        · exact .inr (.inl h)
        · rcases ih h with h | h <;> tauto

theorem kv_get_mem {α : Type} {m : Kv α} {k : Nat} {x : α} (h : kvGet m k = some x) : (k, x) ∈ m := by
  induction m with
  | nil => simp [kvGet] at h
  | cons q m ih =>
    obtain ⟨j, y⟩ := q
    simp only [kvGet] at h
    split at h
    · rename_i e
      simp only [Option.some.injEq] at h
      simp [e, h]
    · simp [ih h]

theorem path_empty {s : State} (h : ∀ kc ∈ s.cores, kc.2.wpath = []) (c : Nat) : (s.core c).wpath = [] := by
  unfold State.core
  cases e : kvGet s.cores c with
  | none => rfl
  | some x => exact h _ (kv_get_mem e)

theorem pendings_empty {s : State} (h : ∀ kc ∈ s.cores, kc.2.wpath = []) : s.pendings = [] := by
  have e : s.cores.flatMap (fun kc => kc.2.wpath.map (fun e => (kc.1, e))) = [] := by
    rw [List.flatMap_eq_nil_iff]
    intro kc hk
    rw [h kc hk]
    rfl
  rw [State.pendings, e]
  rfl

theorem Fair.core {s : State} (h : Fair s) (c : Nat) : (s.core c).wpath = [] := path_empty h.path c

theorem Fair.none {s : State} (h : Fair s) (c : Nat) : NoneFirst s c := noneFirst_of_empty (h.core c) (pendings_empty h.path)

theorem Fair.updCore {s : State} (h : Fair s) (c : Nat) {f : CoreSt → CoreSt} (hf : (f (s.core c)).wpath = []) :
    Fair (s.updCore c f) := by
  refine h.keep ⟨rfl, rfl⟩ (fun _ _ => rfl) (fun kc hk => ?_) h.poison h.waiters ⟨rfl, rfl⟩ rfl h.dies
  rcases kv_put_mem hk with rfl | hk
  · exact hf
  · exact h.path _ hk

theorem Fair.die {s : State} (h : Fair s) : s.dies = [(0, s.die 0)] ∧ calmDie (s.die 0) = true := by
  have e := h.dies
  unfold calm at e
  split at e
  · next d hd =>
    have g : s.die 0 = d := by simp [State.die, hd, kvGet]
    rw [g]
    exact ⟨hd, e⟩
  · cases e

theorem Fair.updDie {s : State} (h : Fair s) {f : Die → Die} (hf : calmDie (f (s.die 0)) = true) : Fair (s.updDie 0 f) := by
  refine h.keep ⟨rfl, rfl⟩ (fun _ _ => rfl) h.path h.poison h.waiters ⟨rfl, rfl⟩ rfl ?_
  show calm (kvPut s.dies 0 (f (s.die 0))) = true
  rw [h.die.1]
  exact hf

theorem pieces_one {n : Nat} (hn : 1 ≤ n) {va : Nat} (h : va % 64 + n ≤ 64) (hv : va + n < 2 ^ 64) : pieces va n = [(va, n)] := by
  induction n generalizing va with
  | zero => omega
  | succ n ih =>
    rw [pieces]
    cases n with
    | zero => simp [pieces]
    | succ n =>
      rw [Nat.mod_eq_of_lt (show va + 1 < 2 ^ 64 by omega), ih (by omega) (by omega) (by omega)]
      simp only
      rw [if_neg (by omega)]

theorem does_xlat {w : Who} (hw : Who0 w) (write : Bool) {k : Nat} (hk : k < 2 ^ 29) :
    Does (xlat w write (2 ^ 56 + k)) (fun x => x = xl k) :=
  fun s hs => ⟨xl k, s, run_xlat_ok (hs.map.sees hw.1 hw.2 hk write), hs, rfl⟩

theorem does_count (w : Who) (k : Nat) : Does (modify (fun s => countAccess s w (xl k))) (fun _ => True) :=
  does_modify (fun s hs => by simpa [countAccess, xl] using hs)

/-- A read at a home gives the bytes of some fair state. -/
theorem does_homeRead (core loc n : Nat) : Does (homeRead core loc n) (fun bs => ∃ u, Fair u ∧ bs = u.readBytes loc n) := by
  intro s hs
  refine ⟨s.readBytes loc n, s, ?_, hs, s, hs, rfl⟩
  have : s.poisoned ((List.range n).map (loc + ·)) = none := by simp [State.poisoned, hs.poison]
  unfold homeRead
  rw [Runs, run_bind_ok (run_drainFor_none (hs.none core) loc n), run_bind_ok (run_get s)]
  simp only [this]
  rfl

/-- The bytes of one piece of a read. -/
theorem does_piece {w : Who} (hw : Who0 w) (acc : List Byte) {k n : Nat} (hk : k < 2 ^ 29) :
    Does (do
      let x ← xlat w false (2 ^ 56 + k)
      let bs ← homeRead w.core x.loc n
      modify (fun s => countAccess s w x)
      return acc ++ bs) (fun bs => ∃ u, Fair u ∧ bs = acc ++ u.readBytes k n) := by
  refine does_bind (does_xlat hw false hk) (fun x hx => ?_)
  subst hx
  refine does_bind (does_homeRead w.core k n) (fun bs q => ?_)
  obtain ⟨u, hu, rfl⟩ := q
  exact does_bind (does_count w k) (fun _ _ => does_pure ⟨u, hu, rfl⟩)

theorem does_homeLoad {w : Who} (hw : Who0 w) {k n : Nat} (hn : 1 ≤ n) (hk : k + n ≤ 2 ^ 29) (h : k % 64 + n ≤ 64) :
    Does (homeLoad w (2 ^ 56 + k) n) (fun bs => ∃ u, Fair u ∧ bs = u.readBytes k n) := by
  unfold homeLoad
  rw [Nat.mod_eq_of_lt (by omega), pieces_one hn (by omega) (by omega)]
  simp only [List.foldlM_cons, List.foldlM_nil]
  exact does_bind (does_piece hw [] (by omega)) (fun bs q => does_pure q)

theorem does_hNat {w : Who} (hw : Who0 w) {k n : Nat} (hn : 1 ≤ n) (hk : k + n ≤ 2 ^ 29) (h : k % 64 + n ≤ 64) :
    Does (hNat w (2 ^ 56 + k) n) (fun _ => True) := by
  unfold hNat
  exact does_bind (does_homeLoad hw hn hk h) (fun _ _ => does_pure trivial)

theorem Fair.wrote {s : State} (h : Fair s) {w : Who} (hw : Who0 w) (k : Nat) (bs : List Byte) (he : elsewhere k bs.length) :
    Fair ((updateCopies (s.writeBytes k bs) w.core k bs).touchWords k bs.length) := by
  have e : ∀ (bs : List Byte) (t : State) (a : Nat), t.writeBytes a bs = { t with wlog := (t.writeBytes a bs).wlog } := by
    intro bs
    induction bs with
    | nil => intro t a; rfl
    | cons b bs ih => intro t a; rw [State.writeBytes, ih]; rfl
  have f : Fair (s.writeBytes k bs) := by
    refine h.keep (by rw [e]; exact ⟨rfl, rfl⟩) (fun a ha => s.byteAt_writeBytes_outside _ _ (by unfold elsewhere at *; omega))
      (by rw [e]; exact h.path) (by rw [e]; exact h.poison) (by rw [e]; exact h.waiters) (by rw [e]; exact ⟨rfl, rfl⟩) (by rw [e])
      (by rw [e]; exact h.dies)
  have rdc {t : State} (g : Fair t) (m : Kv CacheLine) : Fair (t.updDie 0 (fun d => { d with rdc := m })) := g.updDie g.die.2
  have u : Fair (updateCopies (s.writeBytes k bs) w.core k bs) := by
    simp only [updateCopies, hw.1]
    cases e : kvGet ((s.writeBytes k bs).core w.core).l1 (k / 64) with
    | none =>
      simp only
      split
      · exact f
      · exact f.updDie f.die.2
    | some x =>
      simp only
      have g := f.updCore w.core (f := fun c => { c with l1 := kvPut c.l1 (k / 64) { x with data := patchLine x.data (k / 64) k bs } })
        (f.core w.core)
      split
      · exact g
      · exact g.updDie g.die.2
  refine u.keep ⟨rfl, rfl⟩ (fun _ _ => rfl) u.path u.poison ?_ ⟨rfl, rfl⟩ rfl u.dies
  simp [State.touchWords, State.wakeIf, u.waiters]

theorem Fair.homeWrite {s : State} (h : Fair s) {w : Who} (hw : Who0 w) (k : Nat) (bs : List Byte) (he : elsewhere k bs.length) :
    Fair (homeWriteLoc s w.core k bs) := by
  have p : (clearPoison s ((List.range bs.length).map (k + ·))).poison = [] := by simp [clearPoison, h.poison]
  exact Fair.wrote (h.keep (t := clearPoison s ((List.range bs.length).map (k + ·))) ⟨rfl, rfl⟩ (fun _ _ => rfl) h.path p h.waiters
    ⟨rfl, rfl⟩ rfl h.dies) hw k bs he

theorem does_homeStore {w : Who} (hw : Who0 w) {k : Nat} {bs : List Byte} (hn : 1 ≤ bs.length) (hk : k + bs.length ≤ 2 ^ 29)
    (h : k % 64 + bs.length ≤ 64) (he : elsewhere k bs.length) : Does (homeStore w (2 ^ 56 + k) bs) (fun _ => True) := by
  unfold homeStore
  rw [Nat.mod_eq_of_lt (by omega), pieces_one hn (by omega) (by omega)]
  simp only [List.foldlM_cons, List.foldlM_nil, List.drop_zero, List.take_length]
  refine does_bind (Q := fun _ => True) ?_ (fun _ _ => does_pure trivial)
  refine does_bind (Q := fun _ => True) ?_ (fun _ _ => does_pure trivial)
  refine does_bind (does_xlat hw true (by omega)) (fun x hx => ?_)
  subst hx
  rw [if_neg (by simp [xl])]
  refine does_bind (Q := fun _ => True) ?_ (fun _ _ => does_bind (does_count w k) (fun _ _ => does_pure trivial))
  intro s hs
  refine ⟨(), homeWriteLoc s w.core k bs, ?_, hs.homeWrite hw _ _ he, trivial⟩
  unfold homeWrite
  rw [Runs, run_bind_ok (run_drainFor_none (hs.none w.core) _ _)]
  rfl

theorem does_hPut {w : Who} (hw : Who0 w) {k n v : Nat} (hn : 1 ≤ n) (hk : k + n ≤ 2 ^ 29) (h : k % 64 + n ≤ 64)
    (he : elsewhere k n) : Does (hPut w (2 ^ 56 + k) n v) (fun _ => True) := by
  unfold hPut
  have l : (bytesOf v n).length = n := bytes_of_length v n
  exact does_homeStore hw (by omega) (by omega) (by omega) (by rw [l]; exact he)

theorem does_seqPut {w : Who} (hw : Who0 w) {k off lo len v : Nat} (hk : k + off + 8 ≤ 2 ^ 29) (h : (k + off) % 64 + 8 ≤ 64)
    (he : elsewhere (k + off) 8) : Does (seqPut w (2 ^ 56 + k) off lo len v) (fun _ => True) := by
  unfold seqPut
  rw [Nat.add_assoc]
  exact does_bind (does_hNat hw (by omega) (by omega) (by omega)) (fun _ _ => does_hPut hw (by omega) (by omega) (by omega) he)

theorem Fair.who {s : State} (h : Fair s) : Who0 s.who := by
  refine ⟨?_, ?_⟩
  · show dieOfCore s.me.core = 0
    rw [h.mine.1]
    rfl
  · show s.me.ctrl.asid.toNat = 0
    rw [h.mine.2]
    rfl

/-- What a read of the record gives. -/
def named (x : SeqRec × Bool) : Prop :=
  (x.1.a = M 0x3000 ∧ x.1.btd = M 0x5000 ∧ x.1.treeAt = M 0x100000 ∧ x.1.hist = M 0x7000 ∧ x.1.hlen ≤ 8) ∧ x.1.part = 0 ∧ x.1.homed = 0

theorem Fair.ent {s : State} (h : Fair s) {r : SeqRec} (hr : r.part = 0 ∧ r.homed = 0) :
    (entOf s r).1 = 0 ∧ (entOf s r).2.asid = 0 ∧ (entOf s r).2.part = 0 := by
  unfold entOf
  cases e : s.seqEnt r.loc with
  | none => exact ⟨hr.2, h.mine.2, hr.1⟩
  | some x =>
    unfold State.seqEnt at e
    obtain ⟨kd, hk, he⟩ := List.exists_of_findSome?_eq_some e
    obtain ⟨q, hq, rfl⟩ := Option.map_eq_some_iff.mp he
    rw [h.die.1, List.mem_singleton] at hk
    subst hk
    have c := h.die.2
    simp only [calmDie, Bool.and_eq_true, List.all_eq_true, beq_iff_eq] at c
    exact ⟨rfl, c.1 q (List.mem_of_find?_eq_some hq)⟩

theorem Fair.putSeq {s : State} (h : Fair s) {e : SeqEnt} (he : e.asid = 0 ∧ e.part = 0) : Fair (s.putSeq 0 e) := by
  refine h.updDie ?_
  have c := h.die.2
  simp only [calmDie, Bool.and_eq_true, List.all_eq_true, beq_iff_eq] at c ⊢
  refine ⟨fun q hq => ?_, c.2⟩
  split at hq
  · obtain ⟨q', h', rfl⟩ := List.mem_map.mp hq
    split
    · exact he
    · exact c.1 _ h'
  · rcases List.mem_append.mp hq with h' | h'
    · exact c.1 _ h'
    · rw [List.mem_singleton.mp h']; exact he

theorem does_updEnt {r : SeqRec} (hr : r.part = 0 ∧ r.homed = 0) {f : SeqEnt → SeqEnt}
    (hf : ∀ e, (f e).asid = e.asid ∧ (f e).part = e.part) : Does (updEnt r f) (fun _ => True) :=
  does_modify (fun s hs => by
    obtain ⟨h0, h1, h2⟩ := hs.ent hr
    simp only [h0]
    exact hs.putSeq ⟨(hf _).1.trans h1, (hf _).2.trans h2⟩)

theorem does_seqRead {w : Who} (hw : Who0 w) : Does (seqRead w (M 0x3000)) named := by
  unfold seqRead
  refine does_bind (does_xlat hw false (k := 0x3000) (by norm_num)) (fun x hx => ?_)
  subst hx
  refine does_bind (Q := fun _ => True) (does_pure trivial) (fun _ _ => ?_)
  refine does_bind (Q := fun bs => ∃ u v, Fair u ∧ Fair v ∧ bs = u.readBytes 0x3000 64 ++ v.readBytes 0x3040 64) ?_
    (fun bs hbs => does_pure ?_)
  · unfold homeLoad
    rw [show pieces (M 0x3000 % 2 ^ 64) 0x80 = [(2 ^ 56 + 0x3000, 64), (2 ^ 56 + 0x3040, 64)] by decide +kernel]
    simp only [List.foldlM_cons, List.foldlM_nil]
    refine does_bind (does_piece hw [] (by norm_num)) (fun bs q => ?_)
    obtain ⟨u, hu, rfl⟩ := q
    refine does_bind (does_piece hw _ (by norm_num)) (fun bs q => ?_)
    obtain ⟨v, hv, rfl⟩ := q
    exact does_pure ⟨u, v, hu, hv, by simp⟩
  · obtain ⟨u, v, hu, hv, rfl⟩ := hbs
    have word (i : Nat) (hi : i < 8) : blkWord (u.readBytes 0x3000 64 ++ v.readBytes 0x3040 64) i = u.readNat (0x3000 + 8 * i) 8 := by
      unfold blkWord State.readNat
      congr 1
      interval_cases i <;> rfl
    have last : blkWord (u.readBytes 0x3000 64 ++ v.readBytes 0x3040 64) 13 = v.readNat 0x3068 8 := rfl
    obtain ⟨c1, c2, c3, c4, -⟩ := hu.record
    have c5 := hv.record.2.2.2.2
    refine ⟨⟨rfl, (word 2 (by norm_num)).trans c1, (word 4 (by norm_num)).trans c2, (word 5 (by norm_num)).trans c3,
      le_trans (le_of_eq (by simp only [seqOf]; rw [word 6 (by norm_num)])) c4⟩, ?_, ?_⟩
    all_goals
      simp only [seqOf]
      rw [last, c5]
      rfl

theorem does_setSeqState {w : Who} (hw : Who0 w) {r : SeqRec} (hr : r.a = M 0x3000) (x : Nat) :
    Does (setSeqState w r x) (fun _ => True) := by
  unfold setSeqState
  rw [hr]
  exact does_seqPut hw (by norm_num) (by norm_num) ⟨by norm_num, by norm_num, by norm_num⟩

theorem does_writeTree {w : Who} (hw : Who0 w) {r : SeqRec} (hr : named (r, true)) (x : Nat) :
    Does (writeTree w r x) (fun _ => True) := by
  obtain ⟨⟨-, -, ht, hh, hl⟩, -⟩ := hr
  simp only at ht hh hl
  unfold writeTree
  rw [ht, hh]
  have rest (last : Nat) : Does (do
      hPut w (M 0x100000) 8 (1 + 2 ^ 32 * (x % 2 ^ 32))
      homeStore w (M 0x100000 + 0x40) (packNats 8 [last % 2 ^ 20, 0])
      (List.range 63).forM (fun i => seqPut w (M 0x100000) (0x40 + 16 * (i + 1) + 8) 32 1 0)) (fun _ => True) := by
    refine does_bind (does_hPut hw (by norm_num) (by norm_num) (by norm_num) ⟨by norm_num, by norm_num, by norm_num⟩) (fun _ _ => ?_)
    refine does_bind (Q := fun _ => True) ?_ (fun _ _ => does_forM _ (fun i hi => ?_))
    · rw [M, Nat.add_assoc]
      have l (a b : Nat) : (packNats 8 [a, b]).length = 16 := rfl
      exact does_homeStore hw (by rw [l]; norm_num) (by rw [l]; norm_num) (by rw [l]; norm_num)
        ⟨by rw [l]; norm_num, by rw [l]; norm_num, by rw [l]; norm_num⟩
    · have := List.mem_range.mp hi
      exact does_seqPut hw (by omega) (by omega) ⟨by omega, by omega, by omega⟩
  simp only
  split
  · exact rest 0
  · rw [show M 0x7000 + 4 * (r.hlen - 1) = 2 ^ 56 + (0x7000 + 4 * (r.hlen - 1)) by unfold M; omega]
    exact does_bind (does_hNat hw (by norm_num) (by omega) (by omega)) (fun last _ => rest last)

theorem does_putBead (draft limited : Bool) (b : List Byte) (loc : Nat) :
    Does (modify (fun t => putBead t 0 0 draft b loc limited)) (fun _ => True) := by
  refine does_modify (fun s hs => ?_)
  have c := hs.die.2
  have more (x : Deferred) : Fair (s.updDie 0 (fun d => { d with deferred := d.deferred ++ [x] })) := by
    refine hs.updDie ?_
    simp only [calmDie, Bool.and_eq_true, List.all_eq_true, List.any_append, Bool.or_eq_true] at c ⊢
    exact ⟨c.1, fun y hy => .inl (c.2 y hy)⟩
  have full : (s.die 0).deferred.any (fun x => x.full && x.part == 0 && x.draft == draft) = true := by
    simp only [calmDie, Bool.and_eq_true, List.all_eq_true] at c
    exact c.2 draft (by cases draft <;> simp)
  unfold putBead
  simp only [full, if_true]
  split <;> exact more _

theorem does_enqueueWork {r : SeqRec} (hr : r.part = 0 ∧ r.homed = 0) (kind : Nat) (limited : Bool) :
    Does (enqueueWork (M 0x3000) r kind limited) (fun _ => True) := by
  unfold enqueueWork
  refine does_bind does_get (fun s hs => ?_)
  obtain ⟨h0, h1, h2⟩ := hs.ent hr
  have none : partOfDie s 0 = none := by simp [partOfDie, hs.parts]
  simp only [h0, none, h1, h2, Option.getD_none]
  have hw : Who0 (deviceWho 0 (0 : BitVec 13).toNat) := ⟨rfl, rfl⟩
  refine does_bind (does_seqRead hw) (fun x hx => ?_)
  obtain ⟨⟨-, hb, -, -, -⟩, hp⟩ := hx
  refine does_bind (Q := fun _ => True) ?_ (fun len _ => ?_)
  · unfold lenOf
    rw [hb, M, Nat.add_assoc]
    exact does_hNat hw (by norm_num) (by norm_num) (by norm_num)
  · exact does_bind (does_updEnt hp (fun _ => ⟨rfl, rfl⟩)) (fun _ _ => does_putBead _ _ _ _)

theorem does_nextIteration {w : Who} (hw : Who0 w) {r : SeqRec} (hr : named (r, true)) : Does (nextIteration w r) (fun _ => True) := by
  unfold nextIteration
  refine does_bind does_get (fun s _ => ?_)
  have ha : r.a = M 0x3000 := hr.1.1
  refine does_bind (Q := fun _ => True) ?_ (fun _ _ => ?_)
  · rw [ha, M, Nat.add_assoc]
    exact does_hPut hw (by norm_num) (by norm_num) (by norm_num) ⟨by norm_num, by norm_num, by norm_num⟩
  · refine does_bind (does_writeTree hw hr _) (fun _ _ => ?_)
    refine does_bind (does_setSeqState hw ha _) (fun _ _ => ?_)
    refine does_bind (does_updEnt hr.2 (fun _ => ⟨rfl, rfl⟩)) (fun _ _ => ?_)
    rw [ha]
    exact does_enqueueWork hr.2 _ _

theorem does_startPrefill {w : Who} (hw : Who0 w) {r : SeqRec} (hr : named (r, true)) : Does (startPrefill w r) (fun _ => True) := by
  unfold startPrefill
  have ha : r.a = M 0x3000 := hr.1.1
  rw [ha]
  refine does_bind (does_seqRead hw) (fun x hx => ?_)
  refine does_bind (does_writeTree hw hx _) (fun _ _ => ?_)
  refine does_bind (does_setSeqState hw ha _) (fun _ _ => ?_)
  exact does_enqueueWork hr.2 _ _

/-- The operation `seqEnter` completes, and what follows it meets `p`. -/
def enters (s : State) (p : SeqRec → State → Bool) : Bool := runB (seqEnter s (s.srcS 1 1).toNat) s p

/-- A bead of KIND 0 for the record, as the words of a slot. -/
def beadCells (slot : Nat) : List (Nat × Nat × Nat) := [(slot, 8, 7), (slot + 8, 8, 3), (slot + 16, 8, M 0x3000)]

/-- The work rods of die 0 and partition 0: with `n` of these beads in the check rod. -/
def workCells (n : Nat) : List (Nat × Nat × Nat) :=
  [true, false].flatMap (fun draft =>
    let loc := workLoc 0 0 draft
    let tail := if draft then 0 else n
    let w := 0xB0D5 + 2 ^ 32 * 6 + 2 ^ 40 * 11 + 2 ^ 48 * (rodHome loc % 256)
    [(loc, 8, w), (loc + 8, 8, workSlots loc), (loc + 0x18, 8, tail), (loc + 0x20, 8, tail), (loc + 0x28, 8, 2048 - tail),
      (loc + 0x30, 8, 0x7FF07FF), (loc + 0x38, 8, 2 ^ 48 * crc16 (bytesOf w 8 ++ bytesOf (workSlots loc) 8))])
  ++ (List.range n).flatMap (fun i => beadCells (workSlots (workLoc 0 0 false) + 64 * i))

/-- The record in STATE `st` and a check rod with `n` beads, in a partition of die 0; s5 is scratchpad byte 0x100. -/
def gotState (st n : Nat) : State :=
  (withRegs .S [(1, 0x100), (2, 3)] (recordCells st 0 1 ++ workCells n)).updPart 0 (fun p => { p with dies := 1 })

/-- SQGET in a core with a role and a current bead, and in one without. -/
theorem witness_SequenceWork :
    let s := gotState 1 1
    s.active (hd .S) = true ∧ roleOf s s.myCore = some false ∧ partOfDie s s.myDie = some 0
    ∧ roleOf (seqState 1 0 1 0 1) 0 = none
    ∧ runB (ownBlock (s.srcS 1 1).toNat 64 64) s (fun locs t => t == s && locs.length == 64 && decide (locs.Nodup)
        && runB (takeBead s.who (workRef 0 0 false) (workCap + 1)) s (fun b t => match b with
          | .bead b r => b.length == 64 && (t.othersWrites (some (t.cur.ctx, t.cur.lane))).isEmpty
              && runB (do spadWrite locs b 0; holdSeq s.who r) t (fun _ _ => true)
          | _ => false)) = true := by decide +kernel

/-- SQGET with a sound work rod that is empty, and with one whose first bead is current. -/
theorem witness_SequenceWork_get :
    (∀ n ∈ [0, 1], let s := gotState 1 n
      let rod := workRef 0 0 false
      rodCheck12 s rod = .ok ∧ rodCheck37 s rod = .ok ∧ rodFixHome s rod = s ∧ rodElsz s rod.loc = 6
      ∧ (rodTail s rod.loc = rodHead s rod.loc ↔ n = 0) ∧ rodStatus s rod.loc = 0 ∧ isWorkRod rod.loc = true
      ∧ s.poison = [] ∧ (s.othersWrites (some (s.cur.ctx, s.cur.lane))) = [])
    ∧ (let s := gotState 1 1
      let b := s.readBytes (workSlots (workLoc 0 0 false)) 64
      let r := seqOf (M 0x3000) 0x3000 (s.readBytes 0x3000 128)
      beadRec b = M 0x3000 ∧ seqValid (s.readBytes 0x3000 128) r = true ∧ beadIter b = r.iter ∧ kindState (beadKind b) = r.state)
    ∧ FirmPlace (gotState 1 1) (gotState 1 1).who (M 0x3000) 128 0x3000
        (fun x => workLoc 0 0 false ≤ x ∧ x < workLoc 0 0 false + 64) := by
  have h : Mapped (gotState 1 1) := by unfold Mapped; decide +kernel
  refine ⟨by decide +kernel, by decide +kernel, h.firmPlace ⟨rfl, rfl⟩ rfl rfl rfl (by norm_num) (fun a _ h1 h2 => ?_)⟩
  have e : workLoc 0 0 false = 0xFF00000000 := rfl
  omega

/-- SQACC.q in DRAFT with the ITER and with another, a valid tree and one that is not; in another STATE. -/
theorem witness_SequenceWork_q :
    let s (st nn : Nat) : State := seqState st 0 1 0 nn
    enters (s 2 1) (fun r u => r.iter == ((s 2 1).srcS 2 2).toNat && r.iter != ((s 2 1).srcS 2 4).toNat && r.state == 2
        && runB (submitOk (seqWho u r) r) u (fun ok v => ok
          && runB (do setSeqState (seqWho u r) r 3; enqueueWork r.a r 2 false) v (fun _ _ => true))) = true
    ∧ enters (s 2 0) (fun r u => r.iter == ((s 2 1).srcS 2 2).toNat && r.state == 2
        && runB (submitOk (seqWho u r) r) u (fun ok _ => !ok)) = true
    ∧ enters (s 4 0) (fun r _ => r.iter == ((s 2 1).srcS 2 2).toNat && r.state != 2 && r.state != 1 && r.state != 3) = true := by
  decide +kernel

/-- What the clauses of SQACC.p ask: with `left`, a node stays unmarked. -/
def marks (st more nn : Nat) (left accm : Bool) : Bool :=
  enters (seqState st more 1 0 nn) (fun r u =>
    let w := seqWho u r
    r.iter == 3 && r.state == st && runB (readTree w r.treeAt) u (fun n1 u1 =>
      decide (1 ≤ min n1.1 64) && ((n1.2.drop 0).take 1).all (fun x => !x.pv)
      && runB (plistsOk w r n1.2 0 1) u1 (fun ok u2 => ok && runB (markNodes w r 0 1) u2 (fun _ u3 =>
        runB (readTree w r.treeAt) (u3.wrS 4 (resultWord 0 0) 0) (fun n2 t =>
          n2.2.any (fun x => !x.pv) == left && r.accm == accm
          && runB (do setSeqState w r 4; updEnt r (fun e => { e.idle with commit := none, prefill := r.state == 1 })) t
            (fun _ v => runB (seqRead w r.a) v (fun _ _ => true)))))))

/-- SQACC.p of one node: of a tree of one, with the commit left to software and not; of a tree of two. -/
theorem witness_SequenceWork_p :
    (bits ((seqState 1 0 1 0 1).srcS 3 3).toNat 0 6 = 0 ∧ bits ((seqState 1 0 1 0 1).srcS 3 3).toNat 8 7 = 1)
    ∧ marks 1 0 1 false false = true ∧ marks 3 (2 ^ 27) 1 false true = true ∧ marks 3 0 2 true false = true := by decide +kernel

/-- SQCOMMIT in COMMIT with an empty path. -/
theorem witness_SequenceWork_commit :
    let s := seqState 4 (2 ^ 27) 1 0 1
    runB (readBlock (s.srcS 3 3).toNat 32 8) s (fun blk v =>
        runB (seqEnter s (M 0x3000)) v (fun r u => r.iter == (s.srcS 2 2).toNat && r.state == 4 && r.accm && (entOf u r).2.commit == none
          && decide (bits (blkWord blk 0) 0 5 ≤ r.depth) && decide (bits (blkWord blk 0) 32 32 < 2 ^ 20)
          && decide (bits (blkWord blk 1) 0 32 ≤ 65536)
          && runB (readTree (seqWho u r) r.treeAt) u (fun n _ =>
            pathFrom n.2 0 (((blk.drop 16).take (bits (blkWord blk 0) 0 5)).map (·.toNat)) == some []))) = true
    ∧ enters (seqState 4 0 1 0 1) (fun r _ => r.iter == 3 && !r.accm) = true := by decide +kernel

/-- The record that `enters` gives, and the state it leaves, with what is known of them. -/
theorem enters_runs {s : State} {p : SeqRec → State → Bool} (h : enters s p = true) :
    ∃ r u, Runs s (seqEnter s (s.srcS 1 1).toNat) r u ∧ p r u = true := runs_of_runB h

/-- What `Fair` asks, computed. -/
def fairB (s : State) : Bool :=
  decide (s.tlb = [ent] ∧ s.asidTable = some 0x1000000 ∧ s.readNat 0x1000000 8 = 1 ∧ s.readNat 0x1000008 8 = 0x1010000
    ∧ s.readNat 0x1010000 8 = 0x1020001 ∧ s.readNat 0x1020000 8 = 0xF)
  && decide ((∀ kc ∈ s.cores, kc.2.wpath = []) ∧ s.poison = [] ∧ s.waiters = [] ∧ (s.me.core = 0 ∧ s.me.ctrl.asid = 0)
    ∧ s.parts = [] ∧ calm s.dies = true)
  && decide (s.readNat 0x3010 8 = M 0x5000 ∧ s.readNat 0x3020 8 = M 0x100000 ∧ s.readNat 0x3028 8 = M 0x7000
    ∧ bits (s.readNat 0x3030 8) 0 32 ≤ 8 ∧ s.readNat 0x3068 8 = 0)

theorem fair_of_fairB {s : State} (h : fairB s = true) : Fair s := by
  simp only [fairB, Bool.and_eq_true, decide_eq_true_eq] at h
  obtain ⟨⟨m, p, q, w, c, x, d⟩, r⟩ := h
  exact ⟨m, p, q, w, c, x, d, r⟩

/-- What `named` asks, computed. -/
def namedB (r : SeqRec) : Bool :=
  r.a == M 0x3000 && r.btd == M 0x5000 && r.treeAt == M 0x100000 && r.hist == M 0x7000 && decide (r.hlen ≤ 8) && r.part == 0 && r.homed == 0

theorem named_of_namedB {r : SeqRec} (h : namedB r = true) : named (r, true) := by
  simp only [namedB, Bool.and_eq_true, beq_iff_eq, decide_eq_true_eq] at h
  obtain ⟨⟨⟨⟨⟨⟨ha, hb⟩, ht⟩, hh⟩, hl⟩, hp⟩, hd⟩ := h
  exact ⟨⟨ha, hb, ht, hh, hl⟩, hp, hd⟩

def who0B (w : Who) : Bool := dieOfCore w.core == 0 && w.asid == 0

theorem who0_of_who0B {w : Who} (h : who0B w = true) : Who0 w := by
  simp only [who0B, Bool.and_eq_true, beq_iff_eq] at h
  exact h

/-- The record reads back for its context, whatever has been written. -/
def back (v : State) : Bool := runB (seqRead v.who (M 0x3000)) v (fun _ _ => true)

theorem fair_back {v : State} (h : Fair v) : ∃ q ok t, Runs v (seqRead v.who (M 0x3000)) (q, ok) t := by
  obtain ⟨⟨q, ok⟩, t, r, -, -⟩ := does_seqRead h.who v h
  exact ⟨q, ok, t, r⟩

/-- Beads wait for both full work rods of die 0 and partition 0. -/
def withWaiting (s : State) : State :=
  s.updDie 0 (fun d => { d with deferred := [⟨0, true, [], 0, true⟩, ⟨0, false, [], 0, true⟩] })

def parkState (st more hlen len : Nat) : State := withWaiting (asPrivileged (seqState st more hlen len 1))

/-- With privilege and without, in each STATE; SQPARK.park, .preempt and .abort of a record in an iteration. -/
theorem witness_SequenceParking :
    (∀ x ∈ List.range 8, (parkState x 0 1 0).active (hd .S) = true ∧ (parkState x 0 1 0).me.holdsPriv = true
      ∧ (seqState x 0 1 0 1).me.holdsPriv = false)
    ∧ (∀ x ∈ [1, 4], enters (parkState x 0 1 0) (fun r u =>
        let w := seqWho u r
        r.running && r.state != 0 && r.state != 5 && r.state != 6 && r.state != 7
        && runB (do setSeqPend w r 1; updEnt r (fun e => { e with preempt := e.preempt && r.pend })) u (fun _ v => back v)
        && runB (do setSeqPend w r 1; updEnt r (fun e => { e with preempt := true })) u (fun _ v => back v)
        && runB (abortSeq w r 1) u (fun _ v => back v)) = true) := by
  refine ⟨?_, ?_⟩ <;> decide +kernel

/-- The writes of SQPARK.admit up to the prefill bead. -/
def admitStart (u : State) (r : SeqRec) : Op Who := do
  let w1 ← activate u r
  if !r.replay then hPut w1 (r.a + 0x38) 8 (← Op.free 14)
  hPut w1 (r.a + 8) 8 0
  hPut w1 (r.a + 0x40) 8 0
  hPut w1 (r.a + 0x48) 4 0
  return w1

/-- SQPARK.import and .admit of a FREE record, with REPLAY, so that its seed stands. -/
theorem admit_runs : enters (parkState 0 (2 ^ 28) 1 0) (fun r u =>
    r.state == 0 && !r.running && decide ((u.die u.myDie).seqs.length < 1024) && r.hlen != 0 && r.replay && namedB r
      && runB (do let w1 ← activate u r; setSeqState w1 r 5) u (fun _ v => back v)
      && runB (lenOf (seqWho u r) r.btd) u (fun len v => decide (len ≤ r.hlen - 1)
        && runB (admitStart u r) v (fun w1 x => who0B w1 && fairB x))) = true := by decide +kernel

theorem witness_SequenceParking_admit : ∃ s r u len v x,
    Runs s (seqEnter s (s.srcS 1 1).toNat) r u ∧ r.state = 0 ∧ (u.die u.myDie).seqs.length < 1024 ∧ r.hlen ≠ 0
    ∧ Runs u (lenOf (seqWho u r) r.btd) len v ∧ len ≤ r.hlen - 1
    ∧ Runs v (do
        let w1 ← activate u r
        if !r.replay then hPut w1 (r.a + 0x38) 8 (← Op.free 14)
        hPut w1 (r.a + 8) 8 0
        hPut w1 (r.a + 0x40) 8 0
        hPut w1 (r.a + 0x48) 4 0
        startPrefill w1 r) () x
    ∧ ∃ q ok t, Runs x (seqRead x.who (M 0x3000)) (q, ok) t := by
  obtain ⟨r, u, hr, h⟩ := enters_runs admit_runs
  simp only [Bool.and_eq_true, beq_iff_eq, bne_iff_ne, ne_eq, decide_eq_true_eq] at h
  obtain ⟨⟨⟨⟨⟨⟨⟨h0, -⟩, hs⟩, hl⟩, hp⟩, hn⟩, -⟩, h⟩ := h
  obtain ⟨len, v, hlen, h⟩ := runs_of_runB h
  simp only [Bool.and_eq_true, decide_eq_true_eq] at h
  obtain ⟨w1, x, hx, h'⟩ := runs_of_runB h.2
  rw [Bool.and_eq_true] at h'
  obtain ⟨⟨⟩, y, hy, fy, -⟩ := does_startPrefill (who0_of_who0B h'.1) (named_of_namedB hn) x (fair_of_fairB h'.2)
  refine ⟨_, r, u, len, v, y, hr, h0, hs, hl, hlen, h.1, ?_, fair_back fy⟩
  have e := run_bind_ok hx (fun w => startPrefill w r)
  rw [Runs, ← hy, ← e]
  simp only [admitStart, hp, Bool.not_true, Bool.false_eq_true, if_false, bind_assoc, pure_bind]

/-- SQPARK.resume of a record whose history is longer than its pages, and of one at its end. -/
def clearPark (w : Who) (r : SeqRec) : Op Nat := do
  setSeqPend w r 0
  setSeqReason w r 0
  updEnt r (fun e => { e.idle with preempt := false, commit := none })
  lenOf w r.btd

theorem resume_runs : ∀ x ∈ [(3, 1), (2, 1)], enters (parkState 5 0 x.1 x.2) (fun r u =>
    r.state == 5 && r.reason != 3 && who0B (seqWho u r) && namedB r
      && runB (setSeqState (seqWho u r) r 7) u (fun _ v => back v)
      && runB (clearPark (seqWho u r) r) u (fun len v => fairB v && decide (len < r.hlen - 1) == (x.1 == 3))) = true := by decide +kernel

theorem resume_named : ∀ x ∈ [(3, 1), (2, 1)], ∃ r u len v,
    Runs (parkState 5 0 x.1 x.2) (seqEnter (parkState 5 0 x.1 x.2) (((parkState 5 0 x.1 x.2).srcS 1 1).toNat)) r u
    ∧ r.state = 5 ∧ r.reason ≠ 3 ∧ Runs u (clearPark (seqWho u r) r) len v ∧ decide (len < r.hlen - 1) = (x.1 == 3)
    ∧ Who0 (seqWho u r) ∧ named (r, true) ∧ Fair v := by
  intro x hx
  obtain ⟨r, u, hr, h⟩ := enters_runs (resume_runs x hx)
  simp only [Bool.and_eq_true, beq_iff_eq, bne_iff_ne, ne_eq] at h
  obtain ⟨⟨⟨⟨⟨h5, h3⟩, hw⟩, hn⟩, -⟩, h⟩ := h
  obtain ⟨len, v, hv, h⟩ := runs_of_runB h
  simp only [Bool.and_eq_true, beq_iff_eq] at h
  exact ⟨r, u, len, v, hr, h5, h3, hv, h.2, who0_of_who0B hw, named_of_namedB hn, fair_of_fairB h.1⟩

theorem witness_SequenceParking_resume :
    (∃ s r u len v x, Runs s (seqEnter s (s.srcS 1 1).toNat) r u ∧ r.state = 5 ∧ Runs u (clearPark (seqWho u r) r) len v
      ∧ len < r.hlen - 1 ∧ Runs v (startPrefill (seqWho u r) r) () x ∧ ∃ q ok t, Runs x (seqRead x.who (M 0x3000)) (q, ok) t)
    ∧ (∃ s r u len v x, Runs s (seqEnter s (s.srcS 1 1).toNat) r u ∧ r.state = 5 ∧ Runs u (clearPark (seqWho u r) r) len v
      ∧ r.hlen - 1 ≤ len ∧ r.reason ≠ 3 ∧ Runs v (nextIteration (seqWho u r) r) () x
      ∧ ∃ q ok t, Runs x (seqRead x.who (M 0x3000)) (q, ok) t) := by
  constructor
  · obtain ⟨r, u, len, v, hr, h5, -, hv, hl, hw, hn, hf⟩ := resume_named (3, 1) (by simp)
    obtain ⟨⟨⟩, y, hy, fy, -⟩ := does_startPrefill hw hn v hf
    exact ⟨_, r, u, len, v, y, hr, h5, hv, by simpa using hl, hy, fair_back fy⟩
  · obtain ⟨r, u, len, v, hr, h5, h3, hv, hl, hw, hn, hf⟩ := resume_named (2, 1) (by simp)
    obtain ⟨⟨⟩, y, hy, fy, -⟩ := does_nextIteration hw hn v hf
    exact ⟨_, r, u, len, v, y, hr, h5, hv, by simpa using hl, h3, hy, fair_back fy⟩

/-- The records that SQPARK.migdone and .retire free. -/
theorem witness_SequenceParking_ends :
    enters (asPrivileged (tabledState true 7)) (fun r u =>
        let w := seqWho u r
        r.state == 7 && runB (setSeqState w r 5) u (fun _ v => back v)
        && runB (btdAt w r.btd) u (fun b v => runB (btdAt w r.tbt) v (fun t x => b.quiet && t.quiet
          && runB (do
                releaseFrom w (← btdAt w r.btd) 0
                releaseFrom w (← btdAt w r.tbt) 0
                freeSeq w r) x (fun _ y => back y)))) = true
    ∧ (∀ st ∈ [5, 6], enters (asPrivileged (tabledState false st)) (fun r u =>
        let w := seqWho u r
        r.state == st && runB (btdAt w r.tbt) u (fun t v => t.quiet
          && runB (do releaseFrom w (← btdAt w r.tbt) 0; freeSeq w r) v (fun _ y => back y))) = true) := by
  refine ⟨?_, ?_⟩ <;> decide +kernel

/-! ### Regions of the mapped page, for the clauses that say what an operation leaves -/

/-- The regions lie in the mapped page below its tables, for parties of die 0 and address space 0, and apart. -/
def regionsOk (ro rw : List Region) : Bool :=
  (ro ++ rw).all (fun r => r.2.1 == M r.2.2.2 && decide (r.2.2.2 + r.2.2.1 ≤ 2 ^ 24) && r.1.all who0B)
    && decide (rw.Pairwise (fun a b => a.2.2.2 + a.2.2.1 ≤ b.2.2.2 ∨ b.2.2.2 + b.2.2.1 ≤ a.2.2.2))
    && ro.all (fun a => rw.all (fun b => decide (a.2.2.2 + a.2.2.1 ≤ b.2.2.2 ∨ b.2.2.2 + b.2.2.1 ≤ a.2.2.2)))

theorem Mapped.firmRegions {s : State} (h : Mapped s) (hw : ∀ kc ∈ s.cores, kc.2.wpath = []) (hp : s.poison = []) {ro rw : List Region}
    (ok : regionsOk ro rw = true) : FirmRegions s ro rw := by
  simp only [regionsOk, Bool.and_eq_true, List.all_eq_true, decide_eq_true_eq, beq_iff_eq] at ok
  obtain ⟨⟨h1, h2⟩, h3⟩ := ok
  refine ⟨fun r hr w hw' => ?_, h2, fun a ha b hb => h3 a ha b hb⟩
  obtain ⟨⟨ha, hn⟩, hq⟩ := h1 r hr
  rw [ha]
  refine h.firmPlace (who0_of_who0B (hq w hw')) (path_empty hw _) (pendings_empty hw) hp (by omega) ?_
  rintro a g1 g2 ⟨q, hq', g3, g4⟩
  have := ((h1 q (List.mem_append_right _ hq')).1).2
  omega

/-- The record of a lane's s1, as its bytes give it. -/
def recOf (s : State) : SeqRec := seqOf (M 0x3000) 0x3000 (s.readBytes 0x3000 128)

/-- What `Mapped.firmRegions` asks of a state, computed. -/
def quietB (s : State) : Bool := decide ((∀ kc ∈ s.cores, kc.2.wpath = []) ∧ s.poison = [])

theorem Mapped.regions {s : State} (h : Mapped s) {ro rw : List Region} (ok : (quietB s && regionsOk ro rw) = true) :
    FirmRegions s ro rw := by
  simp only [quietB, Bool.and_eq_true, decide_eq_true_eq] at ok
  exact h.firmRegions ok.1.1 ok.1.2 ok.2

/-- A record in `st`, where SQACC acts on node 0: what its clauses ask of the regions, the tree and the lists. -/
def acceptCases : List (Nat × Nat × Nat) := [(2, 0, 1), (1, 0, 1), (3, 2 ^ 27, 1), (3, 0, 2)]

def acceptState (x : Nat × Nat × Nat) : State := seqState x.1 x.2.1 1 0 x.2.2

theorem accept_mapped : ∀ x ∈ acceptCases, Mapped (acceptState x) := by unfold Mapped; decide +kernel

theorem witness_SequenceWork_regions : ∀ x ∈ acceptCases,
    let s := acceptState x
    let r := recOf s
    let w := seqWho s r
    let record : Region := ([s.who, w], M 0x3000, 128, 0x3000)
    let tree : Region := ([w], r.treeAt, 0x40800, 0x100000)
    FirmRegions s [tree, ([w], r.btd + 0x1C, 4, 0x501C)] [record] ∧ FirmRegions s [] [record, tree]
    ∧ BeadClear s (workRodOf s r false) 0x3000 128 := by
  intro x hx
  refine ⟨(accept_mapped x hx).regions ?_, (accept_mapped x hx).regions ?_, ?_⟩
  · revert x; decide +kernel
  · revert x; decide +kernel
  · unfold BeadClear NoWaiters Unmoved; revert x; decide +kernel

theorem witness_SequenceWork_records : ∀ x ∈ acceptCases,
    let s := acceptState x
    let r := recOf s
    let w := seqWho s r
    (s.srcS 1 1).toNat = M 0x3000 ∧ seqValid (s.readBytes 0x3000 128) r = true
    ∧ r.iter = (s.srcS 2 2).toNat ∧ r.state = x.1 ∧ r.accm = (x.2.1 != 0)
    ∧ (x.1 = 2 → runB (submitOk w r) s (fun ok _ => ok) = true)
    ∧ (x.1 ≠ 2 → runB (readTree w r.treeAt) s (fun n _ => decide (1 ≤ min n.1 64) && (n.2.take 1).all (fun y => !y.pv)
        && (n.2.drop 1).any (fun y => !y.pv) == (x.2.2 == 2) && runB (plistsOk w r n.2 0 1) s (fun ok _ => ok)) = true) := by
  decide +kernel

/-- Records on which SQPARK acts, with privilege: STATE, further bits of the first word (ACCM with REASON 3), HLEN, LEN. -/
def parkCases : List (Nat × Nat × Nat × Nat) :=
  [(1, 0, 1, 0), (7, 0, 1, 0), (0, 2 ^ 28, 1, 0), (5, 0, 3, 1), (5, 0, 2, 1), (5, 2 ^ 27 + 3 * 2 ^ 20, 2, 1)]

def parkAt (x : Nat × Nat × Nat × Nat) : State := asPrivileged (seqState x.1 x.2.1 x.2.2.1 x.2.2.2 1)

theorem park_mapped : ∀ x ∈ parkCases, Mapped (parkAt x) := by unfold Mapped; decide +kernel

/-- The regions of every clause of SQPARK that reads no block table's entries. -/
theorem witness_SequenceParking_regions : ∀ x ∈ parkCases,
    let s := parkAt x
    let r := recOf s
    let w := seqWho s r
    let own := deviceWho s.myDie s.me.ctrl.asid.toNat
    let read (xs : List Who) : List Region := [(xs, r.btd + 0x1C, 4, 0x501C), (xs, r.hist + 4 * (r.hlen - 1), 4, 0x7000 + 4 * (r.hlen - 1))]
    let tree (x : Who) : Region := ([x], r.treeAt, 0x440, 0x100000)
    FirmRegions s [] [([s.who, w], M 0x3000, 128, 0x3000)] ∧ FirmRegions s [] [([s.who, w, own], M 0x3000, 128, 0x3000)]
    ∧ FirmRegions s (([w], r.btd + 0x1C, 4, 0x501C) :: read [own]) [([s.who, w, own], M 0x3000, 128, 0x3000), tree own]
    ∧ FirmRegions s (read [w]) [([s.who, w], M 0x3000, 128, 0x3000), tree w]
    ∧ ∀ rod ∈ [workRef s.myDie ((partOfDie s s.myDie).getD s.me.part) false, workRodOf s r true, workRodOf s r false],
      BeadClear s rod 0x3000 128 ∧ BeadClear s rod 0x100000 0x440 := by
  intro x hx
  refine ⟨(park_mapped x hx).regions ?_, (park_mapped x hx).regions ?_, (park_mapped x hx).regions ?_, (park_mapped x hx).regions ?_, ?_⟩
  · revert x; decide +kernel
  · revert x; decide +kernel
  · revert x; decide +kernel
  · revert x; decide +kernel
  · unfold BeadClear NoWaiters Unmoved; revert x; decide +kernel

theorem witness_SequenceParking_records : ∀ x ∈ parkCases,
    let s := parkAt x
    let r := recOf s
    (s.srcS 1 1).toNat = M 0x3000 ∧ seqValid (s.readBytes 0x3000 128) r = true ∧ s.active (hd .S) = true ∧ s.me.holdsPriv = true
    ∧ r.state = x.1 ∧ (x.1 = 1 → r.running = true) ∧ r.hlen = x.2.2.1 ∧ r.hlen ≠ 0 ∧ s.readNat 0x501C 4 = x.2.2.2
    ∧ s.seqEnt 0x3000 = none ∧ (s.die s.myDie).seqs.length < 1024 ∧ (r.reason = 3 ↔ x.2.1 / 2 ^ 20 % 16 = 3) ∧ r.accm = (x.2.1 / 2 ^ 27 % 2 == 1) := by
  decide +kernel

/-- A record whose tables map nothing: TBT alone, and with BTD. -/
def bareState (st : Nat) : State :=
  asPrivileged (withRegs .S [(1, 0x100000000003000)]
    (recordCells st 0 1 ++ tableCells 0x5040 0x5110 0 0xFFFFFFFF ++ tableCells 0x5000 0x5100 0 0xFFFFFFFF ++ poolCells))

/-- What `BareTable` asks, computed. -/
def bareB (s : State) (b : Btd) (el : Nat) : Bool :=
  b.quiet && b.rets.all (· == noEntry) && (List.range b.cap).all (fun e => s.readNat (el + 4 * e) 4 == noEntry)

theorem bare_of_bareB {s : State} {b : Btd} {el : Nat} (h : bareB s b el = true) : BareTable s b el := by
  simp only [bareB, Bool.and_eq_true, List.all_eq_true, beq_iff_eq, List.mem_range] at h
  exact ⟨h.1.1, h.1.2, h.2⟩

/-- SQPARK.retire in PARKED and DONE, and .migdone. -/
theorem witness_SequenceParking_bare : ∀ st ∈ [5, 6, 7],
    let s := bareState st
    let r := recOf s
    let w := seqWho s r
    let pool : Region := ([w], M 0x6000, 64, 0x6000)
    (runB (btdAt w r.tbt) s (fun b _ => b.pool == M 0x6000 && b.ent == M 0x5110 && b.cap == 1 && bareB s b 0x5110)
      && runB (btdAt w r.btd) s (fun b _ => b.pool == M 0x6000 && b.ent == M 0x5100 && b.cap == 1 && bareB s b 0x5100)
      && runB (poolAt w (M 0x6000)) s (fun _ _ => true)) = true
    ∧ r.state = st ∧ s.index = none
    ∧ seqValid (s.readBytes 0x3000 128) r = true ∧ (s.srcS 1 1).toNat = M 0x3000
    ∧ (quietB s && regionsOk [pool, ([w], M 0x5110, 4, 0x5110), pool, ([w], M 0x5100, 4, 0x5100)]
        [([s.who, w], M 0x3000, 128, 0x3000), ([w], r.tbt, 64, 0x5040), ([w], r.btd, 64, 0x5000)]) = true
    ∧ Mapped s := by
  unfold Mapped; decide +kernel
/-! ### Block tables, sampling and the index -/

/-- A lane with a table at 0x5000 (s1), a record at 0x3000, and whatever else is given. -/
def kvState (len : Nat) (rs : List (Nat × Word)) (ws : List (Nat × Nat × Nat)) : State :=
  withRegs .L ([(1, 0x100000000005000), (2, 0x100), (3, 0x10000)] ++ rs) (tableCells 0x5000 0x5100 len 0 ++ poolCells ++ ws)

/-- KVMAP of an entry that has a page; KVUNPIN of a pin held and of none; BTINV; a KVAPP of one token; a PSEL of one
page; RNGDRAW. -/
theorem witness_BlockTablesAndSampling :
    let s := kvState 0 [] []
    let w := s.who
    let pinned := s.updMe (fun c => { c with tablePins := [(0x5000, 0x100000000005000, 0x100)] })
    let p := asPrivileged s
    let rng := withRegs .S [(1, 0x100000000003000), (2, 7)] (recordCells 1 0 1)
    s.active (hd .L) = true
    ∧ runB (ownBlock (s.srcS 2 2).toNat 16 16) s (fun locs z => z == s && decide (locs.Nodup)
        && runB (btdAt w (s.srcS 1 1).toNat) s (fun t u => runB (poolAt w t.pool) u (fun q v =>
          decide (bits (s.srcS 3 3).toNat 0 16 + 1 ≤ t.cap) && decide (0 < q.ng) && !pfxrelWaits s t.loc s.cur.ctx s.cur.lane
          && decide (s.me.tablePins.length < 8) && t.pins.getD (t.ver % 4) 0 != 65535
          && runB (do
              let recs ← (List.range 1).mapM (fun j => mapRecord w t q 0 (0 + j))
              setPin w t t.ver (t.pins.getD (t.ver % 4) 0 + 1)
              acquireOp w 3 (← tableCover w t q)
              spadWrite locs recs.flatten 0
              return recs) v (fun _ _ => true)))) = true
    ∧ (Sees pinned pinned.who true (pinned.srcS 1 1).toNat (xl 0x5000)
      ∧ pinned.me.tablePins.find? (fun x => x.1 == (xl 0x5000).loc && x.2.2 == BitVec.ofNat 32 (pinned.srcS 2 2).toNat)
        = some (0x5000, 0x100000000005000, 0x100)
      ∧ runB (unpinVersion pinned.who (pinned.srcS 1 1).toNat ((pinned.srcS 2 2).toNat % 2 ^ 32)) pinned (fun _ _ => true) = true)
    ∧ (Sees s s.who true (s.srcS 1 1).toNat (xl 0x5000) ∧ s.me.tablePins = [])
    ∧ (p.me.holdsPriv = true ∧ s.me.holdsPriv = false ∧ runB (btdAt p.who (p.srcS 1 1).toNat) p (fun t u => t.canAdvance
        && runB (do
          releaseTable p.who t
          releaseOp p.who (p.coverOf (p.srcS 0 1))
          newVersion p.who t 0xFFFFFFFF) u (fun _ _ => true)) = true)
    ∧ runB (seqAt rng.who (rng.srcS 1 1).toNat) rng (fun _ _ => true) = true := by
  unfold Sees; refine ⟨?_, ?_, ⟨?_, ?_, ?_⟩, ⟨?_, ?_⟩, ?_, ?_⟩ <;> decide +kernel

theorem witness_BlockTablesAndSampling_commands :
    let s := kvState 0 [(4, 0x1000), (5, 0x100000000), (6, 0x2000)]
      [inSpad 0x2000 8 (M 0x5000), inSpad 0x2008 8 0x10000, inSpad 0x2010 8 0x100000000]
    let a : EngOps := { e0 with dst := 1, src := 4, desc := 5 }
    let q : EngOps := { e0 with dst := 4, src := 2, desc := 6 }
    let spots (x m : Nat) : List Spot := (List.range m).map (fun i => ⟨true, x + i⟩)
    let limit := 4 * bankShare (s.core s.myCore) s.me.bank
    CmdRoom s ∧ badCounter s (newCmd s a (draft .copy [] 0 0)) = false ∧ bits (s.srcS 2 5).toNat 32 5 = 1 ∧ bits (s.srcS 2 5).toNat 0 4 = 0
    ∧ runB (btdAt s.who (s.srcS 0 1).toNat) s (fun t u => runB (poolAt s.who t.pool) u (fun p _ =>
        decide (0x1000 + p.tokenBytes ≤ limit) && ((newCmd s a (draft .kvapp [] p.tokenBytes 0)).rangesFrom s 0).isOk
        && (addSpots s s.cur.ctx false false (spots 0x1000 p.tokenBytes) []).isOk)) = true
    ∧ runB (readBlock (s.srcS 2 6).toNat 32 32) s (fun bs z => z == s && (selBlk bs).k == 1 && (selBlk bs).ne == 1
        && runB (btdAt s.who (selBlk bs).bt) s (fun t u => runB (poolAt s.who t.pool) u (fun p _ =>
          (s.ownSpan s.me 0x1000 8).isSome && (s.ownSpan s.me 0x100 (2 * p.d)).isSome
          && ((newCmd s q (draft .psel bs 8 0)).rangesFrom s 0).isOk
          && (match addSpots s s.cur.ctx false false (spots 0x100 (2 * p.d)) [] with
            | .ok m => (addSpots s s.cur.ctx true false (spots 0x1000 8) m).isOk
            | .error _ => false)))) = true := by
  unfold CmdRoom; refine ⟨?_, ?_, ?_, ?_, ?_, ?_⟩ <;> decide +kernel

/-- A parameter block at 0x8000 for one token, and its logit at 0x8100. -/
def sampleState (nv logit : Nat) : State :=
  withRegs .C [(1, 0x100000000008000), (2, 0x100000000008100), (3, 0x200)] (recordCells 1 0 1
    ++ [(0x8000, 8, nv), (0x8008, 8, 0x3F8000003F800000), (0x8010, 8, 0x3F80000000000000), (0x8030, 8, M 0x3000), (0x8100, 4, logit)])

/-- SAMPLE with a bad block, with no eligible token, and with one, with a list to write and without. -/
theorem witness_BlockTablesAndSampling_sample :
    let load (s : State) (p : SamplePar → State → Bool) : Bool :=
      runB (sampleLoad s false (s.srcS 1 1).toNat 64) s (fun bs u => p (sampleParOf bs) u)
    let tokens (s : State) (f : ProbList → State → SamplePar → Bool) : Bool := load s (fun p u => p.ok
      && runB (sampleLoad s false (s.srcS 2 2).toNat (4 * p.nv)) u (fun lb v1 =>
        runB (if p.gen then loadBytes s.who p.gmask ((p.nv + 7) / 8) else pure []) v1 (fun mask v2 =>
          runB (if p.npen = 0 then pure [] else loadBytes s.who p.pen (4 * p.npen)) v2 (fun pens v3 =>
            runB (seqAt s.who p.rec_) v3 (fun _ t => f (eligible p ((chunks 4 p.nv lb).map leNat) (mask.map (·.toNat))
              ((chunks 4 p.npen pens).map leNat)) t p)))))
    load (sampleState 0 0) (fun p _ => !p.ok) = true
    ∧ tokens (sampleState 1 0xFF800000) (fun el _ p => (sampleKept p el).isNone) = true
    ∧ tokens (sampleState 1 0) (fun el t p => match sampleKept p el with
        | some (kept, spill) => !spill && runB (do
            let list := sortedProbs (kept.map (fun x => (x.1, f32Div x.2 (totalProb kept))))
            let locs ← ownBlock 0x200 (8 * list.length) 8
            spadWrite locs (list.flatMap (fun y => packNats 4 [y.1, y.2])) 0) t (fun _ _ => true)
        | none => false) = true := by
  refine ⟨?_, ?_, ?_⟩ <;> decide +kernel

/-- The buckets of 16 empty shards of an index at 0x8000, and an operand block at 0x8400. -/
def shardCells (x : Nat) : List (Nat × Nat × Nat) :=
  (List.range 16).map (fun d => (0x8008 + 32 * d, 8, M 0x9000)) ++ [(0x8400, 8, M x), (0x8408, 8, 9)]

/-- The rest of the index. -/
def indexCells (x : Nat) : List (Nat × Nat × Nat) :=
  shardCells x ++ [(0x8200, 8, M 0x8300), (0x8208, 2, 1), (0x8300, 8, M 0x6000), (0x9000, 4, 0xFFFFFFFF)]

def pfxState (len x : Nat) (first : Nat) : State :=
  { kvState len [(4, 0x100000000007000), (5, 1), (6, 17), (7, 0x100000000008400)] (indexCells x ++ [(0x7000, 4, first)]) with
    index := some (0x100000000008000, 0) }

/-- PFXLK on a table that is not fresh, with N out of range, with a token out of range, and with a match of none; PFXREL
and PFXINS. -/
theorem witness_PrefixIndex :
    let s := pfxState 0 0x6000 0
    let w := s.who
    let table (s : State) (f : Btd → State → Bool) : Bool := runB (btdAt s.who (s.srcS 1 1).toNat) s f
    s.active (hd .L) = true ∧ s.me.holdsPriv = false
    ∧ table (pfxState 1 0x6000 0) (fun t _ => t.len != 0) = true
    ∧ table s (fun t u => t.len == 0 && (s.srcS 3 0).toNat == 0 && decide (16 * t.cap < (s.srcS 3 6).toNat) && t.canAdvance && t.quiet
        && runB (releaseFrom w t (s.srcS 2 4).toNat) u (fun _ _ => true)
        && runB (loadBytes w (s.srcS 2 4).toNat 4) u (fun bs v =>
          let ts := (chunks 4 1 bs).map leNat
          ts.all (fun x => decide (x < 2 ^ 20)) && runB (poolAt w t.pool) v (fun p x =>
            runB (matchFull w p t ts 1 0 (0xFFFF0000 + p.id)) x (fun j y => runB (matchPart w p t ts j.1 j.2) y (fun m z =>
              runB (do setLen w t (16 * j.1 + m); releaseTable w t; newVersion w t 0xFFFFFFFF; acquireOp w 3 .all) z (fun _ _ => true)))))) = true
    ∧ table (pfxState 0 0x6000 (2 ^ 20)) (fun t u => t.len == 0 && runB (loadBytes w (s.srcS 2 4).toNat 4) u (fun bs _ =>
        ((chunks 4 1 bs).map leNat).any (fun x => decide (2 ^ 20 ≤ x)))) = true
    ∧ runB (releaseOp w .all) s (fun _ u => runB (btdAt w (s.srcS 1 1).toNat) u (fun t v => runB (poolAt w t.pool) v (fun p x =>
        runB (insertWalk w p t (s.srcS 2 4).toNat (0xFFFF0000 + p.id) (min (t.len / 16) t.cap) 0) x (fun _ _ => true)))) = true := by
  refine ⟨?_, ?_, ?_, ?_, ?_, ?_⟩ <;> decide +kernel

/-- The parts of a PFXADM operation complete. -/
def adminRuns (s : State) (act : Who → Nat → Nat → Op (Nat × Nat)) : Bool :=
  s.me.holdsPriv && runB (releaseOp s.who .all) s (fun _ u => runB (loadBytes s.who (s.srcS 1 7).toNat 16) u (fun bs v =>
    runB (act s.who (blkWord bs 0) (blkWord bs 1)) v (fun r _ => decide (r.1 < 256))))

theorem witness_PrefixIndex_init :
    adminRuns (asPrivileged (withRegs .L [(7, 0x100000000008400)] (shardCells 0x8000))) pfxInit = true := by decide +kernel

theorem witness_PrefixIndex_admin :
    let s := asPrivileged (pfxState 0 0x6000 0)
    adminRuns s pfxDemote = true ∧ adminRuns s pfxPromote = true ∧ adminRuns s pfxEvict = true ∧ adminRuns s pfxFlush = true := by
  refine ⟨?_, ?_, ?_, ?_⟩ <;> decide +kernel
/-! ### Regions of block tables, of the index, and operands of SAMPLE -/

/-- KVMAP, KVUNPIN and BTINV on a table whose versions have nothing to drop, and RNGDRAW. -/
theorem witness_BlockTablesAndSampling_regions :
    let s := asPrivileged ((kvState 0 [] []).updMe (fun c => { c with tablePins := [(0x5000, 0x100000000005000, 0x100)] }))
    let w := s.who
    let table : Region := ([w], M 0x5000, 64, 0x5000)
    (quietB s && regionsOk [([w], M 0x6000, 64, 0x6000), ([w], M 0x5100, 4, 0x5100), ([w], M 0x6100, 32, 0x6100)] [table]
      && regionsOk [] [table]) = true
    ∧ Mapped s ∧ s.index = none ∧ s.othersWrites (some (s.cur.ctx, s.cur.lane)) = [] ∧ s.me.holdsPriv = true
    ∧ runB (btdAt w (s.srcS 1 1).toNat) s (fun t _ => t.rets.all (· == noEntry) && t.pool == M 0x6000 && t.ent == M 0x5100 && t.cap == 1
        && t.canAdvance && decide (t.pins.getD (t.ver % 4) 0 < 65535)
        && runB (poolAt w t.pool) s (fun p _ => p.psa == M 0x6100 && p.npages == 4 && decide (0 < p.ng)
          && runB ((List.range 1).mapM (fun j => mapRecord w t p 0 (0 + j))) s (fun _ _ => true)
          && runB (tableCover w t p) s (fun _ _ => true))) = true := by
  unfold Mapped; decide +kernel

theorem witness_BlockTablesAndSampling_draw :
    let s := withRegs .S [(1, 0x100000000003000), (2, 7)] (recordCells 1 0 1)
    seqValid (s.readBytes 0x3000 128) (recOf s) = true ∧ FirmPlace s s.who (s.srcS 1 1).toNat 128 0x3000 (fun _ => False) := by
  have h : Mapped (withRegs .S [(1, 0x100000000003000), (2, 7)] (recordCells 1 0 1)) := by unfold Mapped; decide +kernel
  refine ⟨by decide +kernel, ?_⟩
  rw [show ((withRegs .S [(1, 0x100000000003000), (2, 7)] (recordCells 1 0 1)).srcS 1 1).toNat = M 0x3000 by decide +kernel]
  exact h.firmPlace ⟨rfl, rfl⟩ rfl rfl rfl (by norm_num) (fun _ _ _ f => f)

/-- The operands of SAMPLE in memory: a bad block, no eligible token, and one. -/
theorem witness_BlockTablesAndSampling_operands : ∀ x ∈ [(0, 0), (1, 0xFF800000), (1, 0)],
    let s := sampleState x.1 x.2
    let p := sampleParOf (s.readBytes 0x8000 64)
    Quiet s ∧ s.scratchPending = [] ∧ (s.srcS 1 1).toNat = M 0x8000 ∧ (s.srcS 2 2).toNat = M 0x8100 ∧ OperandAt s false (M 0x8000) 64 (s.readBytes 0x8000 64)
    ∧ OperandAt s false (M 0x8100) (4 * p.nv) (s.readBytes 0x8100 (4 * p.nv)) ∧ p.ok = (x.1 == 1) ∧ p.gen = false ∧ p.npen = 0
    ∧ FirmPlace s s.who (M 0x3000) 128 0x3000 (fun _ => False)
    ∧ (x.1 = 1 → p.rec_ = M 0x3000 ∧ seqValid (s.readBytes 0x3000 128) (recOf s) = true
      ∧ (match sampleKept p (eligible p ((chunks 4 p.nv (s.readBytes 0x8100 (4 * p.nv))).map leNat) [] []) with
        | some (kept, spill) => x.2 == 0 && !spill && runB (ownBlock 0x200 (8 * kept.length) 8) s (fun locs t => t == s && decide locs.Nodup)
        | none => x.2 != 0) = true) := by
  have m : ∀ x ∈ [(0, 0), (1, 0xFF800000), (1, 0)], Mapped (sampleState x.1 x.2) ∧ dieOfCore (sampleState x.1 x.2).who.core = 0
      ∧ (sampleState x.1 x.2).who.asid = 0 ∧ 0x8100 + 4 * (sampleParOf ((sampleState x.1 x.2).readBytes 0x8000 64)).nv ≤ 2 ^ 29 := by
    unfold Mapped; decide +kernel
  intro x hx
  obtain ⟨h, h1, h2, h3⟩ := m x hx
  refine ⟨quiet_of_empty rfl rfl rfl rfl, rfl, ?_, ?_, ?_, ?_, ?_, ?_, ?_, h.firmPlace ⟨h1, h2⟩ rfl rfl rfl (by norm_num) (fun _ _ _ f => f), ?_⟩
  rotate_left 2
  · rw [OperandAt, if_neg (by decide)]
    exact ⟨0x8000, h.firmPlace ⟨h1, h2⟩ rfl rfl rfl (by norm_num) (fun _ _ _ f => f), rfl⟩
  · rw [OperandAt, if_neg (by decide)]
    exact ⟨0x8100, h.firmPlace ⟨h1, h2⟩ rfl rfl rfl h3 (fun _ _ _ f => f), rfl⟩
  all_goals
    clear m h h1 h2 h3
    revert x
    decide +kernel

/-- An index of 16 shards of one node and one bucket each, all free: nodes from 0xA000, buckets from 0x9000; the pool
table at 0x8300; an operand block at 0x8400 that names `x` and `m`. -/
def fullIndex (x m : Nat) : List (Nat × Nat × Nat) :=
  (List.range 16).flatMap (fun d => [(0x8000 + 32 * d, 8, M (0xA000 + 64 * d)), (0x8008 + 32 * d, 8, M (0x9000 + 4 * d)),
    (0x8010 + 32 * d, 8, 1 + 2 ^ 32 * (d * 2 ^ 28)), (0xA008 + 64 * d, 4, 0xFFFFFFFF)])
  ++ [(0x8200, 8, M 0x8300), (0x8208, 2, 1), (0x8300, 8, M 0x6000), (0x8400, 8, M x), (0x8408, 8, m)]

/-- Empty buckets. -/
def emptyBuckets : List (Nat × Nat × Nat) := (List.range 16).map (fun d => (0x9000 + 4 * d, 4, 0xFFFFFFFF))

/-- A privileged lane: s1 names the table (LEN `len`, entry `first`, its pool's page 0 in the state `page`), s4 tokens, s5 is 1, s7 the operand block. -/
def indexState (len first page : Nat) (ws : List (Nat × Nat × Nat)) : State :=
  { asPrivileged (withRegs .L [(1, 0x100000000005000), (4, 0x100000000007000), (5, 1), (7, 0x100000000008400)]
      (tableCells 0x5000 0x5100 len first ++ poolCells.filter (fun c => c.1 != 0x6100) ++ [(0x6100, 8, page)] ++ freeRodCells ++ ws)) with index := some (0x100000000008000, 0) }

def indexWho : Who := deviceWho 0 0

/-- The index and its nodes. -/
def nodeRegions : List Region :=
  ([indexWho], M 0x8000, 0x20A, 0x8000) :: (List.range 16).map (fun d => ([indexWho], M (0xA000 + 64 * d), 64, 0xA000 + 64 * d))

/-- PFXREL of a table with no references, and PFXLK that matches nothing. -/
theorem witness_PrefixIndex_lookup :
    let s := indexState 0 0xFFFFFFFF 1 (fullIndex 0x6000 0 ++ emptyBuckets)
    let w := s.who
    let table : Region := ([w], M 0x5000, 64, 0x5000)
    let pool : Region := ([w], M 0x6000, 64, 0x6000)
    (quietB s && regionsOk [pool, ([w], M 0x5100, 4, 0x5100), ([indexWho], M 0x8000, 0x20A, 0x8000)] [table]
      && (List.range 16).all (fun d => regionsOk (nodeRegions ++ [pool, ([w], M 0x7000, 4, 0x7000),
        ([indexWho], M (0x9000 + 4 * d), 4, 0x9000 + 4 * d)]) [table] && s.readNat (0x9000 + 4 * d) 4 == noEntry
        && bits (s.readNat (0xA000 + 64 * d + 8) 8) 63 1 == 0)) = true
    ∧ Mapped s ∧ (s.core s.me.core).l1 = [] ∧ (s.die s.myDie).rdc = [] ∧ s.index = some (0x100000000008000, 0)
    ∧ runB (btdAt w (s.srcS 1 1).toNat) s (fun t _ => t.quiet && t.canAdvance && t.rets.all (· == noEntry) && t.len == 0 && t.cap == 1
        && t.pool == M 0x6000 && t.ent == M 0x5100 && s.readNat 0x5100 4 == noEntry && runB (poolAt w t.pool) s (fun _ _ => true)) = true
    ∧ (chunks 4 1 (s.readBytes 0x7000 4)).all (fun x => decide (leNat x < 2 ^ 20)) = true := by
  unfold Mapped; decide +kernel

/-- PFXINS of one page under the root. -/
theorem witness_PrefixIndex_insert :
    let s := indexState 16 0 1 (fullIndex 0x6000 0 ++ emptyBuckets)
    let w := s.who
    let d := edgeHash 0xFFFF0000 (edgeTokens ((chunks 4 16 (s.readBytes 0x7000 64)).map leNat)) / 2 ^ 28
    (quietB s && regionsOk [([w], M 0x5000, 64, 0x5000), ([w], M 0x6000, 64, 0x6000), ([w], M 0x5100, 4, 0x5100), ([w], M 0x7000, 64, 0x7000)]
      [([indexWho], M 0x8000, 0x20A, 0x8000), ([w], M 0x6100, 8, 0x6100), ([indexWho], M (0x9000 + 4 * d), 4, 0x9000 + 4 * d),
        ([indexWho], M (0xA000 + 64 * d), 64, 0xA000 + 64 * d)]) = true
    ∧ Mapped s ∧ d < 16 ∧ s.readNat 0x5100 4 = 0 ∧ bits (s.readNat 0x6100 8) 0 2 = 1 ∧ s.readNat (0x9000 + 4 * d) 4 = noEntry
    ∧ s.readNat (0x8014 + 32 * d) 4 = d * 2 ^ 28
    ∧ runB (btdAt w (s.srcS 1 1).toNat) s (fun t _ => t.len == 16 && t.cap == 1 && runB (poolAt w t.pool) s (fun p _ => p.id == 0 && p.npages == 4)) = true := by
  unfold Mapped; decide +kernel

/-- Page 0 SHARED, in KVBP8 and tier 0, and in tier 1; its node 0 of shard 0 without references. -/
theorem witness_PrefixIndex_pages : ∀ tier ∈ [0, 1],
    let s := indexState 0 0xFFFFFFFF (2 + 4 + 16 * tier) (fullIndex 0x6000 0 ++ emptyBuckets)
    let w := s.who
    let read : List Region := [([w], M 0x8400, 16, 0x8400), ([indexWho], M 0x8000, 0x20A, 0x8000), ([w], M 0x6000, 64, 0x6000)]
    let word : Region := ([w], M 0x6100, 8, 0x6100)
    (quietB s && runB (poolAt w (s.readNat 0x8400 8)) s (fun p _ => p.ng == 1 && decide (s.readNat 0x8408 8 < p.npages)
        && p.store 0 0 0 == M 0x200000 && p.store 0 0 1 == M 0x300000
        && regionsOk (([indexWho], M 0xA000, 64, 0xA000) :: read ++ [([w], M 0x200000, p.pageBytes 1, 0x200000)])
          [word, ([w], M 0x300000, p.pageBytes 2, 0x300000)]
        && regionsOk (read ++ [([w], M 0x300000, p.pageBytes 1, 0x300000)]) [word, ([w], M 0x200000, p.pageBytes 1, 0x200000)])) = true
    ∧ Mapped s ∧ bits (s.readNat 0x6100 8) 0 2 = 2 ∧ bits (s.readNat 0x6100 8) 2 2 = 1 ∧ bits (s.readNat 0x6100 8) 4 1 = tier
    ∧ bits (s.readNat 0xA008 8) 32 16 = 0 ∧ bits (s.readNat 0xA010 8) 48 16 < s.readNat 0x8208 2 := by
  unfold Mapped; decide +kernel

/-- PFXADM.evict and .flush: no node in the tree, and one of page 0 under the root in shard 3. -/
theorem witness_PrefixIndex_evict :
    let none := indexState 0 0xFFFFFFFF 1 (fullIndex 0x6000 1 ++ emptyBuckets)
    let s := indexState 0 0xFFFFFFFF 2 (fullIndex 0x6000 1 ++ [(0x900C, 4, 3 * 2 ^ 28), (0xA0C4, 4, 0xFFFF0000), (0xA0CC, 4, 2 ^ 31)])
    let w := s.who
    let rod : RodRef := ⟨0x6200, BitVec.ofNat 64 (M 0x6200), false⟩
    let block : Region := ([w], M 0x8400, 16, 0x8400)
    let inTree (t : State) (d : Nat) : Nat := bits (t.readNat (0xA008 + 64 * d) 8) 63 1
    (quietB none && quietB s && regionsOk (block :: ([w], M 0x6000, 64, 0x6000) :: nodeRegions) []
      && regionsOk [block, ([w, indexWho], M 0x6000, 64, 0x6000), ([indexWho], M 0x8300, 8, 0x8300)]
        (([indexWho], M 0x900C, 4, 0x900C) :: ([indexWho], M 0x6100, 8, 0x6100) :: ([indexWho], M 0x6200, 64, 0x6200)
          :: ([indexWho], M 0x6300, 8, 0x6300) :: nodeRegions)) = true
    ∧ Mapped none ∧ Mapped s ∧ (∀ d ∈ List.range 16, inTree none d = 0) ∧ (∀ d ∈ List.range 16, inTree s d = 1 ↔ d = 3)
    ∧ (bits (s.readNat 0xA0C8 8) 32 31 = 0 ∧ bits (s.readNat 0xA0D0 8) 48 16 = 0 ∧ s.readNat 0xA0C4 4 = 0xFFFF0000
      ∧ s.readNat 0x900C 4 = 3 * 2 ^ 28 ∧ s.readNat 0x8300 8 = s.readNat 0x8400 8 ∧ s.readNat 0x8408 8 ≠ 0)
    ∧ (rodCheck12 s rod = .ok ∧ rodCheck37 s rod = .ok ∧ rodFixHome s rod = s ∧ isWorkRod 0x6200 = false ∧ rodStatus s 0x6200 = 0
      ∧ rodElsz s 0x6200 = 3 ∧ rodFree s 0x6200 ≠ 0 ∧ rodTail s 0x6200 = rodRsv s 0x6200 ∧ rodBase s 0x6200 = M 0x6300 ∧ s.waiters = [])
    ∧ runB (poolAt w (s.readNat 0x8400 8)) s (fun p _ => p.freer == M 0x6200 && p.id == 0 && p.psa == M 0x6100) = true := by
  unfold Mapped; decide +kernel

/-- PFXADM.init of an index whose shards have a node and a bucket each. -/
theorem witness_PrefixIndex_initial :
    let s := indexState 0 0xFFFFFFFF 1 (fullIndex 0x8000 0)
    (quietB s && regionsOk [([s.who], M 0x8400, 16, 0x8400)]
      (nodeRegions ++ (List.range 16).map (fun d => ([indexWho], M (0x9000 + 4 * d), 4, 0x9000 + 4 * d)))) = true
    ∧ Mapped s ∧ s.me.holdsPriv = true ∧ (∀ d ∈ List.range 16, s.readNat (0x8010 + 32 * d) 4 = 1)
    ∧ s.readNat 0x8400 8 = M 0x8000 ∧ (s.srcS 1 7).toNat = M 0x8400 := by
  unfold Mapped; decide +kernel
/-! ### Engine commands that complete -/

/-- Location numbers of the lines of the mapped page. -/
def mappedLines (n : Nat) : Nat := n - 2 ^ 50

/-- Where an engine command finds a byte: in the scratchpad of its core, or in the mapped page. -/
def spotLoc (s : State) (c : EngCmd) (write : Bool) (p : Spot) : Option Nat :=
  if p.sp then
    match s.spadSpan (s.ctx c.ctx) p.a 1 (write && c.isCopy) with
    | some [[loc]] => some loc
    | _ => none
  else if 2 ^ 56 ≤ p.a ∧ p.a < 2 ^ 56 + 2 ^ 29 then some (p.a - 2 ^ 56) else none

theorem Mapped.engineAt {s : State} (h : Mapped s) {c : EngCmd} (hc : (dieOfCore c.core == 0 && c.asid == 0 && quietB s) = true) {write : Bool}
    {p : Spot} {loc : Nat} (e : spotLoc s c write p = some loc) : EngineAt s c write mappedLines p loc := by
  simp only [Bool.and_eq_true, beq_iff_eq, quietB, decide_eq_true_eq] at hc
  obtain ⟨⟨hd, ha⟩, hw, -⟩ := hc
  have g : (0 : BitVec 13).toNat = 0 := rfl
  unfold spotLoc at e
  unfold EngineAt
  split at e
  · rw [if_pos (by assumption)]
    split at e
    · rename_i x hx
      cases e
      exact hx
    · cases e
  · rw [if_neg (by assumption)]
    split at e
    · rename_i hp
      have e := Option.some.inj e
      subst e
      refine ⟨noneFirst_of_empty (path_empty hw _) (pendings_empty hw), by unfold mappedLines; omega, xl (p.a - 2 ^ 56),
        fun u sw => ?_, rfl, rfl⟩
      have m := (h.same sw (fun _ _ _ => id)).sees (w := s.cmdWho c) hd (by simp [State.cmdWho, ha]) (k := p.a - 2 ^ 56) (by omega) write
      rwa [show 2 ^ 56 + (p.a - 2 ^ 56) = p.a by omega] at m
    · cases e

/-- What the data clauses of EngineCommandEvents ask of the bytes that a command reads and writes. -/
def Movable (s : State) (c : EngCmd) (m k : Nat) (from_ dest : Nat → Spot) : Prop :=
  FreshCopies s (dieOfCore c.core) ∧ c.ctr = 0 ∧ ∃ src dst : Nat → Nat,
    (∀ i, i < m → EngineAt s c false mappedLines (from_ i) (src i) ∧ s.poisoned [src i] = none)
    ∧ (∀ i, i < k → EngineAt s c true mappedLines (dest i) (dst i)) ∧ (∀ i j, i < m → j < k → src i ≠ dst j)
    ∧ ∀ i j, i < k → j < k → dst i = dst j → i = j

def movableB (s : State) (c : EngCmd) (m k : Nat) (from_ dest : Nat → Spot) : Bool :=
  let src := (List.range m).map (fun i => spotLoc s c false (from_ i))
  let dst := (List.range k).map (fun i => spotLoc s c true (dest i))
  (dieOfCore c.core == 0 && c.asid == 0 && quietB s) && (s.die 0).rdc.isEmpty && c.ctr == 0 && src.all (·.isSome) && dst.all (·.isSome)
    && src.all (fun a => !dst.contains a) && decide dst.Nodup

theorem Mapped.movable {s : State} (h : Mapped s) {c : EngCmd} {m k : Nat} {from_ dest : Nat → Spot} (b : movableB s c m k from_ dest = true) :
    Movable s c m k from_ dest := by
  simp only [movableB, Bool.and_eq_true (a := _) (b := _), List.all_map, List.all_eq_true, List.mem_range, Function.comp_apply,
    decide_eq_true_eq, List.isEmpty_iff] at b
  obtain ⟨⟨⟨⟨⟨⟨hc, hr⟩, h0⟩, h1⟩, h2⟩, h3⟩, h4⟩ := b
  have hc' : (dieOfCore c.core == 0 && c.asid == 0 && quietB s) = true := by simpa only [Bool.and_eq_true] using hc
  have hd : dieOfCore c.core = 0 := by simpa using hc.1.1
  have q : s.poison = [] := by
    have := hc.2
    simp only [quietB, decide_eq_true_eq] at this
    exact this.2
  refine ⟨fun line d e => ?_, by simpa using h0, fun i => (spotLoc s c false (from_ i)).getD 0, fun i => (spotLoc s c true (dest i)).getD 0,
    fun i hi => ⟨h.engineAt hc' ?_, by simp [State.poisoned, q]⟩, fun i hi => h.engineAt hc' ?_, fun i j hi hj e => ?_, fun i j hi hj e => ?_⟩
  · rw [hd, hr] at e
    cases e
  · obtain ⟨x, e⟩ := Option.isSome_iff_exists.mp (h1 i hi)
    simp [e]
  · obtain ⟨x, e⟩ := Option.isSome_iff_exists.mp (h2 i hi)
    simp [e]
  · obtain ⟨x, e1⟩ := Option.isSome_iff_exists.mp (h1 i hi)
    obtain ⟨y, e2⟩ := Option.isSome_iff_exists.mp (h2 j hj)
    simp only [e1, e2, Option.getD_some] at e
    subst e
    have := h3 i hi
    rw [e1] at this
    simp only [Bool.not_eq_true', List.contains_eq_mem, decide_eq_false_iff_not, List.mem_map, List.mem_range, not_exists, not_and] at this
    exact this j hj e2
  · obtain ⟨x, e1⟩ := Option.isSome_iff_exists.mp (h2 i hi)
    obtain ⟨y, e2⟩ := Option.isSome_iff_exists.mp (h2 j hj)
    simp only [e1, e2, Option.getD_some] at e
    subst e
    have n := List.nodup_iff_injective_getElem.mp h4
    have := @n ⟨i, by simpa using hi⟩ ⟨j, by simpa using hj⟩ (by simp [e1, e2])
    simpa using this

/-- Bytes that a command reads in its core's scratchpad, and so apart from memory. -/
def SpadAt (s : State) (c : EngCmd) (base : Word) (m : Nat) : Prop := ∃ at_ : Nat → Nat, ∀ i, i < m →
  EngineAt s c false mappedLines ⟨true, offsetBy base (i : Nat)⟩ (at_ i) ∧ s.poisoned [at_ i] = none ∧ 2 ^ 72 ≤ at_ i

theorem Mapped.spadAt {s : State} (h : Mapped s) {c : EngCmd} {base : Word} {m : Nat}
    (b : ((dieOfCore c.core == 0 && c.asid == 0 && quietB s) && (List.range m).all (fun i =>
      match spotLoc s c false ⟨true, offsetBy base (i : Nat)⟩ with
      | some x => decide (2 ^ 72 ≤ x)
      | none => false)) = true) : SpadAt s c base m := by
  rw [Bool.and_eq_true] at b
  obtain ⟨hc, b⟩ := b
  have q : s.poison = [] := by
    simp only [Bool.and_eq_true, quietB, decide_eq_true_eq] at hc
    exact hc.2.2
  refine ⟨fun i => (spotLoc s c false ⟨true, offsetBy base (i : Nat)⟩).getD 0, fun i hi => ?_⟩
  have g := List.all_eq_true.mp b i (List.mem_range.mpr hi)
  split at g
  · rename_i x e
    exact ⟨h.engineAt hc (by simp [e]), by simp [State.poisoned, q], by simpa [e] using g⟩
  · cases g

/-- A command of context 0 that has been issued and not begun, with its block as words, in the state of its event. -/
def cmdOf (kind : CmdKind) (dst src desc : Word) (sub : BitVec 9) (fl : BitVec 6) (blk : List Nat) (len : Nat) : EngCmd :=
  { newCmd (base []) e0 (draft kind (packNats 8 blk) len 0) with dst := dst, src := src, desc := desc, sub := sub, fl := fl }

def atCmd (c : EngCmd) (b : State) : State := withEv ⟨0, .L, 1, 0, 0, [], []⟩ { b with cmds := c :: b.cmds }

/-- The premises that every clause has. -/
def readyB (s : State) (c : EngCmd) : Bool :=
  s.evCmd == some c && c.predsDone && c.phase == .queued && !c.idle && s.scratchPending.isEmpty
    && c.named s.cur.ev.ctx s.cur.ev.lane (BitVec.ofNat 16 s.cur.ev.num) && c.off == 0 && c.data == [] && c.code == 0

/-- A COPY from memory to the scratchpad; a COPYT with strides, plain and transposing; a FILL of memory; a QCVT of one unit of
halves; a PLANE of one row and one plane. -/
theorem witness_EngineCommandEvents_moves :
    let b := withRegs .L [] []
    let copy := cmdOf .copy 0x200 (BitVec.ofNat 64 (M 0x2001)) 3 0 0b000100 [] 3
    let copyt (sub : BitVec 9) : EngCmd := cmdOf .copyt (BitVec.ofNat 64 (M 0x3000)) 0x100 0 sub 0b011000 [2 + 4 * 2 ^ 32, 8, 16, 1] 8
    let fill := cmdOf .fill (BitVec.ofNat 64 (M 0x2000)) 0x1122334455667788 5 2 0 [] 5
    let qcvt := cmdOf .qcvt 0x200 (BitVec.ofNat 64 (M 0x2000)) 32 0b000100000 0b000100 [0, 0x300] 32
    let p : List Nat := List.replicate 8 (M 0x4000) ++ [M 0x5000, 4 + 64 * 2 ^ 32, 2 ^ 8]
    let tgt : List Nat := List.replicate 8 0x600 ++ [0x700, 4 + 64 * 2 ^ 32, 1 + 2 ^ 8]
    let plane := cmdOf .plane 0x500 (BitVec.ofNat 64 (M 0x2000)) (1 + 2 ^ 32) 0 0b000100 (tgt ++ [0]) 9
    let planes := planesOf (packNats 8 (p ++ [0]))
    let held := withRegs .L [] (p.zipIdx.map (fun x => (0x2000 + 8 * x.2, 8, x.1)))
    (∀ c ∈ [copy, copyt 0, copyt 16, fill, qcvt], readyB (atCmd c b) c = true)
    ∧ (copy.kind = .copy ∧ copy.sub = 0 ∧ Movable (atCmd copy b) copy 3 3 (fun i => ⟨copy.fl.getLsbD 3, offsetBy copy.src (i : Nat)⟩)
        (fun i => ⟨copy.fl.getLsbD 2, offsetBy copy.dst (i : Nat)⟩))
    ∧ (∀ x ∈ [copyt 0, copyt 16], x.fl.getLsbD 4 = true ∧ x.len = blkRows x.blk * blkRb x.blk ∧ blkRb x.blk % 2 ^ bits (blkWord x.blk 3) 0 2 = 0)
    ∧ Movable (atCmd (copyt 0) b) (copyt 0) 8 8 (fun i => ⟨true, offsetBy 0x100 ((i / 4 : Nat) * 8 + (i % 4 : Nat))⟩)
        (fun i => ⟨false, offsetBy (BitVec.ofNat 64 (M 0x3000)) ((i / 4 : Nat) * 16 + (i % 4 : Nat))⟩)
    ∧ Movable (atCmd (copyt 16) b) (copyt 16) 8 8 (fun i => ⟨true, offsetBy 0x100 ((i / 4 : Nat) * 8 + (i % 4 : Nat))⟩)
        (fun i => ⟨false, offsetBy (BitVec.ofNat 64 (M 0x3000)) ((i % 4 / 2 : Nat) * 16 + (i / 4 * 2 + i % 2 : Nat))⟩)
    ∧ Movable (atCmd fill b) fill 0 5 (fun _ => default) (fun i => ⟨false, offsetBy fill.dst (i : Nat)⟩)
    ∧ Movable (atCmd qcvt b) qcvt 64 33 (fun i => ⟨false, offsetBy qcvt.src (i : Nat)⟩)
        (fun i => ⟨true, if i < 32 then offsetBy qcvt.dst (i : Nat) else offsetBy (BitVec.ofNat 64 (blkWord qcvt.blk 1)) (i - 32 : Nat)⟩)
    ∧ (readyB (atCmd plane held) plane = true ∧ plane.blk.length = 96
      ∧ planesOf ((List.range 96).map (fun i => held.byteAt (0x2000 + i))) = planes ∧ planes.sp = false ∧ planes.nr = 4
      ∧ planes.ke = (planesOf plane.blk).ke ∧ 1 ≤ planes.np ∧ planes.np ≤ 8)
    ∧ Movable (atCmd plane held) plane 105 9 (fun i => ⟨false, if i < 96 then offsetBy plane.src (i : Nat)
          else if i < 104 then M 0x4000 + 8 + (i - 96) else M 0x5000 + 1⟩)
        (fun i => ⟨true, if i < 8 then 0x600 + i else 0x700⟩) := by
  refine ⟨by decide +kernel, ⟨rfl, rfl, ?_⟩, by decide +kernel, ?_, ?_, ?_, ?_, by decide +kernel, ?_⟩ <;>
    exact Mapped.movable (by unfold Mapped; decide +kernel) (by decide +kernel)

/-- An FRECV and its FSEND on one die, the data there, and an FRECV of no bytes; the FSEND acknowledged, and not begun. -/
theorem witness_EngineCommandEvents_messages :
    let b := withRegs .L [] []
    let send : EngCmd := { cmdOf .fsend 0 0x100 0 0 0b001000 [] 4 with ends := (8, 0, 5, 0) }
    let m : EngCmd := { send with lane := .C, data := List.replicate 4 (some 9), off := 4 }
    let recv (n : Nat) : EngCmd := { cmdOf .frecv 0x200 0 0 0 0b000100 [] n with ends := (8, 0, 5, 0) }
    let r (n : Nat) : State := atCmd (recv n) { b with cmds := [m] }
    let acked : EngCmd := { send with acked := true }
    (∀ n ∈ [6, 0], readyB (r n) (recv n) = true ∧ (recv n).acked = false ∧ (recv n).ends.1 = 8 ∧ sendFor (r n) (recv n) = some m
      ∧ m.named 0 .L 1 = false ∧ min m.len n ≤ m.off ∧ (recv n).ctr = 0)
    ∧ (∀ i, i < 4 → m.data[i]? = some (some 9))
    ∧ Movable (r 6) (recv 6) 0 4 (fun _ => default) (fun i => ⟨true, offsetBy 0x200 (i : Int)⟩)
    ∧ (readyB (atCmd acked b) acked = true ∧ acked.acked = true ∧ unreachable (atCmd acked b) acked = false ∧ acked.ctr = 0)
    ∧ (readyB (atCmd send b) send = true ∧ send.acked = false ∧ send.ends.1 = 8)
    ∧ Movable (atCmd send b) send 4 0 (fun i => ⟨true, offsetBy 0x100 (i : Int)⟩) (fun _ => default) := by
  refine ⟨by decide +kernel, by decide +kernel, ?_, by decide +kernel, by decide +kernel, ?_⟩ <;>
    exact Mapped.movable (by unfold Mapped; decide +kernel) (by decide +kernel)

/-- A KVAPP of one token whose NAPP is taken and whose page is ready; a PSEL of a table's one entry, of two rows. -/
theorem witness_EngineCommandEvents_pages :
    let b := kvState 2 [] []
    let app : EngCmd := { cmdOf .kvapp (BitVec.ofNat 64 (M 0x5000)) 0x1000 0x100000000 0 0b001000 [] 256 with kvNapp := true, kvPage := 0 }
    let blk : List Byte := packNats 8 [M 0x5000, 2 ^ 16, 2 ^ 32] ++ packNats 4 [0, 0, 2, 0]
    let sel : EngCmd := { cmdOf .psel 0x200 0x1000 0 0 0b001100 [] 8 with blk := blk, pinned := some 0 }
    let w := b.cmdWho app
    let q := selBlk blk
    let btd : Region := ([w], M 0x5000, 64, 0x5000)
    let pool : Region := ([w], M 0x6000, 64, 0x6000)
    let state : Region := ([w], M 0x6100, 8, 0x6100)
    let here (s : State) : Bool := runB (btdAt w (M 0x5000)) s (fun t u => t.pool == M 0x6000 && t.rets.all (· == noEntry)
      && runB (poolAt w t.pool) u (fun p _ => p.psa == M 0x6100 && p.d == 64 && p.sections == 2 && p.nh == 1 && p.npages == 4
        && p.store 0 0 0 == M 0x200000 && p.pageBytes 0 == 4096))
    readyB (atCmd app b) app = true ∧ readyB (atCmd sel b) sel = true ∧ w = b.cmdWho sel
    ∧ here (atCmd app b) = true ∧ here (atCmd sel b) = true
    ∧ (bits app.desc.toNat 32 5 = 1 ∧ bits app.desc.toNat 0 32 % 16 = 0 ∧ bits app.desc.toNat 40 4 = 0)
    ∧ (sel.blk.length = 36 + 4 * q.ne ∧ q.bt = M 0x5000 ∧ q.ne = 1 ∧ q.k = 1 ∧ q.l = 0 ∧ q.h = 0 ∧ q.g = 0
      ∧ leNat ((blk.drop 36).take 4) = 0 ∧ committedRows (leNat ((blk.drop 32).take 4)) q.e0 = 2)
    ∧ (let x := b.readNat 0x6100 8; bits x 0 2 ≠ 0 ∧ bits x 2 2 = 0 ∧ bits x 4 1 = 0)
    ∧ FirmRegions (atCmd app b) [pool, state] [btd, ([w], M 0x200000, 4096, 0x200000)]
    ∧ FirmRegions (atCmd sel b) [pool, state, ([w], M 0x200000, 2048, 0x200000)] [btd]
    ∧ SpadAt (atCmd app b) app 0x1000 256 ∧ SpadAt (atCmd sel b) sel 0x1000 128
    ∧ Movable (atCmd sel b) sel 0 8 (fun _ => default) (fun i => ⟨true, offsetBy 0x200 (i : Nat)⟩) := by
  have h (c : EngCmd) (e : (atCmd c (kvState 2 [] [])).tlb = (kvState 2 [] []).tlb := by rfl) : Mapped (atCmd c (kvState 2 [] [])) := by
    have m : Mapped (kvState 2 [] []) := by unfold Mapped; decide +kernel
    exact m
  refine ⟨?_, ?_, ?_, ?_, ?_, ?_, ?_, ?_, ?_, ?_, ?_, ?_, ?_⟩
  case refine_9 => exact (h _).regions (by decide +kernel)
  case refine_10 => exact (h _).regions (by decide +kernel)
  case refine_11 => exact (h _).spadAt (by decide +kernel)
  case refine_12 => exact (h _).spadAt (by decide +kernel)
  case refine_13 => exact (h _).movable (by decide +kernel)
  all_goals decide +kernel

/-! ### Slates, control registers, exceptions, banks, translation administration -/

/-- A slate block at scratchpad byte 0x400: NVER 2, versions of 64 bytes from 0x1000. -/
def slateCells (magic cur opened pin0 pin1 status writer : Nat) : List (Nat × Nat × Nat) :=
  let w0 := magic + 2 * 2 ^ 16 + 2 ^ 20 + 0x1000 * 2 ^ 32
  [inSpad 0x400 8 w0, inSpad 0x408 8 64, inSpad 0x410 8 (cur + opened * 2 ^ 32), inSpad 0x418 8 (pin0 + pin1 * 2 ^ 16),
    inSpad 0x428 8 (crc16 (bytesOf w0 8 ++ bytesOf 64 4) + status * 2 ^ 16), inSpad 0x430 8 writer]

def slateState (magic cur opened pin0 pin1 status writer : Nat) : State :=
  withRegs .L [(1, 0x400), (2, 0x1000), (3, 0x1200000040), (4, 1)] (slateCells magic cur opened pin0 pin1 status writer)

/-- A slate as SLINIT leaves it, open for this context and for another, pinned, with a full pin count, quarantined, and
one that does not hold; fields that are valid and not. -/
theorem witness_Slates :
    let l := spadLoc 0 0x400
    let s (cur opened pin0 pin1 : Nat) : State := slateState 0x5A7E cur opened pin0 pin1 0 0
    let eight := (s 1 0 0 0).updMe (fun c => { c with slatePins := List.replicate 8 (0, 0) })
    let one := (s 1 0 0 1).updMe (fun c => { c with slatePins := [((s 1 0 0 1).slateKey l, 0x1000)] })
    let c := ((s 0 0 0 0).srcS 3 3).toNat
    (∀ x ∈ [s 0 0 0 0, s 1 0 0 0, s 1 1 0 1, s 0 0 65535 1, slateState 0x5A7E 0 0 0 0 2 0, slateState 0 0 0 0 0 0 0, eight, one],
      x.active (hd .L) = true ∧ BlockAt x (x.srcS 1 1) l ∧ x.waiters = [] ∧ (x.core x.me.core).wpath = [] ∧ x.pendings = []
      ∧ x.me.fatal = none ∧ x.me.res ≠ .gone ∧ (kvGet x.ctxs x.cur.ctx).isSome = true
      ∧ x.ownSpan x.me 0x400 64 = some ((List.range 64).map (l + ·)) ∧ x.boardHit x.cur.ctx ((List.range 64).map (l + ·)) = false)
    ∧ slStatus (slateState 0x5A7E 0 0 0 0 2 0) l = 2
    ∧ (slStatus (slateState 0 0 0 0 0 0 0) l ≠ 2 ∧ slOk (slateState 0 0 0 0 0 0 0) l = false)
    ∧ (∀ x ∈ [s 0 0 0 0, s 1 0 0 0, s 1 1 0 1, s 0 0 65535 1, eight, one], slStatus x l ≠ 2 ∧ slOk x l = true)
    ∧ (8 ≤ eight.me.slatePins.length ∧ (s 1 0 0 0).me.slatePins.length < 8)
    ∧ (slReadReady (s 1 0 0 0) l = true ∧ slReadReady (s 0 0 65535 1) l = false)
    ∧ (slWriteReady (s 0 0 0 0) l = true ∧ slWriteReady (s 0 0 65535 1) l = false ∧ slWriteReady (s 1 1 0 1) l = false)
    ∧ (slOpen (s 1 1 0 1) l = true ∧ slWriter (s 1 1 0 1) l = 0 ∧ slOpen (s 0 0 0 0) l = false
      ∧ slWriter (slateState 0x5A7E 0 1 0 0 0 7) l ≠ (s 1 1 0 1).cur.ctx % 2 ^ 32)
    ∧ ((one.slateKey l, BitVec.ofNat 32 (one.srcS 2 2).toNat) ∈ one.me.slatePins ∧ (s 1 0 0 0).me.slatePins = [])
    ∧ slFieldsOk (s 0 0 0 0) 0x1000 (bits c 0 32) (bits c 32 3) (bits c 36 4) = true
    ∧ slFieldsOk (s 0 0 0 0) 0x1000 0 0 0 = false
    ∧ (slOk (s 1 1 0 1) l = true ∧ slStatus (s 1 1 0 1) l = 0 ∧ slOpen (s 0 0 0 0) l = false ∧ ∀ k, k < 4 → slPin (s 0 0 0 0) l k = 0) := by
  unfold BlockAt Unmoved
  refine ⟨?_, ?_, ?_, ?_, ?_, ?_, ?_, ?_, ?_, ?_, ?_, ?_⟩ <;> decide +kernel

/-- With privilege and without; a control register with no older value, and one that an MTC of another lane has replaced. -/
theorem witness_ControlRegistersAndMonitors :
    (base []).active (hd .L) = true ∧ (base []).me.holdsPriv = false ∧ (privileged []).active (hd .L) = true
    ∧ (privileged []).me.holdsPriv = true ∧ userReadable 0x018 = true ∧ userReadable 0x009 = false
    ∧ oldCtrls (privileged []) 0 .L 0x004 = []
    ∧ oldCtrls ((privileged []).updMe (fun c => { c with mtcs := 1, olds := [⟨0x004, 7, 0⟩] })) 0 .L 0x004 = [7]
    ∧ isService (privileged []).myCore = false := by decide +kernel

/-- A trap in normal flow with each vector enabled, and with none; ERET in normal flow, and in a handler before and with
the last lane. -/
theorem witness_ExceptionEntryAndReturn :
    let vec (u v : Word) (hnd : BitVec 2) : State := (base []).updMe (fun c => { c with ctrl := { c.ctrl with utvec := u, tvec := v, hnd := hnd } })
    let user := vec 0x8000000000000010 0 0
    let sys := vec 0 0x8000000000000010 0
    let met := (vec 0 0 1).updMe (fun c => { c with laneC := { c.laneC with ended := true, endedBefore := true }, laneS := { c.laneS with arrived := true } })
    (∀ x ∈ [user, sys, vec 0 0 0, vec 0 0 2], x.me.fatal = none ∧ ∀ m ∈ lanes, (x.me.lane m).parked = none ∧ otherLanesWord x x.cur.ctx m (x.me.lane m).pc = false)
    ∧ user.me.ctrl.hnd = 0 ∧ Cause.isUser .trap = true ∧ (seenNow user 0 .L 0x008).getLsbD 63 = true
    ∧ (seenNow sys 0 .L 0x008).getLsbD 63 = false ∧ (seenNow sys 0 .L 0x009).getLsbD 63 = true
    ∧ (seenNow (vec 0 0 0) 0 .L 0x008).getLsbD 63 = false ∧ (seenNow (vec 0 0 0) 0 .L 0x009).getLsbD 63 = false
    ∧ (vec 0 0 1).me.ctrl.hnd ≠ 0 ∧ (vec 0 0 1).allMet = false ∧ met.me.ctrl.hnd ≠ 0 ∧ met.allMet = true := by decide +kernel

/-- Two contexts in the banks of core 0; a block at 0x8400 that names bank 1 and an area. -/
def bankState (other : Option Ctx) (area : Nat) (ws : List (Nat × Nat × Nat)) : State :=
  let c := ctx0 [(1, 0x100000000008400)]
  let s := mapped { c with ctrl := { c.ctrl with prv := true } } ([(0x8400, 8, 0x100), (0x8408, 8, area)] ++ ws)
  { s with
    ctxs := s.ctxs ++ (match other with | some x => [(1, x)] | none => [])
    cores := [(0, { CoreSt.reset with bank0 := some 0, bank1 := if other.isSome then some 1 else none })] }

def inBank1 (r : Residence) : Ctx := { ctx0 [] with bank := 1, res := r }

/-- Every lane of context 0 is at the meeting point. -/
def allArrive (s : State) : State :=
  s.updMe (fun c => { c with laneL := { c.laneL with arrived := true }, laneC := { c.laneC with arrived := true }, laneS := { c.laneS with arrived := true } })

/-- CTXSW with a ready context in the other bank and with none; WAITI with its bit set and not. -/
theorem witness_BankControl_meeting :
    let alone := allArrive (bankState none 0 [])
    let two := allArrive (bankState (some (inBank1 .resident)) 0 [])
    let w (s : State) : State := leaveMeeting (countMeeting s s.cur.ctx) s.cur.ctx s.cur.pc
    let bit := ((alone.updMe (fun c => { c with core := 1024 })).updCore 1024 (fun c => { c with intp := 1 })).updMyLane
      (fun x => { x with s := x.s.setIfInBounds 2 1 })
    alone.me.holdsPriv = true ∧ (bankState none 0 []).allMet = false ∧ alone.allMet = true ∧ two.allMet = true
    ∧ (∀ m ∈ lanes, (alone.me.queues m).loops = []) ∧ otherReady (w alone) 0 = none ∧ otherReady (w two) 0 = some 1
    ∧ readCtrl bit bit.cur.ctx 0x030 &&& waitiMask bit { y0 with a := 2 } ≠ 0
    ∧ readCtrl alone alone.cur.ctx 0x030 &&& waitiMask alone { y0 with a := 2 } = 0 := by
  refine ⟨?_, ?_, ?_, ?_, ?_, ?_, ?_, ?_, ?_⟩ <;> decide +kernel

/-- CTXSPILL with areas that serve and not, an empty bank, a bank whose spill is another's, a stopped context with and
without a command that the spill waits for. -/
theorem witness_BankControl_spill :
    let s := bankState (some (inBank1 .stopped)) (M 0x20000) []
    let none' := bankState none (M 0x20000) []
    let cmd := { (newCmd s e0 (draft .copy [] 8 0)) with ctx := 1, board := some [] }
    let go (s : State) (f : List Byte → State → Bool) : Bool :=
      s.me.holdsPriv && s.active (hd .L) && runB (loadBytes s.who (s.srcS 1 1).toNat 16) s f
    go (bankState none 1 []) (fun bs _ => !deviceHalf (blkWord bs 1) 65536 && !deviceHalf (blkWord bs 1) 4096) = true
    ∧ go none' (fun bs _ => deviceHalf (blkWord bs 1) 65536 && targetBank none' (blkWord bs 0) == (0, 1)
        && ((none'.core 0).spillOf 1).isNone && ((none'.core 0).bankCtx 1).isNone) = true
    ∧ (let t := none'.updCore 0 (fun c => { c with spill1 := some (7, .L) }); go t (fun _ _ => (t.core 0).spillOf 1 == some (7, .L))) = true
    ∧ (∀ x ∈ [[], [cmd]], go { s with cmds := x } (fun bs u => (s.core 0).bankCtx 1 == some 1 && ((s.core 0).spillOf 1).isNone
        && runB (touchPages s.who true (blkWord bs 1) (4 * bankShare (s.core 0) 1)) u (fun _ v =>
          let w := setSpill (beginSpill v 0 1 1) 0 1 (some (0, .L))
          (w.core 0).bankCtx 1 == some 1 && (w.ctx 1).fatal.isNone && w.cmds.any (fun c => c.ctx == 1 && c.blocksSpill) == !x.isEmpty
          && (spillPoison w 1 1).isNone && (w.ctx 1).core == 0)) = true) := by
  refine ⟨?_, ?_, ?_, ?_⟩ <;> decide +kernel

/-! Bytes that a device reads from the mapped page. -/

theorem device_read {s : State} (h : Mapped s) {n : Nat} : ∀ {va : Nat} (acc : List Byte), 2 ^ 56 ≤ va → va + n ≤ 2 ^ 56 + 2 ^ 29 →
    (pieces va n).foldlM (fun acc p => match (s.translate 0 0 true false p.1).1 with
      | .ok x => some (acc ++ s.readBytes x.loc p.2)
      | .error _ => none) acc = some (acc ++ s.readBytes (va - 2 ^ 56) n) := by
  have tr {a : Nat} (h1 : 2 ^ 56 ≤ a) (h2 : a < 2 ^ 56 + 2 ^ 29) : (s.translate 0 0 true false a).1 = .ok (xl (a - 2 ^ 56)) := by
    have := h.translate (k := a - 2 ^ 56) (by omega) true false
    rw [show 2 ^ 56 + (a - 2 ^ 56) = a by omega] at this
    rw [this]
  induction n with
  | zero => intro va acc _ _; simp [pieces, State.readBytes]
  | succ n ih =>
    intro va acc h1 h2
    have e : va + 1 - 2 ^ 56 = va - 2 ^ 56 + 1 := by omega
    have i := fun acc => ih (va := va + 1) acc (by omega) (by omega)
    simp only [e] at i
    rw [pieces, Nat.mod_eq_of_lt (show va + 1 < 2 ^ 64 by omega)]
    generalize hP : pieces (va + 1) n = P at i ⊢
    have step : State.readBytes s (va - 2 ^ 56) (n + 1) = s.byteAt (va - 2 ^ 56) :: s.readBytes (va - 2 ^ 56 + 1) n := rfl
    cases P with
    | nil =>
      have := i []
      simp only [List.foldlM_nil, List.nil_append, Option.pure_def, Option.some.injEq] at this
      simp only [List.foldlM_cons, List.foldlM_nil, tr h1 (by omega)]
      rw [step, ← this]
      simp [State.readBytes, xl]
    | cons p ps =>
      obtain ⟨a, k⟩ := p
      simp only
      split
      · rw [List.foldlM_cons, tr h1 (by omega)]
        simp only [Option.bind_eq_bind, Option.bind_some]
        rw [i, step]
        simp [State.readBytes, xl]
      · rename_i hb
        have ha : a = va + 1 := by omega
        subst ha
        have := i (acc ++ [s.byteAt (va - 2 ^ 56)])
        rw [step, show acc ++ s.byteAt (va - 2 ^ 56) :: s.readBytes (va - 2 ^ 56 + 1) n
          = (acc ++ [s.byteAt (va - 2 ^ 56)]) ++ s.readBytes (va - 2 ^ 56 + 1) n by simp, ← this]
        rw [List.foldlM_cons, List.foldlM_cons, tr h1 (by omega)]
        cases n with
        | zero => simp [pieces] at hP
        | succ m =>
          have e' : (xl (va + 1 - 2 ^ 56)).loc = va - 2 ^ 56 + 1 := e
          rw [tr (a := va + 1) (by omega) (by omega)]
          simp only [Option.bind_eq_bind, Option.bind_some, e', State.readBytes, List.append_assoc, List.singleton_append]
          rfl

theorem readBytes_slice (s : State) {a n i k : Nat} (h : i + k ≤ n) : ((s.readBytes a n).drop i).take k = s.readBytes (a + i) k := by
  induction i generalizing a n with
  | zero =>
    simp only [List.drop_zero, Nat.add_zero]
    induction k generalizing a n with
    | zero => simp [State.readBytes]
    | succ k ih =>
      obtain ⟨m, rfl⟩ : ∃ m, n = m + 1 := ⟨n - 1, by omega⟩
      simp only [State.readBytes, List.take_succ_cons]
      rw [ih (by omega)]
  | succ i ih =>
    obtain ⟨m, rfl⟩ : ∃ m, n = m + 1 := ⟨n - 1, by omega⟩
    simp only [State.readBytes, List.drop_succ_cons]
    rw [ih (by omega), show a + 1 + i = a + (i + 1) by omega]

theorem device_image {s : State} (h : Mapped s) {k n : Nat} (hn : k + n ≤ 2 ^ 29) :
    deviceRead s 0 0 (2 ^ 56 + k) n = some (s.readBytes k n) := by
  unfold deviceRead
  have := device_read h (n := n) (va := 2 ^ 56 + k) [] (by omega) (by omega)
  rw [Nat.add_sub_cancel_left] at this
  exact this

/-- An image of context 1 at 0x40000, for core 0 as it is split after reset; its share is at 0x200000. -/
def imageCells (magic : Nat) : List (Nat × Nat × Nat) :=
  [(0x40000, 8, magic + 2 * 2 ^ 16 + 8 * 2 ^ 32), (0x40008, 8, M 0x200000), (0x40100 + 8 * contextRegs.idxOf 0x020, 4, 1)]

/-- A spilled context 1, its image at 0x40000; `chk`: the context is CHECKED; `busy`: the upper core holds another. -/
def fillState (p : Nat × Bool × Bool) : State :=
  let s := bankState none (M 0x40000) (imageCells p.1)
  { s with
    ctxs := s.ctxs ++ [(1, { ctx0 [] with res := .spilled, ctrl := { Ctrl.reset with chk := p.2.1 } })]
    cores := s.cores ++ (if p.2.2 then [(64, { CoreSt.reset with bank0 := some 9 })] else []) }

/-- An image that fits, one that does not, a CHECKED context whose upper core is busy, and one whose upper core is free. -/
def fillCases : List (Nat × Bool × Bool) := [(0xC7A5, false, false), (0, false, false), (0xC7A5, true, true), (0xC7A5, true, false)]

theorem fill_runs : ∀ p ∈ fillCases, let s := fillState p
    (s.me.holdsPriv && s.active (hd .L) && runB (loadBytes s.who (s.srcS 1 1).toNat 16) s (fun bs u =>
      deviceHalf (blkWord bs 1) 4096 && blkWord bs 1 == M 0x40000 && targetBank s (blkWord bs 0) == (0, 1)
      && ((s.core 0).spillOf 1).isNone && ((s.core 0).bankCtx 1).isNone && s.me.ctrl.asid.toNat == 0
      && runB (touchPages s.who true (blkWord bs 1) imageSize) u (fun _ v =>
        decide (v.tlb = [ent] ∧ v.asidTable = some 0x1000000 ∧ v.readNat 0x1000000 8 = 1 ∧ v.readNat 0x1000008 8 = 0x1010000
          ∧ v.readNat 0x1010000 8 = 0x1020001 ∧ v.readNat 0x1020000 8 = 0xF)
        && v.readNat 0x40000 8 == p.1 + 2 * 2 ^ 16 + 8 * 2 ^ 32 && v.readNat 0x40008 8 == M 0x200000
        && v.readNat (0x40000 + (0x100 + 8 * contextRegs.idxOf 0x020)) 4 == 1 && (v.core 0).h0 == 8
        && (v.ctx 1).res == .spilled && (kvGet v.ctxs 1).isSome && (v.ctx 1).ctrl.chk == p.2.1 && upperFree v 0 == !p.2.2
        && v.poison.isEmpty && v.me.ctrl.asid.toNat == 0
        && runB (do
          touchPages v.who false (M 0x200000) (4 * bankShare (v.core 0) 1)
          drain (v.ctx 1).core (fun e => e.ctx == 1)) v (fun _ w => w.poison.isEmpty)))) = true := by decide +kernel

theorem no_poison {s : State} (h : s.poison.isEmpty = true) (die asid a n : Nat) : devicePoison s die asid a n = none := by
  unfold devicePoison
  rw [if_pos h]

theorem spill_read {s : State} (h : s.poison.isEmpty = true) (die asid a n : Nat) :
    Runs s (spillRead die asid a n) (deviceRead s die asid a n) s := by
  unfold Runs spillRead
  have e := no_poison h die asid a n
  simp only [bind, get, getThe, MonadStateOf.get, ExceptT.bind, ExceptT.mk, ExceptT.run, StateT.bind, StateT.run, liftM, monadLift,
    MonadLift.monadLift, ExceptT.lift, StateT.get, StateT.map, Functor.map, ExceptT.bindCont, pure, e]
  rfl

theorem witness_BankControl_fill : ∀ p ∈ fillCases, ∃ s bs u v, s.me.holdsPriv = true ∧ s.active (hd .L) = true
    ∧ Runs s (loadBytes s.who (s.srcS 1 1).toNat 16) bs u ∧ deviceHalf (blkWord bs 1) 4096 = true
    ∧ ((s.core 0).spillOf 1 = none ∧ (s.core 0).bankCtx 1 = none) ∧ targetBank s (blkWord bs 0) = (0, 1)
    ∧ s.me.ctrl.asid.toNat = 0 ∧ Runs u (touchPages s.who true (blkWord bs 1) imageSize) () v
    ∧ let image := (deviceRead v 0 0 (blkWord bs 1) imageSize).getD []
      let k := fillKey v image
      let n := 4 * bankShare (v.core 0) 1
      devicePoison v 0 0 (blkWord bs 1) imageSize = none ∧ (imageFits v 0 image = true ↔ p.1 = 0xC7A5)
      ∧ ((fillBase v 0 k image).ctrl.chk = false ∨ upperFree v 0 = true ↔ p.2.1 = false ∨ p.2.2 = false)
      ∧ ∃ share w, Runs v (do
          touchPages v.who false (blkWord image 1) n
          drain (v.ctx k).core (fun e => e.ctx == k)
          spillRead 0 v.me.ctrl.asid.toNat (blkWord image 1) n) share w := by
  intro p hm
  have h := fill_runs p hm
  simp only at h
  generalize fillState p = s at h
  simp only [Bool.and_eq_true] at h
  obtain ⟨⟨hp, ha⟩, h⟩ := h
  obtain ⟨bs, u, hu, h⟩ := runs_of_runB h
  simp only [Bool.and_eq_true, beq_iff_eq, Option.isNone_iff_eq_none] at h
  obtain ⟨⟨⟨⟨⟨⟨hd', hb⟩, ht⟩, h1⟩, h2⟩, h3⟩, h⟩ := h
  obtain ⟨⟨⟩, v, hv, h⟩ := runs_of_runB h
  simp only [Bool.and_eq_true, beq_iff_eq, decide_eq_true_eq] at h
  obtain ⟨⟨⟨⟨⟨⟨⟨⟨⟨⟨⟨hM, w0⟩, w1⟩, ser⟩, hh⟩, hr⟩, hk⟩, hc⟩, hf⟩, hp'⟩, hz⟩, h⟩ := h
  obtain ⟨⟨⟩, w, hw, h⟩ := runs_of_runB h
  refine ⟨s, bs, u, v, hp, ha, hu, hd', ⟨h1, h2⟩, ht, h3, hv, ?_⟩
  have im : (deviceRead v 0 0 (blkWord bs 1) imageSize).getD [] = v.readBytes 0x40000 imageSize := by
    rw [hb, M, device_image hM (by unfold imageSize; norm_num)]
    rfl
  have word (i : Nat) (hi : 8 * i + 8 ≤ imageSize) : blkWord (v.readBytes 0x40000 imageSize) i = v.readNat (0x40000 + 8 * i) 8 := by
    unfold blkWord State.readNat
    rw [readBytes_slice v hi]
  have b0 := word 0 (by unfold imageSize; norm_num)
  have b1 := word 1 (by unfold imageSize; norm_num)
  rw [w0] at b0
  rw [w1] at b1
  have key : fillKey v (v.readBytes 0x40000 imageSize) = 1 := by
    have e : imageSerial (v.readBytes 0x40000 imageSize) = 1 := by
      unfold imageSerial
      rw [readBytes_slice v (by decide +kernel)]
      exact ser
    unfold fillKey
    rw [e]
    simp only [hr, if_true]
  simp only [im, key, b1, hz]
  refine ⟨no_poison hp' _ _ _ _, ?_, ?_, ?_⟩
  · unfold imageFits
    rw [b0, hh]
    simp only [fillCases, List.mem_cons, List.not_mem_nil, or_false] at hm
    rcases hm with rfl | rfl | rfl | rfl <;> decide +kernel
  · unfold fillBase
    rw [if_pos hk, hc, hf]
    simp
  · refine ⟨deviceRead w 0 0 (M 0x200000) (4 * bankShare (v.core 0) 1), w, ?_⟩
    have e := run_bind_ok hw (fun _ => spillRead 0 0 (M 0x200000) (4 * bankShare (v.core 0) 1))
    rw [bind_assoc] at e
    exact e.trans (spill_read h 0 0 _ _)

/-- Context 1, stopped, in bank 1, with a save area. -/
def stoppedState (area : Word) : State :=
  bankState (some { inBank1 .stopped with ctrl := { Ctrl.reset with savea := area } }) (M 0x40000) []

/-- CTXFILL of a full bank and of one that spills; CTXFILL.resume of an empty bank and of a context that is not stopped. -/
theorem witness_BankControl_banks :
    let spilling := (bankState none (M 0x40000) []).updCore 0 (fun c => { c with spill1 := some (7, .L) })
    ((bankState (some (inBank1 .resident)) (M 0x40000) []).ctx 1).res ≠ .stopped
    ∧ (spilling.core 0).spillOf 1 = some (7, .L) ∧ (spilling.core 0).bankCtx 1 = none := by decide +kernel

theorem device_none {s : State} {die asid a n : Nat} {f : TransFault} (h : (s.translate die asid true false a).1 = .error f) :
    deviceRead s die asid a (n + 1) = none := by
  have e : ∃ k ps, pieces a (n + 1) = (a, k) :: ps := by
    rw [pieces]
    split
    · exact ⟨_, _, rfl⟩
    · split <;> exact ⟨_, _, rfl⟩
  obtain ⟨k, ps, e⟩ := e
  unfold deviceRead
  rw [e, List.foldlM_cons]
  simp only [h]
  rfl

/-- CTXFILL.resume of a stopped context whose save area is mapped, and of one whose area is not. -/
theorem witness_BankControl_resume : ∀ n ∈ [0x100000000040000, 0x100000040000000], ∃ s bs u, s.me.holdsPriv = true
    ∧ s.active (hd .L) = true ∧ Runs s (loadBytes s.who (s.srcS 1 1).toNat 16) bs u ∧ targetBank s (blkWord bs 0) = (0, 1)
    ∧ (s.core 0).bankCtx 1 = some 1 ∧ (s.core 0).spillOf 1 = none ∧ (s.ctx 1).res = .stopped ∧ (s.ctx 1).ctrl.savea.toNat = n
    ∧ devicePoison u 0 (saveAsid s 1) n imageSize = none
    ∧ (deviceRead u 0 (saveAsid s 1) n imageSize = none ↔ n = 0x100000040000000) := by
  have h : ∀ n ∈ [0x100000000040000, 0x100000040000000], let s := stoppedState (BitVec.ofNat 64 n)
      (s.me.holdsPriv && s.active (hd .L) && runB (loadBytes s.who (s.srcS 1 1).toNat 16) s (fun bs u =>
        targetBank s (blkWord bs 0) == (0, 1) && (s.core 0).bankCtx 1 == some 1 && ((s.core 0).spillOf 1).isNone
        && (s.ctx 1).res == .stopped && (s.ctx 1).ctrl.savea.toNat == n && saveAsid s 1 == 0 && u.poison.isEmpty
        && decide (u.tlb = [ent] ∧ u.asidTable = some 0x1000000 ∧ u.readNat 0x1000000 8 = 1 ∧ u.readNat 0x1000008 8 = 0x1010000
          ∧ u.readNat 0x1010000 8 = 0x1020001 ∧ u.readNat 0x1020000 8 = 0xF)
        && (match (u.translate 0 0 true false 0x100000040000000).1 with | .error .absent => true | _ => false))) = true := by decide +kernel
  intro n ha
  have h := h n ha
  simp only at h
  generalize stoppedState (BitVec.ofNat 64 n) = s at h
  simp only [Bool.and_eq_true] at h
  obtain ⟨⟨hp, hac⟩, h⟩ := h
  obtain ⟨bs, u, hu, h⟩ := runs_of_runB h
  simp only [Bool.and_eq_true, beq_iff_eq, decide_eq_true_eq, Option.isNone_iff_eq_none] at h
  obtain ⟨⟨⟨⟨⟨⟨⟨⟨h1, h2⟩, h3⟩, h4⟩, h5⟩, h6⟩, h7⟩, hM⟩, h8⟩ := h
  have h8 : (u.translate 0 0 true false 0x100000040000000).1 = .error .absent := by
    revert h8
    split <;> simp_all
  refine ⟨s, bs, u, hp, hac, hu, h1, h2, h3, h4, h5, no_poison h7 _ _ _ _, ?_⟩
  rw [h6]
  simp only [List.mem_cons, List.not_mem_nil, or_false] at ha
  rcases ha with rfl | rfl
  · have e := device_image (s := u) hM (k := 0x40000) (n := imageSize) (by unfold imageSize; norm_num)
    rw [show 0x100000000040000 = 2 ^ 56 + 0x40000 by norm_num, e]
    simp
  · rw [show imageSize = 0x160FF + 1 from rfl, device_none h8]
    simp

/-- A lane with privilege whose s1 names a block of words at 0x8400, which loads. -/
def adminState (words : List Nat) (ws : List (Nat × Nat × Nat)) : State :=
  asPrivileged (withRegs .L [(1, 0x100000000008400)] (words.zipIdx.map (fun w => (0x8400 + 8 * w.2, 8, w.1)) ++ ws))

def adminLoads (s : State) (n : Nat) (f : List Byte → State → Bool) : Bool :=
  s.active (hd .L) && s.me.holdsPriv && runB (loadBytes s.who (s.srcS 1 1).toNat n) s (fun bs u =>
    u.cores.all (fun kc => kc.2.wpath.isEmpty) && f bs u)

/-- TLBINV with an ASID out of range; ranges of none, of one byte and too long; descriptors that are busy and not, roots and
tables that serve and not. -/
theorem witness_TranslationAdministration :
    let go (q va n : Nat) (f : Nat → Nat → Nat → State → Bool) : Bool :=
      adminLoads (adminState [q, va, n, 0] []) 32 (fun bs u => f (bits (blkWord bs 0) 0 16) (blkWord bs 1) (blkWord bs 2) u)
    go 8192 0 1 (fun a _ _ _ => decide (8192 ≤ a)) = true
    ∧ (∀ n ∈ [0, 2 ^ 48 + 1], go 5 0 n (fun a _ n _ => decide (a < 8192) && (n == 0 || decide (2 ^ 48 < n))) = true)
    ∧ (∀ n ∈ [1, 2 ^ 48], go 8191 0 n (fun a _ n _ => decide (a < 8192) && decide (1 ≤ n) && decide (n ≤ 2 ^ 48)) = true)
    ∧ go 5 0x20000 1 (fun a va _ u => u.asidDesc a == some (0x1000000 + 32 * 5) && va % 131072 == 0 && decide (va < 2 ^ 48) && !asidBusy u a
        && va % 32 == 0 && paValid va && u.ctxs.all (fun kc => kc.1 == u.cur.ctx || !placed kc.2)) = true
    ∧ go 0 0x20000 1 (fun a _ _ u => asidBusy u a && (u.asidDesc a).isSome) = true
    ∧ go 5 0x20001 1 (fun _ va _ _ => va % 131072 != 0 && va % 32 != 0) = true
    ∧ go 5 (2 ^ 48) 1 (fun _ va _ _ => decide (2 ^ 48 ≤ va) && !paValid va) = true
    ∧ adminLoads (adminState [5, 0x20000, 1, 0] [(0x10000A0, 8, 0xFFFF0000)]) 32 (fun _ u => (u.field 0x10000A0 16 16 + 1) % 65536 == 0) = true
    ∧ (let s := adminState [5, 0x20000, 1, 0] []
       adminLoads { s with ctxs := s.ctxs ++ [(1, ctx0 [])] } 32 (fun _ u => u.ctxs.any (fun kc => kc.1 != u.cur.ctx && placed kc.2)) = true) := by
  refine ⟨?_, ?_, ?_, ?_, ?_, ?_, ?_, ?_, ?_⟩ <;> decide +kernel

/-- MIGR.retry with a command that is held and with none; MIGR.init with a threshold of 0 and of 1. -/
theorem witness_TranslationAdministration_migr :
    let s := adminState [0x10200, 0x100000000000000, 0x20000000, 0] []
    let held : EngCmd := { (newCmd s e0 (draft .copy [] 8 0)) with phase := .held, fault := some (0, false, 0) }
    let isHeld (u : State) (q : Nat) (c : EngCmd) : Bool := c.phase == .held && c.fault.isSome && dieOfCore c.core == u.myDie
      && localCore c.core == bits q 0 6 && c.bank == bits q 8 1 && laneCode c.lane == bits q 9 2 && c.num.toNat == bits q 16 16
    adminLoads s 32 (fun bs u => (u.cmds.find? (isHeld u (blkWord bs 0))).isNone) = true
    ∧ adminLoads { s with cmds := [held] } 32 (fun bs u => u.cmds.find? (isHeld u (blkWord bs 0)) == some held) = true
    ∧ (∀ m ∈ [0, 1], adminLoads (adminState [1, 2, m, 3, 4, 0] []) 48 (fun bs _ => bits (blkWord bs 2) 0 16 == m) = true)
    ∧ (base []).active (hd .L) = true ∧ (base []).me.holdsPriv = false := by
  refine ⟨?_, ?_, ?_, ?_, ?_⟩ <;> decide +kernel

/-- A move of the page at 2^56 + 2^29, whose leaf entry is at 0x1020008. -/
def aMove (org : Nat) : PageMove := ⟨7, .L, 0, 2 ^ 56 + 2 ^ 29, 2 ^ 29, 0x1020008, 0x20000000, 0x60000000, org, 3, false⟩

/-- MIGR.move: addresses out of the device half, pages that have no frame or a damaged entry, a frame that does not serve, a
page that is not being moved, and one that is, with the moves of the host and of the device in either order. -/
theorem witness_TranslationAdministration_begin :
    let st (org va new : Nat) (moves : List PageMove) : State :=
      { adminState [2 ^ 16 * org, va, new, 0] [(0x1020008, 8, 0x2000001F), (0x1020010, 8, 0x103), (0x1020018, 8, 2 ^ 47 + 0xF)] with moves := moves }
    let go (org va new : Nat) (moves : List PageMove) (f : Nat → Nat → State → Bool) : Bool :=
      adminLoads (st org va new moves) 32 (fun bs u => bits (blkWord bs 0) 0 13 == 0 && bits (blkWord bs 0) 16 1 == org
        && blkWord bs 2 == new && (u.moves.find? (fun m => m.ctx == u.cur.ctx && m.lane == u.cur.lane)).isNone
        && f (blkWord bs 1) new u)
    let found (u : State) (va : Nat) (f : TlbEnt → Nat → Bool) : Bool :=
      match u.walk 0 va, leafAt u 0 va with
      | .ok e, some l => bits va 56 1 == 1 && decide (va < 2 ^ 57) && (match useEnt u e va true false with | .ok _ => f e l | .error _ => false)
      | _, _ => false
    let fits (e : TlbEnt) (new : Nat) : Bool := new % e.size == 0 && paValid new && paValid (new + e.size - 1)
    let first (u : State) (l : Nat) : Option PageMove := u.moves.find? (fun m => m.leaf == l && !m.lost)
    let fault (f : TransFault) (u : State) (va : Nat) : Bool := match u.walk 0 va with | .error g => g == f | .ok _ => false
    let outside (u : State) (va : Nat) : Bool :=
      match u.walk 0 va with
      | .ok e => bits va 56 1 == 1 && decide (va < 2 ^ 57) && (match useEnt u e va true false with | .error _ => true | .ok _ => false)
      | .error _ => false
    go 0 (2 ^ 56 + 3 * 2 ^ 29) 0 [] (fun va _ u => outside u va) = true
    ∧ go 0 0 0 [] (fun va _ _ => bits va 56 1 == 0) = true ∧ go 0 (2 ^ 57) 0 [] (fun va _ _ => decide (2 ^ 57 ≤ va)) = true
    ∧ go 0 (2 ^ 56 + 2 ^ 31) 0 [] (fun va _ u => fault .absent u va && bits va 56 1 == 1 && decide (va < 2 ^ 57)) = true
    ∧ go 0 (2 ^ 56 + 2 ^ 30) 0 [] (fun va _ u => fault .prot u va && bits va 56 1 == 1 && decide (va < 2 ^ 57)) = true
    ∧ (∀ new ∈ [1, 2 ^ 47], go 0 (2 ^ 56) new [] (fun va n u => found u va (fun e _ => !fits e n)) = true)
    ∧ (∀ org ∈ [0, 1], go org (2 ^ 56) 0x40000000 [] (fun va n u => found u va (fun e l => fits e n && !e.mg && (first u l).isNone
        && u.waiters.isEmpty)) = true)
    ∧ (∀ x ∈ [(0, []), (1, []), (0, [aMove 0]), (1, [aMove 0]), (1, [aMove 1])], go x.1 (2 ^ 56 + 2 ^ 29) 0x40000000 x.2 (fun va n u =>
        found u va (fun e l => fits e n && e.mg && (match first u l with | some m => m.org != 1 || x.1 != 0 | none => true))) = true)
    ∧ go 0 (2 ^ 56 + 2 ^ 29) 0x40000000 [aMove 1] (fun va n u => found u va (fun e l => fits e n && e.mg && first u l == some (aMove 1)
        && u.waiters.isEmpty)) = true := by
  refine ⟨?_, ?_, ?_, ?_, ?_, ?_, ?_, ?_, ?_⟩ <;> decide +kernel

/-- A move of the issuing lane, of `n` lines from 0x10000 to 0x20000000. -/
def myMove (n : Nat) (lost : Bool) : PageMove := ⟨0, .L, 0, 2 ^ 56, 64 * n, 0x1020000, 0x10000, 0x20000000, 0, 0, lost⟩

def moveState (m : PageMove) (bad : List Nat) : State := { adminState [] [] with moves := [m], poison := bad }

/-- MIGR.move goes on: a move that has been abandoned; one that meets an error; and one that copies its last line. -/
theorem witness_TranslationAdministration_moves :
    ∀ x ∈ ([(true, []), (false, [0x10000]), (false, [])] : List (Bool × List Nat)), let m := myMove 1 x.1
      let s := moveState m x.2
      let v := (s.free 16).2
      s.active (hd .L) = true ∧ s.me.holdsPriv = true ∧ s.moves.find? (fun m => m.ctx == s.cur.ctx && m.lane == s.cur.lane) = some m
      ∧ (v.poisoned [m.old + 64 * m.lines] = none ↔ x.2 = []) ∧ m.lines < m.total ∧ m.total ≤ m.lines + 1 ∧ s.waiters = []
      ∧ m.size % 64 = 0 ∧ m.old % 64 = 0 ∧ m.new % 64 = 0 ∧ m.old + m.size ≤ m.new ∧ m.leaf + 8 ≤ m.new := by decide +kernel

/-- A move of `n` lines between frames that follow each other. -/
def longMove (n : Nat) : PageMove := ⟨0, .L, 0, 2 ^ 56, 64 * n, 0x1020000, 0, 64 * n, 0, 0, false⟩

/-- However many lines a step copies, some move has more: its frames do not overlap where it moves within one frame. -/
theorem witness_TranslationAdministration_more : ∃ (s : State) (m : PageMove), s.active (hd .L) = true ∧ s.me.holdsPriv = true
    ∧ s.moves.find? (fun m => m.ctx == s.cur.ctx && m.lane == s.cur.lane) = some m ∧ m.lost = false
    ∧ m.lines + (1 + (s.free 16).1) < m.total ∧ (∀ i, i < m.total → ((s.free 16).2).poisoned [m.old + 64 * i] = none)
    ∧ m.size % 64 = 0 ∧ m.old % 64 = 0 ∧ m.new % 64 = 0 ∧ m.old + m.size ≤ m.new := by
  have h1 (n : Nat) : (longMove n).size % 64 = 0 := Nat.mul_mod_right 64 n
  have h2 (n : Nat) : (longMove n).old + (longMove n).size ≤ (longMove n).new := by
    show 0 + 64 * n ≤ 64 * n
    omega
  have h3 (n : Nat) : (longMove n).total = n := Nat.mul_div_cancel_left n (by norm_num)
  have h4 (n : Nat) : (moveState (longMove n) []).active (hd .L) = true := by
    have e : (moveState (longMove n) []).active (hd .L) = (moveState (myMove 1 false) []).active (hd .L) := rfl
    rw [e]
    decide +kernel
  have h5 (n : Nat) : (moveState (longMove n) []).me.holdsPriv = true := by
    have e : (moveState (longMove n) []).me.holdsPriv = (moveState (myMove 1 false) []).me.holdsPriv := rfl
    rw [e]
    decide +kernel
  have h6 (n : Nat) : ((moveState (longMove n) []).free 16).1 = Config.free 16 (moveState (myMove 1 false) []).fresh := rfl
  have h7 (n : Nat) : (longMove n).lines = 0 := rfl
  generalize Config.free 16 (moveState (myMove 1 false) []).fresh = k at h6
  refine ⟨moveState (longMove (2 + k)) [], longMove (2 + k), h4 _, h5 _, rfl, rfl, ?_, fun _ _ => rfl, h1 _, rfl, h1 _, h2 _⟩
  rw [h6, h7, h3]
  omega
/-! ### Events -/

/-- A lane of context 0 waits at the rod at 0x3000 for an ENQ, whose slot 0 is reserved and not committed; the same
with a wait of another kind, and with none. -/
theorem witness_WaitEvents :
    let w0 := 0xB0D5 + 2 ^ 32 * 3 + 2 ^ 40 + 2 ^ 48 * (rodHome 0x3000 % 256)
    let p : Parked := ⟨5, 0, 1, .enq (hd .L) { r0 with d := 7 }, false, Vector.replicate 32 0⟩
    let b := withRegs .L [(1, 0x100000000003000)] [(0x3000, 8, w0), (0x3008, 8, 0x100000000004000), (0x3020, 8, 1), (0x3028, 8, 1)]
    let parked := b.updLane 0 .L (fun x => { x with parked := some p })
    let q (k : WaitKind) (due : Bool) : Waiter := ⟨0x3000, 0x100000000003000, 0, .L, k, 0, 0, due, 0⟩
    let s (k : WaitKind) : State := withEv (evOf 0 .L 0 0x3000 0) { parked with waiters := [q k false] }
    let mine (q : Waiter) : Bool := q.ctx == 0 && q.lane == .L
    let c := s (.commit 0)
    (c.waiters.find? (fun q => q.obj == c.cur.ev.a && (match q.kind with | .commit _ => true | _ => false)) = some (q (.commit 0) false)
      ∧ rodTail c 0x3000 = 0 ∧ rodRsv c 0x3000 = 1 ∧ (∀ r ∈ c.waiters, r.obj = 0x3000 → r = q (.commit 0) false) ∧ c.moves = []
      ∧ (c.lane 0 .L).parked = some p ∧ isDeviceCtx 0 = false)
    ∧ ((kvGet parked.ctxs 0).isSome = true ∧ parked.moves = [] ∧ parked.waiters.find? mine = none ∧ (parked.lane 0 .L).parked = some p)
    ∧ (∀ k ∈ [WaitKind.retry, .addr, .counter], (s k).waiters.find? mine = some (q k false) ∧ ∀ n, k ≠ .commit n)
    ∧ (parked.cmdOf 0 .L 0 = none ∧ (parked.ctx 0).reportDue = false)
    ∧ (let t : State := { parked with waiters := [q .wake true] }
      t.waiters.find? (fun q => q.ctx == 0 && q.lane == .L && q.kind == .wake && q.due) = some (q .wake true))
    ∧ (let t := parked.updLane 0 .L (fun x => { x with dormant := true })
      (t.lane 0 .L).dormant = true ∧ ∀ q ∈ t.waiters, mine q = true → q.kind ≠ .wake) := by
  refine ⟨?_, ?_, ?_, ?_, ?_, ?_⟩
  case refine_3 =>
    intro k hk
    refine ⟨?_, ?_⟩
    · revert k; decide +kernel
    · rintro n rfl
      simp at hk
  all_goals decide +kernel

/-- A KVAPP whose fresh page is ready; signals whose version is drained, and pinned still. -/
theorem witness_WaitEvents_tables :
    let s := kvState 0 [] []
    let c : EngCmd := { (newCmd s e0 (draft .kvapp [] 8 0)) with dst := 0x100000000005000, kvSet := some 0, kvNew := some 1, kvDone := true, phase := .started }
    let t := withEv (evOf 0 .L c.num.toNat 0 0) { s with cmds := [c] }
    let g : TableSignal := ⟨M 0x5000, 0, true, 0xFFFFFFFF, 0x100000000002000⟩
    let h : TableSignal := { g with ver := 0 }
    let pinned := kvState 0 [] [(0x5020, 2, 1)]
    let w : Who := ⟨2 ^ 40, 1024, 0, true, .L⟩
    (t.cmdOf 0 .L c.num = some c ∧ c.phase ≠ .held ∧ c.kvDone = true ∧ runB (kvUpdate c 0 1) t (fun _ _ => true) = true)
    ∧ (let u := withEv (evOf 0 .L 0 (M 0x5000) 0) { s with signals := [g] }
      u.signals.find? (fun x => x.table == u.cur.ev.a && x.asid.toNat == u.cur.ev.b) = some g ∧ runB (btdAt w g.table) u (fun b v => b.drained g.ver.toNat
        && runB (homeAdd w g.ctr.toNat 1) v (fun _ t => t.readNat 0x2000 8 == 1)) = true)
    ∧ (let u := withEv (evOf 0 .L 0 (M 0x5000) 0) { pinned with signals := [h] }
      u.signals.find? (fun x => x.table == u.cur.ev.a && x.asid.toNat == u.cur.ev.b) = some h ∧ runB (btdAt w h.table) u (fun b _ => !b.drained h.ver.toNat) = true) := by
  refine ⟨⟨?_, ?_, ?_, ?_⟩, ⟨?_, ?_⟩, ⟨?_, ?_⟩⟩ <;> decide +kernel

/-- Pending writes of an accumulator and of memory, plain, reducing and held by a page move; a slot that fills; host
accesses of sound and of poisoned lines; a page request that is answered. -/
theorem witness_MemoryEvents :
    let b := withRegs .L [] [(0x1020008, 8, 0x2000001F), (0x8000, 8, 0xE020018210070000)]
    let core (f : CoreSt → CoreSt) : State := b.updCore 0 f
    let w (op : WriteOp) (pa : Nat) : PendWrite := ⟨4, 0, .L, 0, 0x100000000002000, pa, op, [some 1, some 2], none, none, 0⟩
    let acc := core (fun c => { c with accq := [⟨0, 2, 5⟩] })
    let plain := withEv (evOf 0 .L 0 0 4) (core (fun c => { c with wpath := [w .store 0x2000] }))
    let red := withEv (evOf 0 .L 0 0 4) (core (fun c => { c with wpath := [w (.redm 0 4) 0x2000] }))
    let m : ImemSlot := ⟨0, 0x100000000008000, 1, [], false, false⟩
    let fill := (core (fun c => { c with slot0 := m })).updCtx 0 (fun c => { c with ovl0 := ⟨.loading, 0x100000000008000, 1⟩ })
    let ill : State := { b with poison := [rowOf (hostAddress b 0x40)] }
    ((acc.core acc.cur.ev.a).accq = [⟨0, 2, 5⟩])
    ∧ (∀ x ∈ [(plain, WriteOp.store), (red, WriteOp.redm 0 4)], x.1.pendings = [(x.1.cur.ev.a, w x.2 0x2000)] ∧ (x.1.core x.1.cur.ev.a).wpath = [w x.2 0x2000]
      ∧ x.1.writeHeld (w x.2 0x2000) = false ∧ x.1.poisoned [0x2000] = none ∧ (w x.2 0x2000).id = x.1.cur.ev.b)
    ∧ (let h : PendWrite := { w .store 0 with va := 0x100000020000000 }
      let s := withEv (evOf 0 .L 0 0 4) (core (fun c => { c with wpath := [h] }))
      s.writeHeld h = true ∧ s.pendings = [(0, h)] ∧ (s.core 0).wpath = [h] ∧ h.id = s.cur.ev.b)
    ∧ (m.full = false ∧ runB (homeLoad (fillWho fill 0 m (fillFor fill 0 0)) m.addr.toNat (8 * m.len)) fill (fun bs u => bs.length == 8
      && (u.core 0).bank0 == some 0 && (u.core 0).bank1 == none && (u.ctx 0).core == 0 && ((u.ctx 0).ovl 0).st == .loading
      && tagMatches (u.ctx 0) ((u.core 0).imem 0) ((u.ctx 0).ovl 0)) = true)
    ∧ (∀ n ∈ [0, 1, 70], (hostSpan b 0x1FC0 n).Nodup ∧ b.poisoned (hostSpan b 0x40 n) = none) ∧ b.cur.ev.num = 0
    ∧ (ill.poisoned (hostSpan ill 0x40 8)).isSome = true
    ∧ (∀ kc ∈ b.cores, kc.2.wpath = []) ∧ b.pendings = []
    ∧ (let s (n : Nat) : State := (withEv (evOf 3 .L 7 0x7FF2345 n) b).updVif 3 (fun f => { f with pageReqs := [(7, 0x7FF2000)] })
      (∀ n ∈ [0, 1], (s n).cur.ev.b = n ∧ ((s n).cur.ev.num, BitVec.ofNat 64 ((s n).cur.ev.a / 4096 * 4096)) ∈ ((s n).vif (s n).cur.ev.ctx).pageReqs)
      ∧ (withEv (evOf 3 .L 7 0x7FF2345 1) b |>.vif 3).pageReqs = []) := by
  refine ⟨?_, ?_, ?_, ?_, ?_, ?_, ?_, ?_, ?_, ?_⟩ <;> decide +kernel

/-- A record in COMMIT that die 0 holds, with a commit or without. -/
def commitState (c : Option Commit) : State :=
  let q : SeqEnt := { (default : SeqEnt) with seq := 0x3000, va := 0x100000000003000, commit := c }
  withEv (evOf 0 .L 0 0 0x3000) ((withWaiting (seqState 4 0 1 0 1)).updDie 0 (fun d => { d with seqs := [q] }))

def commitAt (stage next : Nat) : Commit := { (default : Commit) with stage := stage, next := next, reason := 1 }

theorem commit_fair : fairB (commitState (some (commitAt 4 0))) = true := by decide +kernel

/-- Records in COMMIT whose path is to be chosen, whose commit goes on at each stage, has been posted for PARKED or DONE or
for the next iteration, and has lost its slot. -/
theorem witness_SequenceEvents :
    let w := deviceWho 0 0
    (∀ c ∈ [none, some (commitAt 0 0), some (commitAt 1 0), some (commitAt 2 0), some (commitAt 3 0), some (commitAt 4 5),
        some (commitAt 4 6), some (commitAt 4 0), some (commitAt 5 0)],
      let s := commitState c
      (((s.die s.cur.ev.a).seqs.find? (fun q => q.seq == s.cur.ev.b)).map (fun q => (q.commit, q.va.toNat, q.asid.toNat)) = some (c, M 0x3000, 0))
      ∧ runB (seqRead w (M 0x3000)) s (fun r _ => r.1.state == 4 && !r.1.accm) = true)
    ∧ (∀ n ∈ [5, 6], runB (seqRead w (M 0x3000)) (commitState (some (commitAt 4 n))) (fun r u =>
        (commitOutcome (commitAt 4 n) r.1.pend false (shareOfDie u 0 != 0)).1 == n && runB (do
          setSeqState w r.1 n
          setSeqReason w r.1 1
          updEnt r.1 (fun x => { x.idle with commit := none, preempt := false })) u (fun _ _ => true)) = true)
    ∧ (∀ p d, (commitOutcome (commitAt 4 0) false p d).1 ≠ 5 ∧ (commitOutcome (commitAt 4 0) false p d).1 ≠ 6)
    ∧ runB (seqRead w (M 0x3000)) (commitState (some (commitAt 4 0))) (fun r _ => !r.1.pend) = true
    ∧ ∃ r ok u t, Runs (commitState (some (commitAt 4 0))) (seqRead w (M 0x3000)) (r, ok) u ∧ Runs u (nextIteration w r) () t := by
  refine ⟨?_, ?_, ?_, ?_, ?_⟩
  · decide +kernel
  · decide +kernel
  · decide +kernel
  · decide +kernel
  · obtain ⟨⟨r, ok⟩, u, hr, hu, hn⟩ := does_seqRead (w := deviceWho 0 0) ⟨rfl, rfl⟩ _ (fair_of_fairB commit_fair)
    obtain ⟨⟨⟩, t, ht, -, -⟩ := does_nextIteration (w := deviceWho 0 0) ⟨rfl, rfl⟩ (r := r) hn u hu
    exact ⟨r, ok, u, t, hr, ht⟩

/-- A rod in memory of two elements of 2^`elsz` bytes at 0x4000, with TAIL beads; `flags` are HWIN and HDEQ. -/
def bigRod (loc elsz flags tail : Nat) : List (Nat × Nat × Nat) :=
  let w := 0xB0D5 + 2 ^ 17 * flags + 2 ^ 32 * elsz + 2 ^ 40 + 2 ^ 48 * (rodHome loc % 256)
  [(loc, 8, w), (loc + 8, 8, M 0x4000), (loc + 0x18, 8, tail), (loc + 0x20, 8, tail), (loc + 0x28, 8, 2 - tail),
    (loc + 0x30, 8, 0x7FF07FF), (loc + 0x38, 8, 2 ^ 48 * crc16 (bytesOf w 8 ++ bytesOf (M 0x4000) 8))]

/-- Slots gathered for a rod that has room, for a full one, for one without RODMAGIC, for one in a page that is being moved and
for one that is not mapped: which way the record comes. -/
def postGathered (crod : Word) : Gathered := ⟨crod, 0, 0, [⟨List.replicate 16 7, 0x8000, 0, false⟩], none⟩

def postState (crod : Word) (cells : List (Nat × Nat × Nat)) : State :=
  withEv (evOf 0 .L 0 0 0) ((withRegs .L [] ((0x1020008, 8, 0x2000001F) :: cells)).updDie 0 (fun d => { d with gathered := [postGathered crod] }))

/-- The enqueue of the record, after its rod has been reached. -/
def postEnq (s : State) (g : Gathered) (r : RodRef) : Op RodOut :=
  rodEnq { deviceWho 0 g.asid.toNat with ctx := deviceCtx 0 0 true s.nextId } r (recordOf s 0 g 1 (postedTo s 0 r.loc + 1)) 256 true false

def posts (s : State) (g : Gathered) (p : RodOut → State → Bool) : Bool :=
  match deviceReach s 0 g.asid.toNat g.crod with
  | .ok (r, t) => runB (postEnq s g r) t p
  | .error _ => false

def reachStatus (s : State) (a : Word) : Option Nat :=
  match deviceReach s 0 0 a with
  | .error st => some st
  | .ok _ => none

theorem witness_SequenceEvents_slots :
    let g := postGathered 0x100000000003000
    let s (n : Nat) : State := postState g.crod (bigRod 0x3000 8 0 n)
    (∀ n ∈ [0, 2], ((s n).die 0).gathered.find? (fun g => g.posting.isNone && (decide (12 ≤ g.slots.length) || noCommitPending ((s n).die 0))) = some g
      ∧ min 12 g.slots.length = 1)
    ∧ posts (s 0) g (fun o _ => match o with | .done 0 _ _ => true | _ => false) = true
    ∧ posts (s 2) g (fun o _ => match o with | .wait => true | _ => false) = true
    ∧ posts (postState g.crod []) g (fun o _ => match o with | .corrupt _ => true | _ => false) = true
    ∧ reachStatus (s 0) 0x100000020003000 = some heldStatus ∧ reachStatus (s 0) 0x100000040003000 = some 4
    ∧ (∀ x ∈ g.slots.take 1, ∀ p ∈ (s 0).seqEnt x.seq, p.2.commit = none) := by
  refine ⟨?_, ?_, ?_, ?_, ?_, ?_, ?_⟩ <;> decide +kernel

/-- Parking succeeds where the table has nothing in it, and fails where every entry is held. -/
theorem parkFor_free {s : State} (h : s.waiters = []) (k : Nat) (l : Lane) (loc : Nat) (a : Word) (kind : WaitKind) :
    (s.parkFor k l loc a kind).1 = true := by
  have t : 0 < tableSize (waitTable loc) := by unfold tableSize; split <;> omega
  simp [State.parkFor, State.retryingBefore, State.freeEntries, h, t]

def fullTable (loc : Nat) : List Waiter := (List.range 1024).map (fun i => ⟨0, 0, 0, .L, .counter, waitTable loc, i, false, 8⟩)

theorem parkFor_full {s : State} {loc : Nat} (h : s.waiters = fullTable loc) (k : Nat) (l : Lane) (a : Word) (kind : WaitKind) :
    s.parkFor k l loc a kind = (false, s) := by
  have e : s.freeEntries (waitTable loc) = [] := by
    simp only [State.freeEntries, h, fullTable, List.filter_eq_nil_iff, List.mem_range]
    intro i hi
    have : i < 1024 := by unfold tableSize at hi; split at hi <;> omega
    simp [List.filter_map, Function.comp_def, this]
  simp [State.parkFor, e]

set_option maxRecDepth 100000 in
/-- The full rod's record: it waits where the table has room, and where it has none. -/
theorem witness_SequenceEvents_parks :
    let g := postGathered 0x100000000003000
    let s : State := postState g.crod (bigRod 0x3000 8 0 2)
    let full : State := { s with waiters := fullTable 0x3000 }
    (∃ r t u, deviceReach s 0 g.asid.toNat g.crod = .ok (r, t) ∧ Runs t (postEnq s g r) .wait u
      ∧ (u.parkFor (deviceCtx 0 0 true s.nextId) .L r.loc r.addr (.enq (recordOf s 0 g 1 (postedTo s 0 r.loc + 1)))).1 = true
      ∧ g ∈ (u.die 0).gathered)
    ∧ (∃ r t u v, deviceReach full 0 g.asid.toNat g.crod = .ok (r, t) ∧ Runs t (postEnq full g r) .wait u
      ∧ u.parkFor (deviceCtx 0 0 true full.nextId) .L r.loc r.addr (.enq (recordOf full 0 g 1 (postedTo full 0 r.loc + 1))) = (false, v)) := by
  refine ⟨⟨_, _, _, rfl, rfl, parkFor_free rfl _ _ _ _ _, ?_⟩, ⟨_, _, _, _, rfl, rfl, parkFor_full rfl _ _ _ _⟩⟩
  decide +kernel

/-- A bead deferred for a rod that has room, and for BMAX where its rod is damaged; what waits for a die's next iteration
boundary, with a sequence in the way and with none. -/
theorem witness_SequenceEvents_dies :
    let x (full : Bool) : Deferred := { (default : Deferred) with full := full, bead := List.replicate 64 0, seq := 0x8000 }
    let late (full : Bool) : State := (withEv (evOf 0 .L 0 0 0) (withRegs .L [] (if full then workCells 0 else []))).updDie 0
      (fun d => { d with deferred := [x full] }) |>.updPart 0 (fun p => { p with dies := 1, bmax := p.bmax.setIfInBounds 0 1 })
    let pend (v : Option (BitVec 4)) (n : Option Nat) (c : Option Commit) : State :=
      (withEv (evOf 0 .L 0 0 0) (base [])).updPart 0 (fun p =>
        { p with dies := 1, dshNew := p.dshNew.setIfInBounds 0 v, bmaxNew := p.bmaxNew.setIfInBounds 0 n })
        |>.updDie 0 (fun d => { d with seqs := [{ (default : SeqEnt) with seq := 0x3000, commit := c }] })
    (∀ b ∈ [true, false], ((late b).die 0).deferred.find? (fun y => deferralOver (late b) 0 y) = some (x b)
      ∧ (enqueueBead (late b) 0 0 false (x b).bead 0x8000).1 = b)
    ∧ (∀ v ∈ [(some 0, none), (some 8, some 9), (none, some 9)], let s := pend v.1 v.2 none
      partOfDie s 0 = some 0 ∧ (s.part 0).dshNew.toList.getD 0 none = v.1 ∧ (s.part 0).bmaxNew.toList.getD 0 none = v.2
      ∧ atBoundary s 0 0 = true ∧ s.moves = [] ∧ s.agenda = [] ∧ pendingShare s 0 0 = true ∧ ∀ kc ∈ s.cores, splitDue s kc.1 = false)
    ∧ atBoundary (pend (some 8) none (some (commitAt 0 0))) 0 0 = false := by
  refine ⟨?_, ?_, ?_⟩ <;> decide +kernel

/-- A context whose timer runs; one lane that waits for a token nobody gives, the others ended; a fault recorded; every
lane ended. -/
theorem witness_ContextEvents :
    let b := withEv (evOf 0 .L 0 0 0) (base [])
    let done (s : State) : State := s.updMe (fun c => { c with
      laneL := { c.laneL with ended := true }, laneC := { c.laneC with ended := true }, laneS := { c.laneS with ended := true } })
    let timed := b.updMe (fun c => { c with ctrl := { c.ctrl with ittimer := 9, tvec := 0x8000000000000010 } })
    let stuck := ((done b).updMe (fun c => { c with laneL := { c.laneL with ended := false }, ovl0 := ⟨.valid, 0, 6⟩ })).updCore 0
      (fun c => { c with slot0 := ⟨0, 0, 6, List.replicate 6 0x7120020A030B0010, true, false⟩ })
    let failed := { b.updMe (fun c => { c with fatal := some ⟨0, 0, 0⟩, nest := 3 }) with nests := [(3, default)] }
    (issuing timed 0 = true ∧ (timed.ctx 0).ctrl.ittimer ≠ 0 ∧ (timed.ctx 0).ctrl.hnd = 0
      ∧ ((timed.ctx 0).ctrl.tvec.getLsbD 63 = true ∧ oldCtrls timed 0 .L 0x009 = [])
      ∧ timed.moves = [] ∧ timed.waiters = [])
    ∧ (issuing stuck 0 = true ∧ (stuck.ctx 0).liveLanes = [.L] ∧ nothingInFlight stuck 0 = true ∧ laneWaits (settledGives stuck 0) 0 .L = true)
    ∧ ((kvGet failed.ctxs 0).isSome = true ∧ (failed.ctx 0).res ≠ .gone ∧ (failed.ctx 0).fatal.isSome = true
      ∧ (failed.core (failed.ctx 0).core).wpath = [] ∧ (kvGet failed.nests (failed.ctx 0).nest).isSome = true)
    ∧ (∀ r ∈ [Residence.resident, .spilled], let d := (done b).updMe (fun c => { c with res := r })
      (kvGet d.ctxs 0).isSome = true ∧ (d.ctx 0).res = r ∧ r ≠ .gone ∧ (d.ctx 0).fatal = none
      ∧ (d.ctx 0).liveLanes = [] ∧ d.cmds = [] ∧ pendingWrites d 0 = false) := by
  refine ⟨?_, ?_, ?_, ?_⟩ <;> decide +kernel

/-- A nest of one point whose die has a save area to give; the same nest, complete, with a counter to signal and without. -/
def oneNest : Nest := { (default : Nest) with placed := [(0, 0)], total := 1 }

def nestState : State :=
  let b := withRegs .L [] (bigRod 0x3000 3 0 1 ++ [(0x4000, 8, M 0x20000)])
  { b with nests := [(5, oneNest)], dies := [(0, { Die.reset with saveRod := some 0x100000000003000 })]
           parts := [(0, { Partition.reset with dies := 1 })]
           module := { b.module with ready := true } }

def doneNest (a : Word) : Nest := { oneNest with done := 1, sigAddr := a, sigInc := 1 }

def nestDoneState (a : Word) : State := { nestState with nests := [(5, doneNest a)] }

theorem witness_ContextEvents_place :
    nestState.walking = true ∧ latchWaits nestState 0 = nestState ∧ chooseNest nestState 0 = some (5, oneNest)
    ∧ oneNest.nextPoint 0 = some 0 ∧ findCore nestState oneNest 0 = some (1, 0)
    ∧ (nestState.die 0).saveRod = some 0x100000000003000 ∧ oneNest.ltn = 0
    ∧ (deviceDeq nestState 0 (nestState.die 0).rodAsid.toNat 0x100000000003000 8).1 = 0 := by
  refine ⟨rfl, rfl, ?_, rfl, ?_, rfl, rfl, ?_⟩ <;> decide +kernel

theorem witness_ContextEvents_nests :
    (∀ a, kvGet (nestDoneState a).nests 5 = some (doneNest a) ∧ (doneNest a).done = (doneNest a).total
      ∧ (doneNest a).complete = false ∧ (doneNest a).faulted = false)
    ∧ (doneNest 0).sigAddr = 0 ∧ (signalNest (nestDoneState 0x100000000002000) (doneNest 0x100000000002000)).isSome = true := by
  refine ⟨fun a => ⟨rfl, rfl, rfl, rfl⟩, rfl, ?_⟩
  decide +kernel

/-- A ready context in the other bank with a higher PRIO, and with the same after the quantum; a PARTIAL image; a core
without contexts whose SPLIT is to change. -/
theorem witness_ContextEvents_banks :
    let two (p q : Nat) : State := (bankState (some { inBank1 .resident with prio := p }) 0 []).updMe (fun c => { c with quantum := q })
    let full := (two 0 5).updCore 0 (fun c => { c with qnt := 5 })
    let split := (base []).updCore 7 (fun c => { c with pend := 4 })
    (otherReady (two 1 0) 0 = some 1 ∧ swapDue (two 1 0) 0 1 = true)
    ∧ (otherReady full 0 = some 1 ∧ (full.core 0).bankCtx (full.core 0).active = some 0 ∧ (full.ctx 0).ready = true
      ∧ (full.ctx 0).prio = (full.ctx 1).prio ∧ (full.core 0).qnt ≠ 0 ∧ (full.core 0).qnt ≤ (full.ctx 0).quantum)
    ∧ ((kvGet full.ctxs 1).isSome = true ∧ (full.ctx 1).res = .resident ∧ (full.core (full.ctx 1).core).active ≠ (full.ctx 1).bank
      ∧ (full.ctx 1).image = 0 ∧ ∀ e ∈ (full.core (full.ctx 1).core).accq, e.ctx ≠ 1)
    ∧ ((split.core 7).pend ≠ 0 ∧ (split.core 7).bank0 = none ∧ (split.core 7).bank1 = none
      ∧ (∀ kc ∈ split.ctxs, ¬ (kc.2.res = .resident ∧ kc.2.ctrl.chk = true ∧ kc.2.core + 64 = 7))
      ∧ split.agenda = [] ∧ ∃ kc ∈ split.cores, splitDue split kc.1 = true) := by
  refine ⟨?_, ?_, ?_, ?_⟩ <;> decide +kernel
/-- A launch bead in the rod of VIF `vif`, whose partition is die 0. -/
def launchState (vif : Nat) (bead : List Nat) (ws : List (Nat × Nat × Nat)) : State :=
  let b := withRegs .L [] (bigRod 0x3000 6 0 1 ++ bead.zipIdx.map (fun w => (0x4000 + 8 * w.2, 8, w.1)) ++ ws)
  { b with vifs := [(vif, { Vif.reset with valid := true, lrod := 0x100000000003000, asidn := 1 })]
           parts := [(0, { Partition.reset with dies := 1 })], module := { b.module with ready := true }
           cur := { b.cur with ev := evOf 0 .L 0 vif 0 } }

/-- The walker takes a bead of the sort, and what it names reads. -/
def takes (s : State) (sort : LaunchBead → Bool) (n : Nat) (f : LaunchBead → List Byte → State → Bool) : Bool :=
  match launchOf s sort with
  | none => false
  | some (b, t) =>
    match walkerRead t b.who b.addr n with
    | (some r, u) => f b r u
    | (none, _) => false

def isNest (b : LaunchBead) : Bool := b.kind == 0 || decide (4 ≤ b.kind)

/-- A record of one level of four points at 0x8000, of 8 words, with a slip window. -/
def nestCells (slip : Nat) : List (Nat × Nat × Nat) :=
  [(0x8000, 8, 0xE8A5 + 2 ^ 16), (0x8008, 8, M 0x9000), (0x8010, 8, 8), (0x8030, 8, slip * 2 ^ 32), (0x8070, 8, 1 + 4 * 2 ^ 32)]

/-- A rod without a bead of the sort; NEST beads of a reserved KIND, with a record that breaks a condition, and with one
that breaks none. -/
theorem witness_LaunchAndConfiguration :
    let faults (b : LaunchBead) (r : List Byte) := firstFault (recordFaults 1 b.addr r [])
    (launchOf (launchState 1 [1, M 0x8000] []) isNest).isNone = true
    ∧ takes (launchState 1 [5, M 0x8000] (nestCells 16)) isNest 256 (fun b _ _ => beadFault Vif.reset b == some 17) = true
    ∧ (∀ x ∈ [(15, some 14), (16, none)], takes (launchState 1 [0, M 0x8000] (nestCells x.1)) isNest 256 (fun b r u =>
        beadFault (u.vif 1) b == none && b.cmpi == 0 && recLtn r == 0 && recBtn r == 0 && faults b r == x.2
        && (eligibleDies (u.part 0) (recChecked r)).length == 1) = true) := by
  refine ⟨?_, ?_, ?_⟩ <;> decide +kernel

/-- A configuration bead from VIF 1; VIFCFG, PARTCFG, GROUPCFG with valid blocks. -/
theorem witness_LaunchAndConfiguration_blocks :
    (∀ x ∈ [1, 2, 3, 3 + 2 ^ 6], takes (launchState 1 [x, M 0x8000] []) (fun b => b.kind == x % 64) 32 (fun b _ _ => b.vif != 0) = true)
    ∧ takes (launchState 0 [2, M 0x8000] [(0x8000, 8, 1 + 8 * 2 ^ 16 + 2 ^ 56), (0x8008, 8, 1 + 8191 * 2 ^ 16)]) (fun b => b.kind == 2) 32
        (fun b bs u => configFault (u.vif 0) b == none
          && (let w := blkWord bs
            decide (1 ≤ bits (w 0) 16 7 ∧ bits (w 0) 16 7 ≤ 64 ∧ 1 ≤ bits (w 1) 16 14 ∧ bits (w 1) 0 13 + bits (w 1) 16 14 ≤ 8192
              ∧ ∀ kv ∈ u.vifs, kv.1 ≠ bits (w 0) 56 8 → overlap (bits (w 1) 0 13) (bits (w 1) 16 14) kv.2.asidb kv.2.asidn = false))) = true
    ∧ takes (launchState 0 [1, M 0x8000] [(0x8000, 8, 0x100 + 6 * 2 ^ 32), (0x8010, 8, 2 ^ 32)]) (fun b => b.kind == 1) 32
        (fun b bs u => configFault (u.vif 0) b == none
          && (let w := blkWord bs
            let p := bits (w 0) 8 4
            let dies : BitVec 16 := BitVec.ofNat 16 (bits (w 0) 32 16)
            b.addr % 8 == 0 && bits (w 2) 32 11 == 1 && dies == 6 && (List.range 16).all (fun d => (u.part p).dies.getLsbD d == dies.getLsbD d
              || !dieBusy u d && (!dies.getLsbD d || u.parts.all (fun kp => kp.1 == p || !kp.2.dies.getLsbD d))))) = true := by
  refine ⟨?_, ?_, ?_⟩ <;> decide +kernel

theorem witness_LaunchAndConfiguration_groups :
    let g : Group := { (default : Group) with st := .forming, g := 2, handle := 9 }
    let cells := [(0x8000, 8, 0x6C7A + 2 ^ 20 + 9 * 2 ^ 32), (0x8008, 8, 1000)]
    let forming : State := { base [] with groups := [(3, g)], cur := { (base []).cur with ev := ⟨0, .L, 0, 3, 0, [], [[0, 1]]⟩ } }
    takes (launchState 0 [3, M 0x8000] cells) (fun b => b.kind == 3 && !b.free) 128
        (fun b bs u => configFault (u.vif 0) b == none && groupRecordOk b bs) = true
    ∧ takes { launchState 0 [3 + 2 ^ 6, M 0x8000] cells with groups := [(3, { g with st := .formed })] } (fun b => b.kind == 3 && b.free) 128
        (fun b bs u => configFault (u.vif 0) b == none && (groupOfHandle u (bits (blkWord bs 0) 32 8)).isSome) = true
    ∧ (kvGet forming.groups forming.cur.ev.a = some g ∧ g.st = .forming
      ∧ lanesOk (lanesFor forming g ((forming.cur.ev.ints.headD []).map (·.toNat))) = true ∧ freeHandles forming ≠ []) := by
  refine ⟨?_, ?_, ?_⟩ <;> decide +kernel

/-- Rods of VIF 0 with and without HWIN and HDEQ, full and with room, empty and with a bead, in a page that a move holds; the
event's offset and length; before the device is ready, and after. -/
def hostState (elsz flags tail : Nat) (e : Ev) : State :=
  let b := withRegs .L [] ((0x1020008, 8, 0x2000001F) :: bigRod 0x3000 elsz flags tail)
  { b with vifs := [(0, { Vif.reset with lrod := 0x100000000003000, crod := 0x100000000003000, modtmr := 5, pcnt := 1 })]
           module := { b.module with ready := true, vfs := 3 }, cur := { b.cur with ev := e } }

theorem witness_HostWindows :
    let write : Ev := ⟨0, .L, 0, 0, 0, List.replicate 64 3, []⟩
    let read : Ev := ⟨0, .L, 256, 0, 0, [], []⟩
    let rod : Word := 0x100000000003000
    let moving : Word := 0x100000020003000
    let lw (a : Word) (flags tail : Nat) : Nat × Nat :=
      let s := hostState 6 flags tail write
      (windowState s 0 a 17, (throughWindow s 0 a 17 (lwinEnq 0 a write.bytes)).1)
    let cw (a : Word) (flags tail : Nat) : Nat × Nat :=
      let s := hostState 8 flags tail read
      (windowState s 0 a 18, (throughWindow s 0 a 18 (fun t => deviceDeq t 0 0 a 256)).1)
    ([lw rod 1 0, lw rod 1 2, lw rod 0 0] = [(0, 0), (0, 2), (4, 4)])
    ∧ ([cw rod 2 1, cw rod 2 0, cw rod 0 1] = [(0, 0), (0, 1), (4, 4)])
    ∧ (lw moving 1 0 = (heldStatus, heldStatus) ∧ cw moving 2 1 = (heldStatus, heldStatus))
    ∧ (write.b = 0 ∧ write.bytes.length = 64 ∧ read.b = 0 ∧ read.num = 256)
    ∧ (let s := hostState 6 1 0 write
      s.functionUp 0 = true ∧ s.functionUp 3 = true ∧ s.functionUp 4 = false ∧ State.reset.functionUp 0 = false)
    ∧ (let f := (hostState 6 1 0 write).vif 0; f.modtmr ≠ 0 ∧ 0 < f.pcnt)
    ∧ (∀ x ∈ [(0, 0x200), (3, 0x220), (0, 0x300), (2, 0xF8), (4, 0x200)], let s := hostState 6 1 0 (evOf 0 .L (x.1 + 1) x.2 8)
      s.cur.ev.num = x.1 + 1 ∧ s.cur.ev.b = 8 ∧ s.cur.ev.a = x.2 ∧ s.functionUp x.1 = decide (x.1 < 4)) := by
  refine ⟨?_, ?_, ?_, ?_, ?_, ?_, ?_⟩ <;> decide +kernel

/-- A sample that is cool, warm and hot; columns at rest and warm; counts in order; a bus that failed elsewhere; items of
soft errors; replays in a row up to the limit and beyond; a lane in use by a group. -/
theorem witness_LinksPowerAndHealth :
    let ev (e : Ev) : State := withEv e (base [])
    let temps (t : Int) : Ev := ⟨0, .L, 0, 0, 0, [], [[t], [], []]⟩
    let sampled (t : Int) : Die := { (base []).die 0 with temps := (temps t).ints.getD 0 [], volts := [], procs := [] }
    let warm := (ev (evOf 0 .L 0 1 0)).updDie 3 (fun d => { d with warm := true, wear := [(0x900, 5)] })
    let near (t : Int) : State := (ev (temps t)).updDie 1 (fun d => { d with warm := true })
    (tooHot (sampled 800) = false ∧ overFirst (sampled 1600) = true ∧ tooHot (sampled 1600) = false ∧ veryHot (sampled 1760) = true)
    ∧ (columnOf 0 = [0, 1] ∧ (∃ j ∈ columnOf 0, ((near 1570).die j).warm = true)
      ∧ nearFirst (sampled 1570) = true ∧ overFirst (sampled 1570) = false ∧ nearFirst (sampled 1568) = false
      ∧ (near 1570).cur.ev.a < 16)
    ∧ ((∀ d, d < 16 → (warm.die d).hot = false) ∧ tooHot (warm.die 2) = false ∧ tooHot (warm.die 3) = false ∧ (warm.die 3).warm = true)
    ∧ (∀ d, d < 16 → ((warm.die d).wear.map (·.1)).Nodup ∧ ∀ p ∈ (warm.die d).wear, p.1 < 65536)
    ∧ (warm.module.plim < 2801 ∧ 100 * 2000 < 95 * warm.module.plim)
    ∧ (let s := ev (evOf 0 .L 0 4 0); s.cur.ev.ints = [] ∧ s.cur.ev.a ≠ 14 ∧ s.module.remaps = [])
    ∧ (let g : Group := { (default : Group) with st := .formed, g := 2, lanes := [(1, 0x30)], lost := [(1, 6, 1)] }
      let s : State := withEv ⟨1, .L, 3, 14, 8, [], []⟩ { base [] with groups := [(3, g)] }
      s.cur.ev.a = 14 ∧ 1 ≤ s.cur.ev.b ∧ s.cur.ev.b ≤ 16 ∧ s.group s.cur.ev.num = g ∧ g.st = .formed
      ∧ idleLanes s &&& BitVec.ofNat 16 (2 ^ (s.cur.ev.b - 1)) ≠ 0 ∧ ∃ x ∈ g.lost, x.1 = s.cur.ev.ctx ∧ x.2.2 ≠ 0)
    ∧ (let s := ev (evOf 0 .L 8 4 0); s.cur.ev.b = 0 ∧ s.cur.ev.num < 9 ∧ (kvGet (s.die 4).wear 0x408).getD 0 < wearMax)
    ∧ (let s := ev (evOf 0 .L 4 4 1); s.cur.ev.num ∈ [2, 4, 5, 6] ∧ (kvGet (s.die 4).wear 0x404).getD 0 < wearMax)
    ∧ (let s := (ev (evOf 0 .L 0 4 2)).updMe (fun c => { c with ctrl := { c.ctrl with chk := true } })
      2 ≤ s.cur.ev.b ∧ (kvGet s.ctxs s.cur.ev.ctx).isSome = true ∧ (s.ctx s.cur.ev.ctx).ctrl.chk = true)
    ∧ laneList 0x30 = [4, 5] ∧ (0x30 : BitVec 16) ≠ 0
    ∧ (let s := ev (evOf 0 .L 0 4 1); s.cur.ev.b = 1 ∧ s.cur.ev.num = 0 ∧ (kvGet s.ctxs s.cur.ev.ctx).isSome = true
      ∧ (s.ctx 0).fatal = none ∧ (s.ctx 0).res ≠ .gone)
    ∧ (∀ n ∈ [1, 3, 7, 8], let s := ev (evOf 0 .L n 4 1); s.cur.ev.b = 1 ∧ s.cur.ev.num = n)
    ∧ (placed ((base []).ctx 0) = true ∧ ((base []).ctx 0).fatal = none)
    ∧ (∀ x ∈ [(1, 16, 15), (1, 16, 16), (3, 64, 63), (3, 64, 64)],
      let s : State := withEv (evOf 1 .L 5 2 x.1) { base [] with module := { (base []).module with replays := [(2 ^ 17 + 2 ^ 12 * x.1 + 5, x.2.2)] } }
      let n := 1 + (kvGet s.module.replays (2 ^ 16 * s.cur.ev.a + 2 ^ 12 * (s.cur.ev.b % 4) + s.cur.ev.num % 2 ^ 12)).getD 0
      s.cur.ev.ctx = 1 ∧ (n ≤ x.2.1 ↔ x.2.2 < x.2.1))
    ∧ (let g : Group := { (default : Group) with st := .formed, g := 2, lanes := [(1, 0x30)] }
      let s : State := withEv (evOf 0 .L 0 4 0) { base [] with groups := [(3, g)] }
      kvGet s.groups 3 = some g ∧ ∀ p ∈ g.lanes, p.2.getLsbD (s.cur.ev.a % 16) = true) := by
  refine ⟨?_, ?_, ?_, ?_, ?_, ?_, ?_, ?_, ?_, ?_, ?_, ?_, ?_, ?_, ?_, ?_, ?_⟩ <;> decide +kernel

/-- An image without keys and signatures, and one whose signatures have their lengths. -/
def unsigned : Config.Signed := ⟨0, 0, 5, [], [], [], [], []⟩

/-- Each stage of boot without an error; stages that end with one; boot that has ended; requests of a function and of another.
Whether the signatures of an image verify is the algorithms' affair, which the model does not interpret: an image without any
does not, and any does whose premises the statement names. -/
theorem witness_PowerBootAndAttestation :
    let firm (x : Config.Signed) (bs : List Config.Blob) : Config.Firmware := ⟨⟨x, 0, 0, 0, 0, []⟩, bs⟩
    let at_ (stage : Nat) (ints : List (List Int)) (bs : List Config.Blob) : State :=
      { State.reset with module := { State.reset.module with stage := stage, floor := 2, loaded := some (firm unsigned bs) }
                         cur := { Issue.idle with ev := ⟨0, .L, 0, 0, 0, [], ints⟩ } }
    let ends (m : Module) : Prop := m.ready = true ∨ m.fail = true ∨ 6 ≤ m.stage
    (∀ x ∈ [(1, [[1]]), (3, [[0]]), (4, [[1]]), (5, [[0]]), (6, [[0]])],
      stageErrors (at_ (x.1 - 1) x.2 []) x.1 = [] ∧ (at_ (x.1 - 1) x.2 []).module.ready = false
      ∧ (at_ (x.1 - 1) x.2 []).module.fail = false ∧ (at_ (x.1 - 1) x.2 []).module.stage < 6)
    ∧ (∀ x ∈ [(1, [[0]]), (3, [[0, 137]]), (4, [[0]])], stageErrors (at_ (x.1 - 1) x.2 []) x.1 ≠ [])
    ∧ signaturesVerify unsigned = false
    ∧ ends { (at_ 0 [] []).module with ready := true } ∧ ends { (at_ 0 [] []).module with fail := true } ∧ ends (at_ 6 [] []).module
    ∧ (∀ d, d < 16 → (((at_ 0 [] []).die d).wear.map (·.1)).Nodup ∧ ∀ p ∈ ((at_ 0 [] []).die d).wear, p.1 < 65536)
    ∧ (at_ 0 [] []).cur.ev.ctx = 0 ∧ (withEv (evOf 1 .L 0 0 0) State.reset).cur.ev.ctx ≠ 0
    ∧ (withEv (evOf 0 .L 0 0xFF 0) State.reset).cur.ev.a = 0xFF := by
  refine ⟨?_, ?_, ?_, ?_, ?_, ?_, ?_, ?_, ?_⟩ <;> decide +kernel

/-- An image with neither keys nor signatures ends stage 2, and a blob that says so ends stage 5, with an error. -/
theorem witness_PowerBootAndAttestation_fails (m : Module) (floor : Nat) :
    verifyErrors m floor unsigned ≠ [] ∧ ∃ e ∈ verifyErrors m floor unsigned, e = 1 := by
  simp [verifyErrors, show signaturesVerify unsigned = false by decide]

/-- Stage 2 succeeds where the signatures verify by keys of the ROM's that are not revoked, and the SVN is no lower than the
floor. -/
theorem witness_PowerBootAndAttestation_verifies (m : Module) (floor : Nat) (x : Config.Signed) (h : signaturesVerify x = true)
    (hf : floor ≤ x.svn) (r : Config.romRsaHash 0 = Config.sha384 x.rsaKey) (q : Config.romSlhHash 0 = Config.sha384 x.slhKey)
    (hr : m.revoked = 0) : verifyErrors m floor x = [] := by
  simp [verifyErrors, h, hf, romSlots, hr]
  exact ⟨0, by omega, r, 0, by omega, q⟩

/-- Well-formed instructions of each format, and a word that decodes. -/
theorem witness_DecodeEncode :
    (∀ i ∈ ([.add (hd .L) { r0 with t := 4 }, .li (hd .L) i0, .br (hd .A) b0, .ld (hd .L) m0, .copy (hd .L) e0, .mma (hd .C) a0, .mfc (hd .L) y0] : List Instr),
      i.WellFormed ∧ (hdrOf i).isSome = true)
    ∧ decodeWord 0x2014000000000005 = .ok (.trap (hd .A) { i0 with imm := 5 }) := by decide +kernel

/-- A state with the invariant from which the machine steps, and a lane that can issue. -/
theorem witness_Steps :
    let s := State.reset.withFetchWord 64 0x604A028000000007
    let i : Instr := .li ⟨.L, true, false, false, false, false, false, 0⟩ ⟨5, 0, 7⟩
    let u := State.updCtx { s with agenda := [] } 0 (fun c => c.settleGives .L)
    let off := { State.reset with module := { State.reset.module with powered := false }, agenda := [.event .timer (evOf 0 .L 0 0 0)] }
    s.Inv ∧ nextIs (step s) (fun t => (t.lane 0 .L).pc == 1) = true
    ∧ s.agenda = [.lane 0 .L] ∧ s.module.powered = true ∧ laneRuns { s with agenda := [] } 0 .L = true
    ∧ CanIssue u 0 .L 0 0x604A028000000007 i
    ∧ off.agenda = [.event .timer (evOf 0 .L 0 0 0)] ∧ off.module.powered = false := by
  unfold State.Inv CanIssue; refine ⟨?_, ?_, ?_, ?_, ?_, ?_, ?_, ?_⟩ <;> decide +kernel
/-! ### Steps and entries -/

/-- LI s5, 7 is placed, and the next step issues it. -/
theorem test_step_of_a_placed_word :
    nextIs (step (State.reset.withFetchWord 64 0x604A028000000007)) (fun t =>
      (t.lane 0 .L).pc == 1 && (t.lane 0 .L).s.getD 5 0 == 7 && (t.lane 0 .L).lcnt == 1) = true := by decide +kernel

/-- The bytes of memory stand with the least significant one first (R86); a 64-bit load at 0x2000. -/
theorem test_load :
    nextIs (exec (.ld (hd .L) { m0 with d := 6, base := 2, sz := 3 }) memState)
      (fun t => t.myLane.s.getD 6 0 == 0x1122334455667788) = true
    ∧ nextIs (exec (.ld (hd .L) { m0 with d := 6, base := 2, sz := 0, off := 7 }) memState)
      (fun t => t.myLane.s.getD 6 0 == 0x11) = true := by decide +kernel

/-- A plain load need not be aligned; one with an ordering at 0x2002 ends the context with MEM_ALIGN (0x2C), imprecise. -/
theorem test_misaligned_load :
    nextIs (exec (.ld (hd .L) { m0 with d := 6, base := 2, sz := 2, off := 2 }) memState)
      (fun t => t.myLane.s.getD 6 0 == 0x33445566) = true
    ∧ nextIs (exec (.ld (hd .L) { m0 with d := 6, base := 2, sz := 2, off := 2, ord := 1, scope := 3 }) memState)
      (fun t => t.me.ctrl.cause == 0x52C && t.me.fatal.isSome && t.me.ctrl.faddr == 0x100000000002002) = true := by decide +kernel

/-- TRAP 5 enters the user handler at 0x10 with CODE 1 and DETAIL 5 (R361, R363). -/
theorem test_trap_entry :
    let s : State := (base []).updMe (fun c => { c with
      laneC := { c.laneC with ended := true }, laneS := { c.laneS with arrived := true }
      ctrl := { c.ctrl with utvec := 0x8000000000000010 } })
    nextIs (exec (.trap (hd .A) { i0 with imm := 5 }) s) (fun t =>
      t.me.ctrl.cause == 1 && t.me.ctrl.finfo == 5 && t.me.ctrl.faddr == 0 && t.me.ctrl.hnd == 1
        && lanes.all (fun l => (t.me.lane l).pc == 0x10 && !(t.me.lane l).ended)) = true := by decide +kernel

/-- A privileged word in user mode raises PRIVILEGE (0x11) with its opcode as DETAIL, to the system handler. -/
theorem test_privilege :
    let s : State := (base []).updMe (fun c => { c with ctrl := { c.ctrl with tvec := 0x8000000000000020 } })
    nextIs (exec (.monrdTemp (hd .L) y0) s) (fun t =>
      t.me.ctrl.cause == 0x111 && t.me.ctrl.finfo == 0xEC && t.me.ctrl.hnd == 2 && t.me.laneL.pc == 0x20) = true := by decide +kernel

/-- A module that is powered off runs nothing (R444). -/
theorem test_powered_off :
    step { State.reset with module := { State.reset.module with powered := false }, agenda := [.event .timer (evOf 0 .L 0 0 0)] }
      = .fault .moduleOff := rfl


end Sys2Proof.Tests
end

section
/-! Proofs. Control registers and monitors: what a lane sees in a control register, what an MTC leaves, what
MONRD reads (R356 to R360, R366, R439). -/

namespace Sys2Proof.Machine

/-! ### Bytes, results of operations, scalar results -/

/-- Storage reads the same where neither memory nor what the step has written differs. -/
theorem sameBytes_of_mem_wlog {s t : State} (hm : t.mem = s.mem) (hw : t.wlog = s.wlog) : SameBytes s t := by
  intro a
  simp only [State.byteAt, hm, hw]

theorem runOp_putResult (s : State) (d : BitVec 6) (v : Word) : runOp s (putResult d v) = .next (s.wrS d v 0) :=
  runOp_ok rfl

/-- Write(s d, v) writes the lane's register `d`, or nothing for s0 (R202). -/
theorem LaneSt.putS_s (x : LaneSt) (d : BitVec 6) (v : Word) (n : Nat) :
    (x.putS d.toNat v n).s = if d = 0 then x.s else x.s.setIfInBounds d.toNat v := by
  have hd : d.toNat = 0 ↔ d = 0 := by rw [← BitVec.toNat_inj]; rfl
  simp only [LaneSt.putS, hd]
  split <;> rfl

theorem wrote_wrS (s : State) (d : BitVec 6) (v : Word) (n : Nat) : Wrote s (s.wrS d v n) d v := by
  refine ⟨rfl, rfl, ?_, fun l hl => ?_⟩
  · simp only [State.wrS, State.myLane_updMyLane, LaneSt.putS_s]
  · simp only [State.me, State.wrS, State.updMyLane, State.updLane, State.updCtx_cur, State.ctx_updCtx,
      Ctx.lane_updLane_ne _ _ hl]

@[simp] theorem State.ctx_updCore (s : State) (k i : Nat) (f : CoreSt → CoreSt) : (s.updCore i f).ctx k = s.ctx k := rfl

/-! ### MFC: what a lane sees in a control register (R366) -/

theorem seenCtrl_of_no_olds {s : State} {n : Nat} (h : oldCtrls s s.cur.ctx s.cur.lane n = []) :
    seenCtrl s n = (readCtrl s s.cur.ctx n, s) := by
  simp only [seenCtrl, h]

theorem seenCtrl_mem (s : State) (n : Nat) :
    (seenCtrl s n).1 ∈ readCtrl s s.cur.ctx n :: oldCtrls s s.cur.ctx s.cur.lane n := by
  have pick (now : Word) (vs : List Word) (m : Nat) : (now :: vs).getD (m % (vs.length + 1)) now ∈ now :: vs := by
    have hm : m % (vs.length + 1) < (now :: vs).length := Nat.mod_lt _ (Nat.succ_pos _)
    rw [List.getD_eq_getElem _ _ hm]
    exact List.getElem_mem hm
  unfold seenCtrl
  split
  · exact List.mem_cons_self
  · exact pick _ _ _

theorem exec_mfc_allowed {h : Hdr} {o : SysOps} {s : State} (ha : s.active h = true)
    (hu : userReadable o.ctrl.toNat = true ∨ s.me.holdsPriv = true) :
    exec (.mfc h o) s
      = .next ((seenCtrl s o.ctrl.toNat).2.wrS o.d (seenCtrl s o.ctrl.toNat).1 0) := by
  change execMfc h o s = _
  by_cases hn : userReadable o.ctrl.toNat = true
  · simp only [execMfc, if_pos hn, gateOp_active ha]
    exact runOp_ok rfl
  · simp only [execMfc, if_neg hn, privileged_held (hu.resolve_left hn), gateOp_active ha]
    exact runOp_ok rfl

theorem exec_mfc_trap {h : Hdr} {o : SysOps} {s : State} (hn : userReadable o.ctrl.toNat = false)
    (hp : s.me.holdsPriv = false) : exec (.mfc h o) s = .next (trapHere s .privilege 0xE0 0) := by
  change execMfc h o s = _
  simp only [execMfc, hn, Bool.false_eq_true, if_false, privileged_trap hp]

/-! ### MTC: what a write of a control register leaves (R3, R356) -/

theorem exec_mtc_allowed {h : Hdr} {o : SysOps} {s : State} (ha : s.active h = true)
    (hu : o.ctrl.toNat = 0x01B ∨ s.me.holdsPriv = true) :
    exec (.mtc h o) s = .next (writeMtc s o.ctrl.toNat (s.srcS 1 o.a)) := by
  change execMtc h o s = _
  by_cases hn : o.ctrl.toNat = 0x01B
  · simp only [execMtc, if_pos hn, plain_active ha]
  · simp only [execMtc, if_neg hn, privileged_held (hu.resolve_left hn), plain_active ha]

theorem exec_mtc_trap {h : Hdr} {o : SysOps} {s : State} (hn : o.ctrl.toNat ≠ 0x01B)
    (hp : s.me.holdsPriv = false) : exec (.mtc h o) s = .next (trapHere s .privilege 0xE1 0) := by
  change execMtc h o s = _
  simp only [execMtc, if_neg hn, privileged_trap hp]

/-- The general registers, accumulators and program counters of a context. -/
def SameRegisters (c d : Ctx) : Prop :=
  d.f = c.f ∧ d.v = c.v ∧ d.p = c.p ∧ d.acc = c.acc
    ∧ ∀ m, (d.lane m).s = (c.lane m).s ∧ (d.lane m).pc = (c.lane m).pc

/-- A state that differs in nothing that an MTC of the context `k` must leave alone. -/
structure KeepsData (k : Nat) (s t : State) : Prop where
  mem : t.mem = s.mem
  wlog : t.wlog = s.wlog
  cur : t.cur = s.cur
  regs : SameRegisters (s.ctx k) (t.ctx k)

theorem KeepsData.refl (k : Nat) (s : State) : KeepsData k s s :=
  ⟨rfl, rfl, rfl, rfl, rfl, rfl, rfl, fun _ => ⟨rfl, rfl⟩⟩

theorem KeepsData.updCore (k : Nat) (s : State) (i : Nat) (f : CoreSt → CoreSt) : KeepsData k s (s.updCore i f) :=
  ⟨rfl, rfl, rfl, rfl, rfl, rfl, rfl, fun _ => ⟨rfl, rfl⟩⟩

theorem KeepsData.updCtx {k : Nat} {f : Ctx → Ctx} (s : State) (hf : ∀ c, SameRegisters c (f c)) :
    KeepsData k s (s.updCtx k f) :=
  ⟨rfl, rfl, rfl, by rw [State.ctx_updCtx]; exact hf _⟩

theorem KeepsData.updCtrl (k : Nat) (s : State) (f : Ctx → Ctrl) :
    KeepsData k s (s.updCtx k (fun c => { c with ctrl := f c })) :=
  .updCtx s (fun _ => ⟨rfl, rfl, rfl, rfl, fun m => by cases m <;> exact ⟨rfl, rfl⟩⟩)

theorem KeepsData.updLane {f : LaneSt → LaneSt} (k : Nat) (s : State) (l : Lane)
    (hf : ∀ x, (f x).s = x.s ∧ (f x).pc = x.pc) : KeepsData k s (s.updLane k l f) := by
  refine .updCtx s (fun c => ⟨by simp, by simp, by simp, by simp, fun m => ?_⟩)
  by_cases hm : m = l
  · subst hm; rw [Ctx.lane_updLane]; exact hf _
  · rw [Ctx.lane_updLane_ne _ _ hm]; exact ⟨rfl, rfl⟩

theorem KeepsData.trans {k : Nat} {s t u : State} (h : KeepsData k s t) (g : KeepsData k t u) : KeepsData k s u := by
  obtain ⟨hf, hv, hp, ha, hl⟩ := h.regs
  obtain ⟨gf, gv, gp, ga, gl⟩ := g.regs
  exact ⟨g.mem.trans h.mem, g.wlog.trans h.wlog, g.cur.trans h.cur, gf.trans hf, gv.trans hv, gp.trans hp,
    ga.trans ha, fun m => ⟨(gl m).1.trans (hl m).1, (gl m).2.trans (hl m).2⟩⟩

/-! #### The frame of an MTC -/

theorem keepsData_writeCtrl (s : State) (k n : Nat) (v : Word) : KeepsData k s (writeCtrl s k n v) := by
  unfold writeCtrl
  split
  -- EPC and SLIM are a lane's, SPLIT and INTP the core's; every other register stands in `Ctrl`.
  case h_4 | h_5 | h_6 | h_9 | h_10 | h_11 => exact .updLane k s _ (fun _ => ⟨rfl, rfl⟩)
  case h_13 => dsimp only; split; exacts [.refl k s, .updCore k s _ _]
  case h_18 => dsimp only; split; exacts [.updCore k s _ _, .refl k s]
  case h_19 => split; exacts [.updCtrl k s _, .refl k s]
  all_goals exact .updCtrl k s _

/-- Noting that a value has been replaced changes nothing that a program reads (R366). -/
theorem keepsData_writeMtc (s : State) (n : Nat) (v : Word) : KeepsData s.cur.ctx s (writeMtc s n v) := by
  have hw := keepsData_writeCtrl s s.cur.ctx n v
  unfold writeMtc
  dsimp only
  split
  · exact hw
  · refine hw.trans (.updCtx _ (fun c => ⟨by simp, by simp, by simp, by simp, fun m => ?_⟩))
    cases s.cur.lane <;> cases m <;> exact ⟨rfl, rfl⟩

theorem readCtrl_writeMtc (s : State) (n : Nat) (v : Word) :
    readCtrl (writeMtc s n v) s.cur.ctx n = readCtrl (writeCtrl s s.cur.ctx n v) s.cur.ctx n := by
  unfold writeMtc
  dsimp only
  split
  · rfl
  · generalize writeCtrl s s.cur.ctx n v = t
    simp only [readCtrl, State.ctx_updCtx]
    cases s.cur.lane <;> rfl

/-! #### What each register holds after it -/

section
variable (s : State) (k : Nat) (v : Word)

/-- Knots of CMPDT lie above every other register, in the table. -/
theorem cmpdtIndex_some {n j : Nat} (h : cmpdtIndex n = some j) : 0x100 ≤ n ∧ j < 68 := by
  unfold cmpdtIndex at h
  split at h
  · next hn => simp only [Option.some.injEq] at h; omega
  · simp at h

theorem readCtrl_cmpdt {n j : Nat} (h : cmpdtIndex n = some j) :
    readCtrl s k n = (s.ctx k).ctrl.cmpdt.getD j 0 := by
  have hn := (cmpdtIndex_some h).1
  unfold readCtrl
  dsimp only
  split
  case h_27 => rw [h]
  all_goals omega

theorem writeCtrl_cmpdt {n j : Nat} (h : cmpdtIndex n = some j) :
    writeCtrl s k n v
      = s.updCtx k (fun c => { c with ctrl := { c.ctrl with cmpdt := c.ctrl.cmpdt.setIfInBounds j v } }) := by
  have hn := (cmpdtIndex_some h).1
  unfold writeCtrl
  dsimp only
  split
  case h_19 => rw [h]
  all_goals omega

theorem readCtrl_writeCtrl_cmpdt {n : Nat} (h : (cmpdtIndex n).isSome = true) :
    readCtrl (writeCtrl s k n v) k n = v := by
  obtain ⟨j, hj⟩ := Option.isSome_iff_exists.mp h
  have hlt := (cmpdtIndex_some hj).2
  simp [readCtrl_cmpdt _ _ hj, writeCtrl_cmpdt _ _ _ hj, Vector.getD, hlt]

theorem readCtrl_writeCtrl_whole {n : Nat} (hn : n ∈ [0x003, 0x010, 0x011, 0x012]) :
    readCtrl (writeCtrl s k n v) k n = v := by
  simp only [List.mem_cons, List.not_mem_nil, or_false] at hn
  rcases hn with rfl | rfl | rfl | rfl <;> simp [readCtrl, writeCtrl, State.updLane, Ctx.updLane, Ctx.setLane]

theorem readCtrl_writeCtrl_cause : readCtrl (writeCtrl s k 0x001 v) k 0x001 = v &&& 0x7FF := by
  simp [readCtrl, writeCtrl, keepBits]

theorem readCtrl_writeCtrl_finfo : readCtrl (writeCtrl s k 0x002 v) k 0x002 = v &&& 0x0003FFFF7FFFFFFF := by
  simp [readCtrl, writeCtrl, keepBits]

theorem readCtrl_writeCtrl_epc {n : Nat} (hn : n ∈ [0x004, 0x005, 0x006]) :
    readCtrl (writeCtrl s k n v) k n = v &&& 0x1FFFF := by
  simp only [List.mem_cons, List.not_mem_nil, or_false] at hn
  rcases hn with rfl | rfl | rfl <;> simp [readCtrl, writeCtrl, keepBits, State.updLane, Ctx.updLane, Ctx.setLane]

theorem readCtrl_writeCtrl_vector {n : Nat} (hn : n ∈ [0x008, 0x009]) :
    readCtrl (writeCtrl s k n v) k n = v &&& 0x8000000000003FFF := by
  simp only [List.mem_cons, List.not_mem_nil, or_false] at hn
  rcases hn with rfl | rfl <;> simp [readCtrl, writeCtrl, keepBits]

theorem readCtrl_writeCtrl_slipw : (readCtrl (writeCtrl s k 0x018 v) k 0x018).toNat
    = if v.toNat < 16 then 16 else if 4096 < v.toNat then 4096 else v.toNat := by
  simp only [readCtrl, writeCtrl, State.ctx_updCtx, clampSlipw, BitVec.toNat_ofNat]
  split_ifs <;> omega

theorem readCtrl_writeCtrl_split :
    readCtrl (writeCtrl s k 0x019 v) k 0x019 = if bits v.toNat 4 4 = 0 then readCtrl s k 0x019
      else BitVec.ofNat 64 ((s.core (s.ctx k).core).h0 + 16 * bits v.toNat 4 4) := by
  simp only [writeCtrl]
  split
  · rfl
  · simp only [readCtrl, State.ctx_updCore, State.core_updCore]

theorem readCtrl_writeCtrl_mode :
    readCtrl (writeCtrl s k 0x01B v) k 0x01B = if v.getLsbD 0 = true then 0 else readCtrl s k 0x01B := by
  simp [readCtrl, writeCtrl]

theorem readCtrl_writeCtrl_vamask : readCtrl (writeCtrl s k 0x01C v) k 0x01C = v &&& 0x1FFFFFFFF := by
  simp [readCtrl, writeCtrl, keepBits]

theorem readCtrl_writeCtrl_savea : readCtrl (writeCtrl s k 0x022 v) k 0x022 = v &&& 0xFFFFFFFFFFFFF000 := by
  simp [readCtrl, writeCtrl, keepBits]

theorem readCtrl_writeCtrl_ittimer : (readCtrl (writeCtrl s k 0x02A v) k 0x02A).toNat = v.toNat % 2 ^ 32 := by
  simp only [readCtrl, writeCtrl, State.ctx_updCtx, BitVec.toNat_ofNat]
  omega

/-- Only a service core has an INTP (R360). -/
theorem readCtrl_writeCtrl_intp :
    readCtrl (writeCtrl s k 0x030 v) k 0x030 = readCtrl s k 0x030 &&& ~~~(v &&& 0x1F) := by
  by_cases hs : isService (s.ctx k).core = true
  · simp [readCtrl, writeCtrl, keepBits, hs]
  · simp [readCtrl, writeCtrl, hs]

theorem writeCtrl_readOnly {n : Nat}
    (hn : n ∈ [0x000, 0x01A, 0x01D, 0x01E, 0x020, 0x021, 0x028, 0x029]) : writeCtrl s k n v = s := by
  simp only [List.mem_cons, List.not_mem_nil, or_false] at hn
  rcases hn with rfl | rfl | rfl | rfl | rfl | rfl | rfl | rfl <;> rfl

end

/-! ### MONRD (R439) -/

theorem exec_monrdTemp (h : Hdr) (o : SysOps) (s : State) : exec (.monrdTemp h o) s = execMonrdTemp h o s := rfl
theorem exec_monrdVolt (h : Hdr) (o : SysOps) (s : State) : exec (.monrdVolt h o) s = execMonrdVolt h o s := rfl
theorem exec_monrdProc (h : Hdr) (o : SysOps) (s : State) : exec (.monrdProc h o) s = execMonrdProc h o s := rfl
theorem exec_monrdSlow (h : Hdr) (o : SysOps) (s : State) : exec (.monrdSlow h o) s = execMonrdSlow h o s := rfl
theorem exec_monrdWear (h : Hdr) (o : SysOps) (s : State) : exec (.monrdWear h o) s = execMonrdWear h o s := rfl
theorem exec_monrdRev (h : Hdr) (o : SysOps) (s : State) : exec (.monrdRev h o) s = execMonrdRev h o s := rfl
theorem exec_monrdPlace (h : Hdr) (o : SysOps) (s : State) : exec (.monrdPlace h o) s = execMonrdPlace h o s := rfl

theorem monrd_held {h : Hdr} {s : State} (ha : s.active h = true) (hp : s.me.holdsPriv = true) (o : SysOps)
    (f : State → Nat → Word) : monrd h o s f = .next (s.wrS o.d (f s (s.srcS 1 o.a).toNat) 0) := by
  rw [monrd, privileged_held hp, gateOp_active ha, runOp_putResult]

/-- The core field of MONRD.place holds the core's number on its die; that of a service core is free (log 94). -/
theorem exec_monrdPlace_held {h : Hdr} {s : State} (ha : s.active h = true) (hp : s.me.holdsPriv = true) (o : SysOps) :
    ∃ t x, exec (.monrdPlace h o) s = .next t ∧ x < 64 ∧ (isService s.myCore = false → x = s.myCore % 64)
      ∧ Wrote s t o.d (BitVec.ofNat 64 (x + 2 ^ 6 * s.myDie + 2 ^ 10 * s.me.bank)) := by
  have run (m : State → Op Unit) : privileged s 0xEC (fun s => gateOp h s (m s)) = runOp s (m s) := by
    rw [privileged_held hp, gateOp_active ha]
  rw [exec_monrdPlace, execMonrdPlace, run]
  cases hs : isService s.myCore
  · exact ⟨_, s.myCore % 64, runOp_ok rfl, Nat.mod_lt _ (by decide), fun _ => rfl, wrote_wrS ..⟩
  · exact ⟨_, Config.free 61 s.fresh % 64, runOp_ok rfl, Nat.mod_lt _ (by decide), nofun,
      wrote_wrS { s with fresh := s.fresh + 1 } ..⟩

theorem exec_monrd_trap {h : Hdr} {o : SysOps} {s : State} (hp : s.me.holdsPriv = false) :
    ∀ i ∈ ([.monrdTemp h o, .monrdVolt h o, .monrdProc h o, .monrdSlow h o, .monrdWear h o, .monrdRev h o,
      .monrdPlace h o] : List Instr), exec i s = .next (trapHere s .privilege 0xEC 0) := by
  simp only [List.forall_mem_cons, List.not_mem_nil, false_implies, implies_true, and_true]
  have trap (f : State → Nat → Word) : monrd h o s f = .next (trapHere s .privilege 0xEC 0) := privileged_trap hp _ _
  rw [exec_monrdTemp, exec_monrdVolt, exec_monrdProc, exec_monrdSlow, exec_monrdWear, exec_monrdRev, exec_monrdPlace]
  exact ⟨trap _, trap _, trap _, trap _, trap _, trap _, privileged_trap hp _ _⟩

/-- Settles O44: MFC by what a lane may see, MTC by the register's own read-after-write lemma and the frame of
`writeMtc`, MONRD by its gates. -/
theorem controlRegistersAndMonitors : Obligations.ControlRegistersAndMonitors := by
  intro h o s ha
  refine ⟨fun hu => ⟨fun hold => ?_, _, seenCtrl_mem s _, exec_mfc_allowed ha hu⟩, fun hu => ?_, fun hp => ?_, fun hp =>
    ⟨fun hn => exec_mfc_trap hn hp, fun hn => exec_mtc_trap hn hp, exec_monrd_trap hp⟩⟩
  · simpa only [seenCtrl_of_no_olds hold] using exec_mfc_allowed ha hu
  · obtain ⟨hm, hw, hc, hf, hv, hp, hacc, hl⟩ := keepsData_writeMtc s o.ctrl.toNat (s.srcS 1 o.a)
    have hme : (writeMtc s o.ctrl.toNat (s.srcS 1 o.a)).me = (writeMtc s o.ctrl.toNat (s.srcS 1 o.a)).ctx s.cur.ctx := by
      rw [State.me, hc]
    refine ⟨_, exec_mtc_allowed ha hu, sameBytes_of_mem_wlog hm hw, ?_⟩
    rw [hme, readCtrl_writeMtc]
    refine ⟨hf, hv, hp, hacc, hl, ?_⟩
    generalize o.ctrl.toNat = n
    refine ⟨fun hn => hn.elim (readCtrl_writeCtrl_whole _ _ _) (readCtrl_writeCtrl_cmpdt _ _ _), ?_, ?_,
      readCtrl_writeCtrl_epc _ _ _, readCtrl_writeCtrl_vector _ _ _, ?_, ?_, ?_, ?_, ?_, ?_, ?_,
      fun hn => by rw [writeCtrl_readOnly _ _ _ hn]⟩ <;> rintro rfl
    · exact readCtrl_writeCtrl_cause ..
    · exact readCtrl_writeCtrl_finfo ..
    · exact readCtrl_writeCtrl_slipw ..
    · exact readCtrl_writeCtrl_split ..
    · exact readCtrl_writeCtrl_mode ..
    · exact readCtrl_writeCtrl_vamask ..
    · exact readCtrl_writeCtrl_savea ..
    · exact readCtrl_writeCtrl_ittimer ..
    · exact readCtrl_writeCtrl_intp ..
  · dsimp only
    rw [exec_monrdTemp, exec_monrdVolt, exec_monrdProc, exec_monrdSlow, exec_monrdWear, exec_monrdRev]
    exact ⟨monrd_held ha hp o _, monrd_held ha hp o _, monrd_held ha hp o _, monrd_held ha hp o _,
      monrd_held ha hp o _, monrd_held ha hp o _, exec_monrdPlace_held ha hp o⟩

end Sys2Proof.Machine
end

section
/-! Proofs. The host's windows, registers and reads (R397, R411, R433, R434). -/

namespace Sys2Proof.Machine

/-! ### Flags of IFLAG -/

theorem raiseFlag_iflag (f : Vif) {bit : Nat} (hb : bit < 3) :
    (raiseFlag f bit).iflag = f.iflag ||| BitVec.ofNat 3 (2 ^ bit) := by
  unfold raiseFlag
  split
  · next h =>
    have hall : ∀ x : BitVec 3, ∀ b < 3, x.getLsbD b = true → x = x ||| BitVec.ofNat 3 (2 ^ b) := by decide
    exact hall _ _ hb h
  · rfl

theorem raiseFlag_msi1 (f : Vif) (bit : Nat) :
    (raiseFlag f bit).msi1 = f.msi1 + if f.iflag.getLsbD bit = false then 1 else 0 := by
  unfold raiseFlag
  split <;> simp_all

@[simp] theorem raiseFlag_msi0 (f : Vif) (bit : Nat) : (raiseFlag f bit).msi0 = f.msi0 := by
  unfold raiseFlag; split <;> rfl

@[simp] theorem raiseFlag_lst (f : Vif) (bit : Nat) : (raiseFlag f bit).lst = f.lst := by
  unfold raiseFlag; split <;> rfl

@[simp] theorem raiseFlag_cst (f : Vif) (bit : Nat) : (raiseFlag f bit).cst = f.cst := by
  unfold raiseFlag; split <;> rfl

@[simp] theorem raiseFlag_accB (f : Vif) (bit : Nat) : (raiseFlag f bit).accB = f.accB := by
  unfold raiseFlag; split <;> rfl

@[simp] theorem raiseFlag_refd (f : Vif) (bit : Nat) : (raiseFlag f bit).refd = f.refd := by
  unfold raiseFlag; split <;> rfl

/-- From `f` to `g` IFLAG.LREF is raised where `lref` holds and IFLAG.RODQ where `rodq` does; each flag that was clear sends
vector 1 (R397). -/
def Raised (f g : Vif) (lref rodq : Prop) [Decidable lref] [Decidable rodq] : Prop :=
  g.iflag = f.iflag ||| (if lref then 2 else 0) ||| (if rodq then 4 else 0)
    ∧ g.msi1 = f.msi1 + (if lref ∧ f.iflag.getLsbD 1 = false then 1 else 0)
        + (if rodq ∧ f.iflag.getLsbD 2 = false then 1 else 0)
    ∧ g.msi0 = f.msi0

theorem lwinStatus_raised (f : Vif) (st : Nat) : Raised f (lwinStatus f st) (st ≠ 0) (st = 3 ∨ st = 4) := by
  unfold lwinStatus Raised
  split
  · next h => subst h; simp
  · next h =>
    split
    · next hq =>
      simp [raiseFlag_iflag, raiseFlag_msi1, h, hq]
    · next hq =>
      simp [raiseFlag_iflag, raiseFlag_msi1, h, hq]

theorem lwinStatus_report (f : Vif) (st : Nat) :
    (lwinStatus f st).lst = st
      ∧ (lwinStatus f st).accB = (if st = 0 then (f.accB + 1) % 2 ^ 24 else f.accB)
      ∧ (lwinStatus f st).refd = (if st = 0 then f.refd else (f.refd + 1) % 2 ^ 24) := by
  unfold lwinStatus
  split
  · next h => simp [h]
  · split <;> simp

theorem cwinStatus_raised (f : Vif) (st : Nat) : Raised f (cwinStatus f st) False (st = 3 ∨ st = 4) := by
  unfold cwinStatus Raised
  split
  · next hq => simp [raiseFlag_iflag, raiseFlag_msi1, hq]
  · next hq => simp [hq]

theorem cwinStatus_cst (f : Vif) (st : Nat) : (cwinStatus f st).cst = st := by
  unfold cwinStatus
  split <;> simp

/-! ### Windows (R394, R397, R433) -/

theorem functionUp_eq_decide (s : State) (v : Nat) :
    s.functionUp v = decide (s.module.ready = true ∧ (v = 0 ∨ v ≤ s.module.vfs)) := by
  simp [State.functionUp, Bool.decide_or, beq_eq_decide]

section
variable {s : State} {asid bit : Nat} {a : Word} {op : State → Nat × List Byte × State}

theorem throughWindow_open (hw : windowState s asid a bit = 0) {n : Nat} {bead : List Byte} {t : State}
    (h : op s = (n, bead, t)) (hn : n ≠ heldStatus) : throughWindow s asid a bit op = (n, bead, t) := by
  have htry : tryWindow s asid a bit op = (n, bead, t) := by simp only [tryWindow, hw, h]
  unfold throughWindow
  rw [htry]
  split
  · next heq => exact absurd (congrArg Prod.fst heq) hn
  · rfl

theorem throughWindow_shut {st : Nat} (hw : windowState s asid a bit = st) (h0 : st ≠ 0) (hst : st ≠ heldStatus) :
    throughWindow s asid a bit op = (st, [], s) := by
  have htry : tryWindow s asid a bit op = (st, [], s) := by
    unfold tryWindow
    rw [hw]
    split
    · exact absurd rfl h0
    · rfl
  unfold throughWindow
  rw [htry]
  split
  · next heq => exact absurd (congrArg Prod.fst heq) hst
  · rfl
end

/-! ### The host is answered -/

section
variable (s : State) (bs : List Byte)

@[simp] theorem State.answer_vif (v : Nat) : (s.answer bs).vif v = s.vif v := rfl
@[simp] theorem State.hostAcquires_vif (v : Nat) : s.hostAcquires.vif v = s.vif v := rfl

theorem sameBytes_updVif (v : Nat) (f : Vif → Vif) : SameBytes s (s.updVif v f) := sameBytes_of_mem_wlog rfl rfl
theorem sameBytes_answer : SameBytes s (s.answer bs) := sameBytes_of_mem_wlog rfl rfl
end

/-! ### LWIN -/

section
variable {s : State}

/-- What an LWIN write of one bead comes to at the launch rod: status, nothing dequeued, the state after. -/
def lwinOutcome (s : State) : Nat × List Byte × State :=
  let f := s.vif s.cur.ev.a
  throughWindow s f.asidb f.lrod 17 (lwinEnq f.asidb f.lrod s.cur.ev.bytes)

/-- What a CWIN read of one record comes to at the completion rod. -/
def cwinOutcome (s : State) : Nat × List Byte × State :=
  let f := s.vif s.cur.ev.a
  throughWindow s f.asidb f.crod 18 (fun t => deviceDeq t 0 f.asidb f.crod 256)

theorem exec_lwin_down (hup : s.functionUp s.cur.ev.a = false) : exec .lwin s = .next s := by
  change execLwin s = _
  simp [execLwin, hup]

theorem exec_lwin_misshaped (hup : s.functionUp s.cur.ev.a = true) (hs : s.cur.ev.b ≠ 0 ∨ s.cur.ev.bytes.length ≠ 64) :
    exec .lwin s = .next (s.updVif s.cur.ev.a (fun f => lwinStatus f 5)) := by
  change execLwin s = _
  simp only [execLwin, hup, Bool.not_true, Bool.false_eq_true, if_false, if_pos hs]

theorem exec_lwin_bead (hup : s.functionUp s.cur.ev.a = true) (hb : s.cur.ev.b = 0) (hl : s.cur.ev.bytes.length = 64)
    {st : Nat} {x : List Byte} {t : State} (h : lwinOutcome s = (st, x, t)) :
    exec .lwin s = .next (if st = heldStatus then t else t.updVif s.cur.ev.a (fun f => lwinStatus f st)) := by
  change execLwin s = _
  unfold lwinOutcome at h
  dsimp only at h
  simp only [execLwin, hup, hb, hl, Bool.not_true, Bool.false_eq_true, if_false, ne_eq, not_true_eq_false, or_self, h]
  by_cases hst : st = heldStatus
  · subst hst
    rfl
  · rw [if_neg hst]
    split
    · next heq => exact absurd (congrArg Prod.fst heq) hst
    · next heq => cases heq; rfl

/-! ### CWIN -/

theorem readCwin_down {v : Nat} (hup : s.functionUp v = false) (off n : Nat) :
    readCwin s v off n = s.answer (List.replicate n 0) := by
  simp [readCwin, hup]

theorem exec_cwin_down (hup : s.functionUp s.cur.ev.a = false) :
    exec .cwin s = .next (s.answer (List.replicate s.cur.ev.num 0)) :=
  congrArg Host.Outcome.next (readCwin_down hup _ _)

theorem exec_cwin_misshaped (hup : s.functionUp s.cur.ev.a = true) (hs : s.cur.ev.b ≠ 0 ∨ s.cur.ev.num ≠ 256) :
    exec .cwin s
      = .next ((s.updVif s.cur.ev.a (fun f => cwinStatus f 5)).answer (List.replicate s.cur.ev.num 0)) := by
  change execCwin s = _
  simp only [execCwin, readCwin, hup, Bool.not_true, Bool.false_eq_true, if_false, if_pos hs]

/-- A record that comes is an acquire at SYS scope (R136); otherwise zeros are read. -/
theorem exec_cwin_record (hup : s.functionUp s.cur.ev.a = true) (hb : s.cur.ev.b = 0) (hn : s.cur.ev.num = 256)
    {st : Nat} {bead : List Byte} {t : State} (h : cwinOutcome s = (st, bead, t)) :
    exec .cwin s = .next (
      if st = heldStatus then t
      else if st = 0 then ((t.updVif s.cur.ev.a (fun f => cwinStatus f 0)).hostAcquires).answer bead
      else (t.updVif s.cur.ev.a (fun f => cwinStatus f st)).answer (List.replicate s.cur.ev.num 0)) := by
  change execCwin s = _
  unfold cwinOutcome at h
  dsimp only at h
  simp only [execCwin, readCwin, hup, hb, hn, Bool.not_true, Bool.false_eq_true, if_false, ne_eq, not_true_eq_false,
    or_self, h]
  by_cases hst : st = heldStatus
  · subst hst
    rfl
  rw [if_neg hst]
  by_cases h0 : st = 0
  · subst h0
    rfl
  rw [if_neg h0]
  split
  · next heq => exact absurd (congrArg Prod.fst heq) hst
  · next heq => exact absurd (congrArg Prod.fst heq) h0
  · next heq => cases heq; rfl

theorem cwin_reports (hup : s.functionUp s.cur.ev.a = true) (hb : s.cur.ev.b = 0) (hn : s.cur.ev.num = 256)
    {st : Nat} {bead : List Byte} {t : State} (h : cwinOutcome s = (st, bead, t)) (hst : st ≠ heldStatus) :
    ∃ u, exec .cwin s = .next u ∧ SameBytes t u ∧ u.vif s.cur.ev.a = cwinStatus (t.vif s.cur.ev.a) st
      ∧ u.module.reply = (if st = 0 then bead else List.replicate s.cur.ev.num 0) ∧ u.module.abort = false := by
  have hrec := exec_cwin_record hup hb hn h
  rw [if_neg hst] at hrec
  by_cases h0 : st = 0
  · subst h0
    refine ⟨_, hrec, sameBytes_of_mem_wlog rfl rfl, ?_, rfl, rfl⟩
    rw [if_pos rfl, State.answer_vif, State.hostAcquires_vif, State.vif_updVif]
  · rw [if_neg h0] at hrec
    refine ⟨_, hrec, sameBytes_of_mem_wlog rfl rfl, ?_, (if_neg h0).symm, rfl⟩
    rw [State.answer_vif, State.vif_updVif]

/-! ### Register writes, function reset, completion timer (R3, R397, R411) -/

/-- A VIF as a register write at an offset leaves it. -/
def registerWritten (off v : Nat) (f : Vif) : Vif :=
  match off with
  | 0x208 => checkCount { f with modcnt := bits v 0 8 }
  | 0x210 => { f with modtmr := bits v 0 16 }
  | 0x220 => { f with iflag := f.iflag &&& ~~~(BitVec.ofNat 3 v) }
  | _ => f

theorem exec_hostRegisterWrite_down (hc : s.cur.ev.ctx = 0) (hup : s.functionUp s.cur.ev.a = false) :
    exec .hostRegisterWrite s = .next s := by
  change execHostRegisterWrite s = _
  simp [execHostRegisterWrite, hc, hup]

theorem exec_hostRegisterWrite_up (hc : s.cur.ev.ctx = 0) (hup : s.functionUp s.cur.ev.a = true) :
    exec .hostRegisterWrite s = .next (s.updVif s.cur.ev.a (registerWritten s.cur.ev.b s.cur.ev.num)) := by
  change execHostRegisterWrite s = _
  simp only [execHostRegisterWrite, hc, hup, ne_eq, not_true_eq_false, if_false, Bool.not_true, Bool.false_eq_true]
  rfl

theorem registerWritten_modcnt (v : Nat) (f : Vif) :
    registerWritten 0x208 v f = if v % 256 ≠ 0 ∧ v % 256 ≤ f.pcnt then
        { f with modcnt := v % 256, pcnt := 0, iflag := f.iflag ||| 1, msi0 := f.msi0 + 1 }
      else { f with modcnt := v % 256 } := by
  simp only [registerWritten, checkCount, completionInterrupt, bits, Nat.pow_zero, Nat.div_one, Nat.reducePow]

theorem registerWritten_modtmr (v : Nat) (f : Vif) :
    registerWritten 0x210 v f = { f with modtmr := v % 65536 } := by
  simp only [registerWritten, bits, Nat.pow_zero, Nat.div_one, Nat.reducePow]

theorem registerWritten_other {off : Nat} (h : off ∉ [0x208, 0x210, 0x220]) (v : Nat) (f : Vif) :
    registerWritten off v f = f := by
  simp only [List.mem_cons, List.not_mem_nil, or_false, not_or] at h
  unfold registerWritten
  split
  case h_4 => rfl
  all_goals omega

theorem exec_hostRegisterWrite_config (hc : s.cur.ev.ctx ≠ 0) :
    exec .hostRegisterWrite s = .next (configWrite s s.cur.ev.ctx s.cur.ev.num) := by
  change execHostRegisterWrite s = _
  simp only [execHostRegisterWrite, if_pos hc]

theorem configWrite_effect (s : State) (what v : Nat) :
    SameBytes s (configWrite s what v) ∧ (configWrite s what v).vifs = s.vifs
      ∧ (configWrite s what v).module.vfs = (if what = 1 ∧ s.module.ready = true then min 255 v else s.module.vfs)
      ∧ (configWrite s what v).module.aer
        = (if what = 2 then s.module.aer &&& ~~~(BitVec.ofNat 32 v) else s.module.aer) := by
  unfold configWrite
  dsimp only
  split
  · split
    · next hr => exact ⟨sameBytes_of_mem_wlog rfl rfl, rfl, by simp [hr], by simp⟩
    · next hr => exact ⟨sameBytes_of_mem_wlog rfl rfl, rfl, by simp [hr], by simp⟩
  · exact ⟨sameBytes_of_mem_wlog rfl rfl, rfl, by simp, by simp⟩
  · next h1 h2 => exact ⟨sameBytes_of_mem_wlog rfl rfl, rfl,
      (if_neg fun h => h1 h.1).symm, (if_neg h2).symm⟩

/-! ### Reads of a function's register block (R3, R397, R434) -/

theorem bytesOf_eq_map (v n : Nat) :
    bytesOf v n = (List.range n).map (fun i => BitVec.ofNat 8 (v / 2 ^ (8 * i))) := by
  induction n generalizing v with
  | zero => rfl
  | succ n ih =>
    rw [bytesOf, ih, List.range_succ_eq_map, List.map_cons, List.map_map]
    simp only [Nat.mul_zero, Nat.pow_zero, Nat.div_one, List.cons.injEq, true_and]
    refine List.map_congr_left fun i _ => ?_
    rw [Function.comp_apply, Nat.div_div_eq_div_mul, Nat.mul_succ, Nat.pow_add, Nat.mul_comm]

/-- An aligned read outside the completion window gives the word of the register block. -/
theorem readBar_word {off : Nat} (v : Nat) (ha : off % 8 = 0) (hw : ¬ (0x100 ≤ off ∧ off < 0x200)) :
    readBar s v off 8 = s.answer (bytesOf (hostWord s v off) 8) := by
  rw [readBar, if_neg hw, bytesOf_eq_map]
  refine congrArg s.answer (List.map_congr_left fun i hi => ?_)
  have hi := List.mem_range.mp hi
  rw [show (off + i) / 8 * 8 = off by omega, show (off + i) % 8 = i by omega]

/-- The completion window of a function that is not up reads zeros, as its registers do (R433). -/
theorem readBar_down {v off : Nat} (hup : s.functionUp v = false) (ha : off % 8 = 0) (hb : v ≠ 0 ∨ off ≠ 0x300) :
    readBar s v off 8 = s.answer (bytesOf 0 8) := by
  by_cases hw : 0x100 ≤ off ∧ off < 0x200
  · rw [readBar, if_pos hw, readCwin_down hup]
    rfl
  · have h0 : hostWord s v off = 0 := by
      simp only [hostWord, if_neg (show ¬ (v = 0 ∧ off = 0x300) by omega), hup, Bool.not_false, if_true]
    rw [readBar_word v ha hw, h0]

theorem hostWord_bootst (s : State) : hostWord s 0 0x300
    = s.module.stage + 2 ^ 4 * s.module.ready.toNat + 2 ^ 5 * s.module.fail.toNat + 2 ^ 8 * s.module.err
      + 2 ^ 16 * s.module.nrev.toNat := rfl

/-- LWIN is write-only, and offsets below CWIN are its (R397). -/
theorem hostWord_lwin {v off : Nat} (ho : off < 0x100) : hostWord s v off = 0 := by
  unfold hostWord
  dsimp only
  rw [if_neg (by omega)]
  split
  · rfl
  · split
    case h_6 => rfl
    all_goals omega

theorem exec_hostMemoryRead_register {v : Nat} (hn : s.cur.ev.num = v + 1) (hb : s.cur.ev.b = 8) :
    exec .hostMemoryRead s = .next (readBar s v s.cur.ev.a 8) := by
  change execHostMemoryRead s = _
  simp [execHostMemoryRead, hn, hb]

end

/-! ### The statement -/

/-- Settles O53: the windows by the status that their rod operation comes to, the registers by the write or the word at their
offset. -/
theorem hostWindows : Obligations.HostWindows := by
  intro s
  refine ⟨functionUp_eq_decide s _,
    fun hup => ⟨exec_lwin_down hup, fun hc => exec_hostRegisterWrite_down hc hup, _, exec_cwin_down hup, rfl, rfl,
      sameBytes_answer s _⟩,
    ?lwinRod, ?cwinRod, ?up, ?config, ?reset, ?timer, ?reads⟩
  case lwinRod =>
    rintro _ rfl
    refine ⟨fun n t hw henq hn => throughWindow_open hw ?_ hn, throughWindow_shut rfl⟩
    simp only [lwinEnq, henq]
  case cwinRod =>
    rintro _ rfl
    exact ⟨fun n bead t hw hdeq hn => throughWindow_open hw hdeq hn, throughWindow_shut rfl⟩
  case config =>
    exact fun hc => ⟨_, exec_hostRegisterWrite_config hc, configWrite_effect s _ _⟩
  case reset =>
    exact ⟨_, rfl, sameBytes_updVif s _ _, fun v hv => State.vif_updVif_ne _ _ hv, State.vif_updVif _ _ _⟩
  case timer =>
    intro hm hp
    refine ⟨_, rfl, sameBytes_updVif s _ _, fun v hv => State.vif_updVif_ne _ _ hv, ?_⟩
    rw [State.vif_updVif, if_pos ⟨hm, hp⟩]
    rfl
  case up =>
    intro hup
    refine ⟨?_, ?_, ?_, ?_, ?_⟩
    · intro st x t hb hl h
      refine ⟨fun hst => ?_, fun hst => ?_⟩
      · rw [exec_lwin_bead hup hb hl h, if_pos hst]
      · refine ⟨_, by rw [exec_lwin_bead hup hb hl h, if_neg hst], sameBytes_updVif t _ _, ?_⟩
        rw [State.vif_updVif]
        obtain ⟨hlst, hacc, href⟩ := lwinStatus_report (t.vif s.cur.ev.a) st
        exact ⟨hlst, hacc, href, lwinStatus_raised _ st⟩
    · intro hs
      refine ⟨_, exec_lwin_misshaped hup hs, sameBytes_updVif s _ _, ?_⟩
      rw [State.vif_updVif]
      obtain ⟨hlst, hacc, href⟩ := lwinStatus_report (s.vif s.cur.ev.a) 5
      exact ⟨hlst, href, hacc, by simpa [Raised] using lwinStatus_raised (s.vif s.cur.ev.a) 5⟩
    · intro st bead t hb hn h
      refine ⟨fun hst => ?_, fun hst => ?_⟩
      · rw [exec_cwin_record hup hb hn h, if_pos hst]
      · obtain ⟨u, hex, hsame, hvif, hreply, habort⟩ := cwin_reports hup hb hn h hst
        refine ⟨u, hex, hsame, ?_, hreply, habort, ?_⟩ <;> rw [hvif]
        · exact cwinStatus_cst _ st
        · exact cwinStatus_raised _ st
    · intro hs
      refine ⟨_, exec_cwin_misshaped hup hs, sameBytes_of_mem_wlog rfl rfl, ?_⟩
      rw [State.answer_vif, State.vif_updVif]
      exact ⟨cwinStatus_cst _ 5, rfl, by simpa [Raised] using cwinStatus_raised (s.vif s.cur.ev.a) 5⟩
    · intro hc
      refine ⟨_, exec_hostRegisterWrite_up hc hup, sameBytes_updVif s _ _, fun v hv => State.vif_updVif_ne _ _ hv, ?_⟩
      dsimp only
      rw [State.vif_updVif]
      refine ⟨?_, ?_, ?_, fun h => registerWritten_other h _ _⟩ <;> intro hb <;> rw [hb]
      · exact registerWritten_modcnt _ _
      · exact registerWritten_modtmr _ _
      · rfl
  case reads =>
    intro v hn hb
    have gives {off x : Nat} (h : readBar s v off 8 = s.answer (bytesOf x 8)) :
        s.cur.ev.a = off → ∃ u, exec .hostMemoryRead s = .next u ∧ u.module.reply = bytesOf x 8
          ∧ u.module.abort = false ∧ u.vifs = s.vifs ∧ SameBytes s u := by
      rintro rfl
      exact ⟨_, (exec_hostMemoryRead_register hn hb).trans (congrArg _ h), rfl, rfl, rfl, sameBytes_answer s _⟩
    have register {off : Nat} (ha : off % 8 = 0) (hw : ¬ (0x100 ≤ off ∧ off < 0x200)) {x : Nat}
        (hx : hostWord s v off = x) : readBar s v off 8 = s.answer (bytesOf x 8) := hx ▸ readBar_word v ha hw
    refine ⟨fun hup => ⟨?_, ?_, ?_, ?_, ?_, fun off ha ho => gives (register ha (by omega) (hostWord_lwin ho))⟩, ?_,
      fun hup off ha ho => gives (readBar_down hup ha ho)⟩
    iterate 5 exact gives (register (by decide) (by decide) (by simp [hostWord, hup]))
    rintro rfl
    exact gives (register (by decide) (by decide) (hostWord_bootst s))

end Sys2Proof.Machine
end

section
/-! Proofs. Two statements about the sequence manager, refuted in states whose map of dies is not in ascending order of
its keys. The statements speak of every state and do not ask for that order, which no update of the model breaks. In a map
out of order an update of a die (`State.updDie`, by `kvPut`) puts the die before others that came first; and
`State.seqEnt`, which answers the first sequence entry found for a record, then answers the entry of another die. -/

namespace Sys2Proof.Machine

/-! ### Translations that a TLB holds as the tables give them (R382, R385) -/

/-- The one translation that a die has cached, which the tables give too, serves every access, and nothing is cached
anew. -/
theorem translate_cached {s : State} {die asid va root : Nat} {e : TlbEnt} (hv : va < 2 ^ 57) (hb : bits va 56 1 = 1)
    (hr : s.rootOf asid = some root) (hw : s.walkFrom die asid (s.asidGen asid) va root walkLevels = .ok e)
    (hmem : e ∈ s.tlb) (hone : ∀ f ∈ s.tlb, f.die = die → f = e) (priv write : Bool) :
    s.translate die asid priv write va = (useEnt s e va priv write, s) := by
  have hstale : (s.tlbHits die asid va).filter (fun f => f != e) = [] := by
    simp only [List.filter_eq_nil_iff, State.tlbHits, List.mem_filter, Bool.and_eq_true, beq_iff_eq, bne_iff_ne, not_not]
    exact fun f hf => hone f hf.1 hf.2.1.1.1.1
  simp only [State.translate, if_neg (Nat.not_le.mpr hv), if_pos hb, hr, hw, hstale]
  simp [hmem]

/-- The same bytes read as the same number. -/
theorem readNat_of_byteAt_eq {s u : State} {a n : Nat} (h : ∀ i, i < n → u.byteAt (a + i) = s.byteAt (a + i)) :
    u.readNat a n = s.readNat a n := by
  have hbytes : u.readBytes a n = s.readBytes a n := by
    induction n generalizing a with
    | zero => rfl
    | succ n ih =>
      rw [State.readBytes, State.readBytes, show u.byteAt a = s.byteAt a from h 0 (by omega),
        ih (fun i hi => by simpa [Nat.add_assoc, Nat.add_comm 1 i] using h (i + 1) (by omega))]
  rw [State.readNat, State.readNat, hbytes]

/-! ### A page that two dies have cached -/

/-- 512 MiB from virtual address 2^56 of address space 0, as a die's TLB holds them: frame 0, with W, U and AE set. -/
def firstPage (die : Nat) : TlbEnt := ⟨die, 0, 0, 2 ^ 56, 2 ^ 29, 0, true, true, true, false, false, false⟩

/-- The words of memory that map it: the descriptor of the address space, its root, and one leaf. -/
def pageWords : List (Nat × Nat) := [(0x1000000, 1), (0x1000008, 0x1010000), (0x1010000, 0x1020001), (0x1020000, 0x2F)]

/-- The page is mapped, dies 0 and 1 have its translation, and no line holds an error. -/
structure Paged (u : State) : Prop where
  tlb : u.tlb = [firstPage 0, firstPage 1]
  table : u.asidTable = some 0x1000000
  poison : u.poison = []
  words : ∀ w ∈ pageWords, u.readNat w.1 8 = w.2

section
variable {s : State} {k : Nat}

theorem Paged.same (h : Paged s) {u : State} {but : Nat → Prop} (hu : SameWalks s u but)
    (hbut : ∀ a, 0x1000000 ≤ a → ¬ but a) : Paged u := by
  obtain ⟨hbytes, htlb, -, htable, -, -, hpoison⟩ := hu
  refine ⟨htlb.trans h.tlb, htable.trans h.table, List.eq_nil_iff_forall_not_mem.mpr fun p hp => ?_, fun w hw => ?_⟩
  · simpa [h.poison] using hpoison p hp
  · have hlow : 0x1000000 ≤ w.1 := by revert w; decide
    rw [readNat_of_byteAt_eq fun i _ => hbytes _ (hbut _ (by omega)), h.words w hw]

theorem Paged.root (h : Paged s) : s.rootOf 0 = some 0x1010000 ∧ s.asidGen 0 = 0 := by
  have hd : s.readNat 0x1000000 8 = 1 := h.words (_, _) (by decide)
  have hr : s.readNat 0x1000008 8 = 0x1010000 := h.words (_, _) (by decide)
  constructor <;> simp [State.rootOf, State.asidGen, State.asidDesc, State.field, h.table, hd, hr, bits]

theorem Paged.walk (h : Paged s) (hk : k < 2 ^ 29) (die : Nat) :
    s.walkFrom die 0 0 (2 ^ 56 + k) 0x1010000 walkLevels = .ok (firstPage die) := by
  have hroot : s.readNat 0x1010000 8 = 0x1020001 := h.words (_, _) (by decide)
  have hleaf : s.readNat 0x1020000 8 = 0x2F := h.words (_, _) (by decide)
  have hi : bits (2 ^ 56 + k) 42 14 = 0 := by unfold bits; omega
  have hj : bits (2 ^ 56 + k) 29 13 = 0 := by unfold bits; omega
  have hpage : (2 ^ 56 + k) / 2 ^ 29 * 2 ^ 29 = 2 ^ 56 := by omega
  have enext : walkEntry die 0 0 (2 ^ 56 + k) 0x1020001 (42, 14, 0, 0x10000) = .ok (.inl 0x1020000) := rfl
  have eleaf : walkEntry die 0 0 (2 ^ 56 + k) 0x2F (29, 13, 2 ^ 29, 0x800) = .ok (.inr (firstPage die)) := by
    simp only [walkEntry, hpage]
    rfl
  simp only [walkLevels, State.walkFrom, hi, hj, Nat.mul_zero, Nat.add_zero, hroot, enext, hleaf, eleaf]

theorem Paged.sees (h : Paged s) {w : Who} (hd : dieOfCore w.core ∈ [0, 1]) (ha : w.asid = 0) (hk : k < 2 ^ 29)
    (write : Bool) : Sees s w write (2 ^ 56 + k) ⟨k, false, false, true, 2 ^ 56, 2 ^ 29⟩ := by
  obtain ⟨hroot, hgen⟩ := h.root
  have hvalid : paValid k = true := by simp [paValid]; omega
  have huse : useEnt s (firstPage (dieOfCore w.core)) (2 ^ 56 + k) w.priv write = .ok ⟨k, false, false, true, 2 ^ 56, 2 ^ 29⟩ := by
    simp [useEnt, State.entLoc, firstPage, hvalid]
  refine ⟨?_, fun _ => by simp [State.walkError, h.poison]⟩
  rw [ha, ← huse]
  refine translate_cached (by omega) (by unfold bits; omega) hroot (by rw [hgen]; exact h.walk hk _) ?_ ?_ _ _
  · rw [h.tlb]
    rcases List.mem_pair.mp hd with e | e <;> simp [e]
  · rw [h.tlb]
    intro f hf hdie
    rw [← hdie]
    rcases List.mem_pair.mp hf with rfl | rfl <;> rfl

/-- Bytes of the page lie firmly for dies 0 and 1, whatever bytes below its tables hold. -/
theorem Paged.firmPlace (h : Paged s) (hcores : s.cores = []) {w : Who} (hd : dieOfCore w.core ∈ [0, 1]) (ha : w.asid = 0)
    {n : Nat} (hk : k + n ≤ 2 ^ 29) {but : Nat → Prop} (hbut : ∀ a, 0x1000000 ≤ a → ¬ but a) :
    FirmPlace s w (2 ^ 56 + k) n k but := by
  have hnone : NoneFirst s w.core := by simp [NoneFirst, State.core, State.pendings, hcores, kvGet, CoreSt.reset, dueWrites]
  refine ⟨hnone, by omega, by omega, fun i hi => ⟨by simp [State.poisoned, h.poison],
    ⟨k + i, false, false, true, 2 ^ 56, 2 ^ 29⟩, rfl, rfl, rfl, fun u write hu => ?_⟩⟩
  rw [Nat.add_assoc]
  exact (h.same hu hbut).sees hd ha (by omega) write

end

/-! ### States whose dies are out of order -/

/-- Words of 8 bytes are written, each at its location. -/
def writeWords (s : State) (ws : List (Nat × Nat)) : State := ws.foldl (fun t w => t.writeNat w.1 8 w.2) s

/-- A sequence entry of the record at 0x3000. -/
def recordEntry (asid : BitVec 13) (commit : Option Commit) : SeqEnt :=
  { (default : SeqEnt) with seq := 0x3000, va := 0x100000000003000, asid := asid, commit := commit }

/-- A lane whose s1 names the record, whose s3 names node 0 alone, and whose s4 holds 9. -/
def acceptLane : LaneSt :=
  { LaneSt.reset with s := (((Vector.replicate 32 0).setIfInBounds 1 0x100000000003000).setIfInBounds 3 0x100).setIfInBounds 4 9 }

/-- Die 1 comes before die 0, and each has an entry of the record: that of die 1 is found until die 0 is updated, and
that of die 0 afterwards. -/
def unordered (first second : SeqEnt) (gathered : List Gathered) (ws : List (Nat × Nat)) : State :=
  writeWords { State.reset with
    ctxs := [(0, { Ctx.reset with res := .resident, laneL := acceptLane, ctrl := { Ctx.reset.ctrl with tvec := 0x8000000000000020 } })]
    dies := [(1, { Die.reset with seqs := [first] }), (0, { Die.reset with seqs := [second], gathered := gathered })]
    tlb := [firstPage 0, firstPage 1]
    asidTable := some 0x1000000 } (pageWords ++ ws)

/-! ### A posting finds the commit of another die -/

/-- One slot, of the record's current iteration. -/
def oneSlot : Gathered := ⟨0, 0, 0, [⟨[], 0x3000, 0, false⟩], none⟩

/-- The entry found first has no commit; the one found once die 0 is updated has a commit whose slot is lost. -/
def postingState : State :=
  unordered (recordEntry 0 none) (recordEntry 0 (some { (default : Commit) with stage := 5 })) [oneSlot] []

/-- Settling the posting of the slot parks the record: STATE becomes PARKED and REASON NOCROD. -/
theorem settlePost_parks :
    (settlePost postingState 0 oneSlot 1 0 0).byteAt 0x3002 = 0x45 ∧ postingState.byteAt 0x3002 = 0 := by decide +kernel

/-- Refutes O50, in what it says of the settling of a posting: with die 1 before die 0, the entry found for the slot has no
commit, but taking the slot from die 0 brings the entry of die 0 to the front, whose commit parks the record; so not every
byte stays as it was. -/
theorem not_sequenceEvents : ¬ Obligations.SequenceEvents := by
  unfold Obligations.SequenceEvents
  intro h
  obtain ⟨-, -, hsettle, -, -⟩ := h postingState
  obtain ⟨hbytes, -⟩ := hsettle oneSlot 1 0 postingState (by decide +kernel)
  have hbyte := hbytes 0x3002
  obtain ⟨hafter, hbefore⟩ := settlePost_parks
  rw [hbefore] at hbyte
  exact absurd (hafter.symm.trans hbyte) (by decide)

/-! ### SQACC.p finds another manager once it has read the record -/

/-- A record in PREFILL with DEPTH 1 and a tree of two nodes, neither marked. Its page counts accesses (AE), so that the
read of the record updates die 0, whose entry names an address space that maps nothing. -/
def acceptState : State :=
  unordered (recordEntry 0 none) (recordEntry 1 none) []
    [(0x3000, 0x15E0C), (0x3020, 0x100000000100000), (0x3050, 2 ^ 32), (0x100000, 2)]

/-- The record as its bytes give it. -/
def acceptRecord : SeqRec := seqOf (2 ^ 56 + 0x3000) 0x3000 (acceptState.readBytes 0x3000 128)

/-- SQACC.p with its result in s4. -/
def acceptOps : RegOps := { (default : RegOps) with d := 4, a := 1, c := 3, sub := 1 }

/-- The operands of SQACC.p. -/
theorem acceptState_operands :
    (acceptState.srcS 1 acceptOps.a).toNat = 2 ^ 56 + 0x3000 ∧ (acceptState.srcS 2 acceptOps.b).toNat = 0
    ∧ (acceptState.srcS 3 acceptOps.c).toNat = 0x100 := by decide +kernel

/-- What it reads of the record, and who the record's manager is before that. -/
theorem acceptRecord_fields :
    seqValid (acceptState.readBytes 0x3000 128) acceptRecord = true ∧ acceptRecord.iter = 0 ∧ acceptRecord.state = 1
    ∧ acceptRecord.treeAt = 2 ^ 56 + 0x100000 ∧ seqWho acceptState acceptRecord = deviceWho 1 0 := by decide +kernel

theorem acceptState_paged : Paged acceptState := ⟨rfl, rfl, rfl, by decide +kernel⟩

/-- The regions of memory in question: the record and its tree. -/
def acceptRegions : List Region :=
  [([acceptState.who, deviceWho 1 0], 2 ^ 56 + 0x3000, 128, 0x3000), ([deviceWho 1 0], 2 ^ 56 + 0x100000, 0x40800, 0x100000)]

/-- They lie firmly for the issuing lane and for the manager of die 1. -/
theorem acceptState_regions : FirmRegions acceptState [] acceptRegions := by
  have hlow : ∀ a, 0x1000000 ≤ a → ¬ inRegions acceptRegions a := by simp [inRegions, acceptRegions]; omega
  have hfirm {x : Who} (hd : dieOfCore x.core ∈ [0, 1]) (ha : x.asid = 0) {k n : Nat} (hk : k + n ≤ 2 ^ 29) :
      FirmPlace acceptState x (2 ^ 56 + k) n k (inRegions acceptRegions) :=
    acceptState_paged.firmPlace rfl hd ha hk hlow
  have hlane : dieOfCore acceptState.who.core ∈ [0, 1] ∧ acceptState.who.asid = 0 := by decide +kernel
  have hmanager : dieOfCore (deviceWho 1 0).core ∈ [0, 1] := by decide
  refine ⟨?_, by simp [acceptRegions, Apart], by simp⟩
  simp only [acceptRegions, List.nil_append, List.forall_mem_cons, List.not_mem_nil, false_imp_iff, implies_true, and_true]
  exact ⟨⟨hfirm hlane.1 hlane.2 (by norm_num), hfirm hmanager rfl (by norm_num)⟩, hfirm hmanager rfl (by norm_num)⟩

/-- The tree as the manager of die 1 reads it, and the p list of its first node. -/
theorem acceptState_tree :
    ((readTree (deviceWho 1 0) (2 ^ 56 + 0x100000)).run.run acceptState).1 = .ok (2, [default, default])
    ∧ ((plistsOk (deviceWho 1 0) acceptRecord [default, default] 0 1).run.run acceptState).1 = .ok true := by decide +kernel

/-- An operation completes with the result that it is computed to have. -/
theorem runs_of_result {α : Type} {s : State} {m : Op α} {a : α} (h : (m.run.run s).1 = .ok a) : Runs s m a (m.run.run s).2 :=
  Prod.ext h rfl

/-- A scalar register of the issuing lane after a step. -/
def registerAfter (r : Res) (d : Nat) : Option Word :=
  match r with
  | .next t => some (t.myLane.s.getD d 0)
  | _ => none

/-- SQACC.p writes no result: the tree does not translate for the manager that it finds. -/
theorem acceptState_traps : registerAfter (exec (.sqaccP default acceptOps) acceptState) 4 = some 9 := by decide +kernel

/-- Refutes O39, in what it says of SQACC.p on regions that are firmly mapped: with die 1 before die 0, the access to the
record is counted for die 0 (R111), which brings the entry of die 0 to the front; its address space maps no tree, and SQACC.p
traps instead of marking the node. -/
theorem not_sequenceWork : ¬ Obligations.SequenceWork := by
  unfold Obligations.SequenceWork
  intro h
  obtain ⟨hrecord, hoperand, hnodes⟩ := acceptState_operands
  obtain ⟨hvalid, hiter, hstate, htree, hwho⟩ := acceptRecord_fields
  obtain ⟨hread, hlists⟩ := acceptState_tree
  obtain ⟨-, -, -, -, -, hmem⟩ := h default acceptOps acceptState acceptState acceptRecord rfl
  simp only [hrecord, hoperand, hnodes] at hmem
  obtain ⟨-, haccept⟩ := hmem acceptRecord 0x3000 0x100000 ⟨rfl, hvalid⟩ hiter
  simp only [hwho, htree] at haccept
  obtain ⟨hleft, -⟩ := haccept _ _ 2 [default, default] (.inl hstate) acceptState_regions (runs_of_result hread)
    (by decide) (by decide) (by decide) (runs_of_result hlists)
  obtain ⟨t, hexec, hwrote, -⟩ := hleft (by decide)
  obtain ⟨-, -, hregs, -⟩ := hwrote
  have hnine : some (t.myLane.s.getD 4 0) = some 9 := by rw [← acceptState_traps, hexec]; rfl
  rw [hregs] at hnine
  exact absurd hnine (by decide +kernel)

end Sys2Proof.Machine
end

section
/-! Proofs. The matrix array: MMA and LUTMV on operands that nothing hinders (R292 to R296, R300). -/

namespace Sys2Proof.Machine

/-! ### Operations one after another -/

theorem Runs.bind {α β : Type} {s t u : State} {m : Op α} {a : α} {f : α → Op β} {b : β} (h : Runs s m a t)
    (g : Runs t (f a) b u) : Runs s (m >>= f) b u :=
  (run_bind_ok h f).trans g

/-- One of two operations, and then one that is the same for both. -/
theorem Runs.ite_bind {α β : Type} {c : Prop} [Decidable c] {s t u : State} {m n : Op α} {a : α} {f : α → Op β} {b : β}
    (h : Runs s (if c then m else n) a t) (g : Runs t (f a) b u) : Runs s (if c then m >>= f else n >>= f) b u := by
  by_cases hc : c
  · rw [if_pos hc] at h ⊢; exact h.bind g
  · rw [if_neg hc] at h ⊢; exact h.bind g

/-- An operation that is not performed. -/
theorem Runs.ite_skip {α : Type} {c : Prop} [Decidable c] {s t : State} {m n : Op α} {a : α} (hc : ¬ c) (h : Runs s n a t) :
    Runs s (if c then m else n) a t := by
  rwa [if_neg hc]

/-- What is done for each element of a list, where doing it leaves the state. -/
theorem runs_mapM {α β : Type} {s : State} {f : α → Op β} {g : α → β} {xs : List α} (h : ∀ x ∈ xs, Runs s (f x) (g x) s) :
    Runs s (xs.mapM f) (xs.map g) s := by
  induction xs with
  | nil => rfl
  | cons x xs ih =>
    rw [List.forall_mem_cons] at h
    rw [List.mapM_cons]
    exact h.1.bind ((ih h.2).bind rfl)

/-! ### Checks (R292) -/

/-- No check fails, and no reason is found. -/
theorem leastReason_eq_none {cs : Checks} (h : ∀ c ∈ cs, c.2 = false) : leastReason cs = none := by
  unfold leastReason
  induction cs with
  | nil => rfl
  | cons c cs ih =>
    rw [List.forall_mem_cons] at h
    simpa [h.1] using ih h.2

theorem runs_rangeCheck {s : State} {cs : Checks} (h : ∀ c ∈ cs, c.2 = false) (opc : Nat) :
    Runs s (rangeCheck opc cs) () s := by
  rw [rangeCheck, leastReason_eq_none h]
  rfl

/-- A shape in range passes conditions 1, 2 and 7. -/
theorem shapeChecks_pass {sh : Shape} {f64 : Bool} (hk : 1 ≤ sh.k ∧ sh.k ≤ 4096) (hm : sh.m ≤ if f64 then 32 else 64)
    (hn : sh.n ≤ 64) (usesK : Bool) : ∀ c ∈ shapeChecks sh f64 usesK, c.2 = false := by
  cases f64 <;> simp [shapeChecks] at hm ⊢ <;> omega

/-- A K out of range is found first. -/
theorem shapeChecks_badK {sh : Shape} (hk : sh.k = 0 ∨ 4096 < sh.k) (f64 : Bool) :
    leastReason ((shapeChecks sh f64 true).take 2) = some 1 := by
  have hbad : (sh.k == 0 || decide (4096 < sh.k)) = true := by simpa using hk
  cases h : f64 && decide (32 < sh.m) <;> simp only [leastReason, shapeChecks, hbad, h] <;> rfl

/-! ### Operand bytes of the own share -/

/-- Bytes of an operand as the matrix word that now retires has them. -/
def State.operands (s : State) (at_ : Nat → Nat) (xs : List Nat) : List Byte := xs.map (fun x => s.operand (at_ x))

/-- A range meets the scoreboard where one of its bytes does. -/
theorem State.boardHit_eq_false {s : State} {k : Nat} {locs : List Nat} :
    s.boardHit k locs = false ↔ ∀ x ∈ locs, s.boardHit k [x] = false := by
  simp only [State.boardHit, List.any_eq_false, List.any_eq_true, Bool.and_eq_true, List.mem_singleton, exists_eq_left,
    not_and, not_exists]
  exact ⟨fun h x hx c hc hk r hr => h c hc hk r hr x hx, fun h c hc hk r hr x hx => h x hx c hc hk r hr⟩

/-- A range meets an error where one of its bytes does. -/
theorem State.poisoned_eq_none {s : State} {locs : List Nat} :
    s.poisoned locs = none ↔ ∀ x ∈ locs, s.poisoned [x] = none := by
  simp only [State.poisoned, List.find?_eq_none, List.any_eq_true, List.mem_singleton, exists_eq_left, not_exists, not_and]
  exact ⟨fun h x hx p hp => h p hp x hx, fun h p hp x hx => h x hx p hp⟩

/-- Reading fewer bytes meets nothing that reading all of them does not meet. -/
theorem OwnReach.subset {s : State} {xs ys : List Nat} {at_ : Nat → Nat} (h : OwnReach s ys at_) (hs : xs ⊆ ys) :
    OwnReach s xs at_ := by
  obtain ⟨hloc, hboard, hpoison⟩ := h
  have hmap := List.map_subset at_ hs
  exact ⟨fun a ha => hloc a (hs ha), State.boardHit_eq_false.mpr fun x hx => State.boardHit_eq_false.mp hboard x (hmap hx),
    State.poisoned_eq_none.mpr fun x hx => State.poisoned_eq_none.mp hpoison x (hmap hx)⟩

section
variable {s : State} {at_ : Nat → Nat} {xs ys : List Nat}

theorem OwnReach.left (h : OwnReach s (xs ++ ys) at_) : OwnReach s xs at_ := h.subset (List.subset_append_left xs ys)

theorem OwnReach.right (h : OwnReach s (xs ++ ys) at_) : OwnReach s ys at_ := h.subset (List.subset_append_right xs ys)

theorem OwnReach.runs_ownLocs (h : OwnReach s xs at_) : Runs s (ownLocs xs) (xs.map at_) s := by
  refine Runs.bind (run_get s) (runs_mapM fun a ha => ?_)
  rw [h.1 a ha]
  rfl

theorem runs_boardWait {locs : List Nat} (h : s.boardHit s.cur.ctx locs = false) : Runs s (boardWait locs) () s := by
  refine Runs.bind (run_get s) ?_
  rw [h]
  rfl

theorem OwnReach.boardHit (h : OwnReach s xs at_) : s.boardHit s.cur.ctx (xs.map at_) = false := h.2.1

theorem OwnReach.boardHit_append (hx : OwnReach s xs at_) (hy : OwnReach s ys at_) :
    s.boardHit s.cur.ctx (xs.map at_ ++ ys.map at_) = false := by
  rw [State.boardHit_eq_false, List.forall_mem_append]
  exact ⟨State.boardHit_eq_false.mp hx.boardHit, State.boardHit_eq_false.mp hy.boardHit⟩

/-- Each byte is the one that was read before, or the one that stands there (R293). -/
theorem OwnReach.runs_operandRead (h : OwnReach s xs at_) (hp : s.scratchPending = []) (unit : Nat) :
    Runs s (operandRead unit (xs.map at_)) (s.operands at_ xs) s := by
  obtain ⟨-, -, hpoison⟩ := h
  refine Runs.bind (run_spadReadBy_ok hpoison hp unit) (Runs.bind (run_get s) ?_)
  simp only [List.map_map, List.zip_map', State.operands]
  rfl

/-- An ordinary operand is its rows, decoded (R289, R295). -/
theorem runs_operandRows {t reg sw k rows : Nat} {bs : Bool}
    (h : OwnReach s (operandAddrs reg sw (typeWidth t / 8) k rows ++ operandScales reg k rows bs) at_)
    (hp : s.scratchPending = []) (tab : Option (Option (List (Int × Int)))) :
    Runs s (operandRows t reg sw k rows bs tab)
      (decodeRows t k rows tab bs (s.operands at_ (operandAddrs reg sw (typeWidth t / 8) k rows))
        (s.operands at_ (operandScales reg k rows bs))) s :=
  h.left.runs_ownLocs.bind <| (h.left.runs_operandRead hp _).bind <| h.right.runs_ownLocs.bind <|
    (h.right.runs_operandRead hp _).bind rfl

/-! ### Plane tensors (R41, R294) -/

theorem runs_readPlanes {b : Nat} (h : OwnReach s ((List.range 96).map (b + ·)) at_) (hp : s.scratchPending = []) :
    Runs s (readPlanes b) (planesOf (s.operands at_ ((List.range 96).map (b + ·)))) s :=
  h.runs_ownLocs.bind <| (runs_boardWait h.boardHit).bind <| (h.runs_operandRead hp 1).bind rfl

/-- The weights of some rows of a plane tensor. -/
def planeWeights (s : State) (at_ : Nat → Nat) (p : Planes) (n k rows : Nat) : List (List Num) :=
  (List.range rows).map (fun j =>
    decodePlanes n k (s.operands at_ (planeAddrs p n k j)) (s.operands at_ (planeScaleAddrs p k j)))

theorem runs_planeRows {p : Planes} {n k rows : Nat} (h : OwnReach s (planeTouched p n k rows) at_)
    (hp : s.scratchPending = []) : Runs s (planeRows p n k rows) (planeWeights s at_ p n k rows) s := by
  refine runs_mapM fun j hj => ?_
  have hrow : OwnReach s (planeAddrs p n k j ++ planeScaleAddrs p k j) at_ :=
    h.subset fun a ha => List.mem_flatMap.mpr ⟨j, hj, ha⟩
  exact hrow.left.runs_ownLocs.bind <| (hrow.left.runs_operandRead hp 1).bind <| hrow.right.runs_ownLocs.bind <|
    (hrow.right.runs_operandRead hp 1).bind rfl

/-! ### The queue of accumulator writes (R216, R287) -/

theorem runs_accWait {acc : Nat} (h : AccReady s acc) : Runs s (accWait [acc]) () s := by
  refine Runs.bind (run_get s) ?_
  simp only [List.any_cons, List.any_nil, Bool.or_false, h.1]
  rfl

theorem runs_accPend {acc : Nat} (h : AccReady s acc) (v : AccWord) : Runs s (accPend acc v) () (pendAcc s acc v) := by
  refine Runs.bind (run_get s) ?_
  rw [if_neg (Nat.not_le.mpr h.2)]
  rfl

end

/-! ### MMA (R292, R295, R296) -/

section
variable {h : Hdr} {o : MatOps} {s : State} {at_ : Nat → Nat}

/-- K, M and N of an MMA. -/
def mmaShape (s : State) (o : MatOps) : Shape := shapeOf (s.srcS 3 o.k).toNat (o.ta.toNat == 11)

/-- Addresses of the elements of A. -/
def mmaDataA (s : State) (o : MatOps) : List Nat :=
  operandAddrs (s.srcS 1 o.a).toNat (bits o.fl.toNat 3 2) (typeWidth o.ta.toNat / 8) (mmaShape s o).k (mmaShape s o).m

/-- Addresses of the scales of A. -/
def mmaScalesA (s : State) (o : MatOps) : List Nat :=
  operandScales (s.srcS 1 o.a).toNat (mmaShape s o).k (mmaShape s o).m (o.fl.getLsbD 1)

/-- Addresses of the elements of a narrow B. -/
def mmaDataB (s : State) (o : MatOps) : List Nat :=
  operandAddrs (s.srcS 2 o.b).toNat (bits o.sub.toNat 6 2) (typeWidth o.tb.toNat / 8) (mmaShape s o).k (mmaShape s o).n

/-- Addresses of the scales of a narrow B. -/
def mmaScalesB (s : State) (o : MatOps) : List Nat :=
  operandScales (s.srcS 2 o.b).toNat (mmaShape s o).k (mmaShape s o).n (o.fl.getLsbD 2)

/-- The rows of A. -/
def mmaRowsA (s : State) (o : MatOps) (at_ : Nat → Nat) : List (List Num) :=
  decodeRows o.ta.toNat (mmaShape s o).k (mmaShape s o).m (mmaTable s o 2) (o.fl.getLsbD 1)
    (s.operands at_ (mmaDataA s o)) (s.operands at_ (mmaScalesA s o))

/-- K, M and N are in range. -/
def MmaFits (s : State) (o : MatOps) : Prop :=
  1 ≤ (mmaShape s o).k ∧ (mmaShape s o).k ≤ 4096 ∧ (mmaShape s o).m ≤ (if o.ta.toNat == 11 then 32 else 64)
    ∧ (mmaShape s o).n ≤ 64

/-- What an MMA finds as its operand B, narrow or planes: the descriptor `p` where there is one, the bytes that B touches,
and its rows. -/
structure MmaB (s : State) (o : MatOps) (p : Planes) (touched : List Nat) (rows : List (List Num)) : Prop where
  descriptor : Runs s (if 16 ≤ o.tb.toNat then readPlanes (s.srcS 2 o.b).toNat else pure default) p s
  meetsRule : (decide (16 ≤ o.tb.toNat)
    && !((s.srcS 2 o.b).toNat % 32 == 0 && planesOk p (o.tb.toNat - 15) (mmaShape s o).n (mmaShape s o).k)) = false
  touches : (if 16 ≤ o.tb.toNat then planeTouched p (o.tb.toNat - 15) (mmaShape s o).k (mmaShape s o).n
    else mmaDataB s o ++ mmaScalesB s o) = touched
  reads : Runs s (if 16 ≤ o.tb.toNat then planeRows p (o.tb.toNat - 15) (mmaShape s o).k (mmaShape s o).n
    else operandRows o.tb.toNat (s.srcS 2 o.b).toNat (bits o.sub.toNat 6 2) (mmaShape s o).k (mmaShape s o).n
      (o.fl.getLsbD 2) (mmaTable s o 3)) rows s

theorem mmaB_narrow (htb : o.tb.toNat < 16) (hb : OwnReach s (mmaDataB s o ++ mmaScalesB s o) at_)
    (hp : s.scratchPending = []) :
    MmaB s o default (mmaDataB s o ++ mmaScalesB s o)
      (decodeRows o.tb.toNat (mmaShape s o).k (mmaShape s o).n (mmaTable s o 3) (o.fl.getLsbD 2)
        (s.operands at_ (mmaDataB s o)) (s.operands at_ (mmaScalesB s o))) := by
  have hn : ¬ 16 ≤ o.tb.toNat := Nat.not_le.mpr htb
  constructor
  case descriptor => rw [if_neg hn]; rfl
  case meetsRule => simp [hn]
  case touches => rw [if_neg hn]
  case reads => rw [if_neg hn]; exact runs_operandRows hb hp _

theorem mmaB_planes {p : Planes} (htb : 16 ≤ o.tb.toNat) (hd : Runs s (readPlanes (s.srcS 2 o.b).toNat) p s)
    (h32 : (s.srcS 2 o.b).toNat % 32 = 0)
    (hok : planesOk p (o.tb.toNat - 15) (mmaShape s o).n (mmaShape s o).k = true)
    (hb : OwnReach s (planeTouched p (o.tb.toNat - 15) (mmaShape s o).k (mmaShape s o).n) at_)
    (hp : s.scratchPending = []) :
    MmaB s o p (planeTouched p (o.tb.toNat - 15) (mmaShape s o).k (mmaShape s o).n)
      (planeWeights s at_ p (o.tb.toNat - 15) (mmaShape s o).k (mmaShape s o).n) := by
  constructor
  case descriptor => rw [if_pos htb]; exact hd
  case meetsRule => simp [h32, hok]
  case touches => rw [if_pos htb]
  case reads => rw [if_pos htb]; exact runs_planeRows hb hp

theorem exec_mma (h : Hdr) (o : MatOps) (s : State) : exec (.mma h o) s = execMma h o s := rfl

theorem groupsOf_not_shared {xs ys : List Nat} (h : ∀ g ∈ groupsOf s xs, g ∉ groupsOf s ys) :
    ¬ (groupsOf s xs).any (fun g => (groupsOf s ys).contains g) = true := by
  simpa using h

/-- MMA queues the accumulator to which the product of its rows has been added (R295, R296). -/
theorem exec_mma_adds {p : Planes} {touched : List Nat} {rows : List (List Num)} (ha : s.active h = true)
    (hp : s.scratchPending = []) (hfits : MmaFits s o) (hA : OwnReach s (mmaDataA s o ++ mmaScalesA s o) at_)
    (hB : MmaB s o p touched rows) (hb : OwnReach s touched at_)
    (hapart : ∀ g ∈ groupsOf s (mmaDataA s o ++ mmaScalesA s o), g ∉ groupsOf s touched) (hacc : AccReady s o.acc.toNat) :
    exec (.mma h o) s = .next (pendAcc s o.acc.toNat
      (mmaAcc (s.acc o.acc.toNat) (o.ta.toNat == 11) (o.sub.toNat % 4) 0 (mmaRowsA s o at_) rows)) := by
  obtain ⟨hdesc, hrule, htouch, hrows⟩ := hB
  obtain ⟨hk, hk', hm, hn⟩ := hfits
  have hshape := shapeChecks_pass ⟨hk, hk'⟩ hm hn true
  subst htouch
  have hfirst : ∀ c ∈ (shapeChecks (mmaShape s o) (o.ta.toNat == 11) true).take 2, c.2 = false :=
    fun c hc => hshape c (List.mem_of_mem_take hc)
  rw [exec_mma, execMma, gateOp_active ha]
  exact runOp_ok <| (runs_rangeCheck hfirst _).bind <| .ite_bind hdesc <|
    (runs_rangeCheck (List.forall_mem_cons.mpr ⟨hrule, hshape⟩) _).bind <| hA.runs_ownLocs.bind <| hb.runs_ownLocs.bind <|
    .ite_skip (groupsOf_not_shared hapart) <| (runs_boardWait (hA.boardHit_append hb)).bind <| (runs_accWait hacc).bind <|
    (runs_operandRows hA hp _).bind <| .ite_bind hrows <| runs_accPend hacc _

/-- A K out of range is found before anything is read. -/
theorem exec_mma_badK (ha : s.active h = true) (hk : (mmaShape s o).k = 0 ∨ 4096 < (mmaShape s o).k) :
    exec (.mma h o) s = .next (raiseFatal s .matrixRange (0xA1 + 256) 0) := by
  rw [exec_mma, execMma, gateOp_active ha]
  have hfault : (rangeCheck 0xA1 ((shapeChecks (mmaShape s o) (o.ta.toNat == 11) true).take 2)).run.run s
      = (.error (.fatal .matrixRange (0xA1 + 256) 0), s) := by
    rw [rangeCheck, shapeChecks_badK hk]
    rfl
  exact runOp_halt (run_bind_error hfault _)

/-! ### LUTMV (R300) -/

theorem exec_lutmv (h : Hdr) (o : MatOps) (s : State) : exec (.lutmv h o) s = execLutmv h o s := rfl

/-- K and N of a LUTMV. -/
def lutmvShape (s : State) (o : MatOps) : Shape := shapeOf (s.srcS 3 o.k).toNat false

/-- The row of the accumulator to which LUTMV adds. -/
def lutmvRow (s : State) (o : MatOps) : Nat := bits (s.srcS 3 o.k).toNat 16 7

/-- K, N and the row are in range, and K does not exceed that of the last LUTLD. -/
def LutmvFits (s : State) (o : MatOps) : Prop :=
  1 ≤ (lutmvShape s o).k ∧ (lutmvShape s o).k ≤ 4096 ∧ (lutmvShape s o).k % 4 = 0 ∧ (lutmvShape s o).k ≤ s.me.lut.k
    ∧ (lutmvShape s o).n ≤ 64 ∧ lutmvRow s o < 64

/-- LUTMV queues the accumulator to one row of which the stored activations times the weights have been added. -/
theorem exec_lutmv_adds {p : Planes} (ha : s.active h = true) (hp : s.scratchPending = []) (hfits : LutmvFits s o)
    (hd : Runs s (readPlanes (s.srcS 2 o.b).toNat) p s) (h32 : (s.srcS 2 o.b).toNat % 32 = 0)
    (hok : planesOk p (o.tb.toNat - 15) (lutmvShape s o).n (lutmvShape s o).k = true)
    (hb : OwnReach s (planeTouched p (o.tb.toNat - 15) (lutmvShape s o).k (lutmvShape s o).n) at_)
    (hacc : AccReady s o.acc.toNat) :
    exec (.lutmv h o) s = .next (pendAcc s o.acc.toNat (mmaAcc (s.acc o.acc.toNat) false (o.sub.toNat % 4) (lutmvRow s o)
      [s.me.lut.row.take (lutmvShape s o).k]
      (planeWeights s at_ p (o.tb.toNat - 15) (lutmvShape s o).k (lutmvShape s o).n))) := by
  have hbefore : ∀ c ∈ [(1, (lutmvShape s o).k == 0 || decide (4096 < (lutmvShape s o).k))], c.2 = false := by
    obtain ⟨hk, hk', -⟩ := hfits
    simp; omega
  have hafter : ∀ c ∈ [(3, !((s.srcS 2 o.b).toNat % 32 == 0
        && planesOk p (o.tb.toNat - 15) (lutmvShape s o).n (lutmvShape s o).k)), (5, (lutmvShape s o).k % 4 != 0),
      (6, decide (s.me.lut.k < (lutmvShape s o).k)), (7, decide (64 < (lutmvShape s o).n) || decide (63 < lutmvRow s o))],
      c.2 = false := by
    obtain ⟨-, -, h4, hlut, hn, hrow⟩ := hfits
    simp [h32, hok, h4]; omega
  rw [exec_lutmv, execLutmv, gateOp_active ha]
  exact runOp_ok <| (runs_rangeCheck hbefore _).bind <| hd.bind <| (runs_rangeCheck hafter _).bind <|
    hb.runs_ownLocs.bind <| (runs_boardWait hb.boardHit).bind <| (runs_accWait hacc).bind <| (runs_planeRows hb hp).bind <|
    runs_accPend hacc _

end

/-- Settles O30: MMA for either kind of B by `exec_mma_adds`, LUTMV by `exec_lutmv_adds`, and a K out of range by the first
check. -/
theorem matrixProducts : Obligations.MatrixProducts := by
  intro h o s at_ ha hp
  refine ⟨fun hfits htb hA hB hapart hacc => ?_, fun hfits htb hdesc h32 hok hA hB hapart hacc => ?_,
    fun hk hk' h4 hlut hn hrow hdesc h32 hok hB hacc => ?_, exec_mma_badK ha⟩
  · exact exec_mma_adds ha hp hfits hA (mmaB_narrow htb hB hp) hB hapart hacc
  · exact exec_mma_adds ha hp hfits hA (mmaB_planes htb (runs_readPlanes hdesc hp) h32 hok hB hp) hB hapart hacc
  · exact exec_lutmv_adds ha hp ⟨hk, hk', h4, hlut, hn, hrow⟩ (runs_readPlanes hdesc hp) h32 hok hB hacc

end Sys2Proof.Machine
end

section
/-! Proofs. Sources of a bundle and register reads after a write (O12, O13). -/

namespace Sys2Proof.Machine

/-! ### A bundle's sources -/

/-- Sources read the context as the bundle found it: what the words of the bundle write is not seen. -/
theorem srcs_of_snap {s t : State} {c : Ctx} (hs : s.cur.snap = some c) (hcur : t.cur = s.cur) (hfresh : t.fresh = s.fresh)
    (pos : Nat) (r : BitVec 6) :
    t.srcS pos r = s.srcS pos r ∧ t.srcF pos r = s.srcF pos r ∧ t.srcV pos r = s.srcV pos r
      ∧ t.srcP pos r.toNat = s.srcP pos r.toNat := by
  have hsnap : t.snap = s.snap := by simp only [State.snap, hcur, hs, Option.getD_some]
  have hpick : t.pick pos = s.pick pos := by simp only [State.pick, hcur, hfresh]
  simp only [State.srcS, State.srcF, State.srcV, State.srcVBy, State.srcP, hsnap, hpick, hcur, and_self]

/-- Settles O12: a register write changes neither the bundle's snapshot nor the numbers that settle its reads. -/
theorem bundleReadsBeforeItWrites : Obligations.BundleReadsBeforeItWrites := by
  intro s c hs d n v x p bound pos r
  simp only [List.forall_mem_cons, List.not_mem_nil, false_imp_iff, implies_true, and_true]
  exact ⟨srcs_of_snap (t := s.wrS d v bound) hs rfl rfl pos r, srcs_of_snap (t := s.wrF d v bound) hs rfl rfl pos r,
    srcs_of_snap (t := s.wrV d x bound) hs rfl rfl pos r, srcs_of_snap (t := s.wrP n p bound) hs rfl rfl pos r⟩

/-! ### Reading a register that has been written (R67) -/

/-- Where no write to the register is in flight, noting one leaves at most the value that it replaces. -/
theorem oldValues_noteWrite {l : List InFlight} {rf : RegFile} {i : Nat} (h : oldValues l rf i = []) (old bound : Nat) :
    oldValues (noteWrite l rf i old bound) rf i = if bound ≤ 1 then [] else [old] := by
  have hmine : l.filter (fun e => e.file == rf && e.idx == i) = [] := List.map_eq_nil_iff.mp h
  by_cases hb : bound ≤ 1
  · rcases Nat.le_one_iff_eq_zero_or_eq_one.mp hb with rfl | rfl
    · simp [oldValues, noteWrite]
    · simpa [noteWrite, hmine] using h
  · have hleft : bound - 1 ≠ 0 := by omega
    have hb0 : bound ≠ 0 := by omega
    simp [oldValues, noteWrite, hmine, hleft, hb0, hb]

/-- A whole word read inside a latency bound is one of the candidates. -/
theorem settle_word (l : List InFlight) (rf : RegFile) (i pick : Nat) (cur old : Word)
    (h : oldValues l rf i = [] ∨ oldValues l rf i = [old.toNat]) :
    BitVec.ofNat 64 (settle l rf i cur.toNat 64 1 pick) = cur
      ∨ BitVec.ofNat 64 (settle l rf i cur.toNat 64 1 pick) = old := by
  have hword : ∀ x : Word, BitVec.ofNat 64 (x.toNat % 18446744073709551616) = x := fun x => by
    rw [Nat.mod_eq_of_lt x.isLt, BitVec.ofNat_toNat, BitVec.setWidth_eq]
  rcases h with h | h
  · simp [settle, h]
  · rcases Nat.mod_two_eq_zero_or_one pick with hp | hp <;> simp [settle, h, pickUnits, bits, hp, hword]

theorem LaneSt.srcS_reg (x : LaneSt) {d : Nat} (pick : Nat) (h0 : 0 < d) (h1 : d < 32) :
    x.srcS d pick = BitVec.ofNat 64 (settle x.inflight .s d (x.s.getD d 0).toNat 64 1 pick) := by
  simp [LaneSt.srcS, Nat.ne_of_gt h0, h1]

/-- Nothing in flight: a read gives what the register holds. -/
theorem LaneSt.srcS_landed {x : LaneSt} {d : Nat} (pick : Nat) (h0 : 0 < d) (h1 : d < 32)
    (h : oldValues x.inflight .s d = []) : x.srcS d pick = x.s.getD d 0 := by
  simp [x.srcS_reg pick h0 h1, settle_none _ _ _ _ h]

theorem LaneSt.oldValues_putS {x : LaneSt} {d : Nat} (h0 : 0 < d) (v : Word) (bound : Nat)
    (h : oldValues x.inflight .s d = []) :
    oldValues (x.putS d v bound).inflight .s d = if bound ≤ 1 then [] else [(x.s.getD d 0).toNat] := by
  simpa only [LaneSt.putS, if_neg (Nat.ne_of_gt h0)] using oldValues_noteWrite h _ bound

/-- Settles O13: a write notes at most the value that it replaces, and a read settles between the two. -/
theorem registerReadAfterWrite : Obligations.RegisterReadAfterWrite := by
  refine ⟨fun s pos => ⟨s.srcS_zero pos, s.srcP_zero pos⟩, LaneSt.put_s0, fun _ _ _ => rfl,
    fun x d pick v bound h0 h1 => ⟨x.putS_same v bound h0 h1, LaneSt.srcS_landed pick h0 h1, fun h => ?_, fun hb h => ?_⟩⟩
  · have hold := LaneSt.oldValues_putS h0 v bound h
    rw [LaneSt.srcS_reg _ pick h0 h1, x.putS_same v bound h0 h1]
    refine settle_word _ _ _ _ _ _ ?_
    rw [hold]
    split <;> simp
  · have hold := LaneSt.oldValues_putS h0 v bound h
    rw [if_pos hb] at hold
    rw [LaneSt.srcS_landed pick h0 h1 hold, x.putS_same v bound h0 h1]

end Sys2Proof.Machine
end

section
/-! Proofs. One word through a step: fetch, issue, exec and the end of its bundle (O60). -/

namespace Sys2Proof.Machine

/-! ### A bundle of one word -/

/-- What issuing a bundle leads to, once its word has executed. -/
theorem afterMem_alone (s : State) (k : Nat) (l : Lane) (pc : Nat) (w : Word) (i : Instr) (t : State) (hw : 2 ≤ slotOf w) :
    afterMem s k l pc [i] none (0, i)
        (readSources { prepare s k l pc with cur := { (prepare s k l pc).cur with slot := 0 } } w.toNat) t
      = .next (endWord s k l pc w i t) := by
  have hrest : runRest k l none (some 0) t.cur.res.staysOpen (selectWords [i] none) t
      = .next (if t.cur.res.staysOpen then popTokens t k l i else giveTokens (popTokens t k l i) k l i) := by
    cases h : t.cur.res.staysOpen <;> simp [selectWords, runRest, andThen]
  simp only [afterMem, endWord, if_pos hw]
  cases hr : t.cur.res <;> rw [hr] at hrest <;> simp only [hrest, andThen]

theorem memWord_alone (w : Word) (i : Instr) : memWord [w] none [i] = if 2 ≤ slotOf w then some (0, i) else none := by
  by_cases hw : 2 ≤ slotOf w <;> simp [memWord, selectWords, hw]

/-- A bundle of one word: the word executes in the prepared state, and the bundle ends. -/
theorem issueBundle_alone {s : State} {k : Nat} (hd : (s.ctx k).differs = none) (l : Lane) (pc : Nat) (w : Word) (i : Instr) :
    issueBundle s k l pc [w] [i] none
      = andThen (exec i (startWord s k l pc w i)) (fun t => .next (endWord s k l pc w i t)) := by
  unfold issueBundle
  rw [hd, memWord_alone]
  by_cases hw : 2 ≤ slotOf w
  · rw [if_pos hw]
    have hstart : runWord ((prepare s k l pc).updCtx k (fun c => c.seeTokens l [i])) 0 i
        = exec i (startWord s k l pc w i) := by
      simp only [runWord, startWord, if_pos hw]
    dsimp only
    simp only [Option.isSome_none, Bool.false_eq_true, if_false, List.getD_cons_zero, hstart]
    congr 1
    funext t
    exact afterMem_alone s k l pc w i t hw
  · rw [if_neg hw]
    have hstart : runWord (prepare s k l pc) 0 i = exec i (startWord s k l pc w i) := by
      simp only [runWord, startWord, if_neg hw]
    simp only [selectWords, List.zipIdx_cons, List.zipIdx_nil, List.map_cons, List.map_nil, runRest, reduceCtorEq, false_and,
      if_false, Option.isSome_none, Bool.false_eq_true, hstart]
    cases exec i (startWord s k l pc w i) with
    | next t => simp only [andThen, endWord, if_neg hw]; rfl
    | fault e => rfl
    | refused e => rfl

/-- A lane that can issue a word issues the bundle of it alone. -/
theorem CanIssue.stepFetch {s : State} {k : Nat} {l : Lane} {pc : Nat} {w : Word} {i : Instr} (h : CanIssue s k l pc w i) :
    stepFetch s k l = issueBundle s k l pc [w] [i] none := by
  obtain ⟨rfl, -, hrslot, -, hfetch, hlane, -, hbundle, hslip, htok, hskid, -⟩ := h
  have hown : wordLane w = .A ∨ wordLane w = laneField l := hlane.imp_right And.left
  have halone : readBundle s k (s.lane k l).pc w = .words [w] := by
    rw [readBundle, if_pos (hlane.imp_right And.right)]
  simp only [Machine.stepFetch, hfetch, if_pos hown, hrslot, stepBundle, halone, hbundle, tryIssue, List.length_singleton,
    hslip, htok, hskid, Bool.not_true, Bool.false_eq_true, or_self, if_false]

/-- A lane's step on a word that it can issue. -/
theorem laneStep_issues {s : State} {k : Nat} {l : Lane} {pc : Nat} {w : Word} {i : Instr} (hrun : laneRuns s k l = true)
    (h : CanIssue (s.updCtx k (fun c => c.settleGives l)) k l pc w i) :
    let u := s.updCtx k (fun c => c.settleGives l)
    laneStep s k l = andThen (exec i (startWord u k l pc w i)) (fun t => .next (endWord u k l pc w i t)) := by
  intro u
  have hparked : (u.lane k l).parked = none := h.2.1
  have hgives : ((u.ctx k).queues l).gives = [] := h.2.2.2.1
  obtain ⟨-, -, -, -, -, -, -, -, -, -, -, hdiffers⟩ := id h
  rw [laneStep, hrun]
  simp only [Bool.not_true, Bool.false_eq_true, if_false]
  rw [show ((s.updCtx k fun c => c.settleGives l).ctx k).queues l = (u.ctx k).queues l from rfl, hgives]
  rw [show (s.updCtx k fun c => c.settleGives l).lane k l = u.lane k l from rfl, hparked]
  exact (CanIssue.stepFetch h).trans (issueBundle_alone hdiffers l pc w i)

/-- The head of the agenda moves next (log 1). -/
theorem step_agenda {s : State} {a : Agent} {as : List Agent} (h : s.agenda = a :: as)
    (hp : s.module.powered = true ∨ isReset a = true) :
    step s = match runAgent { s with agenda := as } a with
      | .next u => .next (closeStep s.mem u)
      | .fault e => .fault e
      | .refused e => .refused e := by
  have hnext : nextAgent s = (some a, { s with agenda := as }) := by rw [nextAgent, h]
  simp only [step, hnext]
  exact if_pos (by simpa using hp)

theorem eq_moduleReset_of_isReset {i : Instr} {e : Ev} (h : isReset (.event i e) = true) : i = .moduleReset := by
  unfold isReset at h
  split at h
  · rename_i heq
    cases heq
    rfl
  · cases h

/-- Settles O60: the agenda's head runs; a lane that can issue a word runs exec of it between preparation and end. -/
theorem stepRunsDecoded : Obligations.StepRunsDecoded := by
  refine ⟨?_, fun s as i e hag hpow => step_agenda hag (.inl hpow), ?_⟩
  · intro s k l as pc w i hag hpow hrun u hcan
    rw [step_agenda hag (.inl hpow), runAgent, laneStep_issues hrun hcan]
    cases exec i (startWord u k l pc w i) <;> rfl
  · intro s i e as hag hpow hne
    have hnext : nextAgent s = (some (.event i e), { s with agenda := as }) := by rw [nextAgent, hag]
    have hreset : isReset (.event i e) = false := Bool.eq_false_iff.mpr fun h => hne (eq_moduleReset_of_isReset h)
    simp [step, hnext, hpow, hreset]

end Sys2Proof.Machine
end

section
/-! Proofs. Outcomes of branches, and BRC, BRX and CALLX (O17). -/

namespace Sys2Proof.Machine

/-! ### The queues of a lane, and the registers of a context -/

@[simp] theorem Ctx.queues_setQueues (c : Ctx) (l : Lane) (q : LaneQ) : (c.setQueues l q).queues l = q := by
  by_cases h : c.ctrl.hnd = 0 <;>
    simp only [Ctx.queues, Ctx.setQueues, Ctx.updLane_ctrl, Ctx.lane_updLane, h, if_true, if_false]

theorem Ctx.lane_setQueues_ne (c : Ctx) {m l : Lane} (q : LaneQ) (h : m ≠ l) : (c.setQueues l q).lane m = c.lane m :=
  c.lane_updLane_ne _ h

theorem Ctx.queues_setQueues_ne (c : Ctx) {m l : Lane} (q : LaneQ) (h : m ≠ l) :
    (c.setQueues l q).queues m = c.queues m := by
  simp only [Ctx.queues, Ctx.setQueues, Ctx.updLane_ctrl, Ctx.lane_updLane_ne _ _ h]

theorem Ctx.queues_updLane_ne (c : Ctx) {m l : Lane} (f : LaneSt → LaneSt) (h : m ≠ l) :
    (c.updLane l f).queues m = c.queues m := by
  simp only [Ctx.queues, Ctx.lane_updLane_ne _ _ h, Ctx.updLane_ctrl]

/-- An update of a lane that leaves both its sets of queues. -/
theorem Ctx.queues_updLane (c : Ctx) (l : Lane) (f : LaneSt → LaneSt)
    (hf : ∀ x, (f x).normal = x.normal ∧ (f x).handler = x.handler) (m : Lane) : (c.updLane l f).queues m = c.queues m := by
  by_cases h : m = l
  · subst h
    simp only [Ctx.queues, Ctx.lane_updLane, Ctx.updLane_ctrl, hf]
  · exact c.queues_updLane_ne f h

/-- The register files, the control registers and the scalar registers of a context are those of another. -/
structure Ctx.SameRegs (c d : Ctx) : Prop where
  f : d.f = c.f
  v : d.v = c.v
  p : d.p = c.p
  acc : d.acc = c.acc
  ctrl : d.ctrl = c.ctrl
  s : ∀ m, (d.lane m).s = (c.lane m).s

theorem Ctx.SameRegs.refl (c : Ctx) : c.SameRegs c := ⟨rfl, rfl, rfl, rfl, rfl, fun _ => rfl⟩

theorem Ctx.SameRegs.trans {c d e : Ctx} (h : c.SameRegs d) (g : d.SameRegs e) : c.SameRegs e :=
  ⟨g.f.trans h.f, g.v.trans h.v, g.p.trans h.p, g.acc.trans h.acc, g.ctrl.trans h.ctrl, fun m => (g.s m).trans (h.s m)⟩

theorem Ctx.SameRegs.updLane (c : Ctx) (l : Lane) (f : LaneSt → LaneSt) (hf : ∀ x, (f x).s = x.s) :
    c.SameRegs (c.updLane l f) := by
  refine ⟨by simp, by simp, by simp, by simp, by simp, fun m => ?_⟩
  by_cases h : m = l
  · subst h; rw [Ctx.lane_updLane]; exact hf _
  · rw [Ctx.lane_updLane_ne _ _ h]

theorem Ctx.SameRegs.setQueues (c : Ctx) (l : Lane) (q : LaneQ) : c.SameRegs (c.setQueues l q) :=
  .updLane c l _ fun x => by split <;> rfl

/-- The registers of the issuing context are as they were. -/
theorem sameFiles_of_sameRegs {s t : State} (h : s.me.SameRegs t.me) : SameFiles s t := ⟨h.f, h.v, h.p, h.acc, h.ctrl⟩

/-! ### Outcomes of branches (R70) -/

/-- An outcome is appended to the queue of each lane of a list. -/
theorem Ctx.queues_pushAll (c : Ctx) (o : BranchOut) {ms : List Lane} (hms : ms.Nodup) (m : Lane) :
    (ms.foldl (fun c m => c.setQueues m { c.queues m with outs := (c.queues m).outs ++ [o] }) c).queues m
      = if m ∈ ms then { c.queues m with outs := (c.queues m).outs ++ [o] } else c.queues m := by
  induction ms generalizing c with
  | nil => rfl
  | cons x ms ih =>
    rw [List.nodup_cons] at hms
    rw [List.foldl_cons, ih _ hms.2]
    by_cases hx : m = x
    · subst hx
      simp [hms.1]
    · simp [hx, c.queues_setQueues_ne _ hx]

theorem Ctx.sameRegs_pushAll (c : Ctx) (o : BranchOut) (ms : List Lane) :
    c.SameRegs (ms.foldl (fun c m => c.setQueues m { c.queues m with outs := (c.queues m).outs ++ [o] }) c) := by
  induction ms generalizing c with
  | nil => exact .refl c
  | cons x ms ih => exact (Ctx.SameRegs.setQueues c x _).trans (ih _)

/-- The lanes that receive an owner's outcome. -/
theorem Ctx.mem_receivers {c : Ctx} {l m : Lane} :
    m ∈ lanes.filter (fun m => m != l && !(c.lane m).isOut) ↔ m ≠ l ∧ (c.lane m).ended = false := by
  have hm : m ∈ lanes := by cases m <;> decide
  simp [List.mem_filter, hm, LaneSt.isOut]

theorem Ctx.queues_pushOutcome (c : Ctx) (l : Lane) (o : BranchOut) (m : Lane) :
    (c.pushOutcome l o).queues m = if m ≠ l ∧ (c.lane m).ended = false
      then { c.queues m with outs := (c.queues m).outs ++ [o] } else c.queues m := by
  rw [Ctx.pushOutcome, Ctx.queues_pushAll _ o ((by decide : lanes.Nodup).filter _),
    Ctx.queues_updLane c l (fun x => { x with scratchInflight := [] }) (fun _ => ⟨rfl, rfl⟩)]
  simp only [Ctx.mem_receivers]

theorem Ctx.sameRegs_pushOutcome (c : Ctx) (l : Lane) (o : BranchOut) : c.SameRegs (c.pushOutcome l o) :=
  (Ctx.SameRegs.updLane c l (fun x => { x with scratchInflight := [] }) fun _ => rfl).trans (Ctx.sameRegs_pushAll _ o _)

/-- What the exchange of an outcome leaves alone. -/
structure Told (s t : State) : Prop where
  cur : t.cur = s.cur
  bytes : SameBytes s t
  regs : s.me.SameRegs t.me
  loops : ∀ m, (t.me.queues m).loops = (s.me.queues m).loops

theorem told_pushOutcome (s : State) (o : BranchOut) : Told s (s.updMe (fun c => c.pushOutcome s.cur.lane o)) := by
  refine ⟨rfl, sameBytes_of_mem_wlog rfl rfl, ?_, fun m => ?_⟩
  · rw [State.me_updMe]; exact s.me.sameRegs_pushOutcome _ _
  · rw [State.me_updMe, Ctx.queues_pushOutcome]; split <;> rfl

/-- PopOutcome takes the oldest outcome (R70). -/
theorem popOutcome_cons {s : State} {b : BranchOut} {q : List BranchOut} (h : (s.me.queues s.cur.lane).outs = b :: q) :
    popOutcome s = some (b, s.updMe (fun c => c.setQueues s.cur.lane { c.queues s.cur.lane with outs := q })) := by
  simp only [popOutcome, h]

theorem popOutcome_nil {s : State} (h : (s.me.queues s.cur.lane).outs = []) : popOutcome s = none := by
  simp only [popOutcome, h]

/-- A lane that follows an outcome: the outcome is gone, and the lane comes after what its owner comes after. -/
theorem told_follow (s : State) (own : Lane) (q : List BranchOut) :
    let t := hearOwner (s.updMe (fun c => c.setQueues s.cur.lane { c.queues s.cur.lane with outs := q })) own
    Told s t ∧ (t.me.queues s.cur.lane).outs = q ∧ ∀ m, m ≠ s.cur.lane → t.me.lane m = s.me.lane m := by
  intro t
  let u := s.updMe (fun c => c.setQueues s.cur.lane { c.queues s.cur.lane with outs := q })
  have hu : u.me = s.me.setQueues s.cur.lane { s.me.queues s.cur.lane with outs := q } := s.me_updMe _
  have hpop : Told s u ∧ (u.me.queues s.cur.lane).outs = q ∧ ∀ m, m ≠ s.cur.lane → u.me.lane m = s.me.lane m := by
    refine ⟨⟨rfl, sameBytes_of_mem_wlog rfl rfl, ?_, fun m => ?_⟩, ?_, fun m hm => ?_⟩ <;> rw [hu]
    · exact .setQueues _ _ _
    · by_cases hm : m = s.cur.lane
      · subst hm; rw [Ctx.queues_setQueues]
      · rw [Ctx.queues_setQueues_ne _ _ hm]
    · rw [Ctx.queues_setQueues]
    · exact Ctx.lane_setQueues_ne _ _ hm
  obtain ⟨⟨-, hbytes, hregs, hloops⟩, houts, hothers⟩ := hpop
  change Told s (hearOwner u own) ∧ _
  unfold t
  change Told s (hearOwner u own) ∧ (((hearOwner u own).me.queues s.cur.lane).outs = q ∧ _)
  unfold hearOwner
  split
  · exact ⟨⟨rfl, hbytes, hregs, hloops⟩, houts, hothers⟩
  · have hme (f : LaneSt → LaneSt) : (u.updMyLane f).me = u.me.updLane s.cur.lane f := State.ctx_updCtx _ _ _
    refine ⟨⟨rfl, hbytes, ?_, fun m => ?_⟩, ?_, fun m hm => ?_⟩ <;> rw [hme]
    · exact hregs.trans (.updLane _ _ _ fun _ => rfl)
    · exact (congrArg LaneQ.loops (Ctx.queues_updLane _ _ _ (by exact fun _ => ⟨rfl, rfl⟩) m)).trans (hloops m)
    · exact (congrArg LaneQ.outs (Ctx.queues_updLane _ _ _ (by exact fun _ => ⟨rfl, rfl⟩) _)).trans houts
    · rw [Ctx.lane_updLane_ne _ _ hm]; exact hothers m hm

/-! ### Where a branch leads (R229, R233) -/

/-- The lane stands at `pc` with the loop stack `loops`, its branch done; nothing else that a program sees has changed. -/
structure Lands (t u : State) (pc : Nat) (loops : List LoopEnt) : Prop where
  cur : u.cur = { t.cur with res := .redirected }
  bytes : SameBytes t u
  regs : t.me.SameRegs u.me
  pc : u.myLane.pc = pc
  loops : (u.me.queues t.cur.lane).loops = loops
  outs : ∀ m, (u.me.queues m).outs = (t.me.queues m).outs
  others : ∀ m, m ≠ t.cur.lane → u.me.lane m = t.me.lane m

theorem lands_of_updLane (t : State) {f : LaneSt → LaneSt} {pc : Nat} (hs : ∀ x, (f x).s = x.s) (hpc : ∀ x, (f x).pc = pc)
    (hq : ∀ x, (f x).normal = x.normal ∧ (f x).handler = x.handler) :
    Lands t ((t.updMe (fun c => c.updLane t.cur.lane f)).setRes .redirected) pc (t.me.queues t.cur.lane).loops := by
  have hme : ((t.updMe (fun c => c.updLane t.cur.lane f)).setRes .redirected).me = t.me.updLane t.cur.lane f :=
    State.me_updMe t (fun c => c.updLane t.cur.lane f)
  constructor
  case cur => rfl
  case bytes => exact sameBytes_of_mem_wlog rfl rfl
  case regs => rw [hme]; exact .updLane _ _ _ hs
  case pc =>
    rw [State.myLane, hme]
    exact (congrArg LaneSt.pc (Ctx.lane_updLane _ _ _)).trans (hpc _)
  case loops => rw [hme, Ctx.queues_updLane _ _ _ hq]
  case outs => intro m; rw [hme, Ctx.queues_updLane _ _ _ hq]
  case others => intro m hm; rw [hme, Ctx.lane_updLane_ne _ _ hm]

theorem State.me_setRes (t : State) (r : Issued) : (t.setRes r).me = t.me := rfl

theorem goTo_lands (t : State) (target : Nat) (exits : Bool) : Lands t (goTo t target exits) target
    (if exits then loopExit target (t.me.queues t.cur.lane).loops else (t.me.queues t.cur.lane).loops) := by
  cases exits
  · exact lands_of_updLane t (f := fun x => { x.age with pc := target }) (fun _ => rfl) (fun _ => rfl) fun _ => ⟨rfl, rfl⟩
  · let c := t.me.setQueues t.cur.lane
      { t.me.queues t.cur.lane with loops := loopExit target (t.me.queues t.cur.lane).loops }
    have hme : (goTo t target true).me = c.updLane t.cur.lane (fun x => { x.age with pc := target }) := by
      rw [goTo, State.me_setRes, State.me_updMe]
      rfl
    have hq (m : Lane) : (goTo t target true).me.queues m = c.queues m := by
      rw [hme]; exact Ctx.queues_updLane c _ _ (by exact fun _ => ⟨rfl, rfl⟩) m
    constructor
    case cur => rfl
    case bytes => exact sameBytes_of_mem_wlog rfl rfl
    case regs => rw [hme]; exact (Ctx.SameRegs.setQueues _ _ _).trans (.updLane _ _ _ fun _ => rfl)
    case pc =>
      rw [State.myLane, hme]
      exact congrArg LaneSt.pc (Ctx.lane_updLane _ _ _)
    case loops => rw [hq, Ctx.queues_setQueues]; rfl
    case outs =>
      intro m
      rw [hq]
      by_cases hm : m = t.cur.lane
      · subst hm; rw [Ctx.queues_setQueues]
      · rw [Ctx.queues_setQueues_ne _ _ hm]
    case others => intro m hm; rw [hme, Ctx.lane_updLane_ne _ _ hm, Ctx.lane_setQueues_ne _ _ hm]

theorem branchEnd_lands (t : State) (b : BranchOut) (exits : Bool) : Lands t (branchEnd t b.taken b.target exits)
    (if b.taken then b.target else t.cur.pc + 1)
    (if (b.taken && exits) = true then loopExit b.target (t.me.queues t.cur.lane).loops else (t.me.queues t.cur.lane).loops) := by
  cases h : b.taken
  · exact lands_of_updLane t (f := fun x => { x with pc := t.cur.pc + 1 }) (fun _ => rfl) (fun _ => rfl) fun _ => ⟨rfl, rfl⟩
  · simpa [branchEnd] using goTo_lands t b.target exits

/-- What a branch leaves that exchanges an outcome first: `t` the state after that. -/
structure Branches (s t u : State) (b : BranchOut) (link exits : Bool) : Prop where
  res : u.cur.res = .redirected
  pc : u.myLane.pc = if b.taken then b.target else s.cur.pc + 1
  bytes : SameBytes s u
  files : SameFiles s u
  wrote : Wrote s u (if link then 1 else 0) (if link then BitVec.ofNat 64 (s.cur.pc + 1) else 0)
  loops : (u.me.queues s.cur.lane).loops = if (b.taken && exits) = true
    then loopExit b.target (s.me.queues s.cur.lane).loops else (s.me.queues s.cur.lane).loops
  outs : ∀ m, (u.me.queues m).outs = (t.me.queues m).outs
  others : ∀ m, m ≠ s.cur.lane → u.me.lane m = t.me.lane m

/-- The link write changes the lane's s1 alone (R229). -/
theorem linkWrite_me (t : State) :
    (linkWrite t).me = t.me.updLane t.cur.lane (fun x => x.putS 1 (BitVec.ofNat 64 (t.cur.pc + 1)) boundInt) :=
  State.ctx_updCtx _ _ _

theorem queues_linkWrite (t : State) (m : Lane) : (linkWrite t).me.queues m = t.me.queues m := by
  rw [linkWrite_me]
  exact Ctx.queues_updLane _ _ _ (by exact fun x => by simp [LaneSt.putS]) m

theorem branches_of_told {s t : State} (h : Told s t) (b : BranchOut) (link exits : Bool) :
    Branches s t (branchEnd (if link then linkWrite t else t) b.taken b.target exits) b link exits := by
  obtain ⟨hcur, hbytes, hregs, hloops⟩ := h
  have hlane : t.cur.lane = s.cur.lane := congrArg Issue.lane hcur
  have hpc : t.cur.pc = s.cur.pc := congrArg Issue.pc hcur
  cases link
  · obtain ⟨ucur, ubytes, uregs, upc, uloops, uouts, uothers⟩ := branchEnd_lands t b exits
    rw [hlane] at uloops uothers
    rw [hloops] at uloops
    have hu : s.me.SameRegs (branchEnd t b.taken b.target exits).me := hregs.trans uregs
    have hul : (branchEnd t b.taken b.target exits).cur.lane = s.cur.lane := by rw [ucur, hcur]
    exact ⟨by rw [if_neg Bool.false_ne_true, ucur], hpc ▸ upc, fun a => (ubytes a).trans (hbytes a), sameFiles_of_sameRegs hu,
      ⟨by rw [if_neg Bool.false_ne_true, ucur, hcur], hul, by
        rw [if_neg Bool.false_ne_true, State.myLane, hul]; exact hu.s _, fun m _ => hu.s m⟩, uloops, uouts, uothers⟩
  · obtain ⟨ucur, ubytes, uregs, upc, uloops, uouts, uothers⟩ := branchEnd_lands (linkWrite t) b exits
    have lcur : (linkWrite t).cur = s.cur := hcur
    rw [lcur] at uloops uothers ucur upc
    rw [queues_linkWrite, hloops] at uloops
    have hul : (branchEnd (linkWrite t) b.taken b.target exits).cur.lane = s.cur.lane := by rw [ucur]
    have hlink := linkWrite_me t
    rw [hlane, hpc] at hlink
    refine ⟨by rw [if_pos rfl, ucur], upc, fun a => (ubytes a).trans (hbytes a), ?_, ⟨by rw [if_pos rfl, ucur], hul, ?_, ?_⟩,
      uloops, fun m => (uouts m).trans (by rw [queues_linkWrite]), fun m hm => (uothers m hm).trans (by
        rw [hlink, Ctx.lane_updLane_ne _ _ hm])⟩
    · have hf := sameFiles_of_sameRegs uregs
      obtain ⟨hf, hv, hp, hacc, hctrl⟩ := hf
      rw [hlink] at hf hv hp hacc hctrl
      simp only [Ctx.updLane_f, Ctx.updLane_v, Ctx.updLane_p, Ctx.updLane_acc, Ctx.updLane_ctrl] at hf hv hp hacc hctrl
      exact ⟨hf.trans hregs.f, hv.trans hregs.v, hp.trans hregs.p, hacc.trans hregs.acc, hctrl.trans hregs.ctrl⟩
    · rw [if_pos rfl, State.myLane, hul, uregs.s, hlink, Ctx.lane_updLane, if_pos rfl, if_neg (by decide)]
      exact congrArg (fun v => Vector.setIfInBounds v 1 _) (hregs.s _)
    · intro m hm
      rw [if_pos rfl, uregs.s, hlink, Ctx.lane_updLane_ne _ _ hm]
      exact hregs.s m

/-! ### BRC, BRX and CALLX (R70, R229) -/

/-- CALLX is the owned branch that links and leaves no loop; BRC and BRX leave loops and do not link (R229). -/
inductive OwnedKind (h : Hdr) (o : BrOps) : Instr → Bool → Bool → Prop
  | brc : OwnedKind h o (.brc h o) false true
  | brx : OwnedKind h o (.brx h o) false true
  | callx : OwnedKind h o (.callx h o) true false

/-- What the obligation says of an owned branch that has gone. -/
theorem Branches.goes {h : Hdr} {o : BrOps} {i : Instr} {s t u : State} {b : BranchOut} {link exits : Bool}
    (hb : Branches s t u b link exits) (hk : OwnedKind h o i link exits) :
    u.cur.res = .redirected ∧ u.myLane.pc = (if b.taken then b.target else s.cur.pc + 1) ∧ SameBytes s u ∧ SameFiles s u
      ∧ (i ≠ .callx h o → Wrote s u 0 0 ∧ (u.me.queues s.cur.lane).loops
          = if b.taken then loopExit b.target (s.me.queues s.cur.lane).loops else (s.me.queues s.cur.lane).loops)
      ∧ (i = .callx h o → Wrote s u 1 (BitVec.ofNat 64 (s.cur.pc + 1))
          ∧ (u.me.queues s.cur.lane).loops = (s.me.queues s.cur.lane).loops) := by
  obtain ⟨hres, hpc, hbytes, hfiles, hwrote, hloops, -, -⟩ := hb
  cases hk
  case brc => exact ⟨hres, hpc, hbytes, hfiles, fun _ => ⟨hwrote, by simpa using hloops⟩, nofun⟩
  case brx => exact ⟨hres, hpc, hbytes, hfiles, fun _ => ⟨hwrote, by simpa using hloops⟩, nofun⟩
  case callx => exact ⟨hres, hpc, hbytes, hfiles, fun hne => absurd rfl hne, fun _ => ⟨hwrote, by simpa using hloops⟩⟩

/-- Every owned branch is `ownedBranch` with its kind's flags. -/
theorem OwnedKind.exec_eq {h : Hdr} {o : BrOps} {i : Instr} {link exits : Bool} (hk : OwnedKind h o i link exits) (s : State) :
    ∃ dec bad, exec i s = ownedBranch s o link exits dec bad := by
  let r := s.srcS 0 o.cr
  cases hk
  case brc => exact ⟨(branchCond s o, relTarget s o), none, rfl⟩
  case brx => exact ⟨(true, r.toNat), targetFault r, rfl⟩
  case callx => exact ⟨(true, r.toNat), targetFault r, rfl⟩

theorem ownedKind_of_mem {h : Hdr} {o : BrOps} {i : Instr} (hi : i ∈ ([.brc h o, .brx h o, .callx h o] : List Instr)) :
    ∃ link exits, OwnedKind h o i link exits := by
  simp only [List.mem_cons, List.not_mem_nil, or_false] at hi
  obtain rfl | rfl | rfl := hi
  · exact ⟨_, _, .brc⟩
  · exact ⟨_, _, .brx⟩
  · exact ⟨_, _, .callx⟩

/-- BRX and CALLX take the target of a register. -/
theorem exec_registerBranch {h : Hdr} {o : BrOps} {i : Instr} (hi : i ∈ ([.brx h o, .callx h o] : List Instr)) (s : State) :
    ∃ link exits, OwnedKind h o i link exits
      ∧ exec i s = ownedBranch s o link exits (true, (s.srcS 0 o.cr).toNat) (targetFault (s.srcS 0 o.cr)) := by
  simp only [List.mem_cons, List.not_mem_nil, or_false] at hi
  obtain rfl | rfl := hi
  · exact ⟨_, _, .brx, rfl⟩
  · exact ⟨_, _, .callx, rfl⟩

/-- The owner, with room: it pushes its outcome and goes where it decided. -/
theorem ownedBranch_owner {s : State} {o : BrOps} (hl : s.cur.lane = ownerLane o) (hroom : s.me.outcomeRoom s.cur.lane = true)
    (link exits : Bool) (b : BranchOut) :
    ∃ u, ownedBranch s o link exits (b.taken, b.target) none = .next u
      ∧ Branches s (s.updMe (fun c => c.pushOutcome s.cur.lane b)) u b link exits := by
  refine ⟨_, ?_, branches_of_told (told_pushOutcome s b) b link exits⟩
  simp only [ownedBranch, if_pos hl, hroom, Bool.not_true, Bool.false_eq_true, if_false]

/-- The owner waits while a receiving queue is full. -/
theorem ownedBranch_noRoom {s : State} {o : BrOps} (hl : s.cur.lane = ownerLane o)
    (hroom : s.me.outcomeRoom s.cur.lane = false) (link exits : Bool) (dec : Bool × Nat) :
    ownedBranch s o link exits dec none = .next (s.setRes .stalled) := by
  simp only [ownedBranch, if_pos hl, hroom, Bool.not_false, if_true]

/-- What the owner's outcome does to the queues. -/
theorem Branches.pushed {s u : State} {b : BranchOut} {link exits : Bool}
    (hb : Branches s (s.updMe (fun c => c.pushOutcome s.cur.lane b)) u b link exits) :
    (u.me.queues s.cur.lane).outs = (s.me.queues s.cur.lane).outs
      ∧ ∀ m, m ≠ s.cur.lane → (u.me.queues m).outs
        = if (s.me.lane m).ended then (s.me.queues m).outs else (s.me.queues m).outs ++ [b] := by
  have houts (m : Lane) := (hb.outs m).trans (by rw [State.me_updMe, Ctx.queues_pushOutcome])
  refine ⟨(houts _).trans (by simp), fun m hm => (houts m).trans ?_⟩
  cases (s.me.lane m).ended <;> simp [hm]

/-- Another lane, with an outcome: it pops the oldest and follows it. -/
theorem ownedBranch_follower {s : State} {o : BrOps} {b : BranchOut} {q : List BranchOut} (hl : s.cur.lane ≠ ownerLane o)
    (hq : (s.me.queues s.cur.lane).outs = b :: q) (link exits : Bool) (dec : Bool × Nat) (bad : Option Word) :
    ∃ t u, ownedBranch s o link exits dec bad = .next u ∧ Branches s t u b link exits
      ∧ (t.me.queues s.cur.lane).outs = q ∧ ∀ m, m ≠ s.cur.lane → t.me.lane m = s.me.lane m := by
  obtain ⟨htold, houts, hothers⟩ := told_follow s (ownerLane o) q
  refine ⟨_, _, ?_, branches_of_told htold b link exits, houts, hothers⟩
  simp only [ownedBranch, if_neg hl, popOutcome_cons hq]

/-- Settles O17: the exchange of the outcome changes queues only, and the branch then goes where the outcome says. -/
theorem ownedBranches : Obligations.OwnedBranches := by
  intro h o s l r next all loops goes pushed
  have hgood (hr : r.toNat < 16384) : targetFault r = none := if_neg (Nat.not_le.mpr hr)
  refine ⟨fun hl hroom => ⟨?_, fun hr i hi => ?_⟩, fun hl b q hq i hi => ?_, fun hl hr i hi => ?_,
    fun hl hroom => ⟨?_, fun hr i hi => ?_⟩, fun hl hq i hi => ?_⟩
  · obtain ⟨u, hu, hb⟩ := ownedBranch_owner hl hroom false true ⟨branchCond s o, relTarget s o⟩
    exact ⟨u, ⟨hu, hb.goes (.brc (h := h) (o := o))⟩, hb.pushed⟩
  · obtain ⟨link, exits, hk, he⟩ := exec_registerBranch hi s
    obtain ⟨u, hu, hb⟩ := ownedBranch_owner hl hroom link exits ⟨true, r.toNat⟩
    exact ⟨u, ⟨by rw [he, hgood hr]; exact hu, hb.goes hk⟩, hb.pushed⟩
  · obtain ⟨link, exits, hk⟩ := ownedKind_of_mem hi
    obtain ⟨dec, bad, he⟩ := hk.exec_eq s
    obtain ⟨t, u, hu, hb, houts, hothers⟩ := ownedBranch_follower hl hq link exits dec bad
    exact ⟨u, ⟨he.trans hu, hb.goes hk⟩, (hb.outs l).trans houts, fun m hm => (hb.others m hm).trans (hothers m hm)⟩
  · obtain ⟨link, exits, -, he⟩ := exec_registerBranch hi s
    have hbad : targetFault (s.srcS 0 o.cr) = some r := if_pos hr
    simp only [he, ownedBranch, if_pos (show s.cur.lane = ownerLane o from hl), hbad, badTarget]
  · exact ownedBranch_noRoom hl hroom _ _ _
  · obtain ⟨link, exits, -, he⟩ := exec_registerBranch hi s
    rw [he, hgood hr]
    exact ownedBranch_noRoom hl hroom _ _ _
  · obtain ⟨link, exits, hk⟩ := ownedKind_of_mem hi
    obtain ⟨dec, bad, he⟩ := hk.exec_eq s
    simp only [he, ownedBranch, if_neg (show s.cur.lane ≠ ownerLane o from hl), popOutcome_nil hq]

end Sys2Proof.Machine
end

section
/-! Proofs. SYNC, OVL and END: meeting points (O19). -/

namespace Sys2Proof.Machine

/-! ### Going past one word (R232) -/

/-- The loop stack and queues of a lane that a flow uses (R363). -/
def LaneSt.queuesOf (hnd : BitVec 2) (x : LaneSt) : LaneQ := if hnd = 0 then x.normal else x.handler

def LaneSt.setQueuesOf (hnd : BitVec 2) (q : LaneQ) (x : LaneSt) : LaneSt :=
  if hnd = 0 then { x with normal := q } else { x with handler := q }

theorem Ctx.queues_eq (c : Ctx) (l : Lane) : c.queues l = (c.lane l).queuesOf c.ctrl.hnd := rfl

theorem Ctx.setQueues_eq (c : Ctx) (l : Lane) (q : LaneQ) : c.setQueues l q = c.updLane l (LaneSt.setQueuesOf c.ctrl.hnd q) :=
  rfl

/-- An index value is all that the level table of a loop sets. -/
theorem setIndex_eq (levels : List Level) (e : LoopEnt) (x : LaneSt) : ∃ i, setIndex levels e x = { x with i := i } := by
  unfold setIndex
  cases e.tab with
  | none => exact ⟨x.i, rfl⟩
  | some t =>
    dsimp only
    induction levels generalizing x with
    | nil => exact ⟨x.i, rfl⟩
    | cons v levels ih =>
      rw [List.foldl_cons]
      split
      · obtain ⟨i, hi⟩ := ih { x with i := x.i.setIfInBounds v.ireg (v.start + v.step * BitVec.ofNat 64 e.trip) }
        exact ⟨i, hi⟩
      · exact ih x

/-- The lane `y` is `x` gone past the one word `word`: at the next word, or at the start of a loop that ends there. -/
structure WentPast (hnd : BitVec 2) (word : Nat) (x y : LaneSt) : Prop where
  pc : y.pc = match (endCheck word word (x.queuesOf hnd).loops).2 with | some e => e.start | none => word + 1
  loops : (y.queuesOf hnd).loops = (endCheck word word (x.queuesOf hnd).loops).1
  outs : (y.queuesOf hnd).outs = (x.queuesOf hnd).outs
  index : (endCheck word word (x.queuesOf hnd).loops).2 = none → y.i = x.i
  arrived : y.arrived = x.arrived
  ended : y.ended = x.ended
  rslot : y.rslot = none
  lcnt : y.lcnt = x.lcnt
  inflight : y.inflight = x.inflight
  scratch : y.scratchInflight = x.scratchInflight
  s : y.s = x.s

theorem wentPast_of_eq {hnd : BitVec 2} {word pc : Nat} {x y : LaneSt} {q : LaneQ} {i : Vector Word 8}
    (hy : y = { x.setQueuesOf hnd q with pc := pc, i := i, rslot := none })
    (hpc : pc = match (endCheck word word (x.queuesOf hnd).loops).2 with | some e => e.start | none => word + 1)
    (hq : q = { x.queuesOf hnd with loops := (endCheck word word (x.queuesOf hnd).loops).1 })
    (hi : (endCheck word word (x.queuesOf hnd).loops).2 = none → i = x.i) : WentPast hnd word x y := by
  have hqs : y.queuesOf hnd = q := by
    rw [hy]; unfold LaneSt.queuesOf LaneSt.setQueuesOf; by_cases h : hnd = 0 <;> simp only [h, if_true, if_false]
  have hfields : (x.setQueuesOf hnd q).arrived = x.arrived ∧ (x.setQueuesOf hnd q).ended = x.ended
      ∧ (x.setQueuesOf hnd q).lcnt = x.lcnt ∧ (x.setQueuesOf hnd q).inflight = x.inflight
      ∧ (x.setQueuesOf hnd q).scratchInflight = x.scratchInflight ∧ (x.setQueuesOf hnd q).s = x.s := by
    unfold LaneSt.setQueuesOf; split <;> exact ⟨rfl, rfl, rfl, rfl, rfl, rfl⟩
  obtain ⟨harr, hend, hcnt, hfl, hsc, hregs⟩ := hfields
  rw [hq] at hqs
  subst hy
  exact ⟨hpc, congrArg LaneQ.loops hqs, by rw [hqs], hi, harr, hend, rfl, hcnt, hfl, hsc, hregs⟩

/-- Only the lane itself moves when it goes on. -/
structure Ctx.OnlyLane (c d : Ctx) (l : Lane) : Prop where
  regs : c.SameRegs d
  core : d.core = c.core
  others : ∀ m, m ≠ l → d.lane m = c.lane m

theorem Ctx.onlyLane_updLane (c : Ctx) (l : Lane) (f : LaneSt → LaneSt) (hf : ∀ x, (f x).s = x.s) :
    c.OnlyLane (c.updLane l f) l :=
  ⟨.updLane c l f hf, c.updLane_core l f, fun _ => c.lane_updLane_ne f⟩

theorem Ctx.OnlyLane.trans {c d e : Ctx} {l : Lane} (h : c.OnlyLane d l) (g : d.OnlyLane e l) : c.OnlyLane e l :=
  ⟨h.regs.trans g.regs, g.core.trans h.core, fun m hm => (g.others m hm).trans (h.others m hm)⟩

theorem Ctx.onlyLane_endCheck (c : Ctx) (levels : List Level) (l : Lane) (lo hi : Nat) :
    c.OnlyLane (c.endCheck levels l lo hi) l := by
  have hset (q : LaneQ) : c.OnlyLane (c.setQueues l q) l :=
    c.onlyLane_updLane l _ fun x => by split <;> rfl
  unfold Ctx.endCheck
  dsimp only
  split
  · exact hset _
  · refine (hset _).trans (Ctx.onlyLane_updLane _ l _ fun x => ?_)
    obtain ⟨i, hi⟩ := setIndex_eq levels _ x
    rw [hi]

/-- A lane on which the loops that end at the words `lo` to `hi` have been checked. -/
def LaneSt.afterEndCheck (hnd : BitVec 2) (levels : List Level) (lo hi : Nat) (x : LaneSt) : LaneSt :=
  let q := x.queuesOf hnd
  let y := x.setQueuesOf hnd { q with loops := (endCheck lo hi q.loops).1 }
  match (endCheck lo hi q.loops).2 with
  | none => y
  | some e => { setIndex levels e y with pc := e.start }

theorem Ctx.lane_endCheck (c : Ctx) (levels : List Level) (l : Lane) (lo hi : Nat) :
    (c.endCheck levels l lo hi).lane l = (c.lane l).afterEndCheck c.ctrl.hnd levels lo hi := by
  simp only [Ctx.endCheck, LaneSt.afterEndCheck, Ctx.queues_eq, Ctx.setQueues_eq]
  cases (Machine.endCheck lo hi ((c.lane l).queuesOf c.ctrl.hnd).loops).2 <;> simp only [Ctx.lane_updLane]

theorem wentPast_afterEndCheck (hnd : BitVec 2) (levels : List Level) (pc : Nat) (x : LaneSt) :
    WentPast hnd pc x (LaneSt.afterEndCheck hnd levels pc pc { x with pc := pc + 1, rslot := none }) := by
  have hq : LaneSt.queuesOf hnd { x with pc := pc + 1, rslot := none } = x.queuesOf hnd := rfl
  have hset (q : LaneQ) : LaneSt.setQueuesOf hnd q { x with pc := pc + 1, rslot := none }
      = { x.setQueuesOf hnd q with pc := pc + 1, i := x.i, rslot := none } := by
    unfold LaneSt.setQueuesOf; split <;> rfl
  unfold LaneSt.afterEndCheck
  simp only [hq, hset]
  cases hback : (endCheck pc pc (x.queuesOf hnd).loops).2 with
  | none => exact wentPast_of_eq rfl (by rw [hback]) rfl fun _ => rfl
  | some e =>
    obtain ⟨i, hi⟩ := setIndex_eq levels e { x.setQueuesOf hnd { x.queuesOf hnd with
      loops := (endCheck pc pc (x.queuesOf hnd).loops).1 } with pc := pc + 1, i := x.i, rslot := none }
    simp only [hi]
    exact wentPast_of_eq (i := i) rfl (by rw [hback]) rfl fun h => by rw [hback] at h; cases h

/-! ### The lanes of a context go past one word -/

/-- The lanes `ms` of context `k` have gone past the word at `pc`; its other lanes and its registers are as they were. -/
structure LanesPast (s t : State) (k pc : Nat) (ms : List Lane) : Prop where
  cur : t.cur = s.cur
  cores : t.cores = s.cores
  core : (t.ctx k).core = (s.ctx k).core
  regs : (s.ctx k).SameRegs (t.ctx k)
  past : ∀ m ∈ ms, WentPast (s.ctx k).ctrl.hnd pc (s.lane k m) (t.lane k m)
  rest : ∀ m, m ∉ ms → t.lane k m = s.lane k m

theorem lanesPast_advance (s : State) (k : Nat) (l : Lane) (pc : Nat) : LanesPast s (s.advance k l pc 1) k pc [l] := by
  let levels := (s.nest (s.ctx k).nest).levels
  let c := (s.ctx k).updLane l (fun x => { x with pc := pc + 1, rslot := none })
  have hme : (s.advance k l pc 1).ctx k = c.endCheck levels l pc pc := s.ctx_updCtx k _
  have honly : (s.ctx k).OnlyLane (c.endCheck levels l pc pc) l :=
    ((s.ctx k).onlyLane_updLane l (fun x => { x with pc := pc + 1, rslot := none }) fun _ => rfl).trans (c.onlyLane_endCheck levels l pc pc)
  have hmine : (c.endCheck levels l pc pc).lane l
      = LaneSt.afterEndCheck (s.ctx k).ctrl.hnd levels pc pc { (s.ctx k).lane l with pc := pc + 1, rslot := none } := by
    rw [Ctx.lane_endCheck, Ctx.updLane_ctrl, Ctx.lane_updLane]
  constructor
  case cur => rfl
  case cores => rfl
  case core => rw [hme]; exact honly.core
  case regs => rw [hme]; exact honly.regs
  case past =>
    intro m hm
    obtain rfl := List.mem_singleton.mp hm
    simp only [State.lane, hme, hmine]
    exact wentPast_afterEndCheck _ levels pc _
  case rest =>
    intro m hm
    simp only [State.lane, hme]
    exact honly.others m (by simpa using hm)

theorem lanesPast_foldl (s : State) (k pc : Nat) {ms : List Lane} (hms : ms.Nodup) :
    LanesPast s (ms.foldl (fun t l => t.advance k l pc 1) s) k pc ms := by
  induction ms generalizing s with
  | nil => exact ⟨rfl, rfl, rfl, .refl _, nofun, fun _ _ => rfl⟩
  | cons l ms ih =>
    rw [List.nodup_cons] at hms
    have h1 := lanesPast_advance s k l pc
    have h2 := ih (s.advance k l pc 1) hms.2
    have hhnd : ((s.advance k l pc 1).ctx k).ctrl.hnd = (s.ctx k).ctrl.hnd := by rw [h1.regs.ctrl]
    refine ⟨h2.cur.trans h1.cur, h2.cores.trans h1.cores, h2.core.trans h1.core, h1.regs.trans h2.regs, fun m hm => ?_,
      fun m hm => ?_⟩
    · rw [List.foldl_cons]
      by_cases hl : m = l
      · subst hl
        rw [h2.rest m hms.1]
        exact h1.past m (List.mem_singleton_self m)
      · rw [← h1.rest m (by simpa using hl), ← hhnd]
        exact h2.past m (by simpa [hl] using hm)
    · rw [List.mem_cons, not_or] at hm
      exact (h2.rest m hm.2).trans (h1.rest m (by simpa using hm.1))

theorem Ctx.liveLanes_nodup (c : Ctx) : c.liveLanes.Nodup := (by decide : lanes.Nodup).filter _

theorem Ctx.mem_liveLanes {c : Ctx} {m : Lane} : m ∈ c.liveLanes ↔ (c.lane m).ended = false := by
  have hm : m ∈ lanes := by cases m <;> decide
  simp [Ctx.liveLanes, List.mem_filter, hm, LaneSt.isOut]

theorem lanesPast_leaveMeeting (s : State) (k pc : Nat) : LanesPast s (leaveMeeting s k pc) k pc (s.ctx k).liveLanes :=
  lanesPast_foldl s k pc (s.ctx k).liveLanes_nodup

/-! ### What has issued lands at a meeting point, and the word counts (R65, R71) -/

/-- The pending accumulator writes of a context. -/
def State.pendingAccs (s : State) (k : Nat) : List PendAcc := (s.core (s.ctx k).core).accq.filter (fun e => e.ctx == k)

/-- A list of accumulator writes lands. -/
def landAccs (due : List PendAcc) (acc : Vector AccWord 4) : Vector AccWord 4 :=
  due.foldl (fun v e => v.setIfInBounds e.acc e.val) acc

/-- The writes land one by one in the context; the rest of the state is as it was. -/
theorem foldl_landAcc (due : List PendAcc) (s : State) (k : Nat) :
    let t := due.foldl (fun t e => t.updCtx k (fun x => { x with acc := x.acc.setIfInBounds e.acc e.val })) s
    t.ctx k = { s.ctx k with acc := landAccs due (s.ctx k).acc } ∧ t.cur = s.cur ∧ t.cores = s.cores := by
  induction due generalizing s with
  | nil => exact ⟨rfl, rfl, rfl⟩
  | cons e due ih =>
    obtain ⟨hctx, hcur, hcores⟩ := ih (s.updCtx k (fun x => { x with acc := x.acc.setIfInBounds e.acc e.val }))
    rw [State.ctx_updCtx] at hctx
    exact ⟨hctx, hcur, hcores⟩

theorem landAll_eq (s : State) (k : Nat) :
    ((landAll s k).ctx k = Ctx.land { s.ctx k with acc := landAccs (s.pendingAccs k) (s.ctx k).acc })
      ∧ (landAll s k).cur = s.cur ∧ ∀ e ∈ ((landAll s k).core (s.ctx k).core).accq, e.ctx ≠ k := by
  obtain ⟨hctx, hcur, -⟩ := foldl_landAcc (s.pendingAccs k) s k
  refine ⟨?_, hcur, ?_⟩
  · unfold landAll
    rw [State.ctx_updCtx]
    exact congrArg Ctx.land hctx
  · unfold landAll
    intro e he
    rw [show ∀ (t : State) f, (t.updCtx k f).core (s.ctx k).core = t.core (s.ctx k).core from fun _ _ => rfl,
      State.core_updCore] at he
    simpa using (List.mem_filter.mp he).2

/-- What the meeting word leaves of a lane that takes part. -/
def LaneSt.countMet (x : LaneSt) : LaneSt := { x.land with lcnt := (x.lcnt + 1) % 2 ^ 64, arrived := false }

theorem Ctx.lane_land (c : Ctx) (m : Lane) : c.land.lane m = (c.lane m).land := by cases m <;> rfl

/-- The lanes `ms` count the word. -/
theorem lane_foldl_updLane (f : LaneSt → LaneSt) (hf : ∀ x, (f x).s = x.s) {ms : List Lane} (hms : ms.Nodup) (s : State)
    (k : Nat) :
    let t := ms.foldl (fun t l => t.updLane k l f) s
    (s.ctx k).SameRegs (t.ctx k) ∧ (t.ctx k).core = (s.ctx k).core ∧ t.cur = s.cur ∧ t.cores = s.cores
      ∧ ∀ m, t.lane k m = if m ∈ ms then f (s.lane k m) else s.lane k m := by
  induction ms generalizing s with
  | nil => exact ⟨.refl _, rfl, rfl, rfl, fun m => (if_neg List.not_mem_nil).symm⟩
  | cons l ms ih =>
    rw [List.nodup_cons] at hms
    have hctx : (s.updLane k l f).ctx k = (s.ctx k).updLane l f := s.ctx_updCtx k _
    obtain ⟨hregs, hcore, hcur, hcores, hlane⟩ := ih hms.2 (s.updLane k l f)
    rw [hctx] at hregs hcore
    refine ⟨(Ctx.SameRegs.updLane _ l f hf).trans hregs, hcore.trans ((s.ctx k).updLane_core l f), hcur, hcores, fun m => ?_⟩
    rw [List.foldl_cons, hlane]
    by_cases hm : m = l
    · subst hm
      rw [if_neg hms.1, if_pos List.mem_cons_self, State.lane_updLane]
    · have hother : (s.updLane k l f).lane k m = s.lane k m := by
        rw [State.lane, hctx]
        exact Ctx.lane_updLane_ne _ _ hm
      simp only [hother, List.mem_cons, hm, false_or]

/-- The state in which everything of context `k` has landed and its live lanes have counted the meeting word. -/
structure Counted (s t : State) (k : Nat) : Prop where
  cur : t.cur = s.cur
  core : (t.ctx k).core = (s.ctx k).core
  f : (t.ctx k).f = (s.ctx k).f
  v : (t.ctx k).v = (s.ctx k).v
  p : (t.ctx k).p = (s.ctx k).p
  acc : (t.ctx k).acc = landAccs (s.pendingAccs k) (s.ctx k).acc
  hnd : (t.ctx k).ctrl.hnd = (s.ctx k).ctrl.hnd
  asid : (t.ctx k).ctrl.asid = (s.ctx k).ctrl.asid
  accq : ∀ e ∈ (t.core (s.ctx k).core).accq, e.ctx ≠ k
  lane : ∀ m, t.lane k m = if m ∈ (s.ctx k).liveLanes then (s.lane k m).countMet else (s.lane k m).land

theorem counted_countMeeting (s : State) (k : Nat) : Counted s (countMeeting s k) k := by
  obtain ⟨hland, hcur, haccq⟩ := landAll_eq s k
  obtain ⟨hregs, hcore, hcur', hcores, hlane⟩ := lane_foldl_updLane
    (fun x => { x with lcnt := (x.lcnt + 1) % 2 ^ 64, arrived := false }) (fun _ => rfl) (s.ctx k).liveLanes_nodup (landAll s k) k
  rw [hland] at hregs hcore
  have hctx := State.ctx_updCtx ((s.ctx k).liveLanes.foldl (fun t l =>
    t.updLane k l (fun x => { x with lcnt := (x.lcnt + 1) % 2 ^ 64, arrived := false })) (landAll s k)) k (fun c => { c with
      fatal := c.fatal.map (fun f => (c.liveLanes).foldl (fun f l => f.spend l 1) f)
      ctrl := { c.ctrl with itcount := c.ctrl.itcount + BitVec.ofNat 64 (s.ctx k).liveLanes.length } })
  have hme : (countMeeting s k).ctx k = _ := hctx
  constructor
  case cur => exact hcur'.trans hcur
  case core => rw [hme]; exact hcore
  case f => rw [hme]; exact hregs.f
  case v => rw [hme]; exact hregs.v
  case p => rw [hme]; exact hregs.p
  case acc => rw [hme]; exact hregs.acc
  case hnd => rw [hme]; exact (congrArg Ctrl.hnd hregs.ctrl :)
  case asid => rw [hme]; exact (congrArg Ctrl.asid hregs.ctrl :)
  case accq =>
    intro e he
    have hcore' : (countMeeting s k).core (s.ctx k).core = (landAll s k).core (s.ctx k).core :=
      congrArg (fun cs => (kvGet cs (s.ctx k).core).getD _) hcores
    exact haccq e (hcore' ▸ he)
  case lane =>
    intro m
    have hm : (landAll s k).lane k m = (s.lane k m).land := by
      rw [State.lane, hland, Ctx.lane_land]
      cases m <;> rfl
    have : (countMeeting s k).lane k m = _ := (congrArg (fun c => Ctx.lane c m) hme).trans (hlane m)
    rw [this, hm]
    rfl

/-! ### SYNC, OVL and END -/

/-- A context after a meeting at the word `pc`, which found it as `c` with the accumulator writes `due` pending. -/
structure PastMeeting (c : Ctx) (due : List PendAcc) (pc : Nat) (d : Ctx) : Prop where
  past : ∀ m ∈ c.liveLanes, WentPast c.ctrl.hnd pc (c.lane m).countMet (d.lane m)
  hnd : d.ctrl.hnd = c.ctrl.hnd
  f : d.f = c.f
  v : d.v = c.v
  p : d.p = c.p
  acc : d.acc = landAccs due c.acc

theorem Counted.liveLanes {s t : State} {k : Nat} (h : Counted s t k) : (t.ctx k).liveLanes = (s.ctx k).liveLanes := by
  have hended (m : Lane) : ((t.ctx k).lane m).isOut = ((s.ctx k).lane m).isOut := by
    rw [show (t.ctx k).lane m = _ from h.lane m]
    split <;> rfl
  simp only [Ctx.liveLanes, hended]

/-- The last lane reaches the meeting point: everything lands, the word counts, and every live lane goes past it. -/
theorem pastMeeting_leave (s : State) (k pc : Nat) :
    let u := leaveMeeting (countMeeting s k) k pc
    PastMeeting (s.ctx k) (s.pendingAccs k) pc (u.ctx k) ∧ u.cur = s.cur ∧ (u.ctx k).core = (s.ctx k).core
      ∧ (u.ctx k).ctrl.asid = (s.ctx k).ctrl.asid ∧ ∀ e ∈ (u.core (s.ctx k).core).accq, e.ctx ≠ k := by
  have h := counted_countMeeting s k
  have g := lanesPast_leaveMeeting (countMeeting s k) k pc
  rw [h.liveLanes] at g
  refine ⟨⟨fun m hm => ?_, (congrArg Ctrl.hnd g.regs.ctrl).trans h.hnd, g.regs.f.trans h.f, g.regs.v.trans h.v,
    g.regs.p.trans h.p, g.regs.acc.trans h.acc⟩, g.cur.trans h.cur, g.core.trans h.core,
    (congrArg Ctrl.asid g.regs.ctrl).trans h.asid, fun e he => h.accq e ?_⟩
  · have hpast := g.past m hm
    rw [h.hnd, h.lane m, if_pos hm] at hpast
    exact hpast
  · simpa only [State.core, g.cores] using he

/-- What the obligation says of a live lane after a meeting. -/
theorem PastMeeting.lane {c d : Ctx} {due : List PendAcc} {pc : Nat} (h : PastMeeting c due pc d) {m : Lane}
    (hm : m ∈ c.liveLanes) :
    let x := d.lane m
    let y := c.lane m
    let ends := endCheck pc pc (c.queues m).loops
    x.pc = (match ends.2 with | some e => e.start | none => pc + 1)
      ∧ (d.queues m).loops = ends.1 ∧ (d.queues m).outs = (c.queues m).outs ∧ (ends.2 = none → x.i = y.i)
      ∧ x.arrived = false ∧ x.ended = false ∧ x.rslot = none ∧ x.lcnt = (y.lcnt + 1) % 2 ^ 64
      ∧ x.inflight = [] ∧ x.scratchInflight = [] ∧ x.s = y.s := by
  obtain ⟨hpc, hloops, houts, hindex, harrived, hended, hrslot, hlcnt, hinflight, hscratch, hs⟩ := h.past m hm
  have hq : d.queues m = (d.lane m).queuesOf c.ctrl.hnd := by rw [Ctx.queues_eq, h.hnd]
  rw [← hq] at hloops houts
  exact ⟨hpc, hloops, houts, hindex, harrived, hended.trans (Ctx.mem_liveLanes.mp hm), hrslot, hlcnt, hinflight, hscratch, hs⟩

/-- OVL's new expectation in a slot leaves lanes and registers. -/
theorem PastMeeting.setOvl {c d : Ctx} {due : List PendAcc} {pc : Nat} (h : PastMeeting c due pc d) (slot : Nat) (o : OvlSlot)
    (w : List (Nat × Nat)) : PastMeeting c due pc { d.setOvl slot o with ovlWait := w } := by
  have hlane (m : Lane) : Ctx.lane { d.setOvl slot o with ovlWait := w } m = d.lane m := by
    unfold Ctx.setOvl; split <;> cases m <;> rfl
  obtain ⟨past, hnd, hf, hv, hp, hacc⟩ := h
  refine ⟨fun m hm => by rw [hlane]; exact past m hm, ?_, ?_, ?_, ?_, ?_⟩ <;> unfold Ctx.setOvl <;> split <;> assumption

theorem CoreSt.imem_setImem (x : CoreSt) (slot : Nat) (m : ImemSlot) : (x.setImem slot m).imem slot = m := by
  by_cases h : slot = 0 <;> simp [CoreSt.imem, CoreSt.setImem, h]

theorem CoreSt.accq_setImem (x : CoreSt) (slot : Nat) (m : ImemSlot) : (x.setImem slot m).accq = x.accq := by
  unfold CoreSt.setImem; split <;> rfl

theorem Ctx.ovl_setOvl (c : Ctx) (slot : Nat) (o : OvlSlot) (w : List (Nat × Nat)) :
    Ctx.ovl { c.setOvl slot o with ovlWait := w } slot = o := by
  by_cases h : slot = 0 <;> simp [Ctx.ovl, Ctx.setOvl, h]

theorem startFill_core (s : State) (k slot : Nat) {c : Ctx} (hc : s.ctx k = c) :
    (startFill s k slot).core c.core
      = (s.core c.core).setImem slot ⟨c.ctrl.asid, (c.ovl slot).addr, (c.ovl slot).len, [], false, false⟩ := by
  subst hc
  exact s.core_updCore _ _

/-- OVL's slot expects the image and begins to fill with it; the rest of the context and of the core is as it was. -/
theorem ovlBegin_eq (s : State) (k slot : Nat) (addr len : Word) (wait : Bool) :
    let t := ovlBegin s k slot addr len wait
    (∃ w, t.ctx k = { (s.ctx k).setOvl slot ⟨.loading, addr, len.toNat⟩ with ovlWait := w })
      ∧ t.core (s.ctx k).core = (s.core (s.ctx k).core).setImem slot ⟨(s.ctx k).ctrl.asid, addr, len.toNat, [], false, false⟩ := by
  have hctx := s.ctx_updCtx k (fun c =>
    { c.setOvl slot ⟨.loading, addr, len.toNat⟩ with
      ovlWait := (if wait then [(c.ctrl.hnd.toNat, slot)] else []) ++ c.ovlWait.filter (fun q => q.1 != c.ctrl.hnd.toNat) })
  refine ⟨⟨_, hctx⟩, ?_⟩
  have hfill := startFill_core _ k slot hctx
  have hcore : ((s.ctx k).setOvl slot ⟨.loading, addr, len.toNat⟩).core = (s.ctx k).core := by
    unfold Ctx.setOvl; split <;> rfl
  have hctrl : ((s.ctx k).setOvl slot ⟨.loading, addr, len.toNat⟩).ctrl = (s.ctx k).ctrl := by
    unfold Ctx.setOvl; split <;> rfl
  rw [Ctx.ovl_setOvl] at hfill
  simp only [hcore, hctrl] at hfill
  exact hfill

theorem Ctx.lane_foldl_updLane (f : LaneSt → LaneSt) (c : Ctx) (m : Lane) :
    (lanes.foldl (fun c m => c.updLane m f) c).lane m = f (c.lane m) := by
  cases m <;> rfl

/-- What the last lane to reach a SYNC brings about. -/
theorem exec_sync_last {s : State} (hall : s.allMet = true) (h : Hdr) (o : RegOps) :
    exec (.sync h o) s = .next ((leaveMeeting (countMeeting s s.cur.ctx) s.cur.ctx s.cur.pc).setRes .met) := by
  change execSync h o s = _
  rw [execSync, atMeeting_last hall, (counted_countMeeting s s.cur.ctx).cur]

/-- What the last lane to reach an OVL with a legal image brings about. -/
theorem exec_ovl_last {s : State} (hall : s.allMet = true) (h : Hdr) (o : RegOps)
    (hok : ovlOperandsOk (s.me.laneL.land.srcS o.a.toNat 0) (s.me.laneL.land.srcS o.b.toNat 0) = true) :
    exec (.ovl h o) s = .next ((ovlBegin (leaveMeeting (countMeeting s s.cur.ctx) s.cur.ctx s.cur.pc) s.cur.ctx
      (o.sub.toNat % 2) (s.me.laneL.land.srcS o.a.toNat 0) (s.me.laneL.land.srcS o.b.toNat 0) (o.sub.getLsbD 1)).setRes .met) := by
  change execOvl h o s = _
  simp only [execOvl, hok, Bool.not_true, Bool.false_eq_true, and_false, if_false, atMeeting_last hall,
    (counted_countMeeting s s.cur.ctx).cur]

/-- A lane that reaches SYNC or OVL before the others waits. -/
theorem exec_meeting_early {s : State} (hall : s.allMet = false) {h : Hdr} {o : RegOps} {i : Instr}
    (hi : i ∈ ([.sync h o, .ovl h o] : List Instr)) :
    exec i s = .next ((s.updMyLane (fun x => { x with arrived := true })).setRes .met) := by
  simp only [List.mem_cons, List.not_mem_nil, or_false] at hi
  obtain rfl | rfl := hi
  · exact congrArg Host.Outcome.next (atMeeting_early hall _)
  · change execOvl h o s = _
    rw [execOvl, if_neg (by simp [hall]), atMeeting_early hall]

/-- END takes its lane out; the other lanes only look at their meeting point again. -/
theorem lane_execEnd (s : State) (m : Lane) :
    let d := (lanes.foldl (fun c m => c.updLane m (fun x => { x with arrived := false })) s.me).updLane s.cur.lane
      (fun x => { x with ended := true, rslot := none })
    d.lane m = if m = s.cur.lane then { s.me.lane m with arrived := false, ended := true, rslot := none }
      else { s.me.lane m with arrived := false } := by
  intro d
  by_cases hm : m = s.cur.lane
  · subst hm
    rw [if_pos rfl, Ctx.lane_updLane, Ctx.lane_foldl_updLane]
  · rw [if_neg hm, Ctx.lane_updLane_ne _ _ hm, Ctx.lane_foldl_updLane]

/-- Settles O19: at a meeting everything lands, the word counts, and each live lane goes past the word as it does alone. -/
theorem meetingPoints : Obligations.MeetingPoints := by
  intro h o s k mine past addr len slot
  obtain ⟨hpast, hcur, hcore, hasid, haccq⟩ := pastMeeting_leave s k s.cur.pc
  have hgo (t : State) (hctx : PastMeeting s.me mine s.cur.pc t.me)
      (hacc : ∀ e ∈ (t.core s.me.core).accq, e.ctx ≠ k) : past t :=
    ⟨fun m hm => hctx.lane hm, hctx.f, hctx.v, hctx.p, hctx.acc, hacc⟩
  refine ⟨fun hall i hi => ?_, fun hall => ?_, fun hall hok => ?_, ?_⟩
  · refine ⟨_, exec_meeting_early hall hi, rfl, s.myLane_updMyLane _, fun m hm => ?_⟩
    exact (congrArg (fun c => Ctx.lane c m) (s.ctx_updCtx s.cur.ctx
      (fun c => c.updLane s.cur.lane (fun x => { x with arrived := true })))).trans (Ctx.lane_updLane_ne _ _ hm)
  · have hk : (leaveMeeting (countMeeting s k) k s.cur.pc).cur.ctx = k := congrArg Issue.ctx hcur
    have hme : ((leaveMeeting (countMeeting s k) k s.cur.pc).setRes .met).me = (leaveMeeting (countMeeting s k) k s.cur.pc).ctx k :=
      congrArg (leaveMeeting (countMeeting s k) k s.cur.pc).ctx hk
    exact ⟨_, exec_sync_last hall h o, rfl, hgo _ (hme ▸ hpast) haccq⟩
  · obtain ⟨⟨w, hctx⟩, hfill⟩ := ovlBegin_eq (leaveMeeting (countMeeting s k) k s.cur.pc) k slot addr len (o.sub.getLsbD 1)
    rw [hcore, hasid] at hfill
    have hme : ((ovlBegin (leaveMeeting (countMeeting s k) k s.cur.pc) k slot addr len (o.sub.getLsbD 1)).setRes .met).me = _ :=
      (congrArg _ (congrArg Issue.ctx hcur)).trans hctx
    have hmem : ((ovlBegin (leaveMeeting (countMeeting s k) k s.cur.pc) k slot addr len (o.sub.getLsbD 1)).setRes .met).core
      s.me.core = _ := hfill
    refine ⟨_, exec_ovl_last hall h o hok, rfl, hgo _ ?_ fun e he => haccq e ?_, ?_, ?_⟩
    · rw [hme]; exact hpast.setOvl slot _ w
    · rw [hmem, CoreSt.accq_setImem] at he
      exact he
    · rw [hme]; exact Ctx.ovl_setOvl _ _ _ w
    · rw [hmem]
      exact CoreSt.imem_setImem _ _ _
  · have hlane := lane_execEnd s
    have hme := s.me_updMe (fun c => (lanes.foldl (fun c m => c.updLane m (fun x => { x with arrived := false })) c).updLane
      s.cur.lane (fun x => { x with ended := true, rslot := none }))
    refine ⟨_, rfl, rfl, ?_, fun m hm => ?_⟩
    · exact congrArg LaneSt.ended ((congrArg (fun c => Ctx.lane c s.cur.lane) hme).trans ((hlane _).trans (if_pos rfl)))
    · exact (congrArg (fun c => Ctx.lane c m) hme).trans ((hlane m).trans (if_neg hm))

end Sys2Proof.Machine
end

section
/-! Proofs. Translations that change nothing, the pieces of a store, and ST, VSTG and VSCAT (O24). -/

namespace Sys2Proof.Machine

/-! ### What a translation looks at (R382 to R386) -/

/-- Two states that agree in everything that a translation of the device half looks at. -/
structure SameTables (s u : State) : Prop where
  mem : u.mem = s.mem
  wlog : u.wlog = s.wlog
  tlb : u.tlb = s.tlb
  asidTable : u.asidTable = s.asidTable
  aperBase : u.aperBase = s.aperBase
  aperSize : u.aperSize = s.aperSize
  poison : u.poison = s.poison

theorem SameTables.refl (s : State) : SameTables s s := ⟨rfl, rfl, rfl, rfl, rfl, rfl, rfl⟩

theorem SameTables.trans {s t u : State} (h : SameTables s t) (g : SameTables t u) : SameTables s u :=
  ⟨g.mem.trans h.mem, g.wlog.trans h.wlog, g.tlb.trans h.tlb, g.asidTable.trans h.asidTable, g.aperBase.trans h.aperBase,
    g.aperSize.trans h.aperSize, g.poison.trans h.poison⟩

theorem readNat_congr {s u : State} (hm : u.mem = s.mem) (hw : u.wlog = s.wlog) (a n : Nat) : u.readNat a n = s.readNat a n :=
  readNat_of_byteAt_eq fun i _ => sameBytes_of_mem_wlog hm hw (a + i)

theorem walkFrom_congr {s u : State} (hm : u.mem = s.mem) (hw : u.wlog = s.wlog) (die asid gen va t : Nat)
    (lvls : List (Nat × Nat × Nat × Nat)) : u.walkFrom die asid gen va t lvls = s.walkFrom die asid gen va t lvls := by
  induction lvls generalizing t with
  | nil => rfl
  | cons l lvls ih => simp only [State.walkFrom, readNat_congr hm hw, ih]

theorem walkPoison_congr {s u : State} (h : SameTables s u) (va t : Nat) (lvls : List (Nat × Nat × Nat × Nat)) :
    u.walkPoison va t lvls = s.walkPoison va t lvls := by
  induction lvls generalizing t with
  | nil => rfl
  | cons l lvls ih => simp only [State.walkPoison, readNat_congr h.mem h.wlog, h.poison, ih]

theorem SameTables.field {s u : State} (h : SameTables s u) (a lo n : Nat) : u.field a lo n = s.field a lo n := by
  simp only [State.field, readNat_congr h.mem h.wlog]

theorem SameTables.rootOf {s u : State} (h : SameTables s u) (asid : Nat) : u.rootOf asid = s.rootOf asid := by
  simp only [State.rootOf, State.asidDesc, h.asidTable, h.field, readNat_congr h.mem h.wlog]

theorem SameTables.asidGen {s u : State} (h : SameTables s u) (asid : Nat) : u.asidGen asid = s.asidGen asid := by
  simp only [State.asidGen, State.asidDesc, h.asidTable, h.field]

theorem SameTables.tlbHits {s u : State} (h : SameTables s u) (die asid va : Nat) : u.tlbHits die asid va = s.tlbHits die asid va := by
  simp only [State.tlbHits, h.tlb, h.asidGen]

theorem SameTables.useEnt {s u : State} (h : SameTables s u) (e : TlbEnt) (va : Nat) (priv write : Bool) :
    useEnt u e va priv write = useEnt s e va priv write := by
  have hloc : u.entLoc e va = s.entLoc e va := by simp only [State.entLoc, h.aperBase, h.aperSize]
  simp only [Machine.useEnt, hloc]

theorem SameTables.walkError {s u : State} (h : SameTables s u) (asid va : Nat) : u.walkError asid va = s.walkError asid va := by
  simp only [State.walkError, h.poison, h.rootOf, walkPoison_congr h]

/-- What a walk cache or a TLB takes up leaves the tables, and uses free values or none. -/
theorem keepWalk_leaves (s : State) (e : WalkEnt) :
    (keepWalk s e).mem = s.mem ∧ (keepWalk s e).wlog = s.wlog ∧ (keepWalk s e).tlb = s.tlb ∧ s.fresh ≤ (keepWalk s e).fresh := by
  unfold keepWalk replaceOne
  dsimp only
  split
  · exact ⟨rfl, rfl, rfl, le_rfl⟩
  · split
    · exact ⟨rfl, rfl, rfl, le_rfl⟩
    · exact ⟨rfl, rfl, rfl, Nat.le_succ _⟩

theorem keepTlb_holds (s : State) (e : TlbEnt) : e ∈ (keepTlb s e).tlb ∧ s.fresh ≤ (keepTlb s e).fresh := by
  unfold keepTlb replaceOne
  dsimp only
  split
  · next h => exact ⟨List.contains_iff_mem.mp h, le_rfl⟩
  · split
    · exact ⟨List.mem_append_left _ List.mem_cons_self, le_rfl⟩
    · exact ⟨List.mem_append_left _ List.mem_cons_self, Nat.le_succ _⟩

/-- A free value is used only where there is a choice. -/
theorem freeIf_leaves {α : Type} (s : State) (old : List α) (kind : Nat) :
    let p := if old.isEmpty then (0, s) else s.free kind
    p.2.mem = s.mem ∧ p.2.wlog = s.wlog ∧ p.2.tlb = s.tlb ∧ s.fresh ≤ p.2.fresh ∧ (p.2.fresh = s.fresh → old = []) := by
  cases old with
  | nil => exact ⟨rfl, rfl, rfl, le_rfl, fun _ => rfl⟩
  | cons x old => exact ⟨rfl, rfl, rfl, Nat.le_succ _, fun h => absurd h (Nat.succ_ne_self _)⟩

/-- A walk that uses no free value answers what the tables give. -/
theorem walkVia_settled (s : State) (die asid gen va t level : Nat) (lvls : List (Nat × Nat × Nat × Nat)) :
    let r := s.walkVia die asid gen va t level lvls
    r.2.tlb = s.tlb ∧ s.fresh ≤ r.2.fresh ∧ (r.2.fresh = s.fresh → r.1 = s.walkFrom die asid gen va t lvls) := by
  induction lvls generalizing s t level with
  | nil => exact ⟨rfl, le_rfl, fun _ => rfl⟩
  | cons l lvls ih =>
    rw [State.walkVia, State.walkFrom]
    dsimp only
    generalize (s.walks.filter _).map (·.entry) = old
    obtain ⟨pmem, pwlog, ptlb, ple, pnone⟩ := freeIf_leaves s old 4
    generalize (if old.isEmpty = true then (0, s) else s.free 4) = p at *
    have he : p.2.fresh = s.fresh → (s.readNat (t + 8 * bits va l.1 l.2.1) 8 :: old).getD (p.1 % (old.length + 1))
        (s.readNat (t + 8 * bits va l.1 l.2.1) 8) = s.readNat (t + 8 * bits va l.1 l.2.1) 8 := fun h => by
      rw [pnone h, List.length_nil, Nat.zero_add, Nat.mod_one]; rfl
    generalize (s.readNat (t + 8 * bits va l.1 l.2.1) 8 :: old).getD (p.1 % (old.length + 1)) _ = e at *
    cases hw : walkEntry die asid gen va e l with
    | error f => exact ⟨ptlb, ple, fun h => by rw [← he h, hw]⟩
    | ok x =>
      cases x with
      | inr x => exact ⟨ptlb, ple, fun h => by rw [← he h, hw]⟩
      | inl next =>
        obtain ⟨kmem, kwlog, ktlb, kle⟩ := keepWalk_leaves p.2 ⟨die, asid, gen, level, va / 2 ^ l.1, e⟩
        obtain ⟨rtlb, rle, rwalk⟩ := ih (keepWalk p.2 ⟨die, asid, gen, level, va / 2 ^ l.1, e⟩) next (level + 1)
        refine ⟨rtlb.trans (ktlb.trans ptlb), ple.trans (kle.trans rle), fun h => ?_⟩
        have hk := le_antisymm (rle.trans h.le) (ple.trans kle)
        rw [← he (le_antisymm (kle.trans hk.le) ple), hw]
        exact (rwalk (h.trans hk.symm)).trans (walkFrom_congr (kmem.trans pmem) (kwlog.trans pwlog) die asid gen va next lvls)

/-! ### A translation that changes nothing -/

/-- A translation of the device half that a TLB holds as the tables give it, with nothing stale beside it. -/
structure Cached (s : State) (w : Who) (write : Bool) (va : Nat) (x : Xlat) where
  low : va < 2 ^ 57
  device : bits va 56 1 = 1
  held : ∃ t e, s.rootOf w.asid = some t
    ∧ s.walkFrom (dieOfCore w.core) w.asid (s.asidGen w.asid) va t walkLevels = .ok e
    ∧ (s.tlbHits (dieOfCore w.core) w.asid va).filter (fun f => f != e) = [] ∧ e ∈ s.tlb
    ∧ useEnt s e va w.priv write = .ok x

theorem Cached.translate {s : State} {w : Who} {write : Bool} {va : Nat} {x : Xlat} (h : Cached s w write va x) :
    s.translate (dieOfCore w.core) w.asid w.priv write va = (.ok x, s) := by
  obtain ⟨hlow, hdev, t, e, hroot, hwalk, hstale, hmem, huse⟩ := h
  simp only [State.translate, if_neg (Nat.not_le.mpr hlow), if_pos hdev, hroot, hwalk, hstale]
  simp [hmem, huse]

/-- A walk that answers an entry, which is then kept, changes the state or answers what the tables give and a TLB holds. -/
theorem walkVia_kept {s s1 : State} {die asid gen va t : Nat} {e : TlbEnt} (hmem : s1.mem = s.mem) (hwlog : s1.wlog = s.wlog)
    (hle : s.fresh ≤ s1.fresh)
    (hr : (s1.walkVia die asid gen va t 0 walkLevels).1 = .ok e)
    (hkeep : keepTlb (s1.walkVia die asid gen va t 0 walkLevels).2 e = s) :
    s.walkFrom die asid gen va t walkLevels = .ok e ∧ e ∈ s.tlb := by
  obtain ⟨-, rle, rwalk⟩ := walkVia_settled s1 die asid gen va t 0 walkLevels
  obtain ⟨kmem, kle⟩ := keepTlb_holds (s1.walkVia die asid gen va t 0 walkLevels).2 e
  rw [hkeep] at kmem kle
  have hfresh := le_antisymm (kle.trans hle) rle
  exact ⟨((walkFrom_congr hmem hwlog ..).symm.trans (rwalk hfresh).symm).trans hr, kmem⟩

/-- A translation that leaves the state as it was is one that a TLB holds: every other way uses a free value or caches an
entry. -/
theorem cached_of_translate {s : State} {w : Who} {write : Bool} {va : Nat} {x : Xlat}
    (h : s.translate (dieOfCore w.core) w.asid w.priv write va = (.ok x, s)) : Cached s w write va x := by
  unfold State.translate at h
  by_cases hhigh : 2 ^ 57 ≤ va
  · rw [if_pos hhigh] at h; cases (Prod.ext_iff.mp h).1
  rw [if_neg hhigh] at h
  by_cases hdev : bits va 56 1 = 1
  · rw [if_pos hdev] at h
    cases hroot : s.rootOf w.asid with
    | none => simp [hroot] at h
    | some t =>
      simp only [hroot] at h
      generalize hold : (s.tlbHits (dieOfCore w.core) w.asid va).filter _ = stale at h
      obtain ⟨pmem, pwlog, -, ple, pnone⟩ := freeIf_leaves s stale 1
      generalize (if stale.isEmpty = true then (0, s) else s.free 1) = p at *
      obtain ⟨n, s1⟩ := p
      dsimp only at *
      cases hget : stale[n % (stale.length + 1)]? with
      | some e =>
        simp only [hget, Prod.mk.injEq] at h
        rw [pnone (by rw [h.2])] at hget
        cases hget
      | none =>
        simp only [hget] at h
        have hkept : ∀ e, (s1.walkVia (dieOfCore w.core) w.asid (s.asidGen w.asid) va t 0 walkLevels).1 = .ok e → _ :=
          fun e => walkVia_kept (s := s) (e := e) pmem pwlog ple
        cases hnow : s.walkFrom (dieOfCore w.core) w.asid (s.asidGen w.asid) va t walkLevels with
        | ok e =>
          simp only [hnow] at h hold
          by_cases hin : s.tlb.contains e = true
          · rw [if_pos hin, Prod.mk.injEq] at h
            exact ⟨Nat.not_le.mp hhigh, hdev, t, e, hroot, hnow, hold.trans (pnone (by rw [h.2])), List.contains_iff_mem.mp hin, h.1⟩
          · rw [if_neg hin] at h
            cases hr : (s1.walkVia (dieOfCore w.core) w.asid (s.asidGen w.asid) va t 0 walkLevels).1 with
            | error f => simp [hr] at h
            | ok e' =>
              simp only [hr, Prod.mk.injEq] at h
              obtain ⟨hnow', hmem⟩ := hkept e' hr h.2
              obtain rfl : e = e' := Except.ok.inj (hnow.symm.trans hnow')
              exact absurd (List.contains_iff_mem.mpr hmem) hin
        | error f =>
          simp only [hnow] at h
          cases hr : (s1.walkVia (dieOfCore w.core) w.asid (s.asidGen w.asid) va t 0 walkLevels).1 with
          | error f => simp [hr] at h
          | ok e' =>
            simp only [hr, Prod.mk.injEq] at h
            cases hnow.symm.trans (hkept e' hr h.2).1
  · rw [if_neg hdev] at h
    cases hdesc : s.asidDesc w.asid with
    | none => simp [hdesc] at h
    | some d =>
      simp only [hdesc] at h
      split at h
      · cases (Prod.ext_iff.mp h).1
      · have hmore {α : Type} {a b : α} {u : State} (hu : s.fresh < u.fresh) (e : (a, u) = (b, s)) : False := by
          rw [(Prod.mk.inj e).2] at hu; exact lt_irrefl _ hu
        split at h
        · exact absurd h (hmore (Nat.lt_succ_self _))
        · split at h
          · cases (Prod.ext_iff.mp h).1
          · exact absurd h (hmore (lt_of_lt_of_le (b := ((s.free 2).2.free 3).2.fresh)
              (Nat.lt_succ_of_lt (Nat.lt_succ_self _)) (keepTlb_holds _ _).2))

theorem Sees.cached {s : State} {w : Who} {write : Bool} {va : Nat} {x : Xlat} (h : Sees s w write va x) : Cached s w write va x :=
  cached_of_translate h.1

theorem Cached.same {s u : State} {w : Who} {write : Bool} {va : Nat} {x : Xlat} (h : Cached s w write va x)
    (hu : SameTables s u) : Cached u w write va x := by
  obtain ⟨hlow, hdev, t, e, hroot, hwalk, hstale, hmem, huse⟩ := h
  refine ⟨hlow, hdev, t, e, (hu.rootOf _).trans hroot, ?_, ?_, ?_, (hu.useEnt ..).trans huse⟩
  · rw [hu.asidGen, walkFrom_congr hu.mem hu.wlog]; exact hwalk
  · rw [hu.tlbHits]; exact hstale
  · rw [hu.tlb]; exact hmem

/-- What leaves the tables leaves every translation that changes nothing. -/
theorem Sees.same {s u : State} {w : Who} {write : Bool} {va : Nat} {x : Xlat} (h : Sees s w write va x) (hu : SameTables s u) :
    Sees u w write va x :=
  ⟨(h.cached.same hu).translate, by rw [hu.tlbHits, hu.walkError]; exact h.2⟩

/-! ### The pieces of an access (R109) -/

/-- Pieces that tile the `n` bytes from `va` on, none across a line. -/
inductive Tiles : Nat → Nat → List (Nat × Nat) → Prop
  | nil (va : Nat) : Tiles va 0 []
  | cons {va n k : Nat} {ps : List (Nat × Nat)} (hk : 0 < k) (hline : va / 64 = (va + k - 1) / 64)
      (h : Tiles (va + k) n ps) : Tiles va (k + n) ((va, k) :: ps)

/-- Addresses that do not wrap are tiled in ascending order. -/
theorem tiles_pieces {va n : Nat} (h : va + n ≤ 2 ^ 64) : Tiles va n (pieces va n) := by
  induction n generalizing va with
  | zero => exact .nil va
  | succ n ih =>
    by_cases hn : n = 0
    · subst hn
      exact .cons (n := 0) Nat.one_pos rfl (.nil (va + 1))
    · have hmod : (va + 1) % 2 ^ 64 = va + 1 := Nat.mod_eq_of_lt (by omega)
      have htail := ih (va := va + 1) (by omega)
      rw [pieces, hmod]
      cases hp : pieces (va + 1) n with
      | nil => rw [hp] at htail; cases htail; exact absurd rfl hn
      | cons q ps =>
        rw [hp] at htail
        cases htail with
        | @cons _ m k _ hk hline hrest =>
          dsimp only
          split
          · rw [Nat.add_comm (k + m) 1]
            exact .cons Nat.one_pos (by simp) (.cons hk hline hrest)
          · next hno =>
            rw [not_or] at hno
            rw [show k + m + 1 = (k + 1) + m by omega]
            exact .cons (Nat.succ_pos k) (by omega) (by rwa [show va + (k + 1) = va + 1 + k by omega])

theorem Tiles.first_lt {va n : Nat} {ps : List (Nat × Nat)} (h : Tiles va n ps) (hn : n ≠ 0) : ∃ k qs, ps = (va, k) :: qs := by
  cases h with
  | nil => exact absurd rfl hn
  | cons => exact ⟨_, _, rfl⟩

/-- Every piece lies within the access. -/
theorem Tiles.mem {va n : Nat} {ps : List (Nat × Nat)} (h : Tiles va n ps) {p : Nat × Nat} (hp : p ∈ ps) :
    va ≤ p.1 ∧ p.1 + p.2 ≤ va + n ∧ 0 < p.2 ∧ p.1 / 64 = (p.1 + p.2 - 1) / 64 := by
  induction h with
  | nil => cases hp
  | cons hk hline h ih =>
    rcases List.mem_cons.mp hp with rfl | hp
    · exact ⟨le_rfl, by omega, hk, hline⟩
    · obtain ⟨h1, h2, h3⟩ := ih hp
      exact ⟨by omega, by omega, h3⟩

/-- Bytes of one line are one piece. -/
theorem pieces_of_line {va n : Nat} (hline : va / 64 = (va + n) / 64) (h : va + n < 2 ^ 64) :
    pieces va (n + 1) = [(va, n + 1)] := by
  induction n generalizing va with
  | zero => rfl
  | succ n ih =>
    have hmod : (va + 1) % 2 ^ 64 = va + 1 := Nat.mod_eq_of_lt (by omega)
    have hno : ¬ ((va + 1) % 64 = 0 ∨ va + 1 ≠ va + 1) := by omega
    rw [pieces, hmod, ih (by omega) (by omega)]
    exact if_neg hno

theorem szBytes_le (sz : BitVec 3) : szBytes sz ≤ 8 := by revert sz; decide

/-- A piece of a masked store: its address and its bytes. -/
def pieceBytes (va : Nat) (bs : List (Option Byte)) (p : Nat × Nat) : Nat × List (Option Byte) :=
  (p.1, (bs.drop (p.1 - va)).take p.2)

theorem foldl_pieceBytes {base va n : Nat} {ps : List (Nat × Nat)} (h : Tiles va n ps) (hb : base ≤ va) (bs : List (Option Byte))
    (out : List (Nat × List (Option Byte))) :
    (ps.foldl (fun (acc : Nat × List (Nat × List (Option Byte))) p =>
      (acc.1 + p.2, acc.2 ++ [(p.1, (bs.drop acc.1).take p.2)])) (va - base, out)).2 = out ++ ps.map (pieceBytes base bs) := by
  induction h generalizing out with
  | nil => simp
  | @cons va n k ps hk hline h ih =>
    rw [List.foldl_cons, show va - base + k = va + k - base by omega]
    dsimp only
    rw [ih (by omega), List.map_cons, List.append_assoc]
    rfl

/-- The pieces of a masked store whose addresses do not wrap. -/
theorem storePieces_eq {va : Nat} {bs : List (Option Byte)} (h : va + bs.length ≤ 2 ^ 64) :
    storePieces va bs = ((pieces va bs.length).map (pieceBytes va bs)).filter (fun q => q.2.any (·.isSome)) := by
  have hfold := foldl_pieceBytes (tiles_pieces h) le_rfl bs []
  rw [Nat.sub_self] at hfold
  rw [storePieces, hfold, List.nil_append]

theorem pieceBytes_length {va : Nat} {bs : List (Option Byte)} {p : Nat × Nat} (h : p.1 - va + p.2 ≤ bs.length) :
    (pieceBytes va bs p).2.length = p.2 := by
  simp only [pieceBytes, List.length_take, List.length_drop]
  omega

theorem pieceBytes_getD {va k : Nat} {bs : List (Option Byte)} {p : Nat × Nat} (hk : k < p.2) :
    (pieceBytes va bs p).2.getD k none = bs.getD (p.1 - va + k) none := by
  simp only [pieceBytes, List.getD_eq_getElem?_getD, List.getElem?_take, if_pos hk, List.getElem?_drop]

/-! ### What a lane finds of the pieces that it has stored (R127) -/

/-- A piece stored at the location `at_` of its first byte, as the write path lays it over a byte. -/
def layPiece (at_ : Nat → Nat) (a : Nat) (acc : Byte) (p : Nat × List (Option Byte)) : Byte :=
  if at_ p.1 ≤ a ∧ a < at_ p.1 + p.2.length then (p.2.getD (a - at_ p.1) none).getD acc else acc

/-- The locations of a piece that writes anything follow each other. -/
def Follows (at_ : Nat → Nat) (q : Nat × List (Option Byte)) : Prop := ∀ k, k < q.2.length → at_ (q.1 + k) = at_ q.1 + k

section
variable {at_ : Nat → Nat} {base : Nat} {bs : List (Option Byte)}

/-- A piece leaves a byte to which none of its bytes goes. -/
theorem layPiece_other {va k a : Nat} (hbase : base ≤ va)
    (hf : Follows at_ (pieceBytes base bs (va, k))) (hlen : va - base + k ≤ bs.length)
    (hno : ∀ q, va ≤ base + q → base + q < va + k → bs.getD q none ≠ none → at_ (base + q) ≠ a) (b : Byte) :
    layPiece at_ a b (pieceBytes base bs (va, k)) = b := by
  have hl : (pieceBytes base bs (va, k)).2.length = k := pieceBytes_length hlen
  unfold layPiece
  split
  · next hin =>
    rw [hl] at hin
    have hk : a - at_ va < k := by have := hin.1; have := hin.2; simp only [pieceBytes] at *; omega
    have hget : (pieceBytes base bs (va, k)).2.getD (a - at_ va) none = bs.getD (va - base + (a - at_ va)) none :=
      pieceBytes_getD (p := (va, k)) hk
    have hat := hf (a - at_ va) (by rw [hl]; exact hk)
    have hnone : bs.getD (va - base + (a - at_ va)) none = none := by
      by_contra hne
      refine hno (va - base + (a - at_ va)) (by omega) (by omega) hne ?_
      rw [show base + (va - base + (a - at_ va)) = va + (a - at_ va) by omega]
      have := hin.1
      simp only [pieceBytes] at hat this
      omega
    rw [show a - at_ (pieceBytes base bs (va, k)).1 = a - at_ va from rfl, hget, hnone]
    rfl
  · rfl

/-- A piece gives a byte that it writes. -/
theorem layPiece_written {va k q : Nat} {v : Byte} (hlo : va ≤ base + q) (hbase : base ≤ va) (hhi : base + q < va + k)
    (hf : Follows at_ (pieceBytes base bs (va, k))) (hlen : va - base + k ≤ bs.length) (hv : bs.getD q none = some v) (b : Byte) :
    layPiece at_ (at_ (base + q)) b (pieceBytes base bs (va, k)) = v := by
  have hl : (pieceBytes base bs (va, k)).2.length = k := pieceBytes_length hlen
  have hk : base + q - va < k := by omega
  have hat : at_ (base + q) = at_ va + (base + q - va) := by
    have := hf (base + q - va) (by rw [hl]; exact hk)
    rwa [show (pieceBytes base bs (va, k)).1 + (base + q - va) = base + q by simp only [pieceBytes]; omega] at this
  have hget : (pieceBytes base bs (va, k)).2.getD (base + q - va) none = bs.getD (va - base + (base + q - va)) none :=
    pieceBytes_getD (p := (va, k)) hk
  rw [show va - base + (base + q - va) = q by omega, hv] at hget
  unfold layPiece
  rw [hl, hat, show (pieceBytes base bs (va, k)).1 = va from rfl, if_pos (by omega),
    show at_ va + (base + q - va) - at_ va = base + q - va by omega, hget]
  rfl

/-- The pieces of a masked store that write anything, laid over a byte in ascending order. -/
def layPieces (at_ : Nat → Nat) (a : Nat) (b : Byte) (ps : List (Nat × List (Option Byte))) : Byte := ps.foldl (layPiece at_ a) b

theorem layPieces_filter_cons (a : Nat) (b : Byte) (q : Nat × List (Option Byte)) (qs : List (Nat × List (Option Byte))) :
    layPieces at_ a b ((q :: qs).filter (fun q => q.2.any (·.isSome)))
      = layPieces at_ a (if q.2.any (·.isSome) = true then layPiece at_ a b q else b) (qs.filter (fun q => q.2.any (·.isSome))) := by
  rw [List.filter_cons]
  split <;> rfl

/-- A byte to which no stored byte goes is as it was. -/
theorem layPieces_other {va n a : Nat} {ps : List (Nat × Nat)} (h : Tiles va n ps) (hbase : base ≤ va)
    (hlen : va - base + n ≤ bs.length)
    (hf : ∀ p ∈ ps, (pieceBytes base bs p).2.any (·.isSome) = true → Follows at_ (pieceBytes base bs p))
    (hno : ∀ q, va ≤ base + q → base + q < va + n → bs.getD q none ≠ none → at_ (base + q) ≠ a) (b : Byte) :
    layPieces at_ a b ((ps.map (pieceBytes base bs)).filter (fun q => q.2.any (·.isSome))) = b := by
  induction h generalizing b with
  | nil => rfl
  | @cons va n k ps hk hline h ih =>
    rw [List.forall_mem_cons] at hf
    rw [List.map_cons, layPieces_filter_cons, ih (by omega) (by omega) hf.2 fun q h1 h2 => hno q (by omega) (by omega)]
    split
    · next hany =>
      exact layPiece_other hbase (hf.1 hany) (by omega) (fun q h1 h2 => hno q h1 (by omega)) b
    · rfl

/-- A stored byte whose location no later byte of the store names is found there. -/
theorem layPieces_written {va n q : Nat} {v : Byte} {ps : List (Nat × Nat)} (h : Tiles va n ps) (hbase : base ≤ va)
    (hlen : va - base + n ≤ bs.length)
    (hf : ∀ p ∈ ps, (pieceBytes base bs p).2.any (·.isSome) = true → Follows at_ (pieceBytes base bs p))
    (hlo : va ≤ base + q) (hhi : base + q < va + n) (hv : bs.getD q none = some v)
    (hlast : ∀ r, q < r → bs.getD r none ≠ none → at_ (base + r) ≠ at_ (base + q)) (b : Byte) :
    layPieces at_ (at_ (base + q)) b ((ps.map (pieceBytes base bs)).filter (fun q => q.2.any (·.isSome))) = v := by
  induction h generalizing b with
  | nil => omega
  | @cons va n k ps hk hline h ih =>
    rw [List.forall_mem_cons] at hf
    rw [List.map_cons, layPieces_filter_cons]
    by_cases hq : base + q < va + k
    · have hany : (pieceBytes base bs (va, k)).2.any (·.isSome) = true := by
        have hget : (pieceBytes base bs (va, k)).2.getD (base + q - va) none = some v := by
          rw [pieceBytes_getD (p := (va, k)) (by dsimp only; omega), show (va, k).1 - base + (base + q - va) = q by dsimp only; omega, hv]
        rw [List.any_eq_true]
        refine ⟨some v, ?_, rfl⟩
        rw [List.getD_eq_getElem?_getD] at hget
        cases hx : (pieceBytes base bs (va, k)).2[base + q - va]? with
        | none => rw [hx] at hget; cases hget
        | some x =>
          rw [hx] at hget
          exact (show x = some v from hget) ▸ List.mem_of_getElem? hx
      rw [if_pos hany, layPiece_written hlo hbase hq (hf.1 hany) (by omega) hv]
      exact layPieces_other h (by omega) (by omega) hf.2 (fun r h1 _ hr => hlast r (by omega) hr) v
    · exact ih (by omega) (by omega) hf.2 (by omega) (by omega) _

end

/-! ### The write path takes up a store (R127, R321) -/

/-- The write path of a core has grown by `new`; nothing else that a program or a translation looks at has changed. -/
structure Grows (s t : State) (core : Nat) (new : List PendWrite) : Prop where
  tables : SameTables s t
  ctxs : t.ctxs = s.ctxs
  cur : t.cur = s.cur
  path : (t.core core).wpath = (s.core core).wpath ++ new

theorem Grows.refl (s : State) (core : Nat) : Grows s s core [] := ⟨.refl s, rfl, rfl, (List.append_nil _).symm⟩

theorem Grows.trans {s t u : State} {core : Nat} {xs ys : List PendWrite} (h : Grows s t core xs) (g : Grows t u core ys) :
    Grows s u core (xs ++ ys) :=
  ⟨h.tables.trans g.tables, g.ctxs.trans h.ctxs, g.cur.trans h.cur, by rw [g.path, h.path, List.append_assoc]⟩

/-- An access counter is all that counting an access changes. -/
theorem countAccess_leaves (s : State) (w : Who) (x : Xlat) :
    SameTables s (countAccess s w x) ∧ (countAccess s w x).ctxs = s.ctxs ∧ (countAccess s w x).cur = s.cur
      ∧ (countAccess s w x).cores = s.cores := by
  unfold countAccess
  dsimp only
  split
  · exact ⟨⟨rfl, rfl, rfl, rfl, rfl, rfl, rfl⟩, rfl, rfl, rfl⟩
  · exact ⟨.refl s, rfl, rfl, rfl⟩

/-- What a pending store is to a lane that reads: where it begins, and its bytes. -/
def PendWrite.piece (e : PendWrite) : WriteOp × Nat × List (Option Byte) := (e.op, e.pa, e.bytes)

theorem runs_acceptWrite (s : State) (w : Who) (va : Nat) (x : Xlat) (op : WriteOp) (bs : List (Option Byte)) (prev : Option Nat) :
    ∃ id t e, Runs s (acceptWrite w va x op bs prev) id t ∧ Grows s t w.core [e] ∧ e.piece = (op, x.loc, bs) := by
  obtain ⟨htab, hctxs, hcur, hcores⟩ := countAccess_leaves s w x
  let e : PendWrite := ⟨(countAccess s w x).nextId, w.ctx, w.lane, BitVec.ofNat 13 w.asid, BitVec.ofNat 64 va, x.loc, op, bs, prev,
    none, ((countAccess s w x).core w.core).seen⟩
  refine ⟨_, _, e, rfl, ⟨⟨htab.mem, htab.wlog, htab.tlb, htab.asidTable, htab.aperBase, htab.aperSize, htab.poison⟩, hctxs, hcur, ?_⟩, rfl⟩
  have hcore : (countAccess s w x).core w.core = s.core w.core := congrArg (fun cs => (kvGet cs w.core).getD _) hcores
  have hupd := State.core_updCore (countAccess s w x) w.core (fun c => { c with wpath := c.wpath ++
    [⟨(countAccess s w x).nextId, w.ctx, w.lane, BitVec.ofNat 13 w.asid, BitVec.ofNat 64 va, x.loc, op, bs, prev, none, c.seen⟩] })
  rw [← hcore]
  exact (congrArg CoreSt.wpath hupd :)

/-- The pieces of a store enter the write path one after another. -/
theorem runs_acceptPieces (s : State) (w : Who) (ordered : Bool) (X : Nat × List (Option Byte) → Xlat)
    (ps : List (Nat × List (Option Byte))) (prev : Option Nat) :
    ∃ r t new, Runs s ((ps.map (fun p => (p, X p))).foldlM
        (fun (prev : Option Nat) (px : (Nat × List (Option Byte)) × Xlat) => do
          let id ← acceptWrite w px.1.1 px.2 .store px.1.2 prev
          return if ordered then some id else none) prev) r t
      ∧ Grows s t w.core new ∧ new.map PendWrite.piece = ps.map (fun p => (.store, (X p).loc, p.2)) := by
  induction ps generalizing s prev with
  | nil => exact ⟨prev, s, [], rfl, .refl s _, rfl⟩
  | cons p ps ih =>
    obtain ⟨id, t, e, hrun, hgrow, he⟩ := runs_acceptWrite s w p.1 (X p) .store p.2 prev
    obtain ⟨r, u, new, hruns, hgrows, hnew⟩ := ih t (if ordered then some id else none)
    refine ⟨r, u, e :: new, ?_, hgrow.trans hgrows, by rw [List.map_cons, List.map_cons, he, hnew]⟩
    rw [List.map_cons, List.foldlM_cons]
    have hone : Runs s (do
        let id ← acceptWrite w p.1 (X p) .store p.2 prev
        return if ordered then some id else none) (if ordered then some id else none) t := hrun.bind rfl
    exact hone.bind hruns

theorem overlay_pieces {at_ : Nat → Nat} {new : List PendWrite} {ps : List (Nat × List (Option Byte))}
    (h : new.map PendWrite.piece = ps.map (fun p => (.store, at_ p.1, p.2))) (a : Nat) (b : Byte) :
    overlay new a b = layPieces at_ a b ps := by
  induction new generalizing ps b with
  | nil =>
    obtain rfl := List.map_eq_nil_iff.mp h.symm
    rfl
  | cons e new ih =>
    cases ps with
    | nil => cases h
    | cons p ps =>
      obtain ⟨he, hrest⟩ := List.cons.inj h
      obtain ⟨hop, hpa, hbytes⟩ : e.op = .store ∧ e.pa = at_ p.1 ∧ e.bytes = p.2 := by
        simpa [PendWrite.piece] using he
      have hstep := ih hrest (layPiece at_ a b p)
      rw [layPieces, List.foldl_cons]
      refine Eq.trans ?_ hstep
      unfold overlay
      rw [List.foldl_cons]
      congr 1
      simp [hop, hpa, hbytes, layPiece]

/-- A masked store whose pieces translate enters the write path. -/
theorem runs_storeMasked {s : State} {w : Who} {va : Nat} {bs : List (Option Byte)} {at_ : Nat → Nat}
    (h : ∀ p ∈ storePieces va bs, ∃ x, Sees s w true p.1 x ∧ x.loc = at_ p.1) (ordered : Bool) :
    ∃ t new, Runs s (storeMasked w va bs ordered) () t ∧ Grows s t w.core new
      ∧ ∀ a b, overlay new a b = layPieces at_ a b (storePieces va bs) := by
  choose! X hX using h
  obtain ⟨r, t, new, hruns, hgrows, hnew⟩ := runs_acceptPieces s w ordered X (storePieces va bs) none
  refine ⟨t, new, ?_, hgrows, overlay_pieces (hnew.trans (List.map_congr_left fun p hp => by rw [(hX p hp).2]))⟩
  have hzip : (storePieces va bs).zip ((storePieces va bs).map X) = (storePieces va bs).map (fun p => (p, X p)) := by
    rw [List.zip_map_right, List.zip_eq_zipWith]
    simp
  unfold storeMasked
  refine (runs_mapM fun p hp => run_xlat_ok (hX p hp).1).bind ?_
  rw [hzip]
  exact hruns.bind rfl

/-- What a masked store whose pieces translate leaves in the write path, byte for byte. -/
theorem runs_storeMasked_bytes {s : State} {w : Who} {va : Nat} {bs : List (Option Byte)} {at_ : Nat → Nat}
    (hwrap : va + bs.length ≤ 2 ^ 64)
    (h : ∀ p ∈ storePieces va bs, ∃ x, Sees s w true p.1 x ∧ ∀ k, k < p.2.length → at_ (p.1 + k) = x.loc + k) (ordered : Bool) :
    ∃ t new, Runs s (storeMasked w va bs ordered) () t ∧ Grows s t w.core new
      ∧ (∀ q v, bs.getD q none = some v → (∀ r, q < r → bs.getD r none ≠ none → at_ (va + r) ≠ at_ (va + q)) →
        ∀ b, overlay new (at_ (va + q)) b = v)
      ∧ ∀ a b, (∀ q, bs.getD q none ≠ none → at_ (va + q) ≠ a) → overlay new a b = b := by
  have hfirst : ∀ p ∈ storePieces va bs, 0 < p.2.length := fun p hp => by
    rw [storePieces_eq hwrap, List.mem_filter] at hp
    obtain ⟨x, hx, -⟩ := List.any_eq_true.mp hp.2
    exact List.length_pos_of_mem hx
  have hloc : ∀ p ∈ storePieces va bs, ∃ x, Sees s w true p.1 x ∧ x.loc = at_ p.1 := fun p hp => by
    obtain ⟨x, hsees, hat⟩ := h p hp
    exact ⟨x, hsees, by simpa using (hat 0 (hfirst p hp)).symm⟩
  have hfollows : ∀ p ∈ pieces va bs.length, (pieceBytes va bs p).2.any (·.isSome) = true →
      Follows at_ (pieceBytes va bs p) := fun p hp hany k hk => by
    have hmem : pieceBytes va bs p ∈ storePieces va bs := by
      rw [storePieces_eq hwrap]
      exact List.mem_filter.mpr ⟨List.mem_map_of_mem hp, hany⟩
    obtain ⟨x, -, hat⟩ := h _ hmem
    have h0 := hat 0 (hfirst _ hmem)
    rw [Nat.add_zero, Nat.add_zero] at h0
    rw [hat k hk, h0]
  have htiles := tiles_pieces hwrap
  have hlen : va - va + bs.length ≤ bs.length := by omega
  obtain ⟨t, new, hrun, hgrow, hlay⟩ := runs_storeMasked hloc ordered
  refine ⟨t, new, hrun, hgrow, fun q v hv hlast b => ?_, fun a b hno => ?_⟩
  · have hq : q < bs.length := by
      by_contra hge
      rw [List.getD_eq_default _ _ (Nat.not_lt.mp hge)] at hv
      cases hv
    rw [hlay, storePieces_eq hwrap]
    exact layPieces_written htiles le_rfl hlen hfollows (by omega) (by omega) hv hlast b
  · rw [hlay, storePieces_eq hwrap]
    exact layPieces_other htiles le_rfl hlen hfollows (fun q _ _ hq => hno q hq) b

/-! ### Elements stored one after another (R284) -/

/-- Through `new` every byte that the elements store reads as stored, and every other byte as before. -/
structure Lays (new : List PendWrite) (n : Nat) (es : List (Nat × Nat)) (at_ : Nat → Nat) (d : Nat → Nat) : Prop where
  stored : ∀ pre e post, es = pre ++ e :: post → ∀ i, i < n →
    (∀ e' ∈ post, ∀ j, j < n → at_ (e'.2 + j) ≠ at_ (e.2 + i)) →
    (∀ j, j < n → j ≠ i → at_ (e.2 + j) ≠ at_ (e.2 + i)) →
    ∀ b, overlay new (at_ (e.2 + i)) b = BitVec.ofNat 8 (d e.1 / 256 ^ i)
  others : ∀ a b, (∀ e ∈ es, ∀ i, i < n → at_ (e.2 + i) ≠ a) → overlay new a b = b

theorem overlay_append (xs ys : List PendWrite) (a : Nat) (b : Byte) : overlay (xs ++ ys) a b = overlay ys a (overlay xs a b) :=
  List.foldl_append

theorem lays_nil (n : Nat) (at_ d : Nat → Nat) : Lays [] n [] at_ d :=
  ⟨fun pre e post h => by simp at h, fun _ _ _ => rfl⟩

/-- One element, and then the others. -/
theorem Lays.cons {xs ys : List PendWrite} {n : Nat} {e : Nat × Nat} {es : List (Nat × Nat)} {at_ d : Nat → Nat}
    (h : Lays xs n [e] at_ d) (g : Lays ys n es at_ d) : Lays (xs ++ ys) n (e :: es) at_ d := by
  refine ⟨fun pre e' post hes i hi hpost hself b => ?_, fun a b hno => ?_⟩
  · rw [overlay_append]
    cases pre with
    | nil =>
      obtain ⟨rfl, rfl⟩ := List.cons.inj hes
      rw [h.stored [] e [] rfl i hi nofun hself, g.others _ _ hpost]
    | cons x pre =>
      obtain ⟨-, hes⟩ := List.cons.inj hes
      exact g.stored pre e' post hes i hi hpost hself _
  · rw [List.forall_mem_cons] at hno
    rw [overlay_append, h.others a b (by simpa using hno.1), g.others a _ hno.2]

theorem getD_map_bytesOf {v n i : Nat} (h : i < n) :
    ((bytesOf v n).map some).getD i none = some (BitVec.ofNat 8 (v / 256 ^ i)) := by
  have h256 : (256 : Nat) ^ i = 2 ^ (8 * i) := (pow_mul 2 8 i).symm
  simp [bytesOf_eq_map, List.getD_eq_getElem?_getD, h, h256]

theorem getD_map_bytesOf_ne {v n i : Nat} (h : ((bytesOf v n).map some).getD i none ≠ none) : i < n := by
  by_contra hge
  exact h (List.getD_eq_default _ _ (by simpa [bytesOf_eq_map] using hge))

/-- The bytes of an element lie in the device half, far from its end. -/
theorem MemReach.low {s : State} {write : Bool} {ok : Xlat → Bool} {va n : Nat} {at_ : Nat → Nat}
    (h : MemReach s write ok va n at_) (hn : n ≠ 0) : va < 2 ^ 57 ∧ bits va 56 1 = 1 := by
  obtain ⟨k, ps, hp⟩ : ∃ k ps, pieces va n = (va, k) :: ps := by
    obtain ⟨m, rfl⟩ := Nat.exists_eq_succ_of_ne_zero hn
    rw [pieces]
    split
    · exact ⟨_, _, rfl⟩
    · split <;> exact ⟨_, _, rfl⟩
  obtain ⟨x, hsees, -⟩ := h (va, k) (by rw [hp]; exact List.mem_cons_self)
  exact ⟨hsees.cached.low, hsees.cached.device⟩

/-- A store of whole bytes to an address that translates. -/
theorem runs_storeBytes {s u : State} {e : Nat × Nat} {n v : Nat} {at_ d : Nat → Nat} (h : MemReach s true anyPage e.2 n at_)
    (hn : n ≠ 0) (hsmall : n ≤ 128) (hu : SameTables s u) (hd : d e.1 = v) :
    ∃ t new, Runs u (storeBytes s.who e.2 (bytesOf v n)) () t ∧ Grows u t s.who.core new ∧ Lays new n [e] at_ d := by
  have hlow := (h.low hn).1
  have hlen : ((bytesOf v n).map some).length = n := by simp [bytesOf_eq_map]
  have hwrap : e.2 + ((bytesOf v n).map some).length ≤ 2 ^ 64 := by omega
  have hreach : ∀ p ∈ storePieces e.2 ((bytesOf v n).map some), ∃ x, Sees u s.who true p.1 x
      ∧ ∀ k, k < p.2.length → at_ (p.1 + k) = x.loc + k := fun p hp => by
    rw [storePieces_eq hwrap, List.mem_filter, hlen] at hp
    obtain ⟨q, hq, rfl⟩ := List.mem_map.mp hp.1
    obtain ⟨x, hsees, -, -, hat⟩ := h q hq
    have hin := (tiles_pieces (show e.2 + n ≤ 2 ^ 64 by omega)).mem hq
    rw [pieceBytes_length (by rw [hlen]; omega)]
    exact ⟨x, hsees.same hu, hat⟩
  obtain ⟨t, new, hrun, hgrow, hstored, hothers⟩ := runs_storeMasked_bytes hwrap hreach true
  refine ⟨t, new, hrun, hgrow, ⟨fun pre e' post hes i hi _ hself b => ?_, fun a b hno => ?_⟩⟩
  · obtain ⟨rfl, rfl, rfl⟩ : pre = [] ∧ e' = e ∧ post = [] := by
      cases pre with
      | nil => obtain ⟨rfl, rfl⟩ := List.cons.inj hes; exact ⟨rfl, rfl, rfl⟩
      | cons x pre => simp at hes
    rw [hd]
    exact hstored i _ (getD_map_bytesOf hi) (fun r hr hne => hself r (getD_map_bytesOf_ne hne) (by omega)) b
  · exact hothers a b fun q hq => hno e (List.mem_singleton_self e) q (getD_map_bytesOf_ne hq)

/-- Elements stored one after another, each to an address that translates. -/
theorem runs_storeElems {s u : State} {es : List (Nat × Nat)} {n : Nat} {at_ d : Nat → Nat}
    (h : ∀ e ∈ es, MemReach s true anyPage e.2 n at_) (hn : n ≠ 0) (hsmall : n ≤ 128) (hu : SameTables s u) :
    ∃ t new, Runs u (es.forM (fun e => storeBytes s.who e.2 (bytesOf (d e.1) n))) () t ∧ Grows u t s.who.core new
      ∧ Lays new n es at_ d := by
  induction es generalizing u with
  | nil => exact ⟨u, [], rfl, .refl u _, lays_nil n at_ d⟩
  | cons e es ih =>
    rw [List.forall_mem_cons] at h
    obtain ⟨t, xs, hrun, hgrow, hlay⟩ := runs_storeBytes (d := d) h.1 hn hsmall hu rfl
    obtain ⟨t', ys, hruns, hgrows, hlays⟩ := ih h.2 (hu.trans hgrow.tables)
    exact ⟨t', xs ++ ys, hrun.bind hruns, hgrow.trans hgrows, hlay.cons hlays⟩

/-! ### The bytes of a masked vector store (R283) -/

/-- The bytes of a masked store: of the active elements, and none elsewhere. -/
theorem getD_maskedBytes (n count : Nat) (es : List (Nat × Nat)) (data : List Nat) (q : Nat) :
    (maskedBytes n count es data).length = n * count
      ∧ (maskedBytes n count es data).getD q none
        = if q < n * count ∧ es.any (fun e => e.1 == q / n) = true
          then some (BitVec.ofNat 8 (data.getD (q / n) 0 / 256 ^ (q % n))) else none := by
  induction count with
  | zero => exact ⟨rfl, by simp [maskedBytes]⟩
  | succ count ih =>
    obtain ⟨hlen, hget⟩ := ih
    let block := if es.any (fun e => e.1 == count) = true then (bytesOf (data.getD count 0) n).map some
      else List.replicate n (none : Option Byte)
    have hsplit : maskedBytes n (count + 1) es data = maskedBytes n count es data ++ block := by
      simp [maskedBytes, List.range_succ, block]
    have hblock : block.length = n := by
      unfold block; split <;> simp [bytesOf_eq_map]
    refine ⟨by rw [hsplit, List.length_append, hlen, hblock, Nat.mul_succ], ?_⟩
    rw [hsplit]
    by_cases hq : q < n * count
    · rw [List.getD_append _ _ _ _ (by rw [hlen]; exact hq), hget, Nat.mul_succ]
      simp only [hq, show q < n * count + n by omega]
    · rw [List.getD_append_right _ _ _ _ (by rw [hlen]; omega), hlen, Nat.mul_succ]
      by_cases hn : q < n * count + n
      · have hdiv : q / n = count := by
          refine Nat.div_eq_of_lt_le (by rw [Nat.mul_comm]; omega) (by rw [Nat.mul_comm, Nat.mul_succ]; omega)
        have hmod : q % n = q - n * count := by
          have := Nat.div_add_mod q n
          rw [hdiv] at this
          omega
        rw [hdiv, hmod]
        unfold block
        split
        · rw [getD_map_bytesOf (by omega), if_pos ⟨hn, by assumption⟩]
        · next hno =>
          rw [if_neg (by simp [hno]), List.getD_eq_getElem?_getD, List.getElem?_replicate]
          split <;> rfl
      · rw [if_neg (by simp [hn]), List.getD_eq_default _ _ (by rw [hblock]; omega)]

/-- A masked store with no bytes has no piece that writes anything. -/
theorem foldl_slices_subset (bs : List (Option Byte)) (ps : List (Nat × Nat)) (acc : Nat × List (Nat × List (Option Byte)))
    (h : ∀ q ∈ acc.2, q.2 ⊆ bs) :
    ∀ q ∈ (ps.foldl (fun (acc : Nat × List (Nat × List (Option Byte))) p =>
      (acc.1 + p.2, acc.2 ++ [(p.1, (bs.drop acc.1).take p.2)])) acc).2, q.2 ⊆ bs := by
  induction ps generalizing acc with
  | nil => exact h
  | cons p ps ih =>
    rw [List.foldl_cons]
    refine ih _ fun q hq => ?_
    rcases List.mem_append.mp hq with hq | hq
    · exact h q hq
    · obtain rfl := List.mem_singleton.mp hq
      exact fun b hb => List.mem_of_mem_drop (List.mem_of_mem_take hb)

theorem storePieces_eq_nil {va : Nat} {bs : List (Option Byte)} (h : ∀ b ∈ bs, b = none) : storePieces va bs = [] := by
  rw [storePieces, List.filter_eq_nil_iff]
  intro q hq hany
  obtain ⟨b, hb, hsome⟩ := List.any_eq_true.mp hany
  rw [h b (foldl_slices_subset bs _ (0, []) nofun q hq hb)] at hsome
  cases hsome

/-! ### Elements of a vector (R277, R279) -/

theorem elemBytes_bounds (sz : BitVec 3) :
    elemBits sz / 8 ≠ 0 ∧ elemBits sz / 8 ≤ 128 ∧ elemBits sz / 8 * elemCount (elemBits sz) = 128 := by
  revert sz; decide

theorem mem_contiguous {s : State} {h : Hdr} {o : MemOps} {e : Nat × Nat} :
    e ∈ contiguous s h o ↔ e.1 ∈ activePositions (s.mask h) (elemBits o.sz)
      ∧ e.2 = ((s.ea o).toNat + e.1 * (elemBits o.sz / 8)) % 2 ^ 64 := by
  simp only [contiguous, List.mem_map]
  constructor
  · rintro ⟨j, hj, rfl⟩
    exact ⟨hj, by simp [BitVec.toNat_add]⟩
  · rintro ⟨hj, he⟩
    exact ⟨e.1, hj, Prod.ext rfl (by rw [he]; simp [BitVec.toNat_add])⟩

theorem mem_activePositions_lt {m : PWord} {w j : Nat} (h : j ∈ activePositions m w) : j < elemCount w :=
  List.mem_range.mp (List.mem_of_mem_filter h)

/-- Contiguous elements stand in ascending order of their numbers. -/
theorem pairwise_contiguous (s : State) (h : Hdr) (o : MemOps) : (contiguous s h o).Pairwise (fun e e' => e.1 < e'.1) := by
  rw [contiguous, List.pairwise_map]
  exact List.pairwise_lt_range.filter _

/-- Where one element lies in the device half, no address of the vector wraps. -/
theorem contiguous_nowrap {s : State} {h : Hdr} {o : MemOps} {e : Nat × Nat} (he : e ∈ contiguous s h o)
    (hlow : e.2 < 2 ^ 57 ∧ bits e.2 56 1 = 1) : (s.ea o).toNat + 128 ≤ 2 ^ 64 := by
  obtain ⟨hj, heq⟩ := mem_contiguous.mp he
  obtain ⟨hn, -, hcount⟩ := elemBytes_bounds o.sz
  have hlt := mem_activePositions_lt hj
  have hoff : e.1 * (elemBits o.sz / 8) < 128 := by
    rw [← hcount, Nat.mul_comm]
    exact Nat.mul_lt_mul_of_pos_left hlt (Nat.pos_of_ne_zero hn)
  obtain ⟨h57, hbit⟩ := hlow
  have hea := (s.ea o).isLt
  unfold bits at hbit
  omega

/-- The bytes of a contiguous store. -/
def vstgBytes (s : State) (h : Hdr) (o : MemOps) (data : List Nat) : List (Option Byte) :=
  maskedBytes (elemBits o.sz / 8) (elemCount (elemBits o.sz)) (contiguous s h o) data

/-- What a contiguous store writes: byte `q` from the first address on belongs to element `q / n`. -/
theorem getD_contiguousBytes (s : State) (h : Hdr) (o : MemOps) (data : List Nat) (q : Nat) :
    (vstgBytes s h o data).getD q none
      = if q < 128 ∧ (contiguous s h o).any (fun e => e.1 == q / (elemBits o.sz / 8)) = true
        then some (BitVec.ofNat 8 (data.getD (q / (elemBits o.sz / 8)) 0 / 256 ^ (q % (elemBits o.sz / 8)))) else none := by
  rw [vstgBytes, (getD_maskedBytes ..).2, (elemBytes_bounds o.sz).2.2]

theorem length_vstgBytes (s : State) (h : Hdr) (o : MemOps) (data : List Nat) : (vstgBytes s h o data).length = 128 :=
  (getD_maskedBytes _ _ _ _ 0).1.trans (elemBytes_bounds o.sz).2.2

/-- Byte `i` of an active element is written, at its address. -/
theorem contiguous_byte {s : State} {h : Hdr} {o : MemOps} {e : Nat × Nat} (he : e ∈ contiguous s h o) {i : Nat}
    (hi : i < elemBits o.sz / 8) (hwrap : (s.ea o).toNat + 128 ≤ 2 ^ 64) (data : List Nat) :
    (vstgBytes s h o data).getD (e.1 * (elemBits o.sz / 8) + i) none
        = some (BitVec.ofNat 8 (data.getD e.1 0 / 256 ^ i))
      ∧ e.2 + i = (s.ea o).toNat + (e.1 * (elemBits o.sz / 8) + i) := by
  obtain ⟨hj, heq⟩ := mem_contiguous.mp he
  obtain ⟨hn, -, hcount⟩ := elemBytes_bounds o.sz
  have hlt := mem_activePositions_lt hj
  have hoff : e.1 * (elemBits o.sz / 8) + elemBits o.sz / 8 ≤ 128 := by
    rw [← hcount, ← Nat.succ_mul, Nat.mul_comm]
    exact Nat.mul_le_mul_left _ hlt
  have hget := getD_contiguousBytes s h o data (e.1 * (elemBits o.sz / 8) + i)
  generalize elemBits o.sz / 8 = n at *
  have hdiv : (e.1 * n + i) / n = e.1 := by
    rw [Nat.mul_comm, Nat.mul_add_div (Nat.pos_of_ne_zero hn), Nat.div_eq_of_lt hi, Nat.add_zero]
  have hmod : (e.1 * n + i) % n = i := by rw [Nat.mul_comm, Nat.mul_add_mod, Nat.mod_eq_of_lt hi]
  refine ⟨?_, by rw [heq, Nat.mod_eq_of_lt (by omega)]; omega⟩
  rw [hget, hdiv, hmod, if_pos ⟨by omega, List.any_eq_true.mpr ⟨e, he, beq_self_eq_true _⟩⟩]

/-- A byte that a contiguous store writes belongs to an active element. -/
theorem contiguous_of_byte {s : State} {h : Hdr} {o : MemOps} {q : Nat} {data : List Nat} (hwrap : (s.ea o).toNat + 128 ≤ 2 ^ 64)
    (hq : (vstgBytes s h o data).getD q none ≠ none) :
    ∃ e ∈ contiguous s h o, e.1 = q / (elemBits o.sz / 8) ∧ e.2 + q % (elemBits o.sz / 8) = (s.ea o).toNat + q
      ∧ q % (elemBits o.sz / 8) < elemBits o.sz / 8 := by
  rw [getD_contiguousBytes] at hq
  obtain ⟨hlt, hany⟩ : q < 128 ∧ (contiguous s h o).any (fun e => e.1 == q / (elemBits o.sz / 8)) = true := by
    by_contra hno
    exact hq (if_neg hno)
  obtain ⟨e, he, hj⟩ := List.any_eq_true.mp hany
  have hj : e.1 = q / (elemBits o.sz / 8) := beq_iff_eq.mp hj
  have hn := (elemBytes_bounds o.sz).1
  have hmod := Nat.mod_lt q (Nat.pos_of_ne_zero hn)
  have hsum := Nat.div_add_mod q (elemBits o.sz / 8)
  obtain ⟨-, heq⟩ := mem_contiguous.mp he
  refine ⟨e, he, hj, ?_, hmod⟩
  rw [heq, hj, Nat.mul_comm, Nat.mod_eq_of_lt (by omega)]
  omega

/-- A contiguous store whose pieces and elements translate. -/
theorem runs_vstg {s : State} {h : Hdr} {o : MemOps} {data : List Nat} {at_ : Nat → Nat}
    (hpieces : ∀ p ∈ storePieces (s.ea o).toNat
        (vstgBytes s h o data),
      MemReach s true anyPage p.1 p.2.length at_)
    (helems : ∀ e ∈ contiguous s h o, MemReach s true anyPage e.2 (elemBits o.sz / 8) at_) :
    ∃ t new, Runs s (storeMasked s.who (s.ea o).toNat
        (vstgBytes s h o data) false) () t
      ∧ Grows s t s.who.core new ∧ Lays new (elemBits o.sz / 8) (contiguous s h o) at_ (fun j => data.getD j 0) := by
  by_cases hnone : contiguous s h o = []
  · have hno : ∀ b ∈ vstgBytes s h o data, b = none := by
      intro b hb
      obtain ⟨q, hq, rfl⟩ := List.mem_iff_getElem.mp hb
      have hget := getD_contiguousBytes s h o data q
      rw [List.getD_eq_getElem _ _ hq] at hget
      rw [hget, if_neg (by simp [hnone])]
    have hnil := storePieces_eq_nil (va := (s.ea o).toNat) hno
    obtain ⟨t, new, hrun, hgrow, hlay⟩ := runs_storeMasked (s := s) (w := s.who) (at_ := at_) (va := (s.ea o).toNat)
      (bs := vstgBytes s h o data) (by rw [hnil]; nofun) false
    refine ⟨t, new, hrun, hgrow, ⟨fun pre e post hes => by rw [hnone] at hes; simp at hes, fun a b _ => ?_⟩⟩
    rw [hlay, hnil]
    rfl
  · obtain ⟨e0, he0⟩ := List.exists_mem_of_ne_nil _ hnone
    have hwrap := contiguous_nowrap he0 ((helems e0 he0).low (elemBytes_bounds o.sz).1)
    have hlen := length_vstgBytes s h o data
    have hreach : ∀ p ∈ storePieces (s.ea o).toNat (vstgBytes s h o data), ∃ x, Sees s s.who true p.1 x
        ∧ ∀ k, k < p.2.length → at_ (p.1 + k) = x.loc + k := fun p hp => by
      have hmem := hpieces p hp
      rw [storePieces_eq (by rw [hlen]; exact hwrap), List.mem_filter, hlen] at hp
      obtain ⟨q, hq, rfl⟩ := List.mem_map.mp hp.1
      obtain ⟨hlo, hhi, hpos, hline⟩ := (tiles_pieces hwrap).mem hq
      rw [pieceBytes_length (by rw [hlen]; omega)] at hmem ⊢
      have hone : pieces q.1 q.2 = [q] := by
        obtain ⟨va, k⟩ := q
        obtain ⟨m, rfl⟩ : ∃ m, k = m + 1 := Nat.exists_eq_succ_of_ne_zero hpos.ne'
        exact pieces_of_line hline (by dsimp only at *; omega)
      obtain ⟨x, hsees, -, -, hat⟩ := hmem q (show q ∈ pieces q.1 q.2 from hone ▸ List.mem_singleton_self q)
      exact ⟨x, hsees, hat⟩
    obtain ⟨t, new, hrun, hgrow, hstored, hothers⟩ := runs_storeMasked_bytes (by rw [hlen]; exact hwrap) hreach false
    refine ⟨t, new, hrun, hgrow, ⟨fun pre e post hes i hi hpost hself b => ?_, fun a b hno => hothers a b fun q hq => ?_⟩⟩
    · have he : e ∈ contiguous s h o := by rw [hes]; simp
      obtain ⟨hbyte, hat⟩ := contiguous_byte he hi hwrap data
      rw [hat]
      refine hstored _ _ hbyte (fun r hr hne => ?_) b
      obtain ⟨e', he', hj, hat', hmod⟩ := contiguous_of_byte hwrap hne
      rw [← hat, ← hat']
      have hsorted := pairwise_contiguous s h o
      rw [hes, List.mem_append, List.mem_cons] at he'
      rw [hes, List.pairwise_append] at hsorted
      rcases he' with he' | rfl | he'
      · have hlt := hsorted.2.2 e' he' e List.mem_cons_self
        rw [hj, Nat.div_lt_iff_lt_mul (Nat.pos_of_ne_zero (elemBytes_bounds o.sz).1)] at hlt
        omega
      · exact hself _ hmod (by have := Nat.div_add_mod' r (elemBits o.sz / 8); rw [← hj] at this; omega)
      · exact hpost e' he' _ hmod
    · obtain ⟨e, he, -, hat, hmod⟩ := contiguous_of_byte hwrap hq
      rw [← hat]
      exact hno e he _ hmod

/-! ### ST, VSTG and VSCAT -/

/-- Before a store proper: the state of the machine is as it was, but for the lane's own scratchpad writes. -/
structure Before (s u : State) : Prop where
  tables : SameTables s u
  cur : u.cur = s.cur
  cores : u.cores = s.cores
  lanes : SameLanes s u
  files : SameFiles s u

theorem Before.refl (s : State) : Before s s :=
  ⟨.refl s, rfl, rfl, ⟨rfl, rfl, fun _ _ => rfl, fun _ => ⟨rfl, rfl⟩⟩, ⟨rfl, rfl, rfl, rfl, rfl⟩⟩

theorem dueWrites_eq_nil {p : Nat × PendWrite → Bool} {l : List (Nat × PendWrite)} :
    dueWrites p l = [] ↔ ∀ e ∈ l, p e = false := by
  induction l with
  | nil => simp [dueWrites]
  | cons e l ih =>
    rw [List.forall_mem_cons, ← ih, dueWrites]
    cases hp : p e
    · cases hd : dueWrites p l with
      | nil => simp
      | cons x xs => split <;> simp
    · simp

/-- Where no write comes before an operation of the core, none of the core is pending. -/
theorem NoneFirst.not_pending {s : State} {core : Nat} (h : NoneFirst s core) : ∀ x ∈ s.pendings, x.1 ≠ core := fun x hx hc => by
  have hno := dueWrites_eq_nil.mp (h.2 x.2.pa 0) x hx
  simp [State.firstAt, hc] at hno

theorem runs_drain_none {s : State} {core : Nat} (h : ∀ x ∈ s.pendings, x.1 ≠ core) (p : PendWrite → Bool) :
    Runs s (drain core p) () s := by
  have hdue : dueWrites (fun x => x.1 == core && p x.2) s.pendings = [] :=
    dueWrites_eq_nil.mpr fun x hx => by simp [h x hx]
  unfold drain drainWhere
  refine Runs.bind (run_get s) ?_
  rw [hdue]
  rfl

/-- A release with nothing pending only performs the lane's scratchpad writes. -/
theorem runs_releaseOp {s : State} (h : NoneFirst s s.me.core) (cov : Cover) :
    ∃ u, Runs s (releaseOp s.who cov) () u ∧ Before s u := by
  let u := s.updMyLane (fun x => { x with scratchInflight := [] })
  have hme : u.me = s.me.updLane s.cur.lane (fun x => { x with scratchInflight := [] }) := State.ctx_updCtx _ _ _
  have hpath : (u.core s.who.core).wpath = [] := h.1
  refine ⟨u, ?_, ⟨rfl, rfl, rfl, rfl, rfl, rfl, rfl⟩, rfl, rfl,
    ⟨rfl, rfl, fun k hk => s.ctx_updCtx_ne _ hk, fun l => ?_⟩, ?_⟩
  · have hpub : publish u s.who.core (fun _ => true) = u := by simp [publish, hpath]
    have hnone : ∀ x ∈ u.pendings, x.1 ≠ s.who.core := h.not_pending
    have hdrain := runs_drain_none hnone (releaseDue s.who.ctx cov)
    refine Runs.bind (t := u) (a := ()) rfl (hdrain.bind ?_)
    exact (congrArg (Prod.mk (Except.ok ())) hpub :)
  · rw [hme]
    by_cases hl : l = s.cur.lane
    · subst hl; rw [Ctx.lane_updLane]; exact ⟨rfl, rfl⟩
    · rw [Ctx.lane_updLane_ne _ _ hl]; exact ⟨rfl, rfl⟩
  · unfold SameFiles
    rw [hme]
    simp

/-- What the obligation says of a store that the write path has taken up. -/
theorem Before.stores {s u t : State} {new : List PendWrite} {n : Nat} {es : List (Nat × Nat)} {at_ d : Nat → Nat}
    (hu : Before s u) (hg : Grows u t s.me.core new) (hl : Lays new n es at_ d) :
    let path (t : State) : List PendWrite := (t.core s.me.core).wpath
    SameBytes s t ∧ SameLanes s t ∧ SameFiles s t ∧ t.cur = s.cur ∧ path s <+: path t
      ∧ (∀ pre e post, es = pre ++ e :: post → ∀ i, i < n →
          (∀ e' ∈ post, ∀ j, j < n → at_ (e'.2 + j) ≠ at_ (e.2 + i)) →
          (∀ j, j < n → j ≠ i → at_ (e.2 + j) ≠ at_ (e.2 + i)) →
          ∀ b, overlay (path t) (at_ (e.2 + i)) b = BitVec.ofNat 8 (d e.1 / 256 ^ i))
      ∧ (∀ a b, (∀ e ∈ es, ∀ i, i < n → at_ (e.2 + i) ≠ a) → overlay (path t) a b = overlay (path s) a b) := by
  intro path
  have hpath : path t = path s ++ new := by
    rw [show path t = _ from hg.path, State.core, hu.cores]
    rfl
  have hctx (k : Nat) : t.ctx k = u.ctx k := congrArg (fun cs => (kvGet cs k).getD _) hg.ctxs
  have hcur : t.cur = s.cur := hg.cur.trans hu.cur
  have hme : t.me = u.me := by rw [State.me, hctx, hg.cur]; rfl
  obtain ⟨-, -, hothers, hlanes⟩ := hu.lanes
  have hfiles := hu.files
  unfold SameFiles at *
  rw [hpath, hme]
  exact ⟨sameBytes_of_mem_wlog (hg.tables.mem.trans hu.tables.mem) (hg.tables.wlog.trans hu.tables.wlog),
    ⟨congrArg Issue.ctx hcur, congrArg Issue.lane hcur, fun k hk => (hctx k).trans (hothers k hk), fun l => by rw [hme]; exact hlanes l⟩,
    hfiles, hcur, List.prefix_append _ _,
    fun pre e post hes i hi hpost hself b => by rw [overlay_append]; exact hl.stored pre e post hes i hi hpost hself _,
    fun a b hno => by rw [overlay_append]; exact hl.others a _ hno⟩

/-- Elements that translate pass their check. -/
theorem runs_checkElems {s : State} {n : Nat} {es : List (Nat × Nat)} {at_ : Nat → Nat}
    (h : ∀ e ∈ es, MemReach s true anyPage e.2 n at_) : Runs s (checkElems n true es) () s := by
  have hpieces : ∀ ps : List (Nat × Nat), (∀ p ∈ ps, ∃ x, Sees s s.who true p.1 x) →
      Runs s (ps.forM (fun p => do let _ ← xlat s.who true p.1)) () s := fun ps => by
    induction ps with
    | nil => exact fun _ => rfl
    | cons p ps ih =>
      intro hps
      rw [List.forall_mem_cons] at hps
      obtain ⟨x, hx⟩ := hps.1
      have hone : Runs s (do let _ ← xlat s.who true p.1) () s := Runs.bind (run_xlat_ok hx) rfl
      exact hone.bind (ih hps.2)
  unfold checkElems
  refine Runs.bind (run_get s) ?_
  induction es with
  | nil => rfl
  | cons e es ih =>
    rw [List.forall_mem_cons] at h
    exact (hpieces _ fun p hp => (h.1 p hp).imp fun x hx => hx.1).bind (ih h.2)

/-- The release of an ordered store, where nothing of the core is pending. -/
theorem runs_relFirst {s : State} {o : MemOps} (h : ordRel o = true → NoneFirst s s.me.core) (addrs : List Word) :
    ∃ u, Runs s (relFirst o addrs) () u ∧ Before s u := by
  cases hrel : ordRel o with
  | false =>
    refine ⟨s, ?_, .refl s⟩
    unfold relFirst
    refine Runs.bind (run_get s) ?_
    rw [if_neg (by simp [hrel])]
    rfl
  | true =>
    obtain ⟨u, hrun, hu⟩ := runs_releaseOp (h hrel) (flagCover s addrs)
    refine ⟨u, ?_, hu⟩
    unfold relFirst
    refine Runs.bind (run_get s) ?_
    rw [if_pos hrel]
    exact hrun

theorem runs_alignCheck {s : State} {va n : Nat} (h : va % n = 0) : Runs s (alignCheck va n) () s := by
  rw [alignCheck, if_neg (by simpa using h)]
  rfl

theorem exec_st (h : Hdr) (o : MemOps) (s : State) : exec (.st h o) s = execSt h o s := rfl
theorem exec_vstg (h : Hdr) (o : MemOps) (s : State) : exec (.vstg h o) s = execVstg h o s := rfl
theorem exec_vscat (h : Hdr) (o : MemOps) (s : State) : exec (.vscat h o) s = execVscat h o s := rfl

/-- An active ST whose address translates. -/
theorem exec_st_stores {h : Hdr} {o : MemOps} {s : State} {at_ : Nat → Nat} (ha : s.active h = true)
    (halign : o.ord ≠ 0 → (s.ea o).toNat % szBytes o.sz = 0) (hrel : ordRel o = true → NoneFirst s s.me.core)
    (hreach : MemReach s true anyPage (s.ea o).toNat (szBytes o.sz) at_) :
    ∃ u t new, exec (.st h o) s = .next t ∧ Before s u ∧ Grows u t s.me.core new
      ∧ Lays new (szBytes o.sz) [(0, (s.ea o).toNat)] at_ (fun _ => (s.srcS 0 o.d).toNat) := by
  obtain ⟨u, hfirst, hu⟩ := runs_relFirst hrel [s.ea o]
  have hn : szBytes o.sz ≠ 0 := (Nat.pow_pos Nat.two_pos).ne'
  obtain ⟨t, new, hstore, hgrow, hlay⟩ := runs_storeBytes (e := (0, (s.ea o).toNat)) (d := fun _ => (s.srcS 0 o.d).toNat)
    hreach hn ((szBytes_le o.sz).trans (by decide)) hu.tables rfl
  refine ⟨u, t, new, ?_, hu, hgrow, hlay⟩
  rw [exec_st, execSt, gateOp_active ha]
  refine runOp_ok ?_
  by_cases hord : o.ord = 0
  · simp only [hord, ne_eq, not_true_eq_false, if_false]
    exact hfirst.bind hstore
  · simp only [ne_eq, hord, not_false_eq_true, if_true]
    exact (runs_alignCheck (halign hord)).bind (hfirst.bind hstore)

/-- Settles O24: what translates with nothing cached anew goes on to, whatever the write path takes up; the pieces of a
store tile its bytes in ascending order, and a lane finds the newest of them. -/
theorem globalStores : Obligations.GlobalStores := by
  intro h o s at_ ea w data path stores
  obtain ⟨hn, hsmall, -⟩ := elemBytes_bounds o.sz
  refine ⟨fun ha halign hrel hreach => ?_, fun hpieces helems => ?_, fun hsc helems => ?_⟩
  · obtain ⟨u, t, new, hexec, hu, hgrow, hlay⟩ := exec_st_stores ha halign hrel (hreach _ (List.mem_singleton_self _))
    exact ⟨t, hexec, hu.stores hgrow hlay⟩
  · obtain ⟨t, new, hrun, hgrow, hlay⟩ := runs_vstg hpieces helems
    exact ⟨t, runOp_ok ((runs_checkElems helems).bind hrun), (Before.refl s).stores hgrow hlay⟩
  · obtain ⟨t, new, hrun, hgrow, hlay⟩ := runs_storeElems (d := fun j => data.getD j 0) helems hn hsmall (.refl s)
    refine ⟨t, ?_, (Before.refl s).stores hgrow hlay⟩
    rw [exec_vscat, execVscat]
    refine runOp_ok ?_
    simp only [hsc, Bool.false_eq_true, if_false]
    exact (runs_checkElems helems).bind hrun

end Sys2Proof.Machine
end

section
/-! Proofs. An engine append whose page holds the count of its pool's index (O33). -/

/-! An engine's append, refuted in a state whose index descriptor lies in the page that the append writes. KVAPP reads its
pool anew for every token, and with an index registered that read compares the pool's number with the index's NPOOL (R161).
The statement asks nothing of the index descriptor, which `indexRegion` gives elsewhere. -/

namespace Sys2Proof.Machine

/-- A table of capacity 1 at 0x5000 with one append under way, its pool at 0x6000, the word of page 0 at 0x6100, which is
PRIVATE, and an NPOOL of 1 in the first two bytes of that page's storage, at 0x200000. -/
def appendWords : List (Nat × Nat) :=
  [(0x5000, 0xB7AB + 2 ^ 32), (0x5008, 2 ^ 56 + 0x5100), (0x5010, 2 ^ 56 + 0x6000), (0x5018, 2 * 2 ^ 32),
    (0x5028, 2 ^ 64 - 1), (0x5030, 2 ^ 64 - 1), (0x5038, 0x1FFFFFFFF),
    (0x6000, 0x9A6E + 2 ^ 52), (0x6008, 2 ^ 56 + 0x200000), (0x6010, 4 + 64 * 2 ^ 32), (0x6018, 2 ^ 56 + 0x300000),
    (0x6028, 2 ^ 56 + 0x6100), (0x6100, 1), (0x200000, 1)]

/-- The state without the command; the index descriptor's NPOOL is at 0x200000. -/
def appendBase : State :=
  writeWords { State.reset with
    ctxs := [(0, { Ctx.reset with res := .resident })]
    tlb := [firstPage 0, firstPage 1]
    asidTable := some 0x1000000
    index := some (2 ^ 56 + 0x1FFDF8, 0)
    cur := { Issue.idle with ev := { (default : Ev) with num := 1 } } } (pageWords ++ appendWords)

/-- A KVAPP of two tokens of 256 bytes, from the scratchpad into rows 0 and 1 of page 0. -/
def appendCmd : EngCmd :=
  { newCmd appendBase default (draft .kvapp [] 512 0) with
    dst := 2 ^ 56 + 0x5000, src := 0x1000, desc := 2 * 2 ^ 32, fl := 0b001000, kvNapp := true }

def appendState : State := { appendBase with cmds := [appendCmd] }

/-- The table as it is read. -/
def appendTable : Btd :=
  ⟨2 ^ 56 + 0x5000, 0x5000, 1, 2 ^ 56 + 0x5100, 2 ^ 56 + 0x6000, 0, 2, [0, 0, 0, 0], [noEntry, noEntry, noEntry, noEntry],
    noEntry, 1⟩

/-- The pool as it is read. -/
def appendPool : Pool :=
  ⟨2 ^ 56 + 0x6000, 0, 0, 1, 1, 1, 64, 2 ^ 56 + 0x200000, 4, 64, 2 ^ 56 + 0x300000, 0, 2 ^ 56 + 0x6100, 0⟩

/-- The command of the event is the append, which may complete. -/
theorem appendCmd_ready :
    appendState.evCmd = some appendCmd ∧ appendCmd.predsDone = true ∧ appendCmd.phase ≠ .held ∧ appendCmd.idle = false
    ∧ appendState.scratchPending = []
    ∧ appendCmd.named appendState.cur.ev.ctx appendState.cur.ev.lane (BitVec.ofNat 16 appendState.cur.ev.num) = true := by
  decide +kernel

theorem appendTable_reads :
    ((btdAt (appendState.cmdWho appendCmd) appendCmd.dst.toNat).run.run appendState).1 = .ok appendTable := by
  decide +kernel

theorem appendPool_reads :
    ((poolAt (appendState.cmdWho appendCmd) appendTable.pool).run.run appendState).1 = .ok appendPool := by
  decide +kernel

theorem appendState_paged : Paged appendState := ⟨rfl, rfl, rfl, by decide +kernel⟩

/-- The pool and the word of the page, which the append reads. -/
def appendReads : List Region :=
  [([appendState.cmdWho appendCmd], 2 ^ 56 + 0x6000, 64, 0x6000), ([appendState.cmdWho appendCmd], 2 ^ 56 + 0x6100, 8, 0x6100)]

/-- The table and the storage of the page, which it writes. -/
def appendWrites : List Region :=
  [([appendState.cmdWho appendCmd], 2 ^ 56 + 0x5000, 64, 0x5000),
    ([appendState.cmdWho appendCmd], 2 ^ 56 + 0x200000, 4096, 0x200000)]

theorem appendWrites_below (a : Nat) (ha : 0x1000000 ≤ a) : ¬ inRegions appendWrites a := by
  simp [inRegions, appendWrites]; omega

theorem appendState_regions : FirmRegions appendState appendReads appendWrites := by
  have hwho : dieOfCore (appendState.cmdWho appendCmd).core ∈ [0, 1] ∧ (appendState.cmdWho appendCmd).asid = 0 := by
    decide +kernel
  have hfirm {k n : Nat} (hk : k + n ≤ 2 ^ 29) :
      FirmPlace appendState (appendState.cmdWho appendCmd) (2 ^ 56 + k) n k (inRegions appendWrites) :=
    appendState_paged.firmPlace rfl hwho.1 hwho.2 hk appendWrites_below
  refine ⟨?_, by simp [appendWrites, Apart], by simp [appendReads, appendWrites, Apart]⟩
  simp only [appendReads, appendWrites, List.cons_append, List.nil_append, List.forall_mem_cons, List.not_mem_nil,
    false_imp_iff, implies_true, and_true]
  exact ⟨hfirm (by norm_num), hfirm (by norm_num), hfirm (by norm_num), hfirm (by norm_num)⟩

/-- The source bytes lie one after another in the scratchpad of core 0. -/
theorem appendState_source : ∀ i < 512,
    appendState.spadSpan (appendState.ctx appendCmd.ctx) (offsetBy appendCmd.src (i : Nat)) 1 false
      = some [[2 ^ 72 + 0x1000 + i]] := by
  decide +kernel

/-- A command is in flight after a step. -/
def EngCmd.inFlightAfter (c : EngCmd) (r : Res) : Bool :=
  match r with
  | .next t => (t.cmdOf c.ctx c.lane c.num).isSome
  | _ => false

/-- The first row makes NPOOL 0, so that the second finds no pool 0, and the append ends in KV_CORRUPT. -/
theorem appendCmd_stays : appendCmd.inFlightAfter (exec .engineCommandComplete appendState) = true := by decide +kernel

/-- Refutes O33, in what it says of KVAPP: all that the append names lies firmly, its page stands ready, and its NAPP is
taken; but the index descriptor's NPOOL lies in the row of the first token, and once that is written the pool is no longer
one of the index's, so that the command does not complete. -/
theorem not_engineCommandEvents : ¬ Obligations.EngineCommandEvents := by
  unfold Obligations.EngineCommandEvents
  intro h
  obtain ⟨hcmd, hpreds, hheld, hidle, hpending, hnamed⟩ := appendCmd_ready
  obtain ⟨-, -, -, -, -, -, -, -, happend, -⟩ := h appendState appendCmd (fun i => 2 ^ 72 + 0x1000 + i) id id hcmd hpreds hheld
    hidle hpending hnamed
  obtain ⟨t, hexec, hgone, -⟩ := happend appendTable appendPool _ _ 0x5000 0x6000 0x6100 0x200000 rfl rfl rfl rfl rfl rfl
    rfl (by decide) (runs_of_result appendTable_reads) (runs_of_result appendPool_reads) (by decide) appendState_regions
    (by decide +kernel) (by decide +kernel) (by decide +kernel)
    (fun i hi => ⟨appendState_source i hi, fun _ => rfl⟩)
    (fun i _ => appendWrites_below (2 ^ 72 + 0x1000 + i) (by omega))
  have hstays := appendCmd_stays
  rw [hexec] at hstays
  have hgone : t.cmdOf appendCmd.ctx appendCmd.lane appendCmd.num = none := hgone
  rw [EngCmd.inFlightAfter, hgone] at hstays
  exact absurd hstays (by decide)

end Sys2Proof.Machine
end

section
/-! Proofs. PLACE_POINT in a map of nests with a key twice (O51). -/

/-! PLACE_POINT, refuted in a state whose map of nests holds a key twice, which no update of the model makes. The statement
speaks of every state. The walker chooses an entry of the list of nests, but counts a point that it has placed in the first
entry with the key of the chosen one; so the points of the second entry, placed in the same step, take back the count of
the first. -/

namespace Sys2Proof.Machine

/-- The first word of a rod of two slots of 8 bytes at 0x3000. -/
def areaRodWord : Nat := 0xB0D5 + 2 ^ 32 * 3 + 2 ^ 40 + 2 ^ 48 * (rodHome 0x3000 % 256)

/-- The rod at 0x3000, OPEN and full: two save areas. -/
def areaWords : List (Nat × Nat) :=
  [(0x3000, areaRodWord), (0x3008, 2 ^ 56 + 0x4000), (0x3010, 0), (0x3018, 2), (0x3020, 2), (0x3028, 0), (0x3030, 0x7FF07FF),
    (0x3038, 2 ^ 48 * crc16 (bytesOf areaRodWord 8 ++ bytesOf (2 ^ 56 + 0x4000) 8))]

/-- A nest of `count` points on die 0, of which it has placed `placed`. -/
def pointsNest (count placed : Nat) : Nest :=
  { (default : Nest) with levels := [{ (default : Level) with kind := 1, count := count }], placed := [(0, placed)] }

/-- A nest with the last of its six points to place, and another of the same key with one point. -/
def twiceState : State :=
  writeWords { State.reset with
    tlb := [firstPage 0, firstPage 1]
    asidTable := some 0x1000000
    dies := [(0, { Die.reset with saveRod := some (2 ^ 56 + 0x3000) })]
    parts := [(0, { Partition.reset with dies := 1 })]
    module := { State.reset.module with ready := true }
    nests := [(5, pointsNest 6 5), (5, pointsNest 1 0)] } (pageWords ++ areaWords)

/-- The first entry's point is the next to be placed, on core 0. -/
theorem twiceState_chooses :
    twiceState.walking = true ∧ chooseNest (latchWaits twiceState 0) 0 = some (5, pointsNest 6 5)
    ∧ findCore (latchWaits twiceState 0) (pointsNest 6 5) 0 = some (0, 0) := by decide +kernel

/-- What the die's rod gives. -/
def twiceArea : Nat × List Byte × State :=
  deviceDeq (latchWaits twiceState twiceState.cur.ev.a) twiceState.cur.ev.a
    ((latchWaits twiceState twiceState.cur.ev.a).die twiceState.cur.ev.a).rodAsid.toNat (2 ^ 56 + 0x3000) 8

theorem twiceArea_fst : twiceArea.1 = 0 := by decide +kernel

theorem triple_of_fst {α β γ : Type} {p : α × β × γ} {a : α} (h : p.1 = a) : p = (a, p.2.1, p.2.2) := by
  rw [← h]

/-- How many points of a nest a die has placed after a step. -/
def placedAfter (r : Res) (key die : Nat) : Option Nat :=
  match r with
  | .next t => kvGet (t.nest key).placed die
  | _ => none

/-- After the point of the first entry that of the second is placed, and the count is 1. -/
theorem twiceState_places : placedAfter (exec .placePoint twiceState) 5 twiceState.cur.ev.a = some 1 := by decide +kernel

/-- Refutes O51, in what it says of PLACE_POINT: with two nests of one key, the sixth point of the first is placed and
counted, and then the first point of the second, which is counted in its stead. -/
theorem not_contextEvents : ¬ Obligations.ContextEvents := by
  unfold Obligations.ContextEvents
  intro h
  obtain ⟨hwalking, hchosen, hcore⟩ := twiceState_chooses
  obtain ⟨-, -, -, -, hplace, -⟩ := h twiceState
  obtain ⟨t, hexec, -, -, ⟨m, hplaced, hmore⟩, -⟩ := hplace (pointsNest 6 5) 5 5 0 0 (2 ^ 56 + 0x3000) [] twiceArea.2.1
    _ twiceArea.2.2 hwalking hchosen rfl hcore rfl rfl (triple_of_fst (p := twiceArea) twiceArea_fst)
  have hone := twiceState_places
  rw [hexec] at hone
  have hm : some m = some 1 := hplaced.symm.trans hone
  cases hm
  exact absurd hmore (by decide)

end Sys2Proof.Machine
end

section
/-! Proofs. A NEST bead that breaks a bead rule, and the read of its record (O52). -/

/-! LAUNCH_NEST, refuted for a bead that breaks a bead rule. The walker reads the record first, for the NESTID of the
refusal, but the model refuses the bead in the state before that read (R400); the read counts as an access to the record's
page (R111), which the statement keeps and the model does not. -/

namespace Sys2Proof.Machine

/-- The first word of a rod of two slots of 64 bytes at 0x3000. -/
def launchRodWord : Nat := 0xB0D5 + 2 ^ 32 * 6 + 2 ^ 40 + 2 ^ 48 * (rodHome 0x3000 % 256)

/-- The launch rod at 0x3000, and in its one bead a KIND that there is not and a record at 0x7000. -/
def launchWords : List (Nat × Nat) :=
  [(0x3000, launchRodWord), (0x3008, 2 ^ 56 + 0x4000), (0x3010, 0), (0x3018, 1), (0x3020, 1), (0x3028, 1),
    (0x3030, 0x7FF07FF), (0x3038, 2 ^ 48 * crc16 (bytesOf launchRodWord 8 ++ bytesOf (2 ^ 56 + 0x4000) 8)),
    (0x4000, 4), (0x4008, 2 ^ 56 + 0x7000)]

/-- The bead is the next of interface 0, whose walker is on die 0. -/
def launchBeadState : State :=
  writeWords { State.reset with
    tlb := [firstPage 0, firstPage 1]
    asidTable := some 0x1000000
    vifs := [(0, { Vif.reset with valid := true, lrod := 2 ^ 56 + 0x3000, asidn := 1 })]
    parts := [(0, { Partition.reset with dies := 1 })]
    module := { State.reset.module with ready := true } } (pageWords ++ launchWords)

/-- The bead as the walker takes it. -/
def badBead : LaunchBead := ⟨0, 0, 0, 4, false, false, false, 0, 2 ^ 56 + 0x7000, 0, 0, 0, 0⟩

/-- Its KIND breaks a bead rule. -/
theorem badBead_faulty : beadFault (launchBeadState.vif badBead.vif) badBead = some 17 := by decide +kernel

/-- The walker's read of the record that a taken bead names. -/
def recordRead (p : LaunchBead × State) : Option (List Byte) × State := walkerRead p.2 p.1.who p.1.addr 256

/-- The counts of accesses that die 0 keeps. -/
def State.accesses (s : State) : List (BitVec 16) := (s.die 0).counts.map (·.count)

/-- The counts after a step. -/
def accessesAfter (r : Res) : List (BitVec 16) :=
  match r with
  | .next t => t.accesses
  | _ => []

/-- The bead is taken, its record reads, and a refusal after that read leaves six accesses counted. -/
theorem badBead_taken :
    (launchOf launchBeadState (fun b => b.kind == 0 || decide (4 ≤ b.kind))).map (fun p =>
      (p.1, (recordRead p).1.map recNestid, (refuse (recordRead p).2 p.1 17 0).accesses)) = some (badBead, some 0, [6]) := by
  decide +kernel

/-- The model counts the two accesses to the launch rod alone. -/
theorem launchNest_accesses : accessesAfter (exec .launchNest launchBeadState) = [2] := by decide +kernel

/-- Refutes O52, in what it says of a NEST bead that breaks a bead rule: it is refused as if its record had not been read,
so that the accesses of that read are not counted. -/
theorem not_launchAndConfiguration : ¬ Obligations.LaunchAndConfiguration := by
  unfold Obligations.LaunchAndConfiguration
  intro h
  obtain ⟨⟨b, t⟩, hlaunch, hfacts⟩ := Option.map_eq_some_iff.mp badBead_taken
  simp only [Prod.mk.injEq] at hfacts
  obtain ⟨rfl, hread, hcounts⟩ := hfacts
  obtain ⟨r, hrecord, hnestid⟩ := Option.map_eq_some_iff.mp hread
  obtain ⟨-, hnest, -⟩ := h launchBeadState t badBead
  have hpair : recordRead (badBead, t) = (some r, (recordRead (badBead, t)).2) := by rw [← hrecord]
  obtain ⟨hrefuse, -⟩ := hnest r (recordRead (badBead, t)).2 hlaunch hpair
  have hexec := launchNest_accesses
  rw [hrefuse 17 badBead_faulty, hnestid] at hexec
  exact absurd (hcounts.symm.trans hexec) (by decide)

end Sys2Proof.Machine
end

section
/-! Proofs. The issue of engine commands (O31). -/

/-! The issue of engine commands: COPY, COPYT, FILL, QCVT, PLANE, PREF, FSEND, FRECV and FCOLL (R302, R303, R305 to R309,
R315, R316). -/

namespace Sys2Proof.Machine

/-! ### A map of contexts stored anew -/

/-- Every context is as before, however the map of contexts is stored, and so is everything else. -/
structure Restored (s u : State) : Prop where
  rest : u = { s with ctxs := u.ctxs }
  ctx : ∀ k, u.ctx k = s.ctx k

theorem Restored.refl (s : State) : Restored s s := ⟨rfl, fun _ => rfl⟩

/-- An update that changes nothing of the context. -/
theorem restored_updCtx {s : State} {k : Nat} {f : Ctx → Ctx} (hf : f (s.ctx k) = s.ctx k) : Restored s (s.updCtx k f) := by
  refine ⟨rfl, fun j => ?_⟩
  by_cases hj : j = k
  · rw [hj, State.ctx_updCtx, hf]
  · rw [State.ctx_updCtx_ne _ _ hj]

section
variable {s u : State}

theorem Restored.spadSpan (h : Restored s u) (c : Ctx) (a n : Nat) (write : Bool) :
    u.spadSpan c a n write = s.spadSpan c a n write := by
  obtain ⟨hu, hctx⟩ := h
  generalize u.ctxs = m at hu
  subst hu
  have hfun : State.ctx { s with ctxs := m } = s.ctx := funext hctx
  simp only [State.spadSpan, State.spadTargets, State.windowCtx, State.shareIn, State.residentIn, hfun]
  rfl

theorem Restored.newCmd (h : Restored s u) (o : EngOps) (d : Draft) : newCmd u o d = newCmd s o d := by
  obtain ⟨hu, hctx⟩ := h
  generalize u.ctxs = m at hu
  subst hu
  have hfun : State.ctx { s with ctxs := m } = s.ctx := funext hctx
  simp only [Machine.newCmd, State.me, State.myLane, State.lane, State.srcS, State.snap, State.bindsFor, predsNow, namePred,
    lastPreds, inherited, hfun]
  rfl

theorem Restored.badCounter (h : Restored s u) (c : EngCmd) : badCounter u c = badCounter s c := by
  simp only [Machine.badCounter, h.spadSpan, h.ctx]

theorem Restored.addSpots (h : Restored s u) (k : Nat) (write multi : Bool) (ps : List Spot) (rs : List Range) :
    addSpots u k write multi ps rs = addSpots s k write multi ps rs := by
  induction ps generalizing rs with
  | nil => rfl
  | cons p ps ih => simp only [Machine.addSpots, h.spadSpan, h.ctx, ih]

theorem Restored.unitRanges (h : Restored s u) (c : EngCmd) (dst : Bool) (v n : Nat) (rs : List Range) :
    unitRanges u c dst v n rs = unitRanges s c dst v n rs := by
  induction n generalizing v rs with
  | zero => rfl
  | succ n ih => simp only [Machine.unitRanges, h.addSpots, ih]

theorem Restored.rangesFrom (h : Restored s u) (c : EngCmd) (v : Nat) : c.rangesFrom u v = c.rangesFrom s v := by
  simp only [EngCmd.rangesFrom, h.unitRanges]

end

/-! ### The block of a command (R302) -/

theorem mem_kvPut {α : Type} {m : Kv α} {k : Nat} {x : α} {p : Nat × α} (h : p ∈ kvPut m k x) : p ∈ m ∨ p = (k, x) := by
  induction m with
  | nil => exact .inr (List.mem_singleton.mp h)
  | cons q m ih =>
    obtain ⟨j, y⟩ := q
    unfold kvPut at h
    split at h
    · rcases List.mem_cons.mp h with h | h
      · exact .inr h
      · exact .inl h
    · split at h
      · rcases List.mem_cons.mp h with h | h
        · exact .inr h
        · exact .inl (List.mem_cons_of_mem _ h)
      · rcases List.mem_cons.mp h with h | h
        · exact .inl (h ▸ List.mem_cons_self)
        · exact (ih h).imp (List.mem_cons_of_mem _) id

theorem mem_of_kvGet {α : Type} {m : Kv α} {k : Nat} {x : α} (h : kvGet m k = some x) : (k, x) ∈ m := by
  induction m with
  | nil => cases h
  | cons q m ih =>
    obtain ⟨j, y⟩ := q
    unfold kvGet at h
    split at h
    · rename_i hj
      cases h
      exact hj ▸ List.mem_cons_self
    · exact List.mem_cons_of_mem _ (ih h)

section
variable {s : State}

/-- No lane has a write to the scratchpad that need not have been performed. -/
theorem scratchInflight_eq_nil (hp : s.scratchPending = []) (k : Nat) (l : Lane) : (s.lane k l).scratchInflight = [] := by
  simp only [State.scratchPending, List.append_eq_nil_iff, List.flatMap_eq_nil_iff] at hp
  unfold State.lane State.ctx
  cases h : kvGet s.ctxs k with
  | none => cases l <;> rfl
  | some c => exact hp.1 (k, c) (mem_of_kvGet h) l (by cases l <;> decide)

theorem Ctx.updLane_eq_self {c : Ctx} {l : Lane} {f : LaneSt → LaneSt} (hf : f (c.lane l) = c.lane l) : c.updLane l f = c := by
  rw [Ctx.updLane, hf]
  cases l <;> rfl

/-- The lane's writes that come before a block that it reads: there are none. -/
theorem cutWrites_lane (hp : s.scratchPending = []) (k : Nat) (l : Lane) (locs : List Nat) :
    { s.lane k l with scratchInflight := cutWrites locs (s.lane k l).scratchInflight } = s.lane k l := by
  have h := scratchInflight_eq_nil hp k l
  revert h
  generalize s.lane k l = x
  intro h
  rw [h, show cutWrites locs [] = [] from rfl, ← h]

theorem scratchPending_updLane (hp : s.scratchPending = []) {k : Nat} {l : Lane} {f : LaneSt → LaneSt}
    (hf : f (s.lane k l) = s.lane k l) : (s.updLane k l f).scratchPending = [] := by
  have hinflight := scratchInflight_eq_nil hp
  simp only [State.scratchPending, List.append_eq_nil_iff, List.flatMap_eq_nil_iff] at hp ⊢
  refine ⟨fun kc hkc m hm => ?_, hp.2⟩
  rcases mem_kvPut hkc with h | h
  · exact hp.1 kc h m hm
  · rw [h]
    exact (congrArg (fun c : Ctx => (c.lane m).scratchInflight) (Ctx.updLane_eq_self hf)).trans (hinflight k m)

theorem mapM_eq_some {α β : Type} {f : α → Option β} {g : α → β} {xs : List α} (h : ∀ x ∈ xs, f x = some (g x)) :
    xs.mapM f = some (xs.map g) := by
  induction xs with
  | nil => rfl
  | cons x xs ih =>
    rw [List.forall_mem_cons] at h
    rw [List.mapM_cons, h.1, ih h.2]
    rfl

theorem restored_updLane {k : Nat} {l : Lane} {f : LaneSt → LaneSt} (hf : f (s.lane k l) = s.lane k l) :
    Restored s (s.updLane k l f) := restored_updCtx (f := fun c => c.updLane l f) (Ctx.updLane_eq_self hf)

/-- The bytes of a block of the own share. -/
def State.blockAt (s : State) (at_ : Nat → Nat) (a n : Nat) : List Byte :=
  ((List.range n).map (a + ·)).map (fun x => s.byteAt (at_ x))

/-- A block of the own share is read, and nothing else changes. -/
theorem runs_readBlock {a n align : Nat} {at_ : Nat → Nat} (ha : a % align = 0) (h : OwnReach s ((List.range n).map (a + ·)) at_)
    (hp : s.scratchPending = []) : ∃ u, Restored s u ∧ Runs s (readBlock a n align) (s.blockAt at_ a n) u := by
  obtain ⟨hloc, hboard, hpoison⟩ := h
  have hspan : s.ownSpan s.me a n = some (((List.range n).map (a + ·)).map at_) := by
    rw [State.ownSpan, List.map_map]
    exact mapM_eq_some fun i hi => hloc _ (List.mem_map_of_mem hi)
  have hblock : Runs s (ownBlock a n align) (((List.range n).map (a + ·)).map at_) s := by
    refine Runs.bind (run_get s) ?_
    rw [if_neg (not_not.mpr ha), hspan]
    dsimp only
    rw [hboard]
    rfl
  have hlane := cutWrites_lane hp s.cur.ctx s.cur.lane (((List.range n).map (a + ·)).map at_)
  refine ⟨_, restored_updLane (f := fun x => { x with scratchInflight := cutWrites _ x.scratchInflight }) hlane, hblock.bind (Runs.bind (run_modify _ s) ?_)⟩
  have hread := run_spadRead_ok (s := s.updMyLane fun x =>
    { x with scratchInflight := cutWrites (((List.range n).map (a + ·)).map at_) x.scratchInflight }) hpoison
    (scratchPending_updLane hp hlane)
  have hblocks : s.blockAt at_ a n = (((List.range n).map (a + ·)).map at_).map s.byteAt := by
    simp [State.blockAt]
  rw [hblocks]
  exact hread

end

/-! ### The issue of a command -/

/-- A command with its ranges, which its scoreboard entry covers (R100). -/
def EngCmd.covering (c : EngCmd) (rs : List Range) : EngCmd := { c with ranges := rs, board := boardOf rs }

/-- The ranges of what a command names apart from its units. -/
def extraRanges (s : State) (k : Nat) (extra : List (Nat × Nat × Bool)) : Except Nat (List Range) :=
  extra.foldlM (fun rs e =>
    (addSpots s k e.2.2 false ((List.range e.2.1).map (fun i => ⟨true, e.1 + i⟩)) rs).mapError (fun _ => e.1)) []

/-- With room, a counter and ranges that have a meaning, and operands in range, a command issues. -/
theorem runs_issueCmd {u : State} {o : EngOps} {d : Draft} {extra : List (Nat × Nat × Bool)} {rs ms : List Range}
    (hroom : CmdRoom u) (hcounter : badCounter u (newCmd u o d) = false) (hcode : d.code = 0)
    (hrs : (newCmd u o d).rangesFrom u 0 = .ok rs) (hms : extraRanges u u.cur.ctx extra = .ok ms) :
    Runs u (issueCmd o d extra) () (countCmd u ((newCmd u o d).covering (rs ++ ms))) := by
  obtain ⟨hcmds, hboards, hdetm⟩ := hroom
  have hms : extra.foldlM (fun rs e => (addSpots u (newCmd u o d).ctx e.2.2 false
      ((List.range e.2.1).map (fun i => ⟨true, e.1 + i⟩)) rs).mapError (fun _ => e.1)) [] = .ok ms := hms
  refine Runs.bind (run_get u) ?_
  dsimp only
  rw [if_neg (by exact Nat.not_le.mpr hcmds), if_neg (by rw [hcounter]; decide), if_neg (not_not.mpr hcode), hrs, hms]
  dsimp only
  rw [hdetm]
  have hboard : ¬ ((boardOf (rs ++ ms)).isSome
      && decide (16 ≤ (u.cmds.filter (fun x => x.core == (newCmd u o d).core && x.board.isSome)).length)) = true := by
    rw [Bool.and_eq_true, not_and, decide_eq_true_iff]
    exact fun _ => Nat.not_le.mpr hboards
  rw [if_neg hboard]
  exact run_set _ u

/-- A counter without a meaning is found before anything else. -/
theorem run_issueCmd_badCounter {s : State} {o : EngOps} {d : Draft} (extra : List (Nat × Nat × Bool)) (hroom : CmdRoom s)
    (hcounter : badCounter s (newCmd s o d) = true) :
    (issueCmd o d extra).run.run s = (.error (.fatal .spadAddr 0 (s.srcS 3 o.ctr)), s) := by
  obtain ⟨hcmds, -⟩ := hroom
  refine (run_bind_ok (run_get s) _).trans ?_
  dsimp only
  rw [if_neg (by exact Nat.not_le.mpr hcmds), if_pos hcounter]
  refine (run_bind_error (run_throw _ s) _).trans ?_
  rw [show BitVec.ofNat 64 (newCmd s o d).ctr.toNat = s.srcS 3 o.ctr from
    (BitVec.ofNat_toNat _ _).trans (BitVec.setWidth_eq _)]

/-- A number that is used again no longer names an older command, in any lane. -/
def Ctx.forget (c : Ctx) (key : Nat) : Ctx := lanes.foldl (fun c m => c.updLane m (fun x => x.forget key)) c

/-- The issuing lane of a context once it has issued a command. -/
def Ctx.issued (c : Ctx) (l : Lane) (n : BitVec 16) : Ctx :=
  (c.forget (cmdKey l n)).updLane l (fun x => { x with eseq := n, edep := none })

theorem Ctx.sameRegs_issued (c : Ctx) (l : Lane) (n : BitVec 16) : c.SameRegs (c.issued l n) := by
  have h := fun (d : Ctx) (m : Lane) => Ctx.SameRegs.updLane d m (fun x => x.forget (cmdKey l n)) (fun _ => rfl)
  exact (((h c .L).trans (h _ .C)).trans (h _ .S)).trans (Ctx.SameRegs.updLane _ _ _ fun _ => rfl)

theorem Ctx.pc_issued (c : Ctx) (l : Lane) (n : BitVec 16) (m : Lane) : ((c.issued l n).lane m).pc = (c.lane m).pc := by
  cases l <;> cases m <;> rfl

theorem Ctx.lane_issued (c : Ctx) (l : Lane) (n : BitVec 16) :
    (c.issued l n).lane l = { (c.lane l).forget (cmdKey l n) with eseq := n, edep := none } := by
  cases l <;> rfl

theorem ctx_forgetName (s : State) (k : Nat) (l : Lane) (n : BitVec 16) :
    (forgetName s k l n).ctx k = (s.ctx k).forget (cmdKey l n) :=
  State.ctx_updCtx s k (fun c => c.forget (cmdKey l n))

theorem ctx_forgetName_ne (s : State) {j k : Nat} (l : Lane) (n : BitVec 16) (h : j ≠ k) :
    (forgetName s k l n).ctx j = s.ctx j :=
  State.ctx_updCtx_ne s (fun c => c.forget (cmdKey l n)) h

section
variable {u : State} {c : EngCmd}

theorem ctx_countCmd : (countCmd u c).ctx c.ctx = (u.ctx c.ctx).issued c.lane c.num := by
  have hforget := ctx_forgetName { u with nextId := u.nextId + 1 } c.ctx c.lane c.num
  exact (State.ctx_updCtx (forgetName { u with nextId := u.nextId + 1 } c.ctx c.lane c.num) c.ctx
    (fun x => x.updLane c.lane (fun x => { x with eseq := c.num, edep := none }))).trans
    (congrArg (fun x : Ctx => x.updLane c.lane (fun x => { x with eseq := c.num, edep := none })) hforget)

theorem ctx_countCmd_ne {k : Nat} (h : k ≠ c.ctx) : (countCmd u c).ctx k = u.ctx k :=
  (State.ctx_updCtx_ne (forgetName { u with nextId := u.nextId + 1 } c.ctx c.lane c.num)
    (fun x => x.updLane c.lane (fun x => { x with eseq := c.num, edep := none })) h).trans
    (ctx_forgetName_ne { u with nextId := u.nextId + 1 } c.lane c.num h)

/-- Commands of the context that waited for the issue of a command wait for its completion now. -/
def EngCmd.afterIssue (c d : EngCmd) : EngCmd :=
  if d.ctx = c.ctx then
    { d with preds := d.preds.map (fun p =>
        if p.lane = c.lane ∧ p.num = c.num ∧ !p.issued then { p with issued := true } else p) }
  else d

theorem cmds_countCmd : (countCmd u c).cmds = (u.cmds ++ [c]).map c.afterIssue := rfl

end

/-- What the issue of a command leaves: nothing that the program sees changes but ESEQ. -/
structure LeavesIssued (s t : State) : Prop where
  cur : t.cur = s.cur
  bytes : SameBytes s t
  others : ∀ k, k ≠ s.cur.ctx → t.ctx k = s.ctx k
  me : t.me = s.me.issued s.cur.lane (s.myLane.eseq + 1)

section
variable {s t : State}

theorem LeavesIssued.lanes (h : LeavesIssued s t) : SameLanes s t := by
  refine ⟨by rw [h.cur], by rw [h.cur], h.others, fun l => ?_⟩
  rw [h.me]
  exact ⟨(Ctx.sameRegs_issued _ _ _).s l, Ctx.pc_issued _ _ _ l⟩

theorem LeavesIssued.files (h : LeavesIssued s t) : SameFiles s t :=
  sameFiles_of_sameRegs (h.me ▸ Ctx.sameRegs_issued _ _ _)

theorem LeavesIssued.myLane (h : LeavesIssued s t) : t.myLane.eseq = s.myLane.eseq + 1 ∧ t.myLane.edep = none := by
  rw [State.myLane, h.cur, h.me, Ctx.lane_issued]
  exact ⟨rfl, rfl⟩

end

/-- A command of the issuing lane with its next number is counted. -/
theorem leavesIssued_countCmd {s u : State} (hu : Restored s u) {c : EngCmd} (hk : c.ctx = s.cur.ctx) (hl : c.lane = s.cur.lane)
    (hn : c.num = s.myLane.eseq + 1) : LeavesIssued s (countCmd u c) := by
  have hcur : u.cur = s.cur := by rw [hu.rest]
  constructor
  case cur => exact hcur
  case bytes =>
    intro a
    have hbyte : u.byteAt a = s.byteAt a := by rw [hu.rest]; rfl
    exact hbyte
  case others => exact fun k hne => (ctx_countCmd_ne (by rwa [hk])).trans (hu.ctx k)
  case me =>
    have hme : (countCmd u c).me = (countCmd u c).ctx c.ctx := by
      rw [hk, ← hcur]; rfl
    rw [hme, ctx_countCmd, hk, hl, hn, hu.ctx]
    rfl

/-- A draft issues with its operands and ranges, and changes nothing else that the program sees. -/
def IssuesAs (s t : State) (o : EngOps) (d : Draft) (rs : List Range) : Prop :=
  ∃ c, Issues s t c ∧ Takes s c o ∧ c.kind = d.kind ∧ c.blk = d.blk ∧ c.len = d.len ∧ c.ranges = rs ∧ c.board = boardOf rs
    ∧ c.ends = d.ends ∧ c.grp = d.grp ∧ SameBytes s t ∧ SameLanes s t ∧ SameFiles s t

theorem issuesAs_of_leaves {s t : State} {o : EngOps} {d : Draft} {rs : List Range} (h : LeavesIssued s t)
    (hcmds : t.cmds = (s.cmds ++ [(newCmd s o d).covering rs]).map ((newCmd s o d).covering rs).afterIssue) :
    IssuesAs s t o d rs := by
  have hafter : ((newCmd s o d).covering rs).afterIssue ((newCmd s o d).covering rs) =
      { (newCmd s o d).covering rs with preds := (newCmd s o d).preds.map (fun p =>
        if p.lane = (newCmd s o d).lane ∧ p.num = (newCmd s o d).num ∧ !p.issued then { p with issued := true } else p) } :=
    if_pos rfl
  refine ⟨((newCmd s o d).covering rs).afterIssue ((newCmd s o d).covering rs), ⟨?_, by simp [hcmds], h.myLane.1, h.myLane.2, ?_⟩,
    ?_⟩
  · rw [hcmds]
    exact List.mem_map_of_mem (List.mem_append_right _ (List.mem_singleton_self _))
  · rw [hafter]
    exact ⟨rfl, rfl, rfl, rfl, rfl⟩
  · rw [hafter]
    exact ⟨⟨rfl, rfl, rfl, rfl, rfl, rfl, rfl, rfl, rfl, rfl⟩, rfl, rfl, rfl, rfl, rfl, rfl, rfl, h.bytes, h.lanes, h.files⟩

/-- What the issue of a draft needs. -/
structure MayIssue (s : State) (o : EngOps) (d : Draft) (rs : List Range) : Prop where
  room : CmdRoom s
  counter : badCounter s (newCmd s o d) = false
  code : d.code = 0
  ranges : (newCmd s o d).rangesFrom s 0 = .ok rs

section
variable {s u : State} {h : Hdr} {o : EngOps} {d : Draft} {rs ms : List Range}

theorem Restored.cmdRoom (hu : Restored s u) (hroom : CmdRoom s) : CmdRoom u := by
  have hcur : u.cur = s.cur := by rw [hu.rest]
  have hcmds : u.cmds = s.cmds := by rw [hu.rest]
  have hme : u.me = s.me := by rw [State.me, hcur, hu.ctx]; rfl
  rwa [CmdRoom, hcmds, hcur, hme]

theorem MayIssue.runs (hd : MayIssue s o d rs) (hu : Restored s u) {extra : List (Nat × Nat × Bool)}
    (hms : extraRanges s s.cur.ctx extra = .ok ms) :
    ∃ t, Runs u (issueCmd o d extra) () t ∧ LeavesIssued s t
      ∧ t.cmds = (s.cmds ++ [(newCmd s o d).covering (rs ++ ms)]).map ((newCmd s o d).covering (rs ++ ms)).afterIssue := by
  obtain ⟨hroom, hcounter, hcode, hranges⟩ := hd
  have hcur : u.cur = s.cur := by rw [hu.rest]
  have hcmds : u.cmds = s.cmds := by rw [hu.rest]
  have hnew := hu.newCmd o d
  have hrun := runs_issueCmd (u := u) (o := o) (d := d) (extra := extra) (rs := rs) (ms := ms) (hu.cmdRoom hroom)
    (by rw [hnew, hu.badCounter, hcounter]) hcode (by rw [hnew, hu.rangesFrom, hranges])
    (by rw [hcur, ← hms]; simp only [extraRanges, hu.addSpots])
  rw [hnew] at hrun
  exact ⟨_, hrun, leavesIssued_countCmd hu rfl rfl rfl, by rw [cmds_countCmd, hcmds]⟩

theorem runs_asCommand {m : Op Unit} {t : State} (hm : Runs s m () t) : Runs s (asCommand m) () t := by
  simp only [Runs, asCommand, ExceptT.run, ExceptT.mk, StateT.run] at hm ⊢
  rw [hm]

/-- A fault of the issue is recorded with the command's name. -/
theorem runs_asCommand_fatal {m : Op Unit} {x : Cause} {n : Nat} {a : Word}
    (hm : m.run.run s = (.error (.fatal x n a), s)) :
    Runs s (asCommand m) () (recordFatal s s.cur.ctx x (laneCode s.cur.lane) n a (some (s.cur.pc + s.cur.slot))
      (some (s.cur.lane, s.myLane.eseq + 1))) := by
  simp only [Runs, asCommand, ExceptT.run, ExceptT.mk, StateT.run] at hm ⊢
  rw [hm]
  rfl

/-- An engine instruction whose draft is at hand issues it. -/
theorem engineIssue_issues (ha : s.active h = true) (hd : MayIssue s o d rs) {m : Op Draft} (hu : Restored s u)
    (hm : Runs s m d u) : ∃ t, engineIssue h o s m = .next t ∧ IssuesAs s t o d rs := by
  obtain ⟨t, hrun, hleaves, hcmds⟩ := hd.runs (ms := []) hu (extra := []) rfl
  rw [List.append_nil] at hcmds
  refine ⟨t, ?_, issuesAs_of_leaves hleaves hcmds⟩
  rw [engineIssue, gateOp_active ha]
  exact runOp_ok (runs_asCommand (hm.bind hrun))

theorem engineIssue_badCounter (ha : s.active h = true) (hroom : CmdRoom s) (hcounter : badCounter s (newCmd s o d) = true) :
    engineIssue h o s (pure d) = .next (recordFatal s s.cur.ctx .spadAddr (laneCode s.cur.lane) 0 (s.srcS 3 o.ctr)
      (some (s.cur.pc + s.cur.slot)) (some (s.cur.lane, s.myLane.eseq + 1))) := by
  rw [engineIssue, gateOp_active ha]
  exact runOp_ok (runs_asCommand_fatal ((run_bind_ok (run_pure d s) _).trans (run_issueCmd_badCounter [] hroom hcounter)))

end

/-! ### Fabric commands (R315, R316) -/

/-- The bytes that an FSEND or FRECV names: a length, or a block in range. -/
theorem runs_fabricLen_plain {s : State} {o : EngOps} (hsh : o.fl.getLsbD 4 = false) (w : Word) :
    Runs s (fabricLen o w) ([], w.toNat, true) s := by
  rw [fabricLen, hsh]
  rfl

theorem runs_fabricLen_shaped {s u : State} {o : EngOps} (hsh : o.fl.getLsbD 4 = true) {w : Word} {bs : List Byte}
    (hok : shapeOk bs = true) (hr : Runs s (readBlock w.toNat 32 32) bs u) :
    Runs s (fabricLen o w) (bs, blkRows bs * blkRb bs, true) u := by
  rw [fabricLen, if_pos hsh]
  refine hr.bind ?_
  rw [hok]
  rfl

/-- Under what the numbers of the commands to the peer that a word names are kept. -/
def peerKey (w : Word) : Nat := bits w.toNat 0 16 + 2 ^ 16 * bits w.toNat 16 4 + 2 ^ 20 * bits w.toNat 20 3

/-- The peer that a word names, as a command's ends have it; `ks` are the numbers of the commands to each peer. -/
def peerEnds (me : Nat) (w : Word) (ks : Kv Nat) : Nat × Nat × Nat × Nat :=
  (if bits w.toNat 20 3 = me then 8 else bits w.toNat 20 3, bits w.toNat 16 4, bits w.toNat 0 16, (kvGet ks (peerKey w)).getD 0)

/-- The group that the issuing context addresses. -/
def State.myGroup (s : State) : Option (Nat × Group) := groupOfPart s s.me.part

/-- This module's rank in it. -/
def State.myRank (s : State) : Nat := (s.myGroup.map (fun kg => kg.2.rank)).getD 0

/-- The numbers of the commands to, or from, each peer. -/
def State.peers (s : State) (kind : CmdKind) : Kv Nat := if kind = .fsend then (s.die s.myDie).sends else (s.die s.myDie).recvs

/-- The draft of an FSEND or FRECV. -/
def fabricDraft (s : State) (kind : CmdKind) (bs : List Byte) (n : Nat) (w : Word) : Draft :=
  ⟨kind, bs, n, 0, peerEnds s.myRank w (s.peers kind), 0, s.myGroup.map (·.1)⟩

/-- A die once `n` commands of a kind have issued to, or from, a peer. -/
def Die.countPeer (kind : CmdKind) (w : Word) (n : Nat) (x : Die) : Die :=
  if kind = .fsend then { x with sends := kvPut x.sends (peerKey w) n } else { x with recvs := kvPut x.recvs (peerKey w) n }

/-- A peer of the group: its command issues, and the next one has the next number. -/
theorem runs_issueFabric {s u t : State} {o : EngOps} {kind : CmdKind} {w : Word} {bs : List Byte} {n : Nat}
    (hlen : Runs s (fabricLen o (s.srcS 2 o.desc)) (bs, n, true) u)
    (hpeer : bits w.toNat 20 3 < (s.myGroup.map (fun kg => kg.2.g)).getD 1)
    (hissue : Runs u (issueCmd o (fabricDraft s kind bs n w) []) () t) :
    Runs s (issueFabric o s kind w) ()
      (t.updDie s.myDie (Die.countPeer kind w ((kvGet (s.peers kind) (peerKey w)).getD 0 + 1))) := by
  rw [State.myGroup] at hpeer
  unfold issueFabric
  cases hg : groupOfPart s s.me.part with
  | none =>
    have hdraft : fabricDraft s kind bs n w = ⟨kind, bs, n, 0, peerEnds 0 w (s.peers kind), 0, none⟩ := by
      simp only [fabricDraft, State.myRank, State.myGroup, hg]
      rfl
    rw [hg] at hpeer
    rw [hdraft] at hissue
    have hin : (true && decide (bits w.toNat 20 3 < 1)) = true := by simpa using hpeer
    refine hlen.bind ?_
    dsimp only
    rw [hin]
    exact hissue.bind (run_modify _ t)
  | some kg =>
    have hdraft : fabricDraft s kind bs n w = ⟨kind, bs, n, 0, peerEnds kg.2.rank w (s.peers kind), 0, some kg.1⟩ := by
      simp only [fabricDraft, State.myRank, State.myGroup, hg]
      rfl
    rw [hg] at hpeer
    rw [hdraft] at hissue
    have hin : (true && decide (bits w.toNat 20 3 < kg.2.g)) = true := by simpa using hpeer
    refine hlen.bind ?_
    dsimp only
    rw [hin]
    exact hissue.bind (run_modify _ t)

section
variable {s u : State} {h : Hdr} {o : EngOps} {rs : List Range}

/-- An FSEND or FRECV with a peer of the group issues. -/
theorem fabric_issues {kind : CmdKind} {w : Word} {bs : List Byte} {n : Nat} (ha : s.active h = true)
    (hd : MayIssue s o (fabricDraft s kind bs n w) rs) (hu : Restored s u)
    (hlen : Runs s (fabricLen o (s.srcS 2 o.desc)) (bs, n, true) u)
    (hpeer : bits w.toNat 20 3 < (s.myGroup.map (fun kg => kg.2.g)).getD 1) :
    ∃ t, gateOp h s (asCommand (issueFabric o s kind w)) = .next t ∧ IssuesAs s t o (fabricDraft s kind bs n w) rs := by
  obtain ⟨t, hrun, hleaves, hcmds⟩ := hd.runs (ms := []) hu (extra := []) rfl
  rw [List.append_nil] at hcmds
  have hfabric := runs_issueFabric hlen hpeer hrun
  refine ⟨t.updDie s.myDie (Die.countPeer kind w ((kvGet (s.peers kind) (peerKey w)).getD 0 + 1)), ?_,
    issuesAs_of_leaves ⟨hleaves.cur, hleaves.bytes, hleaves.others, hleaves.me⟩ hcmds⟩
  rw [gateOp_active ha]
  exact runOp_ok (runs_asCommand hfabric)

/-- The ranges of a collective's source, where it lies in the scratchpad. -/
def collExtra (o : EngOps) (s : State) (bs : List Byte) : List (Nat × Nat × Bool) :=
  if o.fl.getLsbD 3 then [((s.srcS 1 o.src).toNat, collBytes bs, false)] else []

/-- An FCOLL in range on a formed group issues. -/
theorem fcoll_issues {bs : List Byte} {key : Nat} {g : Group} {ms : List Range} (ha : s.active h = true)
    (hd : MayIssue s o ⟨.fcoll, bs, collDst bs g.g, 0, (key, g.issued, 0, 0), 0, some key⟩ rs) (hu : Restored s u)
    (hr : Runs s (readBlock (s.srcS 2 o.desc).toNat 32 32) bs u) (hg : groupOfHandle s (collGrp bs) = some (key, g))
    (hst : g.st = .formed) (hok : collOk bs g.g = true) (hms : extraRanges s s.cur.ctx (collExtra o s bs) = .ok ms) :
    ∃ t, exec (.fcoll h o) s = .next t
      ∧ IssuesAs s t o ⟨.fcoll, bs, collDst bs g.g, 0, (key, g.issued, 0, 0), 0, some key⟩ (rs ++ ms) := by
  obtain ⟨t, hrun, hleaves, hcmds⟩ := hd.runs hu hms
  refine ⟨t.updGroup key (fun x => { x with issued := x.issued + 1 }), ?_,
    issuesAs_of_leaves ⟨hleaves.cur, hleaves.bytes, hleaves.others, hleaves.me⟩ hcmds⟩
  rw [show exec (.fcoll h o) s = execFcoll h o s from rfl, execFcoll, gateOp_active ha]
  refine runOp_ok (runs_asCommand (hr.bind ?_))
  rw [hg]
  dsimp only
  have hcode : (if (!collOk bs g.g) = true then 1 else if g.st = .broken then 3 else 0) = 0 := by
    rw [hok, hst]; rfl
  rw [hcode, show ((0 : Nat) == 0) = true from rfl, Bool.and_true]
  exact hrun.bind (run_modify _ t)

end

/-! ### A length out of range (R303) -/

/-- A command that completes with a code when it issues. -/
def EngCmd.atOnce (c : EngCmd) : EngCmd :=
  { c with len := 0, phase := .started, preds := c.preds.map (fun p => { p with done := true }) }

section
variable {s : State} {h : Hdr} {o : EngOps} {d : Draft}

theorem runs_issueCmd_outOfRange (hroom : CmdRoom s) (hctr : s.srcS 3 o.ctr = 0) (hcode : d.code ≠ 0) :
    Runs s (issueCmd o d []) () (retireCmd (countCmd s (newCmd s o d).atOnce) (newCmd s o d).atOnce none) := by
  obtain ⟨hcmds, -⟩ := hroom
  have hzero : (newCmd s o d).ctr = 0 := hctr
  have hcounter : badCounter s (newCmd s o d) = false := by simp [badCounter, hzero]
  have hfinish : finishCmd (countCmd s (newCmd s o d).atOnce) (newCmd s o d).atOnce = .go (newCmd s o d).atOnce none
      (retireCmd (countCmd s (newCmd s o d).atOnce) (newCmd s o d).atOnce none) := if_pos (.inl hctr)
  refine Runs.bind (run_get s) ?_
  dsimp only
  rw [if_neg (by exact Nat.not_le.mpr hcmds), if_neg (by rw [hcounter]; decide), if_pos hcode]
  unfold EngCmd.atOnce at hfinish ⊢
  rw [hfinish]
  exact run_set _ s

/-- No command of a name is in flight once that command has ended. -/
theorem named_retireCmd {t : State} {c : EngCmd} {inc : Option Nat} :
    ∀ d ∈ (retireCmd t c inc).cmds, d.named c.ctx c.lane c.num = false := by
  intro d hd
  simp only [retireCmd, List.mem_map, List.mem_filter, Bool.not_eq_true'] at hd
  obtain ⟨e, ⟨-, he⟩, rfl⟩ := hd
  split <;> exact he

end

/-- A command whose operands are out of range uses a number, and none of that name is left. -/
theorem engineIssue_outOfRange {s : State} {h : Hdr} {o : EngOps} {d : Draft} (ha : s.active h = true) (hroom : CmdRoom s)
    (hctr : s.srcS 3 o.ctr = 0) (hcode : d.code ≠ 0) :
    ∃ t, engineIssue h o s (pure d) = .next t ∧ t.myLane.eseq = s.myLane.eseq + 1 ∧ SameBytes s t ∧ SameFiles s t
      ∧ ∀ c ∈ t.cmds, c.named s.cur.ctx s.cur.lane (s.myLane.eseq + 1) = false := by
  have hleaves := leavesIssued_countCmd (Restored.refl s) (c := (newCmd s o d).atOnce) rfl rfl rfl
  refine ⟨retireCmd (countCmd s (newCmd s o d).atOnce) (newCmd s o d).atOnce none, ?_, hleaves.myLane.1, hleaves.bytes,
    hleaves.files, named_retireCmd (c := (newCmd s o d).atOnce)⟩
  rw [engineIssue, gateOp_active ha]
  exact runOp_ok (runs_asCommand (Runs.bind (run_pure d s) (runs_issueCmd_outOfRange hroom hctr hcode)))

theorem runs_pure_of_eq {α : Type} {e d : α} (he : e = d) (u : State) : Runs u (pure e) d u := he ▸ run_pure e u

theorem rangeCode_of {b : Bool} (hb : b = true) : rangeCode b = 0 := by rw [hb]; rfl

/-- The source of a collective, where it lies in the scratchpad, is what it names apart from its units. -/
theorem extraRanges_collExtra {s : State} {o : EngOps} {bs : List Byte} {ms : List Range}
    (h : if o.fl.getLsbD 3 = true then
      addSpots s s.cur.ctx false false ((List.range (collBytes bs)).map (fun i => ⟨true, (s.srcS 1 o.src).toNat + i⟩)) [] = .ok ms
      else ms = []) : extraRanges s s.cur.ctx (collExtra o s bs) = .ok ms := by
  rw [collExtra]
  split at h
  · rw [if_pos (by assumption), extraRanges, List.foldlM_cons, h]
    rfl
  · rw [if_neg (by assumption), h]
    rfl

/-- Settles O31: a draft in range issues once its block has been read (`engineIssue_issues`, `fabric_issues`,
`fcoll_issues`), a COPY out of range completes as it issues, and a counter without meaning stops the issue. -/
theorem engineCommandsIssue : Obligations.EngineCommandsIssue := by
  unfold Obligations.EngineCommandsIssue
  intro h o s at_ rs ha hroom hp
  extract_lets counterOk d block reads bs moved dp p n nr issuesWith issues shaped group me die peer known
  have hgives {i : Instr} {dr : Draft} (hcode : dr.code = 0)
      (hi : MayIssue s o dr rs → ∃ t, exec i s = .next t ∧ IssuesAs s t o dr rs) : issues i dr := by
    intro hcounter hrs
    obtain ⟨t, hexec, c, hc⟩ := hi ⟨hroom, hcounter, hcode, hrs⟩
    rw [List.append_nil]
    exact ⟨t, c, hexec, hc⟩
  have hblock {a k : Nat} (hr : reads a k) : ∃ u, Restored s u ∧ Runs s (readBlock a k 32) (block a k) u :=
    runs_readBlock hr.1 hr.2 hp
  have hdirect {i : Instr} {dr e : Draft} (hi : exec i s = engineIssue h o s (pure e)) (he : e = dr) (hcode : dr.code = 0) :
      issues i dr :=
    hgives hcode fun hd => hi ▸ engineIssue_issues ha hd (Restored.refl s) (he ▸ run_pure e s)
  refine ⟨fun hn => ?_, fun hr hshape htr => ?_, fun hn hz => ?_, fun hr hz => ?_, fun hr hdst hsrc => ?_, ?_, fun hk hsh => ?_,
    fun hk hsh hr hshape => ?_, fun hk hsh => ?_, fun hk hsh hr hshape => ?_, fun key g ms hr hg hst hok hms => ?_,
    fun hn hctr => ?_, fun hbad i hi => ?_⟩
  · exact hdirect rfl (congrArg (draft .copy [] d) (rangeCode_of (decide_eq_true hn))) rfl
  · obtain ⟨u, hu, hrun⟩ := hblock hr
    have hok : (shapeOk bs && (!o.sub.getLsbD 4 || blkRb bs % 2 ^ bits (blkWord bs 3) 0 2 == 0)) = true := by
      rw [hshape]
      cases hs : o.sub.getLsbD 4 with
      | false => rfl
      | true => simpa using htr hs
    exact hgives rfl fun hd => engineIssue_issues ha hd hu
      (hrun.bind (runs_pure_of_eq (congrArg (draft .copyt bs moved) (rangeCode_of hok)) u))
  · refine hdirect rfl (congrArg (draft .fill [] d) (rangeCode_of ?_)) rfl
    rw [decide_eq_true hn, Bool.true_and, beq_iff_eq]
    exact hz
  · obtain ⟨u, hu, hrun⟩ := hblock hr
    exact hgives rfl fun hd => engineIssue_issues ha hd hu
      (hrun.bind (runs_pure_of_eq (congrArg (draft .qcvt bs _) (rangeCode_of (beq_iff_eq.mpr hz))) u))
  · obtain ⟨u, hu, hrun⟩ := hblock hr
    have hok : (planeDstOk p n nr && (s.srcS 1 o.src).toNat % 32 == 0) = true := by rw [hdst, hsrc]; rfl
    exact hgives rfl fun hd => engineIssue_issues ha hd hu
      (hrun.bind (runs_pure_of_eq (congrArg (draft .plane dp _) (rangeCode_of hok)) u))
  · exact hdirect rfl rfl rfl
  · exact hgives rfl fun hd => fabric_issues (kind := .fsend) ha hd (Restored.refl s) (runs_fabricLen_plain hsh _) hk
  · obtain ⟨u, hu, hrun⟩ := hblock hr
    exact hgives rfl fun hd => fabric_issues (kind := .fsend) ha hd hu (runs_fabricLen_shaped hsh hshape hrun) hk
  · exact hgives rfl fun hd => fabric_issues (kind := .frecv) ha hd (Restored.refl s) (runs_fabricLen_plain hsh _) hk
  · obtain ⟨u, hu, hrun⟩ := hblock hr
    exact hgives rfl fun hd => fabric_issues (kind := .frecv) ha hd hu (runs_fabricLen_shaped hsh hshape hrun) hk
  · obtain ⟨u, hu, hrun⟩ := hblock hr
    intro hcounter hrs
    obtain ⟨t, hexec, c, hc⟩ := fcoll_issues ha ⟨hroom, hcounter, rfl, hrs⟩ hu hrun hg hst hok (extraRanges_collExtra hms)
    exact ⟨t, c, hexec, hc⟩
  · refine engineIssue_outOfRange ha hroom hctr (d := draft .copy [] d (rangeCode (decide (d < 2 ^ 40)))) ?_
    rw [decide_eq_false (Nat.not_lt.mpr hn)]
    exact Nat.one_ne_zero
  · have hcounter : badCounter s (newCmd s o (draft .copy [] 0 0)) = true := Bool.of_not_eq_false hbad
    simp only [List.mem_cons, List.not_mem_nil, or_false] at hi
    rcases hi with rfl | rfl | rfl <;> exact engineIssue_badCounter ha hroom hcounter

end Sys2Proof.Machine
end

section
/-! Proofs. Fields of a number, and bytes of storage after a write (R1). -/

namespace Sys2Proof.Machine

/-! ### Fields of a number (R1) -/

theorem testBit_bits (v lo len i : Nat) : (bits v lo len).testBit i = (decide (i < len) && v.testBit (lo + i)) := by
  rw [bits, Nat.testBit_mod_two_pow, Nat.testBit_div_two_pow, Nat.add_comm]

/-- A number with a field replaced, by its three parts. -/
theorem putBits_eq (v lo len x : Nat) :
    putBits v lo len x = 2 ^ lo * (2 ^ len * (v / 2 ^ (lo + len)) + x % 2 ^ len) + v % 2 ^ lo := by
  have hlow : v = 2 ^ lo * (v / 2 ^ lo) + v % 2 ^ lo := (Nat.div_add_mod _ _).symm
  have hmid : v / 2 ^ lo = 2 ^ len * (v / 2 ^ (lo + len)) + bits v lo len := by
    rw [bits, Nat.pow_add, ← Nat.div_div_eq_div_mul]
    exact (Nat.div_add_mod _ _).symm
  have hv : v = 2 ^ lo * (2 ^ len * (v / 2 ^ (lo + len))) + bits v lo len * 2 ^ lo + v % 2 ^ lo := by
    conv_lhs => rw [hlow, hmid]
    ring
  have hrest : v - bits v lo len * 2 ^ lo = 2 ^ lo * (2 ^ len * (v / 2 ^ (lo + len))) + v % 2 ^ lo :=
    Nat.sub_eq_of_eq_add (hv.trans (Nat.add_right_comm _ _ _))
  rw [putBits, hrest]
  ring

theorem testBit_putBits (v lo len x i : Nat) :
    (putBits v lo len x).testBit i = if lo ≤ i ∧ i < lo + len then x.testBit (i - lo) else v.testBit i := by
  rw [putBits_eq, Nat.testBit_two_pow_mul_add _ (Nat.mod_lt _ (Nat.two_pow_pos lo)),
    Nat.testBit_two_pow_mul_add _ (Nat.mod_lt _ (Nat.two_pow_pos len)), Nat.testBit_mod_two_pow, Nat.testBit_mod_two_pow,
    Nat.testBit_div_two_pow]
  by_cases hlo : i < lo
  · rw [if_pos hlo, if_neg (by omega)]
    simp [hlo]
  · by_cases hhi : i - lo < len
    · rw [if_neg hlo, if_pos hhi, if_pos (by omega)]
      simp [hhi]
    · rw [if_neg hlo, if_neg hhi, if_neg (by omega), show i - lo - len + (lo + len) = i by omega]

theorem bits_putBits (v lo len x : Nat) : bits (putBits v lo len x) lo len = x % 2 ^ len := by
  refine Nat.eq_of_testBit_eq fun i => ?_
  rw [testBit_bits, testBit_putBits, Nat.testBit_mod_two_pow, Nat.add_sub_cancel_left]
  by_cases hi : i < len
  · rw [if_pos (by omega)]
  · simp [hi]

/-- A field beside the one that is replaced. -/
theorem bits_putBits_apart {lo len lo' len' : Nat} (h : lo' + len' ≤ lo ∨ lo + len ≤ lo') (v x : Nat) :
    bits (putBits v lo len x) lo' len' = bits v lo' len' := by
  refine Nat.eq_of_testBit_eq fun i => ?_
  rw [testBit_bits, testBit_bits, testBit_putBits]
  by_cases hi : i < len'
  · rw [if_neg (by omega)]
  · simp [hi]

theorem bits_mod_two_pow {lo len n : Nat} (h : lo + len ≤ n) (v : Nat) : bits (v % 2 ^ n) lo len = bits v lo len := by
  refine Nat.eq_of_testBit_eq fun i => ?_
  rw [testBit_bits, testBit_bits, Nat.testBit_mod_two_pow]
  by_cases hi : i < len
  · simp [show lo + i < n by omega]
  · simp [hi]

theorem bits_lt (v lo len : Nat) : bits v lo len < 2 ^ len := Nat.mod_lt _ (Nat.two_pow_pos len)

/-! ### Bytes of storage after a write -/

theorem SameBytes.readNat {s t : State} (h : SameBytes s t) (a n : Nat) : t.readNat a n = s.readNat a n :=
  readNat_of_byteAt_eq fun _ _ => h _

theorem SameBytes.field {s t : State} (h : SameBytes s t) (a lo len : Nat) : t.field a lo len = s.field a lo len := by
  rw [State.field, State.field, h.readNat]

theorem SameBytes.readBytes {s t : State} (h : SameBytes s t) (a n : Nat) : t.readBytes a n = s.readBytes a n := by
  induction n generalizing a with
  | zero => rfl
  | succ n ih => rw [State.readBytes, State.readBytes, h, ih]

theorem SameOutside.readBytes {s t : State} {lo k a n : Nat} (h : SameOutside s t lo k) (ha : a + n ≤ lo ∨ lo + k ≤ a) :
    t.readBytes a n = s.readBytes a n := by
  induction n generalizing a with
  | zero => rfl
  | succ n ih => rw [State.readBytes, State.readBytes, h a (by omega), ih (by omega)]

theorem SameBytes.refl (s : State) : SameBytes s s := fun _ => rfl

theorem SameBytes.trans {s t u : State} (h : SameBytes s t) (g : SameBytes t u) : SameBytes s u := fun a => (g a).trans (h a)

theorem SameBytes.outside {s t : State} (h : SameBytes s t) (lo n : Nat) : SameOutside s t lo n := fun a _ => h a

theorem SameOutside.trans {s t u : State} {lo n : Nat} (h : SameOutside s t lo n) (g : SameOutside t u lo n) : SameOutside s u lo n :=
  fun a ha => (g a ha).trans (h a ha)

/-- A range within a larger one. -/
theorem SameOutside.mono {s t : State} {lo n lo' n' : Nat} (h : SameOutside s t lo n) (hlo : lo' ≤ lo) (hhi : lo + n ≤ lo' + n') :
    SameOutside s t lo' n' :=
  fun a ha => h a (by omega)

/-- What lies beside a range that has been written reads as before. -/
theorem SameOutside.readNat {s t : State} {lo n a k : Nat} (h : SameOutside s t lo n) (ha : a + k ≤ lo ∨ lo + n ≤ a) :
    t.readNat a k = s.readNat a k :=
  readNat_of_byteAt_eq fun _ _ => h _ (by omega)

theorem SameOutside.field {s t : State} {lo n a : Nat} (h : SameOutside s t lo n) (ha : a + 8 ≤ lo ∨ lo + n ≤ a) (i len : Nat) :
    t.field a i len = s.field a i len := by
  rw [State.field, State.field, h.readNat ha]

/-- A write of bytes changes what the step has written, and nothing else. -/
theorem writeBytes_eq (s : State) (a : Nat) (bs : List Byte) : s.writeBytes a bs = { s with wlog := (s.writeBytes a bs).wlog } := by
  induction bs generalizing s a with
  | nil => rfl
  | cons b bs ih =>
    rw [State.writeBytes, ih]
    rfl

theorem readBytes_writeBytes (s : State) (a : Nat) (bs : List Byte) : (s.writeBytes a bs).readBytes a bs.length = bs := by
  induction bs generalizing s a with
  | nil => rfl
  | cons b bs ih =>
    rw [List.length_cons, State.readBytes, State.writeBytes, ih, State.byteAt_writeBytes_outside _ _ _ (by omega),
      State.byteAt_setByte]

theorem readNat_writeNat (s : State) (a n v : Nat) : (s.writeNat a n v).readNat a n = v % 256 ^ n := by
  have h := readBytes_writeBytes s a (bytesOf v n)
  rw [bytes_of_length] at h
  rw [State.readNat, State.writeNat, h, le_nat_bytes_of]

theorem sameOutside_writeBytes (s : State) (a : Nat) (bs : List Byte) : SameOutside s (s.writeBytes a bs) a bs.length :=
  fun _ h => State.byteAt_writeBytes_outside _ _ _ h

theorem sameOutside_writeNat (s : State) (a n v : Nat) : SameOutside s (s.writeNat a n v) a n := by
  have h := sameOutside_writeBytes s a (bytesOf v n)
  rwa [bytes_of_length] at h

theorem sameOutside_setField (s : State) (a lo len x : Nat) : SameOutside s (s.setField a lo len x) a 8 :=
  sameOutside_writeNat _ _ _ _

theorem readWord_writeNat (s : State) (a v : Nat) : (s.writeNat a 8 v).readNat a 8 = v % 2 ^ 64 := readNat_writeNat s a 8 v

theorem field_setField {lo len : Nat} (h : lo + len ≤ 64) (s : State) (a x : Nat) :
    (s.setField a lo len x).field a lo len = x % 2 ^ len := by
  rw [State.field, State.setField, readWord_writeNat, bits_mod_two_pow h, bits_putBits]

/-- A field of a word beside the one that is written. -/
theorem field_setField_apart {lo len lo' len' : Nat} (h : lo' + len' ≤ lo ∨ lo + len ≤ lo') (hle : lo' + len' ≤ 64) (s : State)
    (a x : Nat) : (s.setField a lo len x).field a lo' len' = s.field a lo' len' := by
  rw [State.field, State.setField, readWord_writeNat, bits_mod_two_pow hle, bits_putBits_apart h]
  rfl

theorem writeBytes_append (s : State) (a : Nat) (bs cs : List Byte) :
    s.writeBytes a (bs ++ cs) = (s.writeBytes a bs).writeBytes (a + bs.length) cs := by
  induction bs generalizing s a with
  | nil => rfl
  | cons b bs ih =>
    rw [List.cons_append, State.writeBytes, State.writeBytes, ih, List.length_cons, Nat.add_assoc, Nat.add_comm 1]

theorem readNat_of_zero {s : State} {a n : Nat} (hz : ∀ i, i < n → s.byteAt (a + i) = 0) : s.readNat a n = 0 := by
  induction n generalizing a with
  | zero => rfl
  | succ n ih =>
    have hrest : leNat (s.readBytes (a + 1) n) = 0 :=
      ih fun i hi => by simpa [Nat.add_assoc, Nat.add_comm 1 i] using hz (i + 1) (by omega)
    rw [State.readNat, State.readBytes, leNat, hrest, show s.byteAt a = 0 from hz 0 (by omega)]
    rfl

theorem leNat_lt (bs : List Byte) : leNat bs < 256 ^ bs.length := by
  induction bs with
  | nil => exact Nat.one_pos
  | cons b bs ih =>
    have hb := b.isLt
    rw [leNat, List.length_cons, Nat.pow_succ]
    omega

theorem readNat_lt (s : State) (a n : Nat) : s.readNat a n < 256 ^ n := by
  have h := leNat_lt (s.readBytes a n)
  rwa [State.readBytes_length] at h

/-! ### What writes of the home and changes of contexts leave -/

theorem me_writeBytes (s : State) (a : Nat) (bs : List Byte) : (s.writeBytes a bs).me = s.me := by
  rw [writeBytes_eq]; rfl

theorem cur_writeBytes (s : State) (a : Nat) (bs : List Byte) : (s.writeBytes a bs).cur = s.cur := by
  rw [writeBytes_eq]

theorem waiters_writeBytes (s : State) (a : Nat) (bs : List Byte) : (s.writeBytes a bs).waiters = s.waiters := by
  rw [writeBytes_eq]

theorem ctxs_writeBytes (s : State) (a : Nat) (bs : List Byte) : (s.writeBytes a bs).ctxs = s.ctxs := by
  rw [writeBytes_eq]

/-- A write of the home changes neither the issuing context nor the wait lists. -/
theorem me_setField (s : State) (a lo len x : Nat) : (s.setField a lo len x).me = s.me := me_writeBytes _ _ _
theorem cur_setField (s : State) (a lo len x : Nat) : (s.setField a lo len x).cur = s.cur := cur_writeBytes _ _ _
theorem waiters_setField (s : State) (a lo len x : Nat) : (s.setField a lo len x).waiters = s.waiters := waiters_writeBytes _ _ _

theorem ctxs_setField (s : State) (a lo len x : Nat) : (s.setField a lo len x).ctxs = s.ctxs := ctxs_writeBytes _ _ _

theorem ctx_writeNat (s : State) (a n v k : Nat) : (s.writeNat a n v).ctx k = s.ctx k := by
  rw [State.ctx, State.writeNat, ctxs_writeBytes]
  rfl

theorem cur_writeNat (s : State) (a n v : Nat) : (s.writeNat a n v).cur = s.cur := cur_writeBytes _ _ _

theorem ctx_setField (s : State) (a lo len x k : Nat) : (s.setField a lo len x).ctx k = s.ctx k := ctx_writeNat _ _ _ _ _

theorem sameBytes_updCtx (s : State) (k : Nat) (f : Ctx → Ctx) : SameBytes s (s.updCtx k f) := sameBytes_of_mem_wlog rfl rfl

theorem sameBytes_touch (s : State) (l : Nat) : SameBytes s (s.touch l) := sameBytes_of_mem_wlog rfl rfl

theorem cur_touch (s : State) (l : Nat) : (s.touch l).cur = s.cur := rfl
theorem me_touch (s : State) (l : Nat) : (s.touch l).me = s.me := rfl
theorem ctxs_touch (s : State) (l : Nat) : (s.touch l).ctxs = s.ctxs := rfl

end Sys2Proof.Machine
end

section
/-! Proofs. Slates: SLACQ, SLPUB, SLREL and SLINIT on a block that nothing waits on (R95 to R99, R338, R339). -/

namespace Sys2Proof.Machine

variable {s t u : State} {h : Hdr} {o : RegOps} {a : Word} {d : BitVec 6} {l : Nat}

/-! ### What an acquire and a release leave of slates (R96, R99) -/

/-- Two cores that divide their scratchpad alike, among the same contexts. -/
structure SameShares (c d : CoreSt) : Prop where
  h0 : d.h0 = c.h0
  bank0 : d.bank0 = c.bank0
  bank1 : d.bank1 = c.bank1
  last0 : d.last0 = c.last0
  last1 : d.last1 = c.last1

theorem SameShares.refl (c : CoreSt) : SameShares c c := ⟨rfl, rfl, rfl, rfl, rfl⟩

theorem SameShares.updCore (s : State) (i : Nat) {f : CoreSt → CoreSt} (hf : ∀ c, SameShares c (f c)) (k : Nat) :
    SameShares (s.core k) ((s.updCore i f).core k) := by
  by_cases hk : k = i
  · subst hk; rw [State.core_updCore]; exact hf _
  · rw [State.core_updCore_ne _ _ hk]; exact .refl _

/-- Whether a bank holds a share depends on the residence of contexts only. -/
theorem shareIn_map_const (hres : ∀ k, (u.ctx k).res = (s.ctx k).res) (b last : Option Nat) (n : Nat) :
    (u.shareIn b last).map (fun _ => n) = (s.shareIn b last).map (fun _ => n) := by
  cases b with
  | none => cases last <;> rfl
  | some k =>
    simp only [State.shareIn, State.residentIn, hres k]
    split <;> rfl

/-- A context's name for a slate depends on the division of the scratchpads, and on the residence of contexts (R99). -/
theorem slateKey_congr (hcore : ∀ k, SameShares (s.core k) (u.core k)) (hres : ∀ k, (u.ctx k).res = (s.ctx k).res) (l : Nat) :
    u.slateKey l = s.slateKey l := by
  obtain ⟨hh, hb0, hb1, hl0, hl1⟩ := hcore ((l - 2 ^ 72) / 2 ^ 21)
  have hshare : (u.shareOf l).map (·.2) = (s.shareOf l).map (·.2) := by
    simp only [State.shareOf, hh, hb0, hb1, hl0, hl1]
    split <;> simp only [Option.map_map, Function.comp_def, shareIn_map_const hres]
  simp only [State.slateKey, hh, hb0, hb1, hl0, hl1, hshare]

/-- As `s` in the bytes, the scalar registers of the issuing context, its slates, and the names of slates. -/
structure SameSlates (s u : State) : Prop where
  cur : u.cur = s.cur
  waiters : u.waiters = s.waiters
  bytes : SameBytes s u
  regs : ∀ l, (u.me.lane l).s = (s.me.lane l).s
  pins : u.me.slatePins = s.me.slatePins
  writes : u.me.slateWrites = s.me.slateWrites
  key : ∀ l, u.slateKey l = s.slateKey l

theorem SameSlates.refl (s : State) : SameSlates s s := ⟨rfl, rfl, .refl s, fun _ => rfl, rfl, rfl, fun _ => rfl⟩

theorem SameSlates.trans (h : SameSlates s t) (g : SameSlates t u) : SameSlates s u :=
  ⟨g.cur.trans h.cur, g.waiters.trans h.waiters, h.bytes.trans g.bytes, fun l => (g.regs l).trans (h.regs l), g.pins.trans h.pins,
    g.writes.trans h.writes, fun l => (g.key l).trans (h.key l)⟩

/-- A change of a core that leaves the division of its scratchpad. -/
theorem sameSlates_updCore (s : State) (i : Nat) {f : CoreSt → CoreSt} (hf : ∀ c, SameShares c (f c)) : SameSlates s (s.updCore i f) :=
  ⟨rfl, rfl, sameBytes_of_mem_wlog rfl rfl, fun _ => rfl, rfl, rfl, slateKey_congr (SameShares.updCore s i hf) fun _ => rfl⟩

theorem sameSlates_updDie (s : State) (i : Nat) (f : Die → Die) : SameSlates s (s.updDie i f) :=
  ⟨rfl, rfl, sameBytes_of_mem_wlog rfl rfl, fun _ => rfl, rfl, rfl, fun _ => rfl⟩

/-- A change of a context that leaves what its slates and its scalar registers are. -/
theorem sameSlates_updCtx (s : State) (k : Nat) {f : Ctx → Ctx} (hregs : ∀ c l, ((f c).lane l).s = (c.lane l).s)
    (hres : ∀ c, (f c).res = c.res) (hpins : ∀ c, (f c).slatePins = c.slatePins) (hwrites : ∀ c, (f c).slateWrites = c.slateWrites) :
    SameSlates s (s.updCtx k f) := by
  have keeps {α : Type} (g : Ctx → α) (hg : ∀ c, g (f c) = g c) (j : Nat) : g ((s.updCtx k f).ctx j) = g (s.ctx j) := by
    by_cases hj : j = k
    · subst hj; rw [State.ctx_updCtx, hg]
    · rw [State.ctx_updCtx_ne _ _ hj]
  exact ⟨rfl, rfl, sameBytes_of_mem_wlog rfl rfl, fun l => keeps (fun c => (c.lane l).s) (fun c => hregs c l) _, keeps _ hpins _,
    keeps _ hwrites _, slateKey_congr (fun _ => .refl _) (keeps _ hres)⟩

theorem sameSlates_updLane (s : State) (k : Nat) (l : Lane) {f : LaneSt → LaneSt} (hf : ∀ x, (f x).s = x.s) :
    SameSlates s (s.updLane k l f) := by
  refine sameSlates_updCtx s k (fun c m => ?_) (fun c => c.updLane_res l f) (fun c => c.updLane_slatePins l f)
    (fun c => c.updLane_slateWrites l f)
  by_cases hm : m = l
  · subst hm; rw [Ctx.lane_updLane, hf]
  · rw [Ctx.lane_updLane_ne _ _ hm]

theorem sameSlates_joinMtcs (s : State) (k : Nat) (l : Lane) : SameSlates s (s.joinMtcs k l) := by
  unfold State.joinMtcs
  extract_lets names
  split
  · exact .refl s
  · exact sameSlates_updLane s k l fun _ => rfl

theorem sameSlates_acquireState (s : State) (core asid scope : Nat) (cov : Cover) :
    SameSlates s (acquireState s core asid scope cov) := by
  unfold acquireState
  extract_lets s0 s1
  have h0 : SameSlates s s0 := sameSlates_updCore s core fun _ => ⟨rfl, rfl, rfl, rfl, rfl⟩
  have h1 : SameSlates s s1 := by
    unfold s1
    split
    · exact h0
    · exact h0.trans (sameSlates_updCore s0 core fun _ => ⟨rfl, rfl, rfl, rfl, rfl⟩)
  split
  · exact h1
  · exact h1.trans (sameSlates_updDie s1 _ _)

theorem runs_acquireOp (s : State) (w : Who) (scope : Nat) (cov : Cover) : ∃ u, Runs s (acquireOp w scope cov) () u ∧ SameSlates s u :=
  ⟨_, run_modify _ s, (sameSlates_acquireState s _ _ _ _).trans (sameSlates_joinMtcs _ _ _)⟩

/-- A release with nothing pending leaves slates as they are. -/
theorem runs_releaseOp_slates (h : NoneFirst s s.me.core) (cov : Cover) :
    ∃ u, Runs s (releaseOp s.who cov) () u ∧ SameSlates s u := by
  let u := s.updMyLane (fun x => { x with scratchInflight := [] })
  refine ⟨u, ?_, sameSlates_updLane s _ _ fun _ => rfl⟩
  have hpath : (u.core s.who.core).wpath = [] := h.1
  have hpub : publish u s.who.core (fun _ => true) = u := by simp [publish, hpath]
  have hnone : ∀ x ∈ u.pendings, x.1 ≠ s.who.core := h.not_pending
  refine Runs.bind (t := u) (a := ()) rfl ((runs_drain_none hnone (releaseDue s.who.ctx cov)).bind ?_)
  exact (congrArg (Prod.mk (Except.ok ())) hpub :)

/-! ### The steps that slate instructions share -/

/-- A result in the issuing lane's register, where what went before has left the scalar registers alone. -/
theorem wrote_of_regs (hcur : u.cur = s.cur) (hregs : ∀ l, (u.me.lane l).s = (s.me.lane l).s) (d : BitVec 6) (v : Word) (n : Nat) :
    Wrote s (u.wrS d v n) d v := by
  obtain ⟨hk, hl, hmine, hothers⟩ := wrote_wrS u d v n
  have hlane : u.myLane.s = s.myLane.s := by rw [State.myLane, State.myLane, hcur]; exact hregs _
  rw [hcur] at hk hl hothers
  rw [hlane] at hmine
  exact ⟨hk, hl, hmine, fun l hne => (hothers l hne).trans (hregs l)⟩

theorem me_wrS (s : State) (d : BitVec 6) (v : Word) (n : Nat) :
    (s.wrS d v n).me = s.me.updLane s.cur.lane (fun x => x.putS d.toNat v n) := s.ctx_updCtx _ _

theorem sameBytes_wrS (s : State) (d : BitVec 6) (v : Word) (n : Nat) : SameBytes s (s.wrS d v n) := sameBytes_of_mem_wlog rfl rfl

theorem waitersOn_eq_nil (hw : NoWaiters s l) : s.waitersOn l = [] :=
  List.filter_eq_nil_iff.mpr fun q hq => by simp [hw q hq]

/-- With nothing parked on a slate, serving it only marks the wake entries. -/
theorem slServe_of_noWaiters (hw : NoWaiters s l) : slServe s l = s.touch l := by
  have hnone : s.waiters.filter (fun q => q.obj == l && (q.kind == .slateRd || q.kind == .slateWr)) = [] :=
    List.filter_eq_nil_iff.mpr fun q hq => by
      have hobj : q.obj ≠ l := fun hobj => hw q hq (congrArg rowOf hobj)
      simp [hobj]
  simp only [slServe, hnone, List.isEmpty_nil, if_true]

theorem runs_slAt (hb : BlockAt s a l) : Runs s (slAt a) l s := by
  obtain ⟨halign, -, hspan, hboard⟩ := hb
  unfold slAt
  rw [if_neg (by simpa using halign)]
  refine Runs.bind (run_laneSpan_ok hspan ?_) ?_
  · simpa using hboard
  · simp [List.range_succ_eq_map]
    rfl

/-- A quarantined slate answers 4. -/
theorem runs_slEnter_quarantined (hb : BlockAt s a l) (hq : slStatus s l = 2) (k : Nat → Op Unit) :
    Runs s (slEnter a d k) () (s.wrS d (slResult 4 0 0) 0) := by
  refine (runs_slAt hb).bind (Runs.bind (run_get s) ?_)
  rw [if_pos hq]
  rfl

/-- What becomes of a slate whose block does not hold. -/
def slateQuarantined (s : State) (l : Nat) (a : Word) : State :=
  raiseFatal ((s.setField (l + 0x28) 16 2 2).touch l) .slateCorrupt 0 a

theorem runs_slEnter_corrupt (hb : BlockAt s a l) (hw : NoWaiters s l) (hq : slStatus s l ≠ 2) (hok : slOk s l = false)
    (k : Nat → Op Unit) : Runs s (slEnter a d k) () (slateQuarantined s l a) := by
  have hserve : slServe (s.setField (l + 0x28) 16 2 2) l = (s.setField (l + 0x28) 16 2 2).touch l :=
    slServe_of_noWaiters (fun q hmem => hw q (waiters_setField s _ _ _ _ ▸ hmem))
  refine (runs_slAt hb).bind (Runs.bind (run_get s) ?_)
  rw [if_neg hq, if_pos (by simp [hok]), slateQuarantined, ← hserve]
  exact Runs.bind (run_modify _ _) (run_modify _ _)

/-- A slate whose block holds, as an instruction reaches it. -/
structure SlateSound (s : State) (a : Word) (l : Nat) : Prop where
  block : BlockAt s a l
  live : slStatus s l ≠ 2
  ok : slOk s l = true

theorem SlateSound.runs_slEnter (hs : SlateSound s a l) {k : Nat → Op Unit} (hk : Runs s (k l) () t) :
    Runs s (slEnter a d k) () t := by
  refine (runs_slAt hs.block).bind (Runs.bind (run_get s) ?_)
  rw [if_neg hs.live, if_neg (by simp [hs.ok])]
  exact hk

/-- The four instructions on a slate begin alike. -/
theorem exec_slate {i : Instr} (hi : i ∈ [.slacqRd h o, .slacqWr h o, .slpub h o, .slrel h o]) (ha : s.active h = true) :
    ∃ k, exec i s = runOp s (slEnter (s.srcS 1 o.a) o.d k) := by
  have gated (k : Nat → Op Unit) : gateOp h s (slEnter (s.srcS 1 o.a) o.d k) = runOp s (slEnter (s.srcS 1 o.a) o.d k) :=
    gateOp_active ha _
  simp only [List.mem_cons, List.not_mem_nil, or_false] at hi
  rcases hi with rfl | rfl | rfl | rfl <;> exact ⟨_, gated _⟩

/-- What an instruction does on a slate whose block holds. -/
theorem SlateSound.gated (hs : SlateSound s a l) (ha : s.active h = true) {k : Nat → Op Unit} (hk : Runs s (k l) () t) :
    gateOp h s (slEnter a d k) = .next t := by
  rw [gateOp_active ha]
  exact runOp_ok (hs.runs_slEnter hk)

/-! ### Quarantine (R98) -/

theorem sameBytes_recordFatal (s : State) (k : Nat) (c : Cause) (lane detail : Nat) (addr : Word) (pc : Option Nat)
    (cmd : Option (Lane × BitVec 16)) : SameBytes s (recordFatal s k c lane detail addr pc cmd) := by
  have hcount : SameBytes s (countUncorr s k c detail addr) := by
    unfold countUncorr
    split
    · exact sameBytes_of_mem_wlog rfl rfl
    · exact .refl s
  unfold recordFatal
  split
  · exact .refl s
  · exact hcount.trans (sameBytes_of_mem_wlog rfl rfl)

theorem sameBytes_slateQuarantined (s : State) (l : Nat) (a : Word) :
    SameBytes (s.setField (l + 0x28) 16 2 2) (slateQuarantined s l a) := by
  rw [slateQuarantined, raiseFatal]
  exact (sameBytes_touch _ l).trans (sameBytes_recordFatal _ _ _ _ _ _ _ _)

theorem slStatus_slateQuarantined (s : State) (l : Nat) (a : Word) : slStatus (slateQuarantined s l a) l = 2 :=
  ((sameBytes_slateQuarantined s l a).field _ _ _).trans (field_setField (by decide) _ _ _)

theorem sameOutside_slateQuarantined (s : State) (l : Nat) (a : Word) : SameOutside s (slateQuarantined s l a) l 64 :=
  ((sameOutside_setField s _ 16 2 2).trans ((sameBytes_slateQuarantined s l a).outside _ _)).mono (by omega) (by omega)

theorem cur_recordFatal (s : State) (k : Nat) (c : Cause) (lane detail : Nat) (addr : Word) (pc : Option Nat)
    (cmd : Option (Lane × BitVec 16)) : (recordFatal s k c lane detail addr pc cmd).cur = s.cur := by
  unfold recordFatal countUncorr
  split
  · rfl
  · split <;> rfl

theorem slateQuarantined_records (hf : s.me.fatal = none) (hr : s.me.res ≠ .gone) (hk : (kvGet s.ctxs s.cur.ctx).isSome = true) (l : Nat)
    (a : Word) : (slateQuarantined s l a).me.ctrl.cause = causeWord .slateCorrupt (laneCode s.cur.lane) true
      ∧ (slateQuarantined s l a).me.ctrl.faddr = a := by
  have hcur : ((s.setField (l + 0x28) 16 2 2).touch l).cur = s.cur := (cur_touch _ l).trans (cur_setField _ _ _ _ _)
  have hctxs : ((s.setField (l + 0x28) 16 2 2).touch l).ctxs = s.ctxs := (ctxs_touch _ l).trans (ctxs_setField _ _ _ _ _)
  rw [slateQuarantined, raiseFatal]
  generalize (s.setField (l + 0x28) 16 2 2).touch l = v at hcur hctxs
  have hctx : v.ctx s.cur.ctx = s.me := by rw [State.ctx, hctxs]; rfl
  obtain ⟨-, hcause, haddr, -⟩ := recordFatal_first (s := v) (k := s.cur.ctx) (by rwa [hctxs]) (by rwa [hctx])
    (by rwa [hctx]) .slateCorrupt (by decide) (laneCode s.cur.lane) 0 a (some (s.cur.pc + s.cur.slot)) none
  rw [State.me, cur_recordFatal, hcur]
  exact ⟨hcause, haddr⟩

/-! ### SLACQ (R96, R338) -/

theorem cur_slTakeRead (s : State) (l k : Nat) : (slTakeRead s l k).cur = s.cur := cur_writeNat _ _ _ _

theorem me_slTakeRead (s : State) (l : Nat) : (slTakeRead s l s.cur.ctx).me
    = { s.me with slatePins := s.me.slatePins ++ [(s.slateKey l, BitVec.ofNat 32 (slCur s l))] } := by
  rw [State.me, cur_slTakeRead, slTakeRead, State.ctx_updCtx, ctx_writeNat]
  rfl

theorem sameOutside_slTakeRead (s : State) (l k : Nat) :
    SameOutside s (slTakeRead s l k) (l + 0x18 + 2 * slSlot s l (slCur s l)) 2 :=
  (sameOutside_writeNat s _ 2 _).trans ((sameBytes_updCtx _ _ _).outside _ _)

/-- The reader's pin is counted. -/
theorem slPin_slTakeRead (hready : slReadReady s l = true) (k : Nat) :
    slPin (slTakeRead s l k) l (slSlot s l (slCur s l)) = slPin s l (slSlot s l (slCur s l)) + 1 := by
  have hroom : slPin s l (slSlot s l (slCur s l)) < 65535 := of_decide_eq_true hready
  have hread := readNat_writeNat s (l + 0x18 + 2 * slSlot s l (slCur s l)) 2 (slPin s l (slSlot s l (slCur s l)) + 1)
  exact hread.trans (Nat.mod_eq_of_lt (by omega))

theorem cur_slTakeWrite (s : State) (l k : Nat) : (slTakeWrite s l k).cur = s.cur := by
  rw [slTakeWrite, State.updCtx_cur, cur_setField, cur_setField]

theorem me_slTakeWrite (s : State) (l : Nat) : (slTakeWrite s l s.cur.ctx).me
    = { s.me with slateWrites := s.me.slateWrites ++ [s.slateKey l] } := by
  rw [State.me, cur_slTakeWrite, slTakeWrite, State.ctx_updCtx, ctx_setField, ctx_setField]
  rfl

/-- The version opened, as the block then says. -/
theorem slTakeWrite_block (s : State) (l k : Nat) :
    SameOutside s (slTakeWrite s l k) (l + 0x10) 40 ∧ slOpen (slTakeWrite s l k) l = true ∧ slCur (slTakeWrite s l k) l = slCur s l
      ∧ slWriter (slTakeWrite s l k) l = k % 2 ^ 32 := by
  rw [slTakeWrite]
  generalize hv : s.setField (l + 0x10) 32 1 1 = v
  have hbytes := sameBytes_updCtx (v.setField (l + 0x30) 0 32 k) k (fun c => { c with slateWrites := c.slateWrites ++ [s.slateKey l] })
  have hfirst : SameOutside s v (l + 0x10) 8 := hv ▸ sameOutside_setField s _ _ _ _
  have hsecond := sameOutside_setField v (l + 0x30) 0 32 k
  have hopen : v.field (l + 0x10) 32 1 = 1 := by
    rw [← hv, field_setField (by decide)]
    rfl
  have hcur : v.field (l + 0x10) 0 32 = s.field (l + 0x10) 0 32 := by rw [← hv, field_setField_apart (by decide) (by decide)]
  refine ⟨((hfirst.mono (by omega) (by omega)).trans (hsecond.mono (by omega) (by omega))).trans (hbytes.outside _ _), ?_, ?_, ?_⟩
  · rw [slOpen, hbytes.field, hsecond.field (by omega), hopen]
    rfl
  · rw [slCur, slCur, hbytes.field, hsecond.field (by omega), hcur]
  · rw [slWriter, hbytes.field, field_setField (by decide)]

/-- What an acquire that waits leaves. -/
structure Parks (s t : State) (l : Nat) : Prop where
  parked : t.cur.res = .parked
  cur : t.cur.ctx = s.cur.ctx ∧ t.cur.lane = s.cur.lane
  ctxs : t.ctxs = s.ctxs
  outside : SameOutside s t (l + 0x20) 8

theorem park_leaves (s : State) (loc : Nat) (addr : Word) (kind : WaitKind) :
    (s.park loc addr kind).cur = { s.cur with res := .parked } ∧ (s.park loc addr kind).ctxs = s.ctxs
      ∧ SameBytes s (s.park loc addr kind) := by
  have hfor (b : Bool) (u : State) (hu : s.parkFor s.cur.ctx s.cur.lane loc addr kind = (b, u)) :
      u.cur = s.cur ∧ u.ctxs = s.ctxs ∧ u.mem = s.mem ∧ u.wlog = s.wlog := by
    simp only [State.parkFor] at hu
    split at hu <;> · cases hu; exact ⟨rfl, rfl, rfl, rfl⟩
  unfold State.park
  extract_lets k l
  split
  · exact ⟨rfl, rfl, sameBytes_of_mem_wlog rfl rfl⟩
  · split
    · next u hu =>
      obtain ⟨hcur, hctxs, hmem, hwlog⟩ := hfor _ _ hu
      exact ⟨by rw [State.setRes, hcur], hctxs, sameBytes_of_mem_wlog hmem hwlog⟩
    · split <;> exact ⟨rfl, rfl, sameBytes_of_mem_wlog rfl rfl⟩

theorem slWaitq_leaves (s : State) (l : Nat) :
    (slWaitq s l).cur = s.cur ∧ (slWaitq s l).ctxs = s.ctxs ∧ SameOutside s (slWaitq s l) (l + 0x20) 8 := by
  have hfree : SameBytes s (s.free 13).2 := sameBytes_of_mem_wlog rfl rfl
  exact ⟨cur_writeNat _ _ _ _, ctxs_writeBytes _ _ _, (hfree.outside _ _).trans (sameOutside_writeNat _ _ _ _)⟩

theorem parks_slWaitq (s : State) (l : Nat) (addr : Word) (kind : WaitKind) : Parks s (slWaitq (s.park l addr kind) l) l := by
  obtain ⟨hcur, hctxs, hbytes⟩ := park_leaves s l addr kind
  obtain ⟨hcur', hctxs', houtside⟩ := slWaitq_leaves (s.park l addr kind) l
  exact ⟨by rw [hcur', hcur], by rw [hcur', hcur]; exact ⟨rfl, rfl⟩, hctxs'.trans hctxs, (hbytes.outside _ _).trans houtside⟩

theorem Parks.lanes (hp : Parks s t l) : SameLanes s t := by
  have hctx (k : Nat) : t.ctx k = s.ctx k := by rw [State.ctx, hp.ctxs]; rfl
  have hme : t.me = s.me := by rw [State.me, hctx, hp.cur.1]; rfl
  exact ⟨hp.cur.1, hp.cur.2, fun k _ => hctx k, fun m => by rw [hme]; exact ⟨rfl, rfl⟩⟩

section
variable (hs : SlateSound s (s.srcS 1 o.a) l) (ha : s.active h = true)
include hs ha

theorem exec_slacqRd_full (hfull : 8 ≤ s.me.slatePins.length) : exec (.slacqRd h o) s = .next (s.wrS o.d (slResult 3 0 0) 0) :=
  hs.gated ha (Runs.bind (run_get s) (by rw [if_pos hfull]; rfl))

theorem exec_slacqRd_takes (hroom : s.me.slatePins.length < 8) (hready : slReadReady s l = true) :
    ∃ u, SameSlates s u ∧ exec (.slacqRd h o) s
      = .next ((slTakeRead u l u.cur.ctx).wrS o.d (slResult 0 (slAddr s l (slCur s l)) (slCur s l)) 0) := by
  obtain ⟨u, hrun, hu⟩ := runs_acquireOp s s.who 1 (s.coverOf (s.srcS 1 o.a))
  refine ⟨u, hu, hs.gated ha (Runs.bind (run_get s) ?_)⟩
  rw [if_neg (Nat.not_le.mpr hroom), if_pos hready]
  exact hrun.bind (Runs.bind (run_modify _ u) (run_modify _ _))

theorem exec_slacqRd_busy (hroom : s.me.slatePins.length < 8) (hready : slReadReady s l = false) :
    exec (.slacqRd h o) s = .next (if o.mod.getLsbD 0 = true then s.wrS o.d (slResult 1 0 0) 0
      else slWaitq (s.park l (s.srcS 1 o.a) .slateRd) l) := by
  refine hs.gated ha (Runs.bind (run_get s) ?_)
  rw [if_neg (Nat.not_le.mpr hroom), if_neg (by simp [hready])]
  split <;> exact run_modify _ s

theorem exec_slacqWr_takes (hready : slWriteReady s l = true) :
    exec (.slacqWr h o) s = .next ((slTakeWrite s l s.cur.ctx).wrS o.d (slResult 0 (slAddr s l (slCur s l + 1)) (slCur s l + 1)) 0) := by
  refine hs.gated ha (Runs.bind (run_get s) ?_)
  rw [if_pos hready]
  exact Runs.bind (run_modify _ s) (run_modify _ _)

theorem exec_slacqWr_busy (hready : slWriteReady s l = false) :
    exec (.slacqWr h o) s = .next (if o.mod.getLsbD 0 = true then s.wrS o.d (slResult 1 0 0) 0
      else slWaitq (s.park l (s.srcS 1 o.a) .slateWr) l) := by
  refine hs.gated ha (Runs.bind (run_get s) ?_)
  rw [if_neg (by simp [hready])]
  split <;> exact run_modify _ s

end

/-! ### SLPUB (R96, R338) -/

/-- The open version is the current one, and the context's record of its write is gone. -/
def published (s : State) (l v key : Nat) : State :=
  (((s.setField (l + 0x10) 0 32 v).setField (l + 0x10) 32 1 0).updMe (fun c =>
    { c with slateWrites := c.slateWrites.filter (· != key) })).touch l

theorem cur_published (s : State) (l v key : Nat) : (published s l v key).cur = s.cur := by
  rw [published, cur_touch, State.updMe_cur, cur_setField, cur_setField]

theorem me_published (s : State) (l v key : Nat) :
    (published s l v key).me = { s.me with slateWrites := s.me.slateWrites.filter (· != key) } := by
  rw [published, me_touch, State.me_updMe, me_setField, me_setField]

theorem published_block (s : State) (l v key : Nat) :
    SameOutside s (published s l v key) (l + 0x10) 8 ∧ slCur (published s l v key) l = v % 2 ^ 32
      ∧ slOpen (published s l v key) l = false := by
  rw [published]
  generalize hw : s.setField (l + 0x10) 0 32 v = w
  have hbytes : SameBytes (w.setField (l + 0x10) 32 1 0) (((w.setField (l + 0x10) 32 1 0).updMe (fun c =>
      { c with slateWrites := c.slateWrites.filter (· != key) })).touch l) :=
    (sameBytes_updCtx _ _ _).trans (sameBytes_touch _ l)
  have hfirst : SameOutside s w (l + 0x10) 8 := hw ▸ sameOutside_setField s _ _ _ _
  refine ⟨(hfirst.trans (sameOutside_setField w _ _ _ _)).trans (hbytes.outside _ _), ?_, ?_⟩
  · rw [slCur, hbytes.field, field_setField_apart (by decide) (by decide), ← hw, field_setField (by decide)]
  · rw [slOpen, hbytes.field, field_setField (by decide)]
    rfl

theorem sameSlates_landScratch (s : State) (k : Nat) : SameSlates s (landScratch s k) :=
  sameSlates_updCtx s k (fun c l => by cases l <;> rfl) (fun _ => rfl) (fun _ => rfl) (fun _ => rfl)

/-- One pin of a version is gone, and so is the context's record of it. -/
def unpinned (s : State) (l : Nat) (key : Nat) (v : BitVec 32) : State :=
  ((slUnpin s l v.toNat).updMe (fun c => { c with slatePins := c.slatePins.erase (key, v) })).touch l

theorem cur_unpinned (s : State) (l key : Nat) (v : BitVec 32) : (unpinned s l key v).cur = s.cur := by
  rw [unpinned, cur_touch, State.updMe_cur, slUnpin, cur_writeNat]

theorem me_unpinned (s : State) (l key : Nat) (v : BitVec 32) :
    (unpinned s l key v).me = { s.me with slatePins := s.me.slatePins.erase (key, v) } := by
  rw [unpinned, me_touch, State.me_updMe, slUnpin, State.writeNat, me_writeBytes]

theorem unpinned_block (s : State) (l key : Nat) (v : BitVec 32) :
    SameOutside s (unpinned s l key v) (l + 0x18 + 2 * slSlot s l v.toNat) 2
      ∧ slPin (unpinned s l key v) l (slSlot s l v.toNat) = slPin s l (slSlot s l v.toNat) - 1 := by
  have hbytes : SameBytes (slUnpin s l v.toNat) (unpinned s l key v) := (sameBytes_updCtx _ _ _).trans (sameBytes_touch _ l)
  have hlt : slPin s l (slSlot s l v.toNat) < 256 ^ 2 := readNat_lt _ _ _
  refine ⟨(sameOutside_writeNat s _ 2 _).trans (hbytes.outside _ _), ?_⟩
  rw [slPin, hbytes.readNat, slUnpin, readNat_writeNat, Nat.mod_eq_of_lt (by omega)]

section
variable (hs : SlateSound s (s.srcS 1 o.a) l) (ha : s.active h = true)
include hs ha

theorem exec_slpub_refused (hno : slOpen s l = false ∨ slWriter s l ≠ s.cur.ctx % 2 ^ 32) :
    exec (.slpub h o) s = .next (s.wrS o.d (slResult 2 0 0) 0) := by
  refine hs.gated ha (Runs.bind (run_get s) ?_)
  rw [if_pos (by simpa using hno)]
  rfl

theorem exec_slpub_publishes (hw : NoWaiters s l) (hfirst : NoneFirst s s.me.core) (hopen : slOpen s l = true)
    (hwriter : slWriter s l = s.cur.ctx % 2 ^ 32) :
    ∃ u, SameSlates s u ∧ exec (.slpub h o) s = .next ((published u l ((slCur s l + 1) % 2 ^ 32) (s.slateKey l)).wrS o.d
      (slResult 0 0 ((slCur s l + 1) % 2 ^ 32)) 0) := by
  obtain ⟨u, hrun, hu⟩ := runs_releaseOp_slates hfirst (s.coverOf (s.srcS 1 o.a))
  have hland := hu.trans (sameSlates_landScratch u u.cur.ctx)
  refine ⟨landScratch u u.cur.ctx, hland, hs.gated ha (Runs.bind (run_get s) ?_)⟩
  rw [if_neg (by simp [hopen, hwriter])]
  refine hrun.bind (Runs.bind (run_modify _ u) ?_)
  rw [slServe_of_noWaiters]
  · exact run_modify _ _
  · intro q hq
    rw [State.updMe_waiters, waiters_setField, waiters_setField, hland.waiters] at hq
    exact hw q hq

theorem exec_slrel_releases (hw : NoWaiters s l) {v : BitVec 32} (hv : v = BitVec.ofNat 32 (s.srcS 2 o.b).toNat)
    (hheld : (s.slateKey l, v) ∈ s.me.slatePins) :
    exec (.slrel h o) s = .next ((unpinned s l (s.slateKey l) v).wrS o.d (slResult 0 0 0) 0) := by
  subst hv
  refine hs.gated ha (Runs.bind (run_get s) ?_)
  rw [if_pos (List.contains_iff_mem.mpr hheld)]
  refine Runs.bind (run_modify _ s) ?_
  rw [slServe_of_noWaiters]
  · exact run_modify _ _
  · intro q hq
    rw [State.updMe_waiters, slUnpin, State.writeNat, waiters_writeBytes] at hq
    exact hw q hq

theorem exec_slrel_refused (hno : (s.slateKey l, BitVec.ofNat 32 (s.srcS 2 o.b).toNat) ∉ s.me.slatePins) :
    exec (.slrel h o) s = .next (s.wrS o.d (slResult 2 0 0) 0) := by
  refine hs.gated ha (Runs.bind (run_get s) ?_)
  rw [if_neg (by simpa using hno)]
  rfl

end

/-! ### SLINIT (R95, R98, R339) -/

theorem crcShift_lt (c : Nat) : crcShift c < 2 ^ 16 := by
  have hmod : c * 2 % 0x10000 < 2 ^ 16 := Nat.mod_lt _ (by decide)
  unfold crcShift
  split
  · exact Nat.xor_lt_two_pow hmod (by decide)
  · exact hmod

theorem crc16_lt (bs : List Byte) : crc16 bs < 2 ^ 16 := by
  have hfold : ∀ c, c < 2 ^ 16 → bs.foldl crcByte c < 2 ^ 16 := by
    induction bs with
    | nil => exact fun _ hc => hc
    | cons b bs ih =>
      intro c _
      rw [List.foldl_cons, crcByte]
      exact ih _ (crcShift_lt _)
  rw [crc16]
  exact hfold _ (by decide)

/-- The first word of a slate control block (R95). -/
def scbWord (base nver mask : Nat) : Nat := 0x5A7E + 2 ^ 16 * nver + 2 ^ 20 * mask + 2 ^ 32 * base

/-- A control block as SLINIT writes it, before its check code. -/
def blankScb (s : State) (l base vsz nver mask : Nat) : State :=
  ((s.writeNat l 8 (scbWord base nver mask)).writeNat (l + 8) 8 vsz).writeBytes (l + 0x10) (List.replicate 48 0)

theorem writeBytes_scb (s : State) (l base vsz nver mask : Nat) :
    s.writeBytes l (packNats 8 [scbWord base nver mask, vsz, 0, 0, 0, 0, 0, 0]) = blankScb s l base vsz nver mask := by
  have hpack : packNats 8 [scbWord base nver mask, vsz, 0, 0, 0, 0, 0, 0]
      = bytesOf (scbWord base nver mask) 8 ++ (bytesOf vsz 8 ++ List.replicate 48 0) := rfl
  rw [hpack, writeBytes_append, writeBytes_append, bytes_of_length, bytes_of_length]
  rfl

theorem blankScb_block (s : State) (l base vsz nver mask : Nat) :
    let t := blankScb s l base vsz nver mask
    SameOutside s t l 64 ∧ t.readNat l 8 = scbWord base nver mask % 2 ^ 64 ∧ t.readNat (l + 8) 8 = vsz % 2 ^ 64
      ∧ ∀ a n, l + 0x10 ≤ a → a + n ≤ l + 64 → t.readNat a n = 0 := by
  intro t
  have h0 := sameOutside_writeNat s l 8 (scbWord base nver mask)
  have hw0 := readWord_writeNat s l (scbWord base nver mask)
  generalize hu : s.writeNat l 8 (scbWord base nver mask) = u at h0 hw0
  have h1 := sameOutside_writeNat u (l + 8) 8 vsz
  have hw1 := readWord_writeNat u (l + 8) vsz
  generalize hv : u.writeNat (l + 8) 8 vsz = v at h1 hw1
  have ht : t = v.writeBytes (l + 0x10) (List.replicate 48 0) := by rw [← hv, ← hu]; rfl
  have h2 : SameOutside v t (l + 0x10) 48 := by
    have h := sameOutside_writeBytes v (l + 0x10) (List.replicate 48 0)
    rwa [List.length_replicate, ← ht] at h
  refine ⟨((h0.mono (by omega) (by omega)).trans (h1.mono (by omega) (by omega))).trans (h2.mono (by omega) (by omega)), ?_, ?_,
    fun a n hlo hhi => readNat_of_zero fun i hi => ?_⟩
  · rw [h2.readNat (by omega), h1.readNat (by omega), hw0]
  · rw [h2.readNat (by omega), hw1]
  · have hbyte := State.byteAt_writeBytes v (l + 0x10) (List.replicate 48 0) (i := a + i - (l + 0x10)) (by
      rw [List.length_replicate]; omega)
    rw [show l + 0x10 + (a + i - (l + 0x10)) = a + i by omega, ← ht] at hbyte
    rw [hbyte, List.getD_eq_getElem?_getD, List.getElem?_replicate]
    split <;> rfl

/-- The block with its check code, and the head of a wait list that holds nothing. -/
def freshScb (s : State) (l base vsz nver mask : Nat) : State :=
  let t := blankScb s l base vsz nver mask
  slWaitq (t.setField (l + 0x28) 0 16 (crc16 (t.readBytes l 12))) l

/-- A slate at version 0 that nobody reads or writes, with its fields (R95, R339). -/
structure FreshSlate (s : State) (l base vsz nver mask : Nat) : Prop where
  ok : slOk s l = true
  status : slStatus s l = 0
  closed : slOpen s l = false
  cur : slCur s l = 0
  nver : slNver s l = nver
  mask : slMask s l = mask
  base : slBase s l = base % 2 ^ 32
  vsz : slVsz s l = vsz % 2 ^ 32
  pins : ∀ k, k < 4 → slPin s l k = 0

theorem FreshSlate.same {base vsz nver mask : Nat} (hf : FreshSlate s l base vsz nver mask) (hb : SameBytes s t) :
    FreshSlate t l base vsz nver mask := by
  obtain ⟨hok, hstatus, hclosed, hcur, hnver, hmask, hbase, hvsz, hpins⟩ := hf
  refine ⟨?_, (hb.field _ _ _).trans hstatus, ?_, (hb.field _ _ _).trans hcur, (hb.field _ _ _).trans hnver,
    (hb.field _ _ _).trans hmask, (hb.field _ _ _).trans hbase, (hb.field _ _ _).trans hvsz,
    fun k hk => (hb.readNat _ _).trans (hpins k hk)⟩
  · simp only [slOk, slNver, slPin, hb.field, hb.readNat, hb.readBytes]
    exact hok
  · rw [slOpen, hb.field]
    exact hclosed

theorem freshScb_fresh (s : State) (l base vsz : Nat) {nver mask : Nat} (hn : 2 ≤ nver ∧ nver ≤ 4) (hm : mask < 16) :
    SameOutside s (freshScb s l base vsz nver mask) l 64 ∧ FreshSlate (freshScb s l base vsz nver mask) l base vsz nver mask := by
  obtain ⟨h0, hw0, hw1, hzero⟩ := blankScb_block s l base vsz nver mask
  have ht : freshScb s l base vsz nver mask = slWaitq ((blankScb s l base vsz nver mask).setField (l + 0x28) 0 16
    (crc16 ((blankScb s l base vsz nver mask).readBytes l 12))) l := rfl
  generalize freshScb s l base vsz nver mask = t at ht ⊢
  generalize blankScb s l base vsz nver mask = v at h0 hw0 hw1 hzero ht
  have h1 := sameOutside_setField v (l + 0x28) 0 16 (crc16 (v.readBytes l 12))
  have hcrc := field_setField (lo := 0) (len := 16) (by decide) v (l + 0x28) (crc16 (v.readBytes l 12))
  have hstatus := field_setField_apart (lo := 0) (len := 16) (lo' := 16) (len' := 2) (by decide) (by decide) v (l + 0x28)
    (crc16 (v.readBytes l 12))
  generalize v.setField (l + 0x28) 0 16 (crc16 (v.readBytes l 12)) = w at h1 hcrc hstatus ht
  obtain ⟨-, -, h2⟩ := slWaitq_leaves w l
  rw [← ht] at h2
  have h12 : SameOutside v t (l + 0x20) 16 := (h1.mono (by omega) (by omega)).trans (h2.mono (by omega) (by omega))
  have hword (i len : Nat) : t.field l i len = bits (scbWord base nver mask % 2 ^ 64) i len := by
    rw [h12.field (by omega), State.field, hw0]
  have hnver : slNver t l = nver := by
    rw [slNver, hword, bits_mod_two_pow (by decide), bits, scbWord]
    omega
  have hpin (k : Nat) (hk : k < 4) : slPin t l k = 0 := by
    rw [slPin, h12.readNat (by omega)]
    exact hzero _ _ (by omega) (by omega)
  have hcur (i len : Nat) : t.field (l + 0x10) i len = 0 := by
    rw [h12.field (by omega), State.field, hzero _ _ (by omega) (by omega), bits, Nat.zero_div, Nat.zero_mod]
  refine ⟨h0.trans (h12.mono (by omega) (by omega)), ?_, ?_, ?_, hcur _ _, hnver, ?_, ?_, ?_, hpin⟩
  · have hmark : t.field l 0 16 = 0x5A7E := by
      rw [hword, bits_mod_two_pow (by decide), bits, scbWord]
      omega
    have hcode : t.field (l + 0x28) 0 16 = crc16 (t.readBytes l 12) := by
      rw [h2.field (by omega), hcrc, Nat.mod_eq_of_lt (crc16_lt _), h12.readBytes (by omega)]
    have hpins : (List.range 4).all (fun k => decide (k < slNver t l) || slPin t l k == 0) = true :=
      List.all_eq_true.mpr fun k hk => by rw [hpin k (List.mem_range.mp hk)]; simp
    rw [slOk, hmark, hcode, hpins, hnver, decide_eq_true hn.1, decide_eq_true hn.2]
    simp
  · rw [slStatus, h2.field (by omega), hstatus, State.field, hzero _ _ (by omega) (by omega), bits, Nat.zero_div, Nat.zero_mod]
  · rw [slOpen, hcur]
    rfl
  · rw [slMask, hword, bits_mod_two_pow (by decide), bits, scbWord]
    omega
  · rw [slBase, hword, bits_mod_two_pow (by decide), bits, scbWord]
    omega
  · rw [slVsz, h12.field (by omega), State.field, hw1, bits_mod_two_pow (by decide), bits, pow_zero, Nat.div_one]

theorem kvGet_map {α : Type} (f : α → α) (m : Kv α) (k : Nat) : kvGet (m.map (fun kc => (kc.1, f kc.2))) k = (kvGet m k).map f := by
  induction m with
  | nil => rfl
  | cons p m ih =>
    obtain ⟨j, x⟩ := p
    simp only [List.map_cons, kvGet, ih]
    split <;> rfl

/-- What a context had recorded on a slate becomes void. -/
def voidSlate (key : Nat) (c : Ctx) : Ctx :=
  { c with slatePins := c.slatePins.filter (fun p => p.1 != key), slateWrites := c.slateWrites.filter (· != key) }

theorem writeScb_eq (s : State) (l base vsz nver mask : Nat) : ∃ key, writeScb s l base vsz nver mask
    = { freshScb s l base vsz nver mask with
        ctxs := (freshScb s l base vsz nver mask).ctxs.map (fun kc => (kc.1, voidSlate key kc.2)) } := by
  have hscb := writeBytes_scb s l base vsz nver mask
  rw [scbWord] at hscb
  refine ⟨(blankScb s l base vsz nver mask).slateKey l, ?_⟩
  rw [writeScb, hscb]
  rfl

theorem freshScb_leaves (s : State) (l base vsz nver mask : Nat) :
    (freshScb s l base vsz nver mask).cur = s.cur ∧ (freshScb s l base vsz nver mask).ctxs = s.ctxs := by
  rw [freshScb]
  obtain ⟨hcur, hctxs, -⟩ := slWaitq_leaves ((blankScb s l base vsz nver mask).setField (l + 0x28) 0 16
    (crc16 ((blankScb s l base vsz nver mask).readBytes l 12))) l
  rw [hcur, hctxs, cur_setField, ctxs_setField, blankScb, cur_writeBytes, cur_writeNat, cur_writeNat, ctxs_writeBytes, State.writeNat,
    ctxs_writeBytes, State.writeNat, ctxs_writeBytes]
  exact ⟨rfl, rfl⟩

/-- SLINIT leaves every lane's registers; the block is a fresh one. -/
theorem writeScb_leaves (s : State) (l base vsz nver mask : Nat) :
    (writeScb s l base vsz nver mask).cur = s.cur
      ∧ (∀ m, ((writeScb s l base vsz nver mask).me.lane m).s = (s.me.lane m).s)
      ∧ SameBytes (freshScb s l base vsz nver mask) (writeScb s l base vsz nver mask) := by
  obtain ⟨hcur, hctxs⟩ := freshScb_leaves s l base vsz nver mask
  obtain ⟨key, hkey⟩ := writeScb_eq s l base vsz nver mask
  rw [hkey]
  generalize freshScb s l base vsz nver mask = v at hcur hctxs
  refine ⟨hcur, fun m => ?_, sameBytes_of_mem_wlog rfl rfl⟩
  have hvoid (c : Ctx) : ((voidSlate key c).lane m).s = (c.lane m).s := by cases m <;> rfl
  have hctx (k : Nat) : ((((kvGet (v.ctxs.map (fun kc => (kc.1, voidSlate key kc.2))) k).getD Ctx.reset).lane m).s)
      = ((s.ctx k).lane m).s := by
    rw [kvGet_map, hctxs, State.ctx]
    cases kvGet s.ctxs k with
    | none => rfl
    | some c => exact hvoid c
  rw [State.me, State.me, ← hcur]
  exact hctx _

theorem runs_ownBlock {a n align : Nat} {locs : List Nat} (ha : a % align = 0) (hspan : s.ownSpan s.me a n = some locs)
    (hboard : s.boardHit s.cur.ctx locs = false) : Runs s (ownBlock a n align) locs s := by
  refine Runs.bind (run_get s) ?_
  rw [if_neg (not_not.mpr ha), hspan]
  dsimp only
  rw [hboard]
  rfl

/-- SLINIT's fields are valid: base in b, VSZ, NVER and REPMASK in c (R339). -/
def slinitOk (s : State) (o : RegOps) : Bool :=
  slFieldsOk s (s.srcS 2 o.b).toNat (bits (s.srcS 3 o.c).toNat 0 32) (bits (s.srcS 3 o.c).toNat 32 3) (bits (s.srcS 3 o.c).toNat 36 4)

/-- The slate that SLINIT makes of a block. -/
def slinitScb (s : State) (l : Nat) (o : RegOps) : State :=
  (writeScb s l (s.srcS 2 o.b).toNat (bits (s.srcS 3 o.c).toNat 0 32) (bits (s.srcS 3 o.c).toNat 32 3)
    (bits (s.srcS 3 o.c).toNat 36 4)).touch l

/-- A slate that someone reads or writes (R339). -/
def slateBusy (s : State) (l : Nat) : Bool :=
  slOk s l && slStatus s l == 0 && (slOpen s l || (List.range 4).any (fun k => slPin s l k != 0))

theorem slateBusy_iff (s : State) (l : Nat) :
    slateBusy s l = true ↔ slOk s l = true ∧ slStatus s l = 0 ∧ (slOpen s l = true ∨ ∃ k, k < 4 ∧ slPin s l k ≠ 0) := by
  simp [slateBusy, and_assoc]

section
variable (ha : s.active h = true) (hw : NoWaiters s l) (halign : (s.srcS 1 o.a).toNat % 64 = 0)
  (hspan : s.ownSpan s.me (s.srcS 1 o.a).toNat 64 = some ((List.range 64).map (l + ·)))
  (hboard : s.boardHit s.cur.ctx ((List.range 64).map (l + ·)) = false)
include ha hw halign hspan hboard

/-- SLINIT of a block of the own share: bad fields, a slate in use, or a fresh block. -/
theorem exec_slinit : exec (.slinit h o) s = .next
    (if slinitOk s o = false then s.wrS o.d (slResult 5 0 0) 0
      else if slateBusy s l = true then s.wrS o.d (slResult 6 0 0) 0
      else (slinitScb s l o).wrS o.d (slResult 0 0 0) 0) := by
  change gateOp h s _ = _
  rw [gateOp_active ha]
  refine runOp_ok ((runs_ownBlock halign hspan hboard).bind ?_)
  have hhead : ((List.range 64).map (l + ·)).headD 0 = l := rfl
  rw [hhead]
  change Runs s (if (!slinitOk s o) = true then putResult o.d (slResult 5 0 0)
    else if slateBusy s l = true ∨ (!(s.waitersOn l).isEmpty) = true then putResult o.d (slResult 6 0 0)
    else modify (fun _ => _) >>= fun _ => putResult o.d (slResult 0 0 0)) () _
  rw [waitersOn_eq_nil hw]
  cases hok : slinitOk s o with
  | false => exact run_modify _ s
  | true =>
    cases hbusy : slateBusy s l with
    | true => exact run_modify _ s
    | false => exact Runs.bind (run_modify _ s) (run_modify _ _)

end

/-! ### The statement -/

theorem lane_withPins (c : Ctx) (ps : List (Nat × BitVec 32)) (m : Lane) : ({ c with slatePins := ps } : Ctx).lane m = c.lane m := by
  cases m <;> rfl

theorem lane_withWrites (c : Ctx) (ks : List Nat) (m : Lane) : ({ c with slateWrites := ks } : Ctx).lane m = c.lane m := by
  cases m <;> rfl

theorem SameBytes.slCur (hb : SameBytes s u) (l : Nat) : slCur u l = slCur s l := hb.field _ _ _
theorem SameBytes.slPin (hb : SameBytes s u) (l k : Nat) : slPin u l k = slPin s l k := hb.readNat _ _
theorem SameBytes.slSlot (hb : SameBytes s u) (l v : Nat) : slSlot u l v = slSlot s l v := congrArg (v % ·) (hb.field _ _ _)
theorem SameBytes.slReadReady (hb : SameBytes s u) (l : Nat) : slReadReady u l = slReadReady s l := by
  rw [Machine.slReadReady, Machine.slReadReady, hb.slPin, hb.slSlot, hb.slCur]

section
variable (hs : SlateSound s (s.srcS 1 o.a) l) (ha : s.active h = true)
include hs ha

/-- A reader's acquire. -/
theorem slacqRd_pins (hroom : s.me.slatePins.length < 8) (hready : slReadReady s l = true) :
    ∃ t, exec (.slacqRd h o) s = .next t ∧ Wrote s t o.d (slResult 0 (slAddr s l (slCur s l)) (slCur s l))
      ∧ slPin t l (slSlot s l (slCur s l)) = slPin s l (slSlot s l (slCur s l)) + 1
      ∧ t.me.slatePins = s.me.slatePins ++ [(s.slateKey l, BitVec.ofNat 32 (slCur s l))]
      ∧ SameOutside s t (l + 0x18 + 2 * slSlot s l (slCur s l)) 2 := by
  obtain ⟨u, hu, hexec⟩ := exec_slacqRd_takes hs ha hroom hready
  refine ⟨_, hexec, wrote_of_regs ((cur_slTakeRead _ _ _).trans hu.cur) (fun m => ?_) _ _ _, ?_, ?_, ?_⟩
  · rw [me_slTakeRead, lane_withPins, hu.regs]
  · have hpin := slPin_slTakeRead ((hu.bytes.slReadReady l).trans hready) u.cur.ctx
    rw [hu.bytes.slCur, hu.bytes.slSlot, hu.bytes.slPin] at hpin
    rw [(sameBytes_wrS _ _ _ _).slPin, hpin]
  · rw [me_wrS, Ctx.updLane_slatePins, me_slTakeRead]
    simp only [hu.pins, hu.key, hu.bytes.slCur]
  · have hout := sameOutside_slTakeRead u l u.cur.ctx
    rw [hu.bytes.slCur, hu.bytes.slSlot] at hout
    exact ((hu.bytes.outside _ _).trans hout).trans ((sameBytes_wrS _ _ _ _).outside _ _)

/-- A writer's acquire. -/
theorem slacqWr_opens (hready : slWriteReady s l = true) :
    ∃ t, exec (.slacqWr h o) s = .next t ∧ Wrote s t o.d (slResult 0 (slAddr s l (slCur s l + 1)) (slCur s l + 1))
      ∧ slOpen t l = true ∧ slCur t l = slCur s l ∧ slWriter t l = s.cur.ctx % 2 ^ 32
      ∧ t.me.slateWrites = s.me.slateWrites ++ [s.slateKey l] ∧ SameOutside s t (l + 0x10) 40 := by
  obtain ⟨hout, hopen, hcur, hwriter⟩ := slTakeWrite_block s l s.cur.ctx
  have hbytes := sameBytes_wrS (slTakeWrite s l s.cur.ctx) o.d (slResult 0 (slAddr s l (slCur s l + 1)) (slCur s l + 1)) 0
  refine ⟨_, exec_slacqWr_takes hs ha hready, wrote_of_regs (cur_slTakeWrite _ _ _) (fun m => ?_) _ _ _, ?_, ?_, ?_, ?_,
    hout.trans (hbytes.outside _ _)⟩
  · rw [me_slTakeWrite, lane_withWrites]
  · rw [slOpen, hbytes.field]; exact hopen
  · rw [hbytes.slCur, hcur]
  · rw [slWriter, hbytes.field]; exact hwriter
  · rw [me_wrS, Ctx.updLane_slateWrites, me_slTakeWrite]

/-- The writer publishes. -/
theorem slpub_publishes (hw : NoWaiters s l) (hfirst : NoneFirst s s.me.core) (hopen : slOpen s l = true)
    (hwriter : slWriter s l = s.cur.ctx % 2 ^ 32) :
    ∃ t, exec (.slpub h o) s = .next t ∧ Wrote s t o.d (slResult 0 0 ((slCur s l + 1) % 2 ^ 32))
      ∧ slCur t l = (slCur s l + 1) % 2 ^ 32 ∧ slOpen t l = false
      ∧ t.me.slateWrites = s.me.slateWrites.filter (· != s.slateKey l) ∧ SameOutside s t (l + 0x10) 8 := by
  obtain ⟨u, hu, hexec⟩ := exec_slpub_publishes hs ha hw hfirst hopen hwriter
  obtain ⟨hout, hcur, hclosed⟩ := published_block u l ((slCur s l + 1) % 2 ^ 32) (s.slateKey l)
  have hbytes := sameBytes_wrS (published u l ((slCur s l + 1) % 2 ^ 32) (s.slateKey l)) o.d
    (slResult 0 0 ((slCur s l + 1) % 2 ^ 32)) 0
  refine ⟨_, hexec, wrote_of_regs ((cur_published _ _ _ _).trans hu.cur) (fun m => ?_) _ _ _, ?_, ?_, ?_,
    ((hu.bytes.outside _ _).trans hout).trans (hbytes.outside _ _)⟩
  · rw [me_published, lane_withWrites, hu.regs]
  · rw [hbytes.slCur, hcur, Nat.mod_mod]
  · rw [slOpen, hbytes.field]; exact hclosed
  · rw [me_wrS, Ctx.updLane_slateWrites, me_published, hu.writes]

/-- A pin that is held is released. -/
theorem slrel_releases (hw : NoWaiters s l) {v : BitVec 32} (hv : v = BitVec.ofNat 32 (s.srcS 2 o.b).toNat)
    (hheld : (s.slateKey l, v) ∈ s.me.slatePins) :
    ∃ t, exec (.slrel h o) s = .next t ∧ Wrote s t o.d (slResult 0 0 0)
      ∧ slPin t l (slSlot s l v.toNat) = slPin s l (slSlot s l v.toNat) - 1
      ∧ t.me.slatePins = s.me.slatePins.erase (s.slateKey l, v) ∧ SameOutside s t (l + 0x18 + 2 * slSlot s l v.toNat) 2 := by
  obtain ⟨hout, hpin⟩ := unpinned_block s l (s.slateKey l) v
  have hbytes := sameBytes_wrS (unpinned s l (s.slateKey l) v) o.d (slResult 0 0 0) 0
  refine ⟨_, exec_slrel_releases hs ha hw hv hheld, wrote_of_regs (cur_unpinned _ _ _ _) (fun m => ?_) _ _ _, ?_, ?_,
    hout.trans (hbytes.outside _ _)⟩
  · rw [me_unpinned, lane_withPins]
  · rw [hbytes.slPin, hpin]
  · rw [me_wrS, Ctx.updLane_slatePins, me_unpinned]

end

theorem slinitScb_leaves (s : State) (l : Nat) (o : RegOps) :
    (slinitScb s l o).cur = s.cur ∧ (∀ m, ((slinitScb s l o).me.lane m).s = (s.me.lane m).s)
      ∧ SameBytes (freshScb s l (s.srcS 2 o.b).toNat (bits (s.srcS 3 o.c).toNat 0 32) (bits (s.srcS 3 o.c).toNat 32 3)
        (bits (s.srcS 3 o.c).toNat 36 4)) (slinitScb s l o) := by
  obtain ⟨hcur, hregs, hscb⟩ := writeScb_leaves s l (s.srcS 2 o.b).toNat (bits (s.srcS 3 o.c).toNat 0 32)
    (bits (s.srcS 3 o.c).toNat 32 3) (bits (s.srcS 3 o.c).toNat 36 4)
  rw [slinitScb, cur_touch, me_touch]
  exact ⟨hcur, hregs, hscb.trans (sameBytes_touch _ l)⟩

/-- The slate that SLINIT makes with valid fields. -/
theorem slinitScb_fresh (hok : slinitOk s o = true) (l : Nat) :
    SameOutside s (slinitScb s l o) l 64 ∧ FreshSlate (slinitScb s l o) l (s.srcS 2 o.b).toNat (bits (s.srcS 3 o.c).toNat 0 32)
      (bits (s.srcS 3 o.c).toNat 32 3) (bits (s.srcS 3 o.c).toNat 36 4) := by
  have hn : 2 ≤ bits (s.srcS 3 o.c).toNat 32 3 ∧ bits (s.srcS 3 o.c).toNat 32 3 ≤ 4 := by
    simp only [slinitOk, slFieldsOk, Bool.and_eq_true, decide_eq_true_eq] at hok
    obtain ⟨⟨⟨⟨⟨⟨⟨hlo, hhi⟩, -⟩, -⟩, -⟩, -⟩, -⟩, -⟩ := hok
    exact ⟨hlo, hhi⟩
  obtain ⟨-, -, hbytes⟩ := slinitScb_leaves s l o
  obtain ⟨hout, hfresh⟩ := freshScb_fresh s l (s.srcS 2 o.b).toNat (bits (s.srcS 3 o.c).toNat 0 32) hn
    (bits_lt (s.srcS 3 o.c).toNat 36 4)
  exact ⟨hout.trans (hbytes.outside _ _), hfresh.same hbytes⟩

/-- Settles O43: an acquire, a publication or a release of a sound block by its own lemma, a block that does not hold by
`slateQuarantined`, SLINIT by the block that it writes. -/
theorem slates : Obligations.Slates := by
  unfold Obligations.Slates
  intro h o s l ha hw a cur j pin key v ret parks four
  have parked {i : Instr} {kind : WaitKind} (hx : exec i s = .next (slWaitq (s.park l a kind) l)) : parks i := by
    have hp := parks_slWaitq s l a kind
    exact ⟨_, hx, hp.parked, hp.lanes, hp.outside⟩
  refine ⟨fun hb => ⟨fun hq i hi => ?_, fun hq hbad i hi => ?_, fun hq hok => ?_⟩, fun halign hspan hboard => ?_⟩
  · obtain ⟨k, hk⟩ := exec_slate hi ha
    exact hk.trans (runOp_ok (runs_slEnter_quarantined hb hq k))
  · obtain ⟨k, hk⟩ := exec_slate hi ha
    exact ⟨_, hk.trans (runOp_ok (runs_slEnter_corrupt hb hw hq hbad k)), slStatus_slateQuarantined _ _ _,
      sameOutside_slateQuarantined _ _ _, fun hf hr hin => slateQuarantined_records hf hr hin _ _⟩
  · have hs : SlateSound s a l := ⟨hb, hq, hok⟩
    refine ⟨exec_slacqRd_full hs ha, fun hroom => ⟨slacqRd_pins hs ha hroom, fun hno => ?_⟩, slacqWr_opens hs ha, fun hno => ?_,
      exec_slpub_refused hs ha, slpub_publishes hs ha hw, slrel_releases hs ha hw rfl, exec_slrel_refused hs ha⟩
    · have hx := exec_slacqRd_busy hs ha hroom hno
      exact ⟨fun hmod => by rwa [if_pos hmod] at hx, fun hmod => parked (by rwa [if_neg (ne_true_of_eq_false hmod)] at hx)⟩
    · have hx := exec_slacqWr_busy hs ha hno
      exact ⟨fun hmod => by rwa [if_pos hmod] at hx, fun hmod => parked (by rwa [if_neg (ne_true_of_eq_false hmod)] at hx)⟩
  · intro base c ok used
    have hx := exec_slinit ha hw halign hspan hboard
    have hbusy : slateBusy s l = true ↔ used := slateBusy_iff s l
    refine ⟨fun hbad => ?_, fun hok hused => ?_, fun hok hunused => ?_⟩
    · have hfields : slinitOk s o = false := hbad
      rwa [if_pos hfields] at hx
    · have hfields : slinitOk s o = true := hok
      rwa [if_neg (by rw [hfields]; decide), if_pos (hbusy.mpr hused)] at hx
    · have hfields : slinitOk s o = true := hok
      rw [if_neg (by rw [hfields]; decide), if_neg (mt hbusy.mp hunused)] at hx
      obtain ⟨hout, hfresh⟩ := slinitScb_fresh hfields l
      obtain ⟨hcur, hregs, -⟩ := slinitScb_leaves s l o
      have hbytes := sameBytes_wrS (slinitScb s l o) o.d (slResult 0 0 0) 0
      obtain ⟨hok, hstatus, hclosed, hver, hnver, hmask, hbase, hvsz, hpins⟩ := hfresh.same hbytes
      exact ⟨_, hx, wrote_of_regs hcur hregs _ _ _, hok, hstatus, hclosed, hver, hnver, hmask, hbase,
        hvsz.trans (Nat.mod_eq_of_lt (bits_lt _ 0 32)), hpins, hout.trans (hbytes.outside _ _)⟩

end Sys2Proof.Machine
end

section
/-! Proofs. Events of memory: fills, pending writes, the host's accesses, ATS (R104, R111, R128, R136, R237, R287, R360, R383). -/

namespace Sys2Proof.Machine

variable {s t u : State}

/-! ### Operations that the device makes -/

theorem tryOp_ok {α : Type} {m : Op α} {a : α} (h : Runs s m a t) : s.tryOp m = (some a, t) := by
  have hrun : m.run.run s = (.ok a, t) := h
  simp only [State.tryOp, hrun]

/-- An operation that fails leaves the state. -/
theorem tryOp_error {α : Type} {m : Op α} {e : Halt} (h : m.run.run s = (.error e, t)) : s.tryOp m = (none, s) := by
  simp only [State.tryOp, h]

theorem runs_forM {α : Type} {f : α → Op Unit} {xs : List α} (h : ∀ x ∈ xs, Runs s (f x) () s) : Runs s (xs.forM f) () s := by
  induction xs with
  | nil => rfl
  | cons x xs ih =>
    rw [List.forall_mem_cons] at h
    exact h.1.bind (ih h.2)

theorem sameBytes_foldl {α : Type} {f : State → α → State} (hf : ∀ t x, SameBytes t (f t x)) (xs : List α) (s : State) :
    SameBytes s (xs.foldl f s) := by
  induction xs generalizing s with
  | nil => exact .refl s
  | cons x xs ih => exact (hf s x).trans (ih _)

theorem sameBytes_updCore (s : State) (k : Nat) (f : CoreSt → CoreSt) : SameBytes s (s.updCore k f) := sameBytes_of_mem_wlog rfl rfl

theorem sameBytes_updDie (s : State) (k : Nat) (f : Die → Die) : SameBytes s (s.updDie k f) := sameBytes_of_mem_wlog rfl rfl

theorem sameBytes_wakeIf (s : State) (p : Waiter → Bool) : SameBytes s (s.wakeIf p) := sameBytes_of_mem_wlog rfl rfl

theorem sameBytes_clearPoison (s : State) (locs : List Nat) : SameBytes s (clearPoison s locs) := sameBytes_of_mem_wlog rfl rfl

/-! ### Bytes written at a home (R106, R108, R109) -/

/-- The same bytes written over the same bytes. -/
theorem SameBytes.writeBytes (h : SameBytes s u) (a : Nat) (bs : List Byte) : SameBytes (s.writeBytes a bs) (u.writeBytes a bs) := by
  intro c
  by_cases hc : a ≤ c ∧ c < a + bs.length
  · have hin (v : State) := State.byteAt_writeBytes v a bs (i := c - a) (by omega)
    rw [show a + (c - a) = c by omega] at hin
    rw [hin, hin]
  · rw [State.byteAt_writeBytes_outside _ _ _ (by omega), State.byteAt_writeBytes_outside _ _ _ (by omega), h]

/-- As `s` in every byte and in the write path of every core. -/
structure SameHome (s t : State) : Prop where
  bytes : SameBytes s t
  wpath : ∀ k, (t.core k).wpath = (s.core k).wpath

theorem SameHome.trans (h : SameHome s t) (g : SameHome t u) : SameHome s u :=
  ⟨h.bytes.trans g.bytes, fun k => (g.wpath k).trans (h.wpath k)⟩

theorem SameHome.refl (s : State) : SameHome s s := ⟨.refl s, fun _ => rfl⟩

theorem sameHome_updCore (s : State) (i : Nat) {f : CoreSt → CoreSt} (hf : ∀ c, (f c).wpath = c.wpath) :
    SameHome s (s.updCore i f) := by
  refine ⟨sameBytes_updCore s i f, fun k => ?_⟩
  by_cases hk : k = i
  · subst hk; rw [State.core_updCore, hf]
  · rw [State.core_updCore_ne _ _ hk]

theorem sameHome_updDie (s : State) (i : Nat) (f : Die → Die) : SameHome s (s.updDie i f) := ⟨sameBytes_updDie s i f, fun _ => rfl⟩

theorem sameHome_wakeIf (s : State) (p : Waiter → Bool) : SameHome s (s.wakeIf p) := ⟨sameBytes_wakeIf s p, fun _ => rfl⟩

theorem sameHome_updateCopies (s : State) (core loc : Nat) (bs : List Byte) : SameHome s (updateCopies s core loc bs) := by
  unfold updateCopies
  extract_lets line s1 die
  have h1 : SameHome s s1 := by
    unfold s1
    split
    · exact .refl s
    · exact sameHome_updCore s core fun _ => rfl
  split
  · exact h1
  · exact h1.trans (sameHome_updDie s1 _ _)

theorem sameHome_homeWriteLoc (s : State) (core loc : Nat) (bs : List Byte) :
    SameHome (s.writeBytes loc bs) (homeWriteLoc s core loc bs) := by
  have hbytes : SameHome (s.writeBytes loc bs) ((clearPoison s ((List.range bs.length).map (loc + ·))).writeBytes loc bs) := by
    refine ⟨(sameBytes_clearPoison s _).writeBytes loc bs, fun k => ?_⟩
    rw [writeBytes_eq, writeBytes_eq s]
    rfl
  exact (hbytes.trans (sameHome_updateCopies _ _ _ _)).trans (sameHome_wakeIf _ _)

theorem wpath_writeBytes (s : State) (a : Nat) (bs : List Byte) (k : Nat) : ((s.writeBytes a bs).core k).wpath = (s.core k).wpath := by
  rw [writeBytes_eq]
  rfl

/-- The bytes that a masked write has stand from `loc` on; every other byte, and every write path, is as before. -/
structure WroteMasked (s t : State) (loc : Nat) (bs : List (Option Byte)) : Prop where
  stored : ∀ i b, bs.getD i none = some b → t.byteAt (loc + i) = b
  others : ∀ a, (∀ i b, a = loc + i → bs.getD i none ≠ some b) → t.byteAt a = s.byteAt a
  wpath : ∀ k, (t.core k).wpath = (s.core k).wpath

theorem WroteMasked.same {loc : Nat} {bs : List (Option Byte)} (h : WroteMasked s t loc bs) (g : SameHome t u) : WroteMasked s u loc bs :=
  ⟨fun i b hb => (g.bytes _).trans (h.stored i b hb), fun a ha => (g.bytes a).trans (h.others a ha),
    fun k => (g.wpath k).trans (h.wpath k)⟩

/-- A write that has all its bytes. -/
theorem wroteMasked_whole {bs : List (Option Byte)} (h : bs.all (·.isSome) = true) (s : State) (loc : Nat) :
    WroteMasked s (s.writeBytes loc (bs.filterMap id)) loc bs := by
  have hbs : bs = (bs.filterMap id).map some := by
    induction bs with
    | nil => rfl
    | cons b bs ih =>
      cases b with
      | none => simp at h
      | some b =>
        rw [List.all_cons, Bool.and_eq_true] at h
        exact congrArg (some b :: ·) (ih h.2)
  generalize bs.filterMap id = cs at hbs
  subst hbs
  refine ⟨fun i b hb => ?_, fun a ha => ?_, wpath_writeBytes s loc cs⟩
  · have hi : cs[i]? = some b := by
      rw [List.getD_eq_getElem?_getD, List.getElem?_map] at hb
      cases hc : cs[i]? with
      | none => simp [hc] at hb
      | some c => simpa [hc] using hb
    rw [State.byteAt_writeBytes _ _ _ (List.getElem?_eq_some_iff.mp hi).1, List.getD_eq_getElem?_getD, hi]
    rfl
  · refine State.byteAt_writeBytes_outside _ _ _ ?_
    by_contra hin
    have hlt : a - loc < cs.length := by omega
    refine ha (a - loc) cs[a - loc] (by omega) ?_
    simp [hlt]

/-- A write with bytes left out, byte after byte. -/
theorem wroteMasked_foldl {core loc : Nat} {f : State → Option Byte × Nat → State} (hnone : ∀ t k, f t (none, k) = t)
    (hsome : ∀ t b k, f t (some b, k) = updateCopies (t.setByte (loc + k) b) core (loc + k) [b]) (bs : List (Option Byte)) (k : Nat)
    (s : State) : WroteMasked s ((bs.zipIdx k).foldl f s) (loc + k) bs := by
  induction bs generalizing k s with
  | nil => exact ⟨fun i b hb => by simp at hb, fun _ _ => rfl, fun _ => rfl⟩
  | cons c bs ih =>
    rw [List.zipIdx_cons, List.foldl_cons]
    obtain ⟨hstored, hothers, hpath⟩ := ih (k + 1) (f s (c, k))
    have hlater (a : Nat) (ha : ∀ i b, a = loc + k + i → (c :: bs).getD i none ≠ some b) :
        ∀ i b, a = loc + (k + 1) + i → bs.getD i none ≠ some b := fun i b hi => by
      simpa using ha (i + 1) b (by omega)
    have hnext (i : Nat) (b : Byte) (hb : (c :: bs).getD (i + 1) none = some b) :
        ((bs.zipIdx (k + 1)).foldl f (f s (c, k))).byteAt (loc + k + (i + 1)) = b := by
      rw [← hstored i b (by simpa using hb)]
      congr 1
      omega
    cases c with
    | none =>
      rw [hnone] at hstored hothers hpath hnext ⊢
      refine ⟨fun i b hb => ?_, fun a ha => hothers a (hlater a ha), hpath⟩
      cases i with
      | zero => simp at hb
      | succ i => exact hnext i b hb
    | some c =>
      rw [hsome] at hstored hothers hpath hnext ⊢
      have hcopies := sameHome_updateCopies (s.setByte (loc + k) c) core (loc + k) [c]
      refine ⟨fun i b hb => ?_, fun a ha => ?_, fun j => (hpath j).trans (hcopies.wpath j)⟩
      · cases i with
        | zero =>
          obtain rfl : c = b := by simpa using hb
          rw [hothers _ fun i b hi => by omega, hcopies.bytes]
          exact State.byteAt_setByte s (loc + k) c
        | succ i => exact hnext i b hb
      · have hne : a ≠ loc + k := fun h => ha 0 c (by omega) (by simp)
        rw [hothers a (hlater a ha), hcopies.bytes, State.byteAt_setByte_ne _ _ hne]

theorem wroteMasked_homeWriteMasked (s : State) (core loc : Nat) (bs : List (Option Byte)) :
    WroteMasked s (homeWriteMasked s core loc bs) loc bs := by
  unfold homeWriteMasked
  split
  · next h => exact (wroteMasked_whole h s loc).same (sameHome_homeWriteLoc s core loc _)
  · exact (wroteMasked_foldl (core := core) (fun _ _ => rfl) (fun _ _ _ => rfl) bs 0 s).same (sameHome_wakeIf _ _)

/-! ### GLOBAL_WRITE_PERFORMED (R115, R128, R394) -/

/-- The state from which a pending write is performed. -/
def State.unpend (s : State) (core : Nat) (w : PendWrite) : State :=
  s.updCore core (fun c => { c with wpath := c.wpath.filter (fun e => e.id != w.id) })

section
variable {core : Nat} {w : PendWrite} (honly : s.pendings = [(core, w)])
include honly

theorem dueWrites_only {p : PendWrite → Bool} (hp : p w = true) :
    dueWrites (fun x => x.1 == core && p x.2) s.pendings = [(core, w)] := by
  simp [honly, dueWrites, hp]

theorem runs_drain_only {p : PendWrite → Bool} (hp : p w = true) (hfree : s.writeHeld w = false) :
    Runs s (drain core p) () (performOne (s.unpend core w) core w) := by
  unfold drain drainWhere
  refine Runs.bind (run_get s) ?_
  rw [dueWrites_only honly hp]
  simp only [List.any_cons, List.any_nil, hfree, Bool.or_false]
  rfl

theorem run_drain_held {p : PendWrite → Bool} (hp : p w = true) (hheld : s.writeHeld w = true) :
    (drain core p).run.run s = (.error .stall, s) := by
  unfold drain drainWhere
  rw [run_bind_ok (run_get s), dueWrites_only honly hp]
  simp only [List.any_cons, hheld, Bool.true_or, if_true]
  rfl

end

section
variable {w : PendWrite} (honly : s.pendings = [(s.cur.ev.a, w)]) (hid : w.id = s.cur.ev.b)
include honly hid

theorem exec_globalWritePerformed_held (hheld : s.writeHeld w = true) : exec .globalWritePerformed s = .next s := by
  change execGlobalWritePerformed s = _
  rw [execGlobalWritePerformed, tryOp_error (run_drain_held honly (by simpa using hid) hheld)]

theorem exec_globalWritePerformed (hfree : s.writeHeld w = false) :
    exec .globalWritePerformed s = .next (performOne (s.unpend s.cur.ev.a w) s.cur.ev.a w) := by
  change execGlobalWritePerformed s = _
  rw [execGlobalWritePerformed, tryOp_ok (runs_drain_only honly (by simpa using hid) hfree)]

end

theorem wpath_unpend {core : Nat} {w : PendWrite} (h : (s.core core).wpath = [w]) : ((s.unpend core w).core core).wpath = [] := by
  rw [State.unpend, State.core_updCore]
  simp [h]

theorem wroteMasked_performOne {core : Nat} {w : PendWrite} (hop : w.op = .store) (s : State) :
    WroteMasked s (performOne s core w) w.pa w.bytes := by
  rw [performOne, hop]
  exact wroteMasked_homeWriteMasked s core w.pa w.bytes

/-- A reduction at a line without an error. -/
theorem performOne_redm {core aop n : Nat} {w : PendWrite} (hop : w.op = .redm aop n) (hclean : s.poisoned [w.pa] = none) :
    SameHome (s.writeNat w.pa n (aopNew aop (8 * n) (s.readNat w.pa n) (leNat (w.bytes.filterMap id)) 0)) (performOne s core w) := by
  rw [performOne, hop]
  simp only [hclean]
  exact (sameHome_homeWriteLoc s core w.pa _).trans (sameHome_updCore _ core fun _ => rfl)

/-! ### ACCUMULATOR_WRITE_LANDS (R216, R287) -/

theorem exec_accumulatorWriteLands {x : PendAcc} {rest : List PendAcc} (hq : (s.core s.cur.ev.a).accq = x :: rest) :
    exec .accumulatorWriteLands s = .next ((s.updCore s.cur.ev.a (fun c => { c with accq := rest })).updCtx x.ctx
      (fun c => { c with acc := c.acc.setIfInBounds x.acc x.val })) := by
  change execAccumulatorWriteLands s = _
  simp only [execAccumulatorWriteLands, hq]

/-! ### OVERLAY_FILL_COMPLETE (R104, R237) -/

theorem exec_overlayFillComplete {bs : List Byte} (hempty : ((s.core s.cur.ev.a).imem (s.cur.ev.b % 2)).full = false)
    (hrun : Runs s (homeLoad (fillWho s s.cur.ev.a ((s.core s.cur.ev.a).imem (s.cur.ev.b % 2)) (fillFor s s.cur.ev.a (s.cur.ev.b % 2)))
      ((s.core s.cur.ev.a).imem (s.cur.ev.b % 2)).addr.toNat (8 * ((s.core s.cur.ev.a).imem (s.cur.ev.b % 2)).len)) bs u) :
    exec .overlayFillComplete s = .next (slotFilled u s.cur.ev.a (s.cur.ev.b % 2)
      ((chunks 8 ((s.core s.cur.ev.a).imem (s.cur.ev.b % 2)).len bs).map (fun x => BitVec.ofNat 64 (leNat x)))) := by
  change execOverlayFillComplete s = _
  have hres : (homeLoad _ _ _).run.run s = (.ok bs, u) := hrun
  simp only [execOverlayFillComplete, hempty, hres, Bool.false_eq_true, if_false]

theorem CoreSt.banks_setImem (x : CoreSt) (slot : Nat) (m : ImemSlot) :
    (x.setImem slot m).bank0 = x.bank0 ∧ (x.setImem slot m).bank1 = x.bank1 := by
  unfold CoreSt.setImem; split <;> exact ⟨rfl, rfl⟩

/-- A slot that has been filled holds the words; the one context of the core that waits for them finds it VALID. -/
theorem slotFilled_valid {core slot k : Nat} (h0 : (u.core core).bank0 = some k) (h1 : (u.core core).bank1 = none)
    (hcore : (u.ctx k).core = core) (hst : ((u.ctx k).ovl slot).st = .loading)
    (htag : tagMatches (u.ctx k) ((u.core core).imem slot) ((u.ctx k).ovl slot) = true) (words : List Word) :
    (((slotFilled u core slot words).core core).imem slot).words = words
      ∧ (((slotFilled u core slot words).core core).imem slot).full = true
      ∧ (((slotFilled u core slot words).ctx k).ovl slot).st = .valid := by
  let m : ImemSlot := { (u.core core).imem slot with words := words, full := true }
  let v := u.updCore core (fun x => x.setImem slot m)
  have hv : v.core core = (u.core core).setImem slot m := u.core_updCore _ _
  have himem : (v.core core).imem slot = m := by rw [hv, CoreSt.imem_setImem]
  obtain ⟨hb0, hb1⟩ := (u.core core).banks_setImem slot m
  have hctx : v.ctx k = u.ctx k := rfl
  have hfilled : slotFilled u core slot words = v.updCtx k (fun x =>
      { x.setOvl slot { (u.ctx k).ovl slot with st := .valid } with ovlWait := x.ovlWait.filter (fun q => q.2 != slot) }) := by
    have htag' : tagMatches (u.ctx k) m ((u.ctx k).ovl slot) = true := htag
    change ([(v.core core).bank0, (v.core core).bank1].filterMap id).foldl (fun t k => settleSlot t k slot) v = _
    rw [hv, hb0, hb1, h0, h1]
    change settleSlot v k slot = _
    simp only [settleSlot, hctx, hcore, himem, hst, htag', not_true_eq_false, ne_eq, Bool.not_true, Bool.false_eq_true, if_false]
    rfl
  rw [hfilled, State.ctx_updCtx]
  exact ⟨congrArg ImemSlot.words himem, congrArg ImemSlot.full himem, congrArg OvlSlot.st (Ctx.ovl_setOvl _ _ _ _)⟩

/-! ### The host's accesses (R111, R136, R360, R371) -/

theorem byteAt_foldl_setByte_notMem {a : Nat} {cells : List (Nat × Byte)} (h : a ∉ cells.map (·.1)) (s : State) :
    (cells.foldl (fun t ab => t.setByte ab.1 ab.2) s).byteAt a = s.byteAt a := by
  induction cells generalizing s with
  | nil => rfl
  | cons c cells ih =>
    rw [List.map_cons, List.mem_cons, not_or] at h
    rw [List.foldl_cons, ih h.2, State.byteAt_setByte_ne _ _ h.1]

/-- Where no location is written twice, each reads as it was written. -/
theorem byteAt_foldl_setByte {a : Nat} {b : Byte} {cells : List (Nat × Byte)} (hnd : (cells.map (·.1)).Nodup) (h : (a, b) ∈ cells)
    (s : State) : (cells.foldl (fun t ab => t.setByte ab.1 ab.2) s).byteAt a = b := by
  induction cells generalizing s with
  | nil => simp at h
  | cons c cells ih =>
    rw [List.map_cons, List.nodup_cons] at hnd
    rw [List.foldl_cons]
    rcases List.mem_cons.mp h with rfl | h
    · rw [byteAt_foldl_setByte_notMem hnd.1, State.byteAt_setByte]
    · exact ih hnd.2 h _

/-- Nothing that had been made known to the host is pending at these bytes. -/
theorem settleForHost_of_none {locs : List Nat} (h : dueWrites (s.beforeHost locs) s.pendings = []) : settleForHost s locs = s := by
  have hrun : Runs s (drainWhere (s.beforeHost locs)) () s := by
    unfold drainWhere
    refine Runs.bind (run_get s) ?_
    rw [h]
    rfl
  simp only [settleForHost, tryOp_ok hrun]

/-- What the host's write leaves at its own bytes, and elsewhere once the writes before it have been performed. -/
theorem exec_hostMemoryWrite (hnd : (hostSpan s s.cur.ev.a s.cur.ev.bytes.length).Nodup) :
    ∃ t, exec .hostMemoryWrite s = .next t
      ∧ (∀ i, i < s.cur.ev.bytes.length → t.byteAt (hostAddress s (s.cur.ev.a + i)) = s.cur.ev.bytes.getD i 0)
      ∧ ∀ a, a ∉ hostSpan s s.cur.ev.a s.cur.ev.bytes.length →
        t.byteAt a = (settleForHost s (hostSpan s s.cur.ev.a s.cur.ev.bytes.length)).byteAt a := by
  have hlen : (hostSpan s s.cur.ev.a s.cur.ev.bytes.length).length = s.cur.ev.bytes.length := by
    rw [hostSpan, List.length_map, List.length_range]
  have hkeys := List.map_fst_zip (Nat.le_of_eq hlen)
  refine ⟨_, rfl, fun i hi => ?_, fun a ha => ?_⟩
  · have hcell : (hostAddress s (s.cur.ev.a + i), s.cur.ev.bytes.getD i 0)
        ∈ (hostSpan s s.cur.ev.a s.cur.ev.bytes.length).zip s.cur.ev.bytes := by
      refine List.mem_iff_getElem.mpr ⟨i, by rw [List.length_zip, hlen, Nat.min_self]; exact hi, ?_⟩
      simp [hostSpan, hi]
    exact byteAt_foldl_setByte (by rw [hkeys]; exact hnd) hcell _
  · exact byteAt_foldl_setByte_notMem (by rw [hkeys]; exact ha) _

theorem exec_hostMemoryRead_clean (hn : s.cur.ev.num = 0) (hp : s.poisoned (hostSpan s s.cur.ev.a s.cur.ev.b) = none) :
    exec .hostMemoryRead s = .next (s.answer ((hostSpan s s.cur.ev.a s.cur.ev.b).map s.byteAt)) := by
  change execHostMemoryRead s = _
  simp [execHostMemoryRead, hn, hp]

theorem exec_hostMemoryRead_abort (hn : s.cur.ev.num = 0) (hp : (s.poisoned (hostSpan s s.cur.ev.a s.cur.ev.b)).isSome = true) :
    exec .hostMemoryRead s = .next { s with module := { s.module with
      reply := [], abort := true, aer := s.module.aer ||| completerAbort } } := by
  change execHostMemoryRead s = _
  simp [execHostMemoryRead, hn, hp]

theorem intp_foldl_updCore (cs : List Nat) (s : State) (c : Nat) :
    ((cs.foldl (fun t c => t.updCore c (fun x => { x with intp := x.intp ||| BitVec.ofNat 64 (2 ^ 2) })) s).core c).intp.getLsbD 2
      = (decide (c ∈ cs) || (s.core c).intp.getLsbD 2) := by
  induction cs generalizing s with
  | nil => simp
  | cons e cs ih =>
    rw [List.foldl_cons, ih]
    by_cases he : c = e
    · subst he
      rw [State.core_updCore, BitVec.getLsbD_or]
      simp
    · rw [State.core_updCore_ne _ _ he]
      simp [he]

/-- The doorbell's bit on the service cores of some dies. -/
theorem intp_foldl_raiseIntp (ds : List Nat) (s : State) (c : Nat) :
    ((ds.foldl (fun t d => raiseIntp t d 2) s).core c).intp.getLsbD 2
      = (decide (∃ d ∈ ds, c ∈ serviceCores d) || (s.core c).intp.getLsbD 2) := by
  induction ds generalizing s with
  | nil => simp
  | cons d ds ih =>
    rw [List.foldl_cons, ih, raiseIntp, intp_foldl_updCore, ← Bool.or_assoc]
    congr 1
    simp only [List.mem_cons, exists_eq_or_imp, Bool.decide_or, Bool.or_comm]

theorem sameBytes_raiseIntp (s : State) (d bit : Nat) : SameBytes s (raiseIntp s d bit) :=
  sameBytes_foldl (fun t c => sameBytes_updCore t c _) _ s

/-! ### ATS_INVALIDATION and PAGE_REQUEST_RESPONSE (R383, R384, R390) -/

theorem pendings_eq_nil (h : ∀ kc ∈ s.cores, kc.2.wpath = []) : s.pendings = [] := by
  have hnone : s.cores.flatMap (fun kc => kc.2.wpath.map (fun e => (kc.1, e))) = [] :=
    List.flatMap_eq_nil_iff.mpr fun kc hkc => by rw [h kc hkc, List.map_nil]
  rw [State.pendings, hnone]
  rfl

theorem runs_drainAll_none (h : s.pendings = []) (p : PendWrite → Bool) : Runs s (drainAll p) () s :=
  Runs.bind (run_get s) (runs_forM fun _ _ => runs_drain_none (by simp [h]) p)

/-- The translations that an invalidation of a range of the host half removes from the address spaces of a function. -/
def atsNames (s : State) (x : TlbEnt) : Bool :=
  let as := asidsOf s s.cur.ev.ctx s.cur.ev.num
  as.contains x.asid && x.host && overlap x.va x.size s.cur.ev.a s.cur.ev.b
    || (as.contains x.asid && bits x.va 56 1 == 0 && overlap x.va x.size s.cur.ev.a s.cur.ev.b)

/-- The hinted counts that it removes. -/
def atsCounts (s : State) (p : PageCount) : Bool :=
  p.hinted && (asidsOf s s.cur.ev.ctx s.cur.ev.num).contains p.asid && overlap p.va p.size s.cur.ev.a s.cur.ev.b

/-- A translation of the range that stays is of the device half. -/
theorem of_not_atsNames {x : TlbEnt} (h : atsNames s x = false) (hasid : x.asid ∈ asidsOf s s.cur.ev.ctx s.cur.ev.num)
    (hover : overlap x.va x.size s.cur.ev.a s.cur.ev.b = true) : x.host = false ∧ bits x.va 56 1 = 1 := by
  have hlt := bits_lt x.va 56 1
  obtain ⟨hhost, hhalf⟩ : x.host = false ∧ bits x.va 56 1 ≠ 0 := by simpa [atsNames, hasid, hover] using h
  exact ⟨hhost, by omega⟩

theorem exec_atsInvalidation (h : s.pendings = []) : exec .atsInvalidation s = .next { dropTlb s (atsNames s) with
    dies := s.dies.map (fun kd => (kd.1, { kd.2 with counts := kd.2.counts.filter (fun p => !atsCounts s p) })) } := by
  change execAtsInvalidation s = _
  simp only [execAtsInvalidation, tryOp_ok (runs_drainAll_none h _)]
  rfl

/-- A command that a held one's resumption leaves: it waits for no Page Request, or is another command as it was. -/
theorem cmds_resumeCmd {c x : EngCmd} (h : x ∈ (resumeCmd s c).cmds) :
    x.asked = false ∨ (x ∈ s.cmds ∧ x.named c.ctx c.lane c.num = false) := by
  obtain ⟨y, hy, rfl⟩ := List.mem_map.mp h
  cases hn : y.named c.ctx c.lane c.num with
  | false => exact .inr (by simpa [hn] using hy)
  | true => exact .inl (by simp)

theorem cmds_foldl_resumeCmd {cs : List EngCmd} {x : EngCmd} (h : x ∈ (cs.foldl resumeCmd s).cmds) :
    x.asked = false ∨ (x ∈ s.cmds ∧ ∀ c ∈ cs, x.named c.ctx c.lane c.num = false) := by
  induction cs generalizing s with
  | nil => exact .inr ⟨h, fun _ hc => absurd hc List.not_mem_nil⟩
  | cons c cs ih =>
    rcases ih h with hx | ⟨hx, hcs⟩
    · exact .inl hx
    · rcases cmds_resumeCmd hx with hx | ⟨hx, hc⟩
      · exact .inl hx
      · exact .inr ⟨hx, List.forall_mem_cons.mpr ⟨hc, hcs⟩⟩

theorem foldl_resumeCmd_leaves (cs : List EngCmd) (s : State) :
    (∀ v, (cs.foldl resumeCmd s).vif v = s.vif v) ∧ SameBytes s (cs.foldl resumeCmd s) := by
  refine ⟨fun v => ?_, sameBytes_foldl (f := resumeCmd) (fun _ _ => sameBytes_of_mem_wlog rfl rfl) cs s⟩
  induction cs generalizing s with
  | nil => rfl
  | cons c cs ih => exact ih (resumeCmd s c)

/-- The page that a PAGE_REQUEST_RESPONSE names, as requests record it. -/
def State.answeredPage (s : State) : Nat := s.cur.ev.a / 4096 * 4096

/-- The request has been answered. -/
def State.answered (s : State) : State :=
  s.updVif s.cur.ev.ctx (fun f => { f with pageReqs := f.pageReqs.erase (s.cur.ev.num, BitVec.ofNat 64 s.answeredPage) })

/-- A command is held for the page. -/
def heldFor (s : State) (c : EngCmd) : Bool :=
  c.phase == .held && c.asked && (asidsOf s s.cur.ev.ctx s.cur.ev.num).contains c.asid.toNat
    && (c.fault.map (fun f => f.2.2.toNat / 4096 * 4096 == s.answeredPage)).getD false

theorem exec_pageRequestResponse_none (h : (s.cur.ev.num, BitVec.ofNat 64 s.answeredPage) ∉ (s.vif s.cur.ev.ctx).pageReqs) :
    exec .pageRequestResponse s = .next s := by
  have hc : (s.vif s.cur.ev.ctx).pageReqs.contains (s.cur.ev.num, BitVec.ofNat 64 s.answeredPage) = false := by simpa using h
  change execPageRequestResponse s = _
  simp only [State.answeredPage] at hc
  simp only [execPageRequestResponse, hc, Bool.not_false, if_true]

theorem exec_pageRequestResponse_success (h : (s.cur.ev.num, BitVec.ofNat 64 s.answeredPage) ∈ (s.vif s.cur.ev.ctx).pageReqs)
    (hb : s.cur.ev.b = 1) : exec .pageRequestResponse s = .next ((s.cmds.filter (heldFor s)).foldl resumeCmd s.answered) := by
  have hc : (s.vif s.cur.ev.ctx).pageReqs.contains (s.cur.ev.num, BitVec.ofNat 64 s.answeredPage) = true := by simpa using h
  change execPageRequestResponse s = _
  simp only [State.answeredPage] at hc
  simp only [execPageRequestResponse, hc, hb, Bool.not_true, Bool.false_eq_true, if_false, if_true]
  refine congrArg (fun cs => Host.Outcome.next (List.foldl resumeCmd _ cs)) (List.filter_congr fun c _ => ?_)
  rcases hf : c.fault with _ | ⟨f, w, va⟩ <;> simp [heldFor, hf, State.answeredPage]

/-! ### The statement -/

/-- Settles O49: each event by its own equation, and what the state that it names holds. -/
theorem memoryEvents : Obligations.MemoryEvents := by
  unfold Obligations.MemoryEvents
  intro s e core slot m span asids
  refine ⟨fun x rest hq => ?_, fun w honly hpath hid => ?_, fun bs u hempty hrun => ?_, fun hnd => ?_, fun hn hp => ?_,
    fun hn hp => ?_, ?_, fun hpaths => ?_, ?_⟩
  · refine ⟨_, exec_accumulatorWriteLands hq, ?_, ?_, (sameBytes_updCore s core _).trans (sameBytes_updCtx _ _ _)⟩
    · exact congrArg CoreSt.accq (s.core_updCore core (fun c => { c with accq := rest }))
    · rw [State.ctx_updCtx]
      rfl
  · intro holds
    refine ⟨exec_globalWritePerformed_held honly hid, fun hfree hop => ?_, fun aop n hfree hop hclean => ?_⟩
    · obtain ⟨hstored, hothers, hwpath⟩ := wroteMasked_performOne (core := core) hop (s.unpend core w)
      refine ⟨_, exec_globalWritePerformed honly hid hfree, (hwpath core).trans (wpath_unpend hpath), ?_, fun a ha => ?_⟩
      · rintro _ b ⟨i, rfl, hb⟩
        exact hstored i b hb
      · exact (hothers a fun i b hi hb => ha b ⟨i, hi, hb⟩).trans (sameBytes_updCore s core _ a)
    · have hunpend : SameBytes s (s.unpend core w) := sameBytes_updCore s core _
      have hperf := performOne_redm (s := s.unpend core w) (core := core) hop hclean
      rw [hunpend.readNat] at hperf
      refine ⟨_, exec_globalWritePerformed honly hid hfree, ?_, ?_, ?_⟩
      · rw [hperf.wpath, State.writeNat, wpath_writeBytes, wpath_unpend hpath]
      · exact ((hunpend.outside _ _).trans (sameOutside_writeNat _ _ _ _)).trans (hperf.bytes.outside _ _)
      · rw [hperf.bytes.readNat, readNat_writeNat]
  · intro words
    have hx := exec_overlayFillComplete hempty hrun
    refine ⟨hx, fun k h0 h1 hcore hst htag => ?_⟩
    exact ⟨_, hx, slotFilled_valid h0 h1 hcore hst htag words⟩
  · obtain ⟨t, hx, hown, hothers⟩ := exec_hostMemoryWrite hnd
    refine ⟨t, hx, hown, fun hdue a ha => ?_⟩
    have hsettle : settleForHost s (hostSpan s s.cur.ev.a s.cur.ev.bytes.length) = s := settleForHost_of_none hdue
    rw [hothers a ha, hsettle]
  · exact ⟨_, exec_hostMemoryRead_clean hn hp, rfl, rfl, sameBytes_of_mem_wlog rfl rfl⟩
  · exact ⟨_, exec_hostMemoryRead_abort hn hp, rfl, rfl, rfl, sameBytes_of_mem_wlog rfl rfl, rfl⟩
  · refine ⟨_, rfl, sameBytes_foldl (fun t d => sameBytes_raiseIntp t d 2) _ s, fun d hd c hc => ?_⟩
    rw [intp_foldl_raiseIntp, decide_eq_true ⟨d, List.mem_range.mpr hd, hc⟩, Bool.true_or]
  · refine ⟨_, exec_atsInvalidation (pendings_eq_nil hpaths), sameBytes_of_mem_wlog rfl rfl, fun x hx => List.mem_of_mem_filter hx,
      fun x hx hasid hover => ?_, fun kd hkd p hp hhint hasid => ?_⟩
    · exact of_not_atsNames (by simpa using (List.mem_filter.mp hx).2) hasid hover
    · obtain ⟨kd, -, rfl⟩ := List.mem_map.mp hkd
      have hkept : atsCounts s p = false := by simpa using (List.mem_filter.mp hp).2
      simpa [atsCounts, hhint, show p.asid ∈ asidsOf s s.cur.ev.ctx s.cur.ev.num from hasid] using hkept
  · intro page asked
    refine ⟨exec_pageRequestResponse_none, fun hasked hb => ?_⟩
    obtain ⟨hvif, hbytes⟩ := foldl_resumeCmd_leaves (s.cmds.filter (heldFor s)) s.answered
    refine ⟨_, exec_pageRequestResponse_success hasked hb, (sameBytes_updVif s e.ctx _).trans hbytes, ?_,
      fun c hc hphase hwaits hasid f w va hf hpage => ?_⟩
    · rw [hvif]
      exact congrArg Vif.pageReqs (s.vif_updVif e.ctx _)
    · rcases cmds_foldl_resumeCmd hc with hno | ⟨hmem, hnone⟩
      · rw [hno] at hwaits
        exact Bool.false_ne_true hwaits
      · have hheld : heldFor s c = true := by
          simp [heldFor, hphase, hwaits, hf, show c.asid.toNat ∈ asidsOf s s.cur.ev.ctx s.cur.ev.num from hasid,
            show va.toNat / 4096 * 4096 = s.answeredPage from hpage]
        have hself := hnone c (List.mem_filter.mpr ⟨hmem, hheld⟩)
        simp [EngCmd.named] at hself

end Sys2Proof.Machine
end

section
/-! Proofs. The state at reset (R85, R360, R435). -/

namespace Sys2Proof.Machine

/-- Settles O59, field by field. -/
theorem resetState : Obligations.ResetState := by
  unfold Obligations.ResetState
  refine ⟨⟨reset_mem_wf, rfl, rfl⟩, fun a => rfl, rfl, rfl, rfl, rfl, rfl, rfl, rfl, fun k => ?_, fun d => ?_⟩
  · exact ⟨rfl, rfl, rfl, rfl, rfl, rfl⟩
  · exact ⟨rfl, rfl, rfl, rfl, rfl⟩

end Sys2Proof.Machine
end

section
/-! Proofs. What a translation leaves, and instructions that leave every byte and every register (O28, O32, O46). -/

namespace Sys2Proof.Machine

variable {s t u : State}

/-! ### What a translation leaves (R379, R382, R385) -/

/-- As `s` but for cached translations, page requests and free values. -/
structure OnlyTranslations (s t : State) : Prop where
  mem : t.mem = s.mem
  wlog : t.wlog = s.wlog
  ctxs : t.ctxs = s.ctxs
  cores : t.cores = s.cores
  dies : t.dies = s.dies
  cur : t.cur = s.cur

theorem OnlyTranslations.refl (s : State) : OnlyTranslations s s := ⟨rfl, rfl, rfl, rfl, rfl, rfl⟩

theorem OnlyTranslations.trans (h : OnlyTranslations s t) (g : OnlyTranslations t u) : OnlyTranslations s u :=
  ⟨g.mem.trans h.mem, g.wlog.trans h.wlog, g.ctxs.trans h.ctxs, g.cores.trans h.cores, g.dies.trans h.dies, g.cur.trans h.cur⟩

theorem onlyTranslations_free (s : State) (kind : Nat) : OnlyTranslations s (s.free kind).2 := ⟨rfl, rfl, rfl, rfl, rfl, rfl⟩

theorem onlyTranslations_freeIf {α : Type} (s : State) (old : List α) (kind : Nat) :
    OnlyTranslations s (if old.isEmpty then (0, s) else s.free kind).2 := by
  split
  · exact .refl s
  · exact onlyTranslations_free s kind

theorem onlyTranslations_replaceOne {α : Type} (cap kind : Nat) (l : List α) (s : State) :
    OnlyTranslations s (replaceOne cap kind l s).2 := by
  unfold replaceOne
  split
  · exact .refl s
  · exact onlyTranslations_free s kind

theorem onlyTranslations_keepWalk (s : State) (e : WalkEnt) : OnlyTranslations s (keepWalk s e) := by
  unfold keepWalk
  split
  · exact .refl s
  · have h := onlyTranslations_replaceOne 256 5 (s.walks.filter (fun x => x.die == e.die
      && !(x.asid == e.asid && x.gen == e.gen && x.level == e.level && x.index == e.index))) s
    exact ⟨h.mem, h.wlog, h.ctxs, h.cores, h.dies, h.cur⟩

theorem onlyTranslations_keepTlb (s : State) (e : TlbEnt) : OnlyTranslations s (keepTlb s e) := by
  unfold keepTlb
  split
  · exact .refl s
  · have h := onlyTranslations_replaceOne 4096 6 (s.tlb.filter (fun x => x.die == e.die)) s
    exact ⟨h.mem, h.wlog, h.ctxs, h.cores, h.dies, h.cur⟩

theorem onlyTranslations_walkVia (s : State) (die asid gen va t level : Nat) (lvls : List (Nat × Nat × Nat × Nat)) :
    OnlyTranslations s (s.walkVia die asid gen va t level lvls).2 := by
  induction lvls generalizing s t level with
  | nil => exact .refl s
  | cons l lvls ih =>
    rw [State.walkVia]
    dsimp only
    generalize (s.walks.filter _).map (·.entry) = old
    have hp := onlyTranslations_freeIf s old 4
    generalize (if old.isEmpty = true then (0, s) else s.free 4) = p at hp
    obtain ⟨n, s1⟩ := p
    dsimp only
    split
    · exact hp
    · exact hp
    · exact hp.trans ((onlyTranslations_keepWalk _ _).trans (ih _ _ _))

theorem onlyTranslations_translate (s : State) (die asid : Nat) (priv write : Bool) (va : Nat) :
    OnlyTranslations s (s.translate die asid priv write va).2 := by
  unfold State.translate
  split
  · exact .refl s
  split
  · split
    · exact .refl s
    · next t _ =>
      extract_lets gen now stale
      have hp := onlyTranslations_freeIf s stale 1
      generalize (if stale.isEmpty = true then (0, s) else s.free 1) = p at hp
      obtain ⟨n, s1⟩ := p
      have hw := hp.trans (onlyTranslations_walkVia s1 die asid gen va t 0 walkLevels)
      clear_value now
      dsimp only at hp ⊢
      split
      · exact hp
      · cases now with
        | ok e0 =>
          dsimp only
          split
          · exact hp
          · split
            · exact hw
            · exact hw.trans (onlyTranslations_keepTlb _ _)
        | error f0 =>
          dsimp only
          split
          · exact hw
          · exact hw.trans (onlyTranslations_keepTlb _ _)
  · split
    · exact .refl s
    · split
      · exact .refl s
      · have hfree : OnlyTranslations s (((s.free 2).2.free 3).2) := (onlyTranslations_free s 2).trans (onlyTranslations_free _ 3)
        extract_lets hits
        generalize hp : s.free 2 = p at hfree
        have h1 : OnlyTranslations s p.2 := hp ▸ onlyTranslations_free s 2
        obtain ⟨n, s1⟩ := p
        dsimp only
        split
        · exact h1
        · generalize s1.free 3 = q at hfree
          obtain ⟨a, s2⟩ := q
          dsimp only
          split
          · exact hfree.trans ⟨rfl, rfl, rfl, rfl, rfl, rfl⟩
          · exact hfree.trans (onlyTranslations_keepTlb _ _)

/-! ### Operations that leave every byte and every register -/

/-- As `s` in every byte, and in every context but for what the issuing lanes note of caches and commands. -/
structure KeepsLanes (s t : State) : Prop where
  bytes : SameBytes s t
  cur : t.cur = s.cur
  others : ∀ k, k ≠ s.cur.ctx → t.ctx k = s.ctx k
  regs : s.me.SameRegs t.me
  pc : ∀ l, (t.me.lane l).pc = (s.me.lane l).pc

theorem KeepsLanes.trans (h : KeepsLanes s t) (g : KeepsLanes t u) : KeepsLanes s u :=
  ⟨h.bytes.trans g.bytes, g.cur.trans h.cur, fun k hk => (g.others k (h.cur ▸ hk)).trans (h.others k hk), h.regs.trans g.regs,
    fun l => (g.pc l).trans (h.pc l)⟩

theorem KeepsLanes.lanes (h : KeepsLanes s t) : SameLanes s t :=
  ⟨congrArg Issue.ctx h.cur, congrArg Issue.lane h.cur, h.others, fun l => ⟨h.regs.s l, h.pc l⟩⟩

theorem KeepsLanes.files (h : KeepsLanes s t) : SameFiles s t := sameFiles_of_sameRegs h.regs

/-- A change of what is kept outside contexts and bytes. -/
theorem keepsLanes_of_eq (hm : t.mem = s.mem) (hw : t.wlog = s.wlog) (hx : t.ctxs = s.ctxs) (hc : t.cur = s.cur) : KeepsLanes s t := by
  have hctx (k : Nat) : t.ctx k = s.ctx k := by rw [State.ctx, hx]; rfl
  have hme : t.me = s.me := by rw [State.me, hctx, hc]; rfl
  exact ⟨sameBytes_of_mem_wlog hm hw, hc, fun k _ => hctx k, hme ▸ .refl _, fun l => by rw [hme]⟩

theorem KeepsLanes.refl (s : State) : KeepsLanes s s := keepsLanes_of_eq rfl rfl rfl rfl

theorem OnlyTranslations.keepsLanes (h : OnlyTranslations s t) : KeepsLanes s t := keepsLanes_of_eq h.mem h.wlog h.ctxs h.cur

theorem Before.keepsLanes (h : Before s t) : KeepsLanes s t := by
  obtain ⟨-, -, hothers, hlanes⟩ := h.lanes
  obtain ⟨hf, hv, hp, hacc, hctrl⟩ := h.files
  exact ⟨sameBytes_of_mem_wlog h.tables.mem h.tables.wlog, h.cur, hothers, ⟨hf, hv, hp, hacc, hctrl, fun l => (hlanes l).1⟩,
    fun l => (hlanes l).2⟩

theorem keepsLanes_updCore (s : State) (k : Nat) (f : CoreSt → CoreSt) : KeepsLanes s (s.updCore k f) := keepsLanes_of_eq rfl rfl rfl rfl

theorem keepsLanes_updDie (s : State) (k : Nat) (f : Die → Die) : KeepsLanes s (s.updDie k f) := keepsLanes_of_eq rfl rfl rfl rfl

theorem keepsLanes_updMe (s : State) {f : Ctx → Ctx} (hregs : ∀ c : Ctx, c.SameRegs (f c))
    (hpc : ∀ c l, ((f c).lane l).pc = (c.lane l).pc) :
    KeepsLanes s (s.updMe f) :=
  ⟨sameBytes_updCtx _ _ _, rfl, fun _ hk => s.ctx_updCtx_ne _ hk, by rw [State.me_updMe]; exact hregs _,
    fun l => by rw [State.me_updMe]; exact hpc _ l⟩

theorem Ctx.pc_updLane (c : Ctx) (l : Lane) {f : LaneSt → LaneSt} (hf : ∀ x, (f x).pc = x.pc) (m : Lane) :
    ((c.updLane l f).lane m).pc = (c.lane m).pc := by
  by_cases hm : m = l
  · subst hm; rw [Ctx.lane_updLane, hf]
  · rw [Ctx.lane_updLane_ne _ _ hm]

theorem keepsLanes_updMyLane (s : State) {f : LaneSt → LaneSt} (hs : ∀ x, (f x).s = x.s) (hpc : ∀ x, (f x).pc = x.pc) :
    KeepsLanes s (s.updMyLane f) :=
  keepsLanes_updMe s (fun c => .updLane c _ f hs) fun c m => c.pc_updLane _ hpc m

theorem keepsLanes_foldl {α : Type} {f : State → α → State} (hf : ∀ t x, KeepsLanes t (f t x)) (xs : List α) (s : State) :
    KeepsLanes s (xs.foldl f s) := by
  induction xs generalizing s with
  | nil => exact .refl s
  | cons x xs ih => exact (hf s x).trans (ih _)

/-- A result in a register of the issuing lane, after what leaves the registers. -/
theorem KeepsLanes.wrote (h : KeepsLanes s t) (d : BitVec 6) (v : Word) (n : Nat) :
    Wrote s (t.wrS d v n) d v ∧ SameBytes s (t.wrS d v n) ∧ SameFiles s (t.wrS d v n)
      ∧ ∀ l, ((t.wrS d v n).me.lane l).pc = (s.me.lane l).pc := by
  have hput (x : LaneSt) : (x.putS d.toNat v n).pc = x.pc := by unfold LaneSt.putS; split <;> rfl
  refine ⟨wrote_of_regs h.cur h.regs.s d v n, h.bytes.trans (sameBytes_wrS t d v n), ?_, fun l => ?_⟩
  · have hfiles := h.files
    unfold SameFiles at *
    rw [me_wrS]
    simpa using hfiles
  · rw [me_wrS, Ctx.pc_updLane _ _ hput, h.pc]

/-! ### Acquires (R123) -/

theorem keepsLanes_acquireState (s : State) (core asid scope : Nat) (cov : Cover) : KeepsLanes s (acquireState s core asid scope cov) := by
  unfold acquireState
  extract_lets s0 s1
  have h1 : KeepsLanes s s1 := by
    unfold s1
    split
    · exact keepsLanes_updCore s core _
    · exact (keepsLanes_updCore s core _).trans (keepsLanes_updCore s0 core _)
  split
  · exact h1
  · exact h1.trans (keepsLanes_updDie s1 _ _)

theorem keepsLanes_joinMtcs (s : State) : KeepsLanes s (s.joinMtcs s.cur.ctx s.cur.lane) := by
  unfold State.joinMtcs
  extract_lets names
  split
  · exact .refl s
  · exact keepsLanes_updMyLane s (fun _ => rfl) fun _ => rfl

/-- An acquire by a lane. -/
def State.acquired (t : State) (w : Who) (scope : Nat) (cov : Cover) : State :=
  (acquireState t w.core w.asid scope cov).joinMtcs w.ctx w.lane

theorem runs_acquireOp_eq (t : State) (w : Who) (scope : Nat) (cov : Cover) : Runs t (acquireOp w scope cov) () (t.acquired w scope cov) :=
  rfl

theorem keepsLanes_acquired (hc : t.cur = s.cur) (scope : Nat) (cov : Cover) : KeepsLanes t (t.acquired s.who scope cov) := by
  have h := keepsLanes_acquireState t s.who.core s.who.asid scope cov
  have hj := keepsLanes_joinMtcs (acquireState t s.who.core s.who.asid scope cov)
  rw [h.cur, hc] at hj
  exact h.trans hj

theorem joinMtcs_leaves (s : State) (k : Nat) (l : Lane) :
    (s.joinMtcs k l).cores = s.cores ∧ (s.joinMtcs k l).dies = s.dies ∧ (s.joinMtcs k l).incs = s.incs := by
  unfold State.joinMtcs
  extract_lets names
  split <;> exact ⟨rfl, rfl, rfl⟩

theorem core_joinMtcs (s : State) (k : Nat) (l : Lane) (i : Nat) : (s.joinMtcs k l).core i = s.core i := by
  rw [State.core, (joinMtcs_leaves s k l).1]; rfl

theorem die_joinMtcs (s : State) (k : Nat) (l : Lane) (i : Nat) : (s.joinMtcs k l).die i = s.die i := by
  rw [State.die, (joinMtcs_leaves s k l).2.1]; rfl

/-- An acquire of everything leaves no copy in the caches that its scope names. -/
theorem purge_all (s : State) (c : Kv CacheLine) (asid : Nat) : purge s c asid .all = [] := by
  simp [purge, State.lineCovered]

theorem l1_acquired_all {scope : Nat} (h : scope ≠ 0) (t : State) (w : Who) : ((t.acquired w scope .all).core w.core).l1 = [] := by
  rw [State.acquired, core_joinMtcs]
  unfold acquireState
  extract_lets s0 s1
  have h1 : (s1.core w.core).l1 = [] := by
    rw [show s1 = _ from if_neg h, State.core_updCore]
    exact purge_all _ _ _
  split
  · exact h1
  · exact h1

theorem rdc_acquired_all {scope : Nat} (h : 3 ≤ scope) (t : State) (w : Who) :
    ((t.acquired w scope .all).die (dieOfCore w.core)).rdc = [] := by
  rw [State.acquired, die_joinMtcs, acquireState, if_neg (Nat.not_lt.mpr h), State.die_updDie]
  exact purge_all _ _ _

end Sys2Proof.Machine
end

section
/-! Proofs. FENCE, BIND, UNBIND, CINV and PRFG (O28). -/

namespace Sys2Proof.Machine

variable {s t u : State} {h : Hdr} {o : MemOps} {r : RegOps}

/-! ### FENCE (R122, R123, R329) -/

/-- With nothing of the core pending, a release only lands scratchpad writes; the acquire follows it. -/
theorem exec_fence_completes (ha : s.active h = true) (hn : NoneFirst s s.me.core) (o : MemOps) :
    ∃ u, Before s u ∧ exec (.fence h o) s = .next (if ordAcq o = true then u.acquired s.who o.scope.toNat .all else u) := by
  obtain ⟨u, hrel, hu⟩ : ∃ u, Runs s (if ordRel o = true then releaseOp s.who .all else pure ()) () u ∧ Before s u := by
    split
    · exact runs_releaseOp hn .all
    · exact ⟨s, rfl, .refl s⟩
  refine ⟨u, hu, ?_⟩
  change gateOp h s _ = _
  rw [gateOp_active ha]
  refine runOp_ok (hrel.ite_bind ?_)
  split <;> rfl

theorem fence_leaves (ha : s.active h = true) (hn : NoneFirst s s.me.core) (o : MemOps) :
    ∃ t, exec (.fence h o) s = .next t ∧ KeepsLanes s t
      ∧ (ordAcq o = true → o.scope ≠ 0 → (t.core s.me.core).l1 = [])
      ∧ (ordAcq o = true → o.scope = 3 → (t.die s.myDie).rdc = []) := by
  obtain ⟨u, hu, hexec⟩ := exec_fence_completes ha hn o
  by_cases hacq : ordAcq o = true
  · rw [if_pos hacq] at hexec
    refine ⟨_, hexec, hu.keepsLanes.trans (keepsLanes_acquired hu.cur _ _), fun _ hs => ?_, fun _ hs => ?_⟩
    · exact l1_acquired_all (fun h0 => hs (BitVec.eq_of_toNat_eq h0)) u s.who
    · exact rdc_acquired_all (by rw [hs]; decide) u s.who
  · rw [if_neg hacq] at hexec
    exact ⟨u, hexec, hu.keepsLanes, fun hyes => absurd hyes hacq, fun hyes => absurd hyes hacq⟩

/-! ### BIND and UNBIND (R330) -/

theorem rebind_none (s : State) (added : Bool) : rebind s added [] = s := rfl

theorem me_rebind_some (s : State) (added : Bool) (b : Binding) (bs : List Binding) : (rebind s added (b :: bs)).me =
    { s.me.updLane s.cur.lane (fun x => { x with joined := mtcKey s.me.mtcs :: x.joined }) with
      binds := if added then s.me.binds ++ b :: bs else s.me.binds.filter (fun x => !(b :: bs).contains x)
      mtcs := s.me.mtcs + 1
      rebinds := s.me.rebinds ++ [⟨added, b :: bs, s.me.mtcs⟩] } := by
  unfold rebind
  exact State.me_updMe _ _

theorem keepsLanes_rebind (s : State) (added : Bool) (bs : List Binding) : KeepsLanes s (rebind s added bs) := by
  cases bs with
  | nil => exact .refl s
  | cons b bs =>
    unfold rebind
    refine keepsLanes_updMe s (fun c => ?_) (fun c m => ?_)
    · have hregs := Ctx.SameRegs.updLane c s.cur.lane (fun x => { x with joined := mtcKey c.mtcs :: x.joined }) fun _ => rfl
      exact ⟨hregs.f, hregs.v, hregs.p, hregs.acc, hregs.ctrl, fun m => by cases m; exacts [hregs.s .L, hregs.s .C, hregs.s .S]⟩
    · have hpc := c.pc_updLane s.cur.lane (f := fun x => { x with joined := mtcKey c.mtcs :: x.joined }) fun _ => rfl
      cases m
      exacts [hpc .L, hpc .C, hpc .S]

theorem binds_rebind (s : State) (added : Bool) (bs : List Binding) : (rebind s added bs).me.binds
    = if added then s.me.binds ++ bs else s.me.binds.filter (fun x => !bs.contains x) := by
  cases bs with
  | nil => cases added <;> simp [rebind_none]
  | cons b bs => rw [me_rebind_some]

/-- The issuing lane comes after its own change of the bindings, and acts with it. -/
theorem bindsFor_rebind (hr : s.me.rebinds = []) (added : Bool) (bs : List Binding) (d : BitVec 6) (v : Word) :
    ((rebind s added bs).wrS d v 0).bindsFor s.cur.ctx s.cur.lane = (rebind s added bs).me.binds := by
  have hjoined (x : LaneSt) : (x.putS d.toNat v 0).joined = x.joined := by unfold LaneSt.putS; split <;> rfl
  have hcur : (rebind s added bs).cur = s.cur := (keepsLanes_rebind s added bs).cur
  have hme : ((rebind s added bs).wrS d v 0).ctx s.cur.ctx
      = (rebind s added bs).me.updLane s.cur.lane (fun x => x.putS d.toNat v 0) := by
    have := me_wrS (rebind s added bs) d v 0
    rw [hcur] at this
    rw [← this, State.me, State.wrS, State.updMyLane, State.updLane, State.updCtx_cur, hcur]
  simp only [State.bindsFor, hme, Ctx.lane_updLane, hjoined, Ctx.updLane_rebinds, Ctx.updLane_binds]
  cases bs with
  | nil => simp [rebind_none, hr, seenBinds]
  | cons b bs =>
    have hlane : ((rebind s added (b :: bs)).me.lane s.cur.lane).joined = mtcKey s.me.mtcs :: (s.me.lane s.cur.lane).joined := by
      rw [me_rebind_some]
      cases s.cur.lane <;> rfl
    have hrebinds : (rebind s added (b :: bs)).me.rebinds = [⟨added, b :: bs, s.me.mtcs⟩] := by rw [me_rebind_some]; simp [hr]
    rw [hlane, hrebinds]
    simp [seenBinds]

theorem exec_bind_full (ha : s.active h = true) (hfull : 32 ≤ s.me.binds.length) : exec (.bind h r) s = .next (s.wrS r.d 1 0) := by
  change execBind h r s = _
  rw [execBind, plain_active ha]
  exact congrArg _ (if_pos hfull)

theorem exec_bind_room (ha : s.active h = true) (hroom : s.me.binds.length < 32) :
    exec (.bind h r) s = .next (if regionOk (s.srcS 1 r.a).toNat (s.srcS 2 r.b).toNat = false then s.wrS r.d 2 0
      else (rebind s true [⟨s.srcS 1 r.a, (s.srcS 2 r.b).toNat, s.srcS 3 r.c, BitVec.ofNat 2 r.sub.toNat⟩]).wrS r.d 0 0) := by
  change execBind h r s = _
  rw [execBind, plain_active ha]
  refine congrArg _ ((if_neg (Nat.not_le.mpr hroom)).trans ?_)
  cases regionOk (s.srcS 1 r.a).toNat (s.srcS 2 r.b).toNat <;> rfl

/-- The bindings that an UNBIND names. -/
def State.unbound (s : State) (r : RegOps) : List Binding :=
  if r.sub.getLsbD 0 then s.me.binds else s.me.binds.filter (fun b => b.base == s.srcS 1 r.a && b.obj == s.srcS 3 r.c)

theorem exec_unbind (ha : s.active h = true) (r : RegOps) :
    exec (.unbind h r) s = .next ((rebind s false (s.unbound r)).wrS r.d (BitVec.ofNat 64 (s.unbound r).length) 0) := by
  change execUnbind h r s = _
  rw [execUnbind, plain_active ha]
  rfl

/-- What an UNBIND leaves of the bindings, and how many it has taken. -/
theorem filter_unbound (s : State) (r : RegOps) :
    let keep := if r.sub.getLsbD 0 then [] else s.me.binds.filter (fun b => !(b.base == s.srcS 1 r.a && b.obj == s.srcS 3 r.c))
    s.me.binds.filter (fun b => !(s.unbound r).contains b) = keep ∧ (s.unbound r).length = s.me.binds.length - keep.length := by
  unfold State.unbound
  split
  · exact ⟨List.filter_eq_nil_iff.mpr fun b hb => by simp [hb], rfl⟩
  · refine ⟨List.filter_congr fun b hb => ?_, ?_⟩
    · simp [List.mem_filter, hb, beq_eq_decide]
    · have := List.length_eq_length_filter_add (l := s.me.binds) (fun b => b.base == s.srcS 1 r.a && b.obj == s.srcS 3 r.c)
      omega

/-! ### CINV (R331) -/

theorem kvGet_filter_none {c : Kv CacheLine} {p : Nat × CacheLine → Bool} {k : Nat} (hp : ∀ x, p (k, x) = false) :
    kvGet (c.filter p) k = none := by
  induction c with
  | nil => rfl
  | cons e c ih =>
    obtain ⟨j, x⟩ := e
    rw [List.filter_cons]
    split
    · next hkeep =>
      have hne : j ≠ k := fun hj => by rw [hj, hp] at hkeep; exact Bool.false_ne_true hkeep
      rw [kvGet, if_neg hne, ih]
    · exact ih

theorem kvGet_filter_some {c : Kv CacheLine} {p : Nat × CacheLine → Bool} {k : Nat} {x : CacheLine} (hx : kvGet c k = some x)
    (hp : p (k, x) = true) : kvGet (c.filter p) k = some x := by
  induction c with
  | nil => exact absurd hx (by simp [kvGet])
  | cons e c ih =>
    obtain ⟨j, y⟩ := e
    rw [kvGet] at hx
    rw [List.filter_cons]
    by_cases hj : j = k
    · rw [if_pos hj, Option.some_inj] at hx
      subst hj hx
      rw [if_pos hp, kvGet, if_pos rfl]
    · rw [if_neg hj] at hx
      split
      · rw [kvGet, if_neg hj, ih hx]
      · exact ih hx

/-- Levels of tables, each of which spans what an entry of the one above spans; the first spans 2^n bytes (R380). -/
def Nested : Nat → List (Nat × Nat × Nat × Nat) → Prop
  | _, [] => True
  | n, l :: lvls => l.1 + l.2.1 = n ∧ (l.2.2.1 = 0 ∨ l.2.2.1 = 2 ^ l.1) ∧ Nested l.1 lvls

theorem nested_walkLevels : Nested 56 walkLevels := ⟨rfl, .inl rfl, rfl, .inr rfl, rfl, .inr rfl, rfl, .inr rfl, trivial⟩

/-- A table entry leads nowhere, to a table, or to a page, whatever the address that is looked up. -/
theorem walkEntry_cases (e : Nat) (l : Nat × Nat × Nat × Nat) :
    (∃ f, ∀ die asid gen va, walkEntry die asid gen va e l = .error f)
    ∨ (∃ next, ∀ die asid gen va, walkEntry die asid gen va e l = .ok (.inl next))
    ∨ l.2.2.1 ≠ 0 ∧ ∃ addr, ∀ die asid gen va, ∃ x, walkEntry die asid gen va e l = .ok (.inr x) ∧ x.pa = addr
        ∧ x.va = va / l.2.2.1 * l.2.2.1 := by
  unfold walkEntry
  by_cases hvalid : bits e 0 1 = 0
  · exact .inl ⟨.absent, fun _ _ _ _ => if_pos hvalid⟩
  by_cases hleaf : bits e 1 1 = 1
  · by_cases hpage : l.2.2.1 = 0 ∨ bits e 8 40 * 256 % l.2.2.1 ≠ 0
    · exact .inl ⟨.prot, fun _ _ _ _ => by simp only [hvalid, hleaf, hpage, if_true, if_false]⟩
    · exact .inr (.inr ⟨fun h0 => hpage (.inl h0), bits e 8 40 * 256, fun die asid gen va =>
        ⟨_, by simp only [hvalid, hleaf, hpage, if_true, if_false]; rfl, rfl, rfl⟩⟩)
  · by_cases hnext : l.2.2.2 = 0 ∨ bits e 8 40 * 256 % l.2.2.2 ≠ 0
    · exact .inl ⟨.prot, fun _ _ _ _ => by simp only [hvalid, hleaf, hnext, if_true, if_false]⟩
    · exact .inr (.inl ⟨_, fun _ _ _ _ => by simp only [hvalid, hleaf, hnext, if_false]; rfl⟩)

/-- The index of an address at a level, and its offset in what an entry of the level spans. -/
theorem index_of_offset {base a w i y : Nat} (hb : base % 2 ^ (a + w) = 0) (hi : i < 2 ^ w) (hy : y < 2 ^ a) :
    bits (base + (i * 2 ^ a + y)) a w = i ∧ (base + (i * 2 ^ a + y)) % 2 ^ a = y ∧ (base + i * 2 ^ a) % 2 ^ a = 0 := by
  obtain ⟨q, rfl⟩ := Nat.dvd_of_mod_eq_zero hb
  have hsum : 2 ^ (a + w) * q + (i * 2 ^ a + y) = 2 ^ a * (2 ^ w * q + i) + y := by rw [pow_add]; ring
  have hstart : 2 ^ (a + w) * q + i * 2 ^ a = 2 ^ a * (2 ^ w * q + i) := by rw [pow_add]; ring
  refine ⟨?_, ?_, ?_⟩
  · rw [bits, hsum, Nat.mul_add_div (Nat.two_pow_pos a), Nat.div_eq_of_lt hy, Nat.add_zero, Nat.mul_add_mod, Nat.mod_eq_of_lt hi]
  · rw [hsum, Nat.mul_add_mod, Nat.mod_eq_of_lt hy]
  · rw [hstart, Nat.mul_mod_right]

/-- The line of 64 bytes at `p` holds what an entry gives for an address. -/
def TlbEnt.inLine (e : TlbEnt) (va p : Nat) : Prop := p ≤ e.pa + (va - e.va) ∧ e.pa + (va - e.va) < p + 64

/-- The part of a table that spans some offsets maps a byte of a line where a walk for one of the offsets leads there. -/
theorem mapsTo_iff (s : State) (p die asid gen : Nat) {lvls : List (Nat × Nat × Nat × Nat)} {n t lo hi base : Nat} (hn : Nested n lvls)
    (hb : base % 2 ^ n = 0) (hlt : lo < hi) (hhi : hi ≤ 2 ^ n) : s.mapsTo p t lo hi lvls = true
      ↔ ∃ x e, lo ≤ x ∧ x < hi ∧ s.walkFrom die asid gen (base + x) t lvls = .ok e ∧ e.inLine (base + x) p := by
  induction lvls generalizing n t lo hi base with
  | nil => simp [State.mapsTo, State.walkFrom]
  | cons l lvls ih =>
    obtain ⟨hw, hpage, hrest⟩ := hn
    subst hw
    have hspan : 0 < 2 ^ l.1 := Nat.two_pow_pos _
    -- the part of the entry `i` that spans some of the offsets
    have hpart (i : Nat) (h1 : lo / 2 ^ l.1 ≤ i) (h2 : i ≤ (hi - 1) / 2 ^ l.1) :
        i * 2 ^ l.1 < hi ∧ lo < i * 2 ^ l.1 + 2 ^ l.1 ∧ i < 2 ^ l.2.1 := by
      have hlo := (Nat.div_lt_iff_lt_mul hspan).mp (Nat.lt_succ_of_le h1)
      have hle := (Nat.le_div_iff_mul_le hspan).mp h2
      rw [Nat.succ_mul] at hlo
      refine ⟨by omega, hlo, ?_⟩
      rw [pow_add, Nat.mul_comm] at hhi
      exact Nat.lt_of_mul_lt_mul_right (a := 2 ^ l.1) (by omega)
    have hleafva (va : Nat) (hp0 : l.2.2.1 ≠ 0) : va - va / l.2.2.1 * l.2.2.1 = va % 2 ^ l.1 := by
      rw [hpage.resolve_left hp0]
      have := Nat.div_add_mod' va (2 ^ l.1)
      omega
    rw [State.mapsTo]
    dsimp only
    rw [List.any_eq_true]
    constructor
    · rintro ⟨j, hj, hm⟩
      rw [List.mem_range] at hj
      generalize hi' : lo / 2 ^ l.1 + j = i at hm
      obtain ⟨hin, hlo, hiw⟩ := hpart i (by omega) (by omega)
      rw [Nat.succ_mul i] at hm
      have hlook (y : Nat) (hy : y < 2 ^ l.1) : bits (base + (i * 2 ^ l.1 + y)) l.1 l.2.1 = i := (index_of_offset hb hiw hy).1
      have hsub : (base + i * 2 ^ l.1) % 2 ^ l.1 = 0 := (index_of_offset hb hiw hspan).2.2
      rcases walkEntry_cases (s.readNat (t + 8 * i) 8) l with ⟨f, hw⟩ | ⟨next, hw⟩ | ⟨hp0, addr, hw⟩
      · rw [hw] at hm
        exact absurd hm Bool.false_ne_true
      · rw [hw] at hm
        obtain ⟨y, e, hy1, hy2, hwalk, hline⟩ := (ih hrest hsub (by omega) (by omega)).mp hm
        rw [Nat.add_assoc] at hwalk hline
        refine ⟨i * 2 ^ l.1 + y, e, by omega, by omega, ?_, hline⟩
        rw [State.walkFrom, hlook y (by omega), hw]
        exact hwalk
      · obtain ⟨x0, hx0, hpa0, -⟩ := hw 0 0 0 0
        rw [hx0] at hm
        simp only [hpa0, Bool.and_eq_true, decide_eq_true_eq] at hm
        generalize hy : max (max lo (i * 2 ^ l.1) - i * 2 ^ l.1) (p - addr) = y
        have hyspan : y < 2 ^ l.1 := by omega
        obtain ⟨e, he, hpa, hva⟩ := hw die asid gen (base + (i * 2 ^ l.1 + y))
        refine ⟨i * 2 ^ l.1 + y, e, by omega, by omega, ?_, ?_⟩
        · rw [State.walkFrom, hlook y hyspan, he]
        · rw [TlbEnt.inLine, hpa, hva, hleafva _ hp0, (index_of_offset hb hiw hyspan).2.1]
          omega
    · rintro ⟨x, e, hlox, hxhi, hwalk, hline⟩
      generalize hi' : x / 2 ^ l.1 = i at *
      have h1 : lo / 2 ^ l.1 ≤ i := hi' ▸ Nat.div_le_div_right hlox
      have h2 : i ≤ (hi - 1) / 2 ^ l.1 := hi' ▸ Nat.div_le_div_right (by omega)
      obtain ⟨hin, hlo, hiw⟩ := hpart i h1 h2
      obtain ⟨y, hy, rfl⟩ : ∃ y, y < 2 ^ l.1 ∧ x = i * 2 ^ l.1 + y :=
        ⟨x % 2 ^ l.1, Nat.mod_lt _ hspan, by rw [← hi']; exact (Nat.div_add_mod' x _).symm⟩
      obtain ⟨hlook, hoff, hsub⟩ := index_of_offset hb hiw hy
      refine ⟨i - lo / 2 ^ l.1, List.mem_range.mpr (by omega), ?_⟩
      rw [show lo / 2 ^ l.1 + (i - lo / 2 ^ l.1) = i by omega, Nat.succ_mul i]
      rw [State.walkFrom, hlook] at hwalk
      rcases walkEntry_cases (s.readNat (t + 8 * i) 8) l with ⟨f, hw⟩ | ⟨next, hw⟩ | ⟨hp0, addr, hw⟩
      · rw [hw] at hwalk
        exact absurd hwalk (by simp)
      · rw [hw] at hwalk ⊢
        rw [← Nat.add_assoc] at hwalk hline
        exact (ih hrest hsub (by omega) (by omega)).mpr ⟨y, e, by omega, by omega, hwalk, hline⟩
      · obtain ⟨x0, hx0, hpa0, -⟩ := hw 0 0 0 0
        obtain ⟨e', he', hpa, hva⟩ := hw die asid gen (base + (i * 2 ^ l.1 + y))
        rw [he'] at hwalk
        obtain rfl : e' = e := by simpa using hwalk
        rw [TlbEnt.inLine, hpa, hva, hleafva _ hp0, hoff] at hline
        rw [hx0]
        simp only [hpa0, Bool.and_eq_true, decide_eq_true_eq]
        omega

/-- An address of a range is one of the device half, and its table entries lead to a line. -/
def State.namesLine (s : State) (asid from_ n line : Nat) : Prop :=
  ∃ a e, from_ ≤ a ∧ a < from_ + n ∧ 2 ^ 56 ≤ a ∧ a < 2 ^ 57 ∧ s.walk asid a = .ok e ∧ (e.pa + (a - e.va)) / 64 = line

theorem TlbEnt.inLine_iff (e : TlbEnt) (va line : Nat) : e.inLine va (64 * line) ↔ (e.pa + (va - e.va)) / 64 = line := by
  rw [TlbEnt.inLine]
  omega

/-- An address that two ranges share, and its offset from the start `k` of the second. -/
theorem offset_in_both {a from_ n k m : Nat} (h1 : from_ ≤ a) (h2 : a < from_ + n) (h3 : k ≤ a) (h4 : a < m) :
    max from_ k - k ≤ a - k ∧ a - k < min (from_ + n) m - k := by
  omega

/-- The tables name a line for a range of addresses where they map a byte of it for one of them. -/
theorem namesLine_iff (s : State) (asid from_ n line : Nat) : s.namesLine asid from_ n line ↔ ∃ t, s.rootOf asid = some t
    ∧ max from_ (2 ^ 56) - 2 ^ 56 < min (from_ + n) (2 ^ 57) - 2 ^ 56
    ∧ s.mapsTo (64 * line) t (max from_ (2 ^ 56) - 2 ^ 56) (min (from_ + n) (2 ^ 57) - 2 ^ 56) walkLevels = true := by
  have hmaps {t : Nat} (hlt : max from_ (2 ^ 56) - 2 ^ 56 < min (from_ + n) (2 ^ 57) - 2 ^ 56) :=
    mapsTo_iff s (64 * line) 0 asid (s.asidGen asid) (t := t) (base := 2 ^ 56) nested_walkLevels (by norm_num) hlt (by omega)
  constructor
  · rintro ⟨a, e, h1, h2, h3, h4, hwalk, hline⟩
    rw [State.walk] at hwalk
    split at hwalk
    · exact absurd hwalk (by simp)
    · next t ht =>
      obtain ⟨hlo, hhi⟩ := offset_in_both h1 h2 h3 h4
      have hlt := Nat.lt_of_le_of_lt hlo hhi
      refine ⟨t, ht, hlt, (hmaps hlt).mpr ⟨a - 2 ^ 56, e, hlo, hhi, ?_⟩⟩
      rw [show 2 ^ 56 + (a - 2 ^ 56) = a by omega]
      exact ⟨hwalk, (e.inLine_iff a line).mpr hline⟩
  · rintro ⟨t, ht, hlt, hm⟩
    obtain ⟨x, e, h1, h2, hwalk, hline⟩ := (hmaps hlt).mp hm
    refine ⟨2 ^ 56 + x, e, by omega, by omega, by omega, by omega, ?_, (e.inLine_iff _ line).mp hline⟩
    rw [State.walk, ht]
    exact hwalk

theorem lineNamed_of_namesLine {asid from_ n line : Nat} (hn : s.namesLine asid from_ n line) (x : CacheLine) :
    s.lineNamed asid from_ n line x = true := by
  obtain ⟨t, ht, hlt, hm⟩ := (namesLine_iff s asid from_ n line).mp hn
  simp only [State.lineNamed, ht, if_pos hlt, hm, Bool.or_true]

/-- A copy that was filled through no address of the host half is named by the tables alone, for a range of the device half. -/
theorem not_lineNamed {asid from_ n line : Nat} (hdev : 2 ^ 56 ≤ from_) {x : CacheLine} (hx : x.vas = [])
    (hno : ¬ s.namesLine asid from_ n line) : s.lineNamed asid from_ n line x = false := by
  have hhost : s.hostNamed asid from_ n line = false := by
    rw [State.hostNamed, decide_eq_false (Nat.not_lt.mpr hdev), Bool.false_and]
  simp only [State.lineNamed, hx, List.any_nil, hhost, Bool.or_false, Bool.false_or]
  split
  · rfl
  · next t ht =>
    split
    · next hlt =>
      rw [Bool.eq_false_iff]
      exact fun hm => hno ((namesLine_iff s asid from_ n line).mpr ⟨t, ht, hlt, hm⟩)
    · rfl

/-- The copies that a CINV of a range leaves of a cache. -/
def State.cutCopies (s : State) (base : Word) (len : Nat) (c : Kv CacheLine) : Kv CacheLine :=
  if len = 0 then c else purge s c s.me.ctrl.asid.toNat (.obj [⟨base, len, 0, 0⟩] 0)

theorem lineCovered_range (s : State) (asid : Nat) (base : Word) (len line : Nat) (x : CacheLine) :
    s.lineCovered asid (.obj [⟨base, len, 0, 0⟩] 0) line x = s.lineNamed asid base.toNat len line x := by
  simp [State.lineCovered]

/-- The copies of the lines that the tables name for the range go; of the copies that stay, none is new; a copy that no
address of the range can name stays. -/
theorem cutCopies_cuts (s : State) (base : Word) (len : Nat) (was : Kv CacheLine) :
    (∀ line, s.namesLine s.me.ctrl.asid.toNat base.toNat len line → copyFor (s.cutCopies base len was) line = none)
      ∧ (∀ x ∈ s.cutCopies base len was, x ∈ was) ∧ (len = 0 → s.cutCopies base len was = was)
      ∧ (2 ^ 56 ≤ base.toNat → ∀ line c, kvGet was line = some c → c.vas = [] →
          ¬ s.namesLine s.me.ctrl.asid.toNat base.toNat len line → kvGet (s.cutCopies base len was) line = some c) := by
  unfold State.cutCopies
  split
  · next h0 =>
    refine ⟨fun line hn => ?_, fun _ hx => hx, fun _ => rfl, fun _ _ _ hc _ _ => hc⟩
    obtain ⟨a, _, h1, h2, -⟩ := hn
    omega
  · next h0 =>
    refine ⟨fun line hn => ?_, fun _ hx => List.mem_of_mem_filter hx, fun h => absurd h h0, fun hdev line c hc hvas hno => ?_⟩
    · rw [copyFor, purge, kvGet_filter_none fun x => ?_]
      · rfl
      · rw [lineCovered_range, lineNamed_of_namesLine hn, Bool.not_true]
    · exact kvGet_filter_some hc (by rw [lineCovered_range, not_lineNamed hdev hvas hno]; rfl)

/-- What a CINV does, by its size field: the lines of a range go from the L1, or from the die's cache too; the whole L1
goes, or both whole (R331). -/
def State.invalidated (s : State) (base : Word) (len : Nat) : Nat → State
  | 0 => s.updCore s.myCore (fun c => { c with l1 := s.cutCopies base len c.l1 })
  | 1 => (s.updCore s.myCore (fun c => { c with l1 := s.cutCopies base len c.l1 })).updDie s.myDie
      (fun d => { d with rdc := s.cutCopies base len d.rdc })
  | 2 => s.updCore s.myCore (fun c => { c with l1 := [] })
  | _ => (s.updCore s.myCore (fun c => { c with l1 := [] })).updDie s.myDie (fun d => { d with rdc := [] })

theorem exec_cinv (ha : s.active h = true) (o : MemOps) : exec (.cinv h o) s
    = .next (s.invalidated (s.srcS 1 o.base + offWord o.off) (s.srcS 2 o.idx).toNat o.sz.toNat) := by
  change execCinv h o s = _
  rw [execCinv, plain_active ha]
  rfl

theorem keepsLanes_invalidated (s : State) (base : Word) (len : Nat) : (n : Nat) → KeepsLanes s (s.invalidated base len n)
  | 0 | 2 => by unfold State.invalidated; exact keepsLanes_updCore s _ _
  | 1 | _ + 3 => by unfold State.invalidated; exact (keepsLanes_updCore s _ _).trans (keepsLanes_updDie _ _ _)

theorem l1_invalidated (s : State) (base : Word) (len : Nat) : (n : Nat) → ((s.invalidated base len n).core s.me.core).l1
    = if n < 2 then s.cutCopies base len (s.core s.me.core).l1 else []
  | 0 | 2 => by unfold State.invalidated; exact congrArg CoreSt.l1 (s.core_updCore _ _)
  | 1 => congrArg CoreSt.l1 (s.core_updCore s.myCore fun c => { c with l1 := s.cutCopies base len c.l1 })
  | n + 3 => by
    rw [if_neg (by omega)]
    exact congrArg CoreSt.l1 (s.core_updCore s.myCore fun c => { c with l1 := [] })

theorem rdc_invalidated (s : State) (base : Word) (len : Nat) : (n : Nat) → ((s.invalidated base len n).die s.myDie).rdc
    = if n = 1 then s.cutCopies base len (s.die s.myDie).rdc else if n < 3 then (s.die s.myDie).rdc else []
  | 0 | 2 => rfl
  | 1 => congrArg Die.rdc (State.die_updDie _ _ _)
  | n + 3 => by
    unfold State.invalidated
    rw [if_neg (by omega), if_neg (by omega)]
    exact congrArg Die.rdc (State.die_updDie _ _ _)

/-! ### PRFG (R281) -/

theorem onlyTranslations_fillLine (cap : Nat) (c : Kv CacheLine) (line : Nat) (data : BitVec 512) (tag : Nat × Nat) (s : State) :
    OnlyTranslations s (fillLine cap c line data tag s).2 := by
  unfold fillLine
  extract_lets tags
  split
  · exact .refl s
  · exact onlyTranslations_replaceOne cap 7 c s

theorem keepsLanes_fillL1 (s : State) (core line : Nat) (data : BitVec 512) (tag : Nat × Nat) :
    KeepsLanes s (fillL1 s core line data tag) := by
  unfold fillL1
  exact (onlyTranslations_fillLine 2048 (s.core core).l1 line data tag s).keepsLanes.trans (keepsLanes_updCore _ _ _)

theorem keepsLanes_fillRdc (s : State) (die line : Nat) (data : BitVec 512) (tag : Nat × Nat) :
    KeepsLanes s (fillRdc s die line data tag) := by
  unfold fillRdc
  exact (onlyTranslations_fillLine 262144 (s.die die).rdc line data tag s).keepsLanes.trans (keepsLanes_updDie _ _ _)

theorem keepsLanes_prefetchLine (w : Who) (l1 : Bool) (s : State) (va : Nat) : KeepsLanes s (prefetchLine w l1 s va) := by
  have ht := (onlyTranslations_translate s (dieOfCore w.core) w.asid w.priv false va).keepsLanes
  unfold prefetchLine
  extract_lets die tag
  generalize s.translate die w.asid w.priv false va = p at ht
  obtain ⟨x, t⟩ := p
  cases x with
  | error f => exact .refl s
  | ok x =>
    dsimp only at ht ⊢
    split
    · exact ht
    · generalize (if homeOf x.loc = die then none else copyFor (t.die die).rdc (x.loc / 64)).getD (t.homeLine (x.loc / 64)) = d
      have h1 : KeepsLanes s (if homeOf x.loc = die ∨ (copyFor (t.die die).rdc (x.loc / 64)).isSome = true then t
          else fillRdc t die (x.loc / 64) d tag) := by
        split
        · exact ht
        · exact ht.trans (keepsLanes_fillRdc _ _ _ _ _)
      generalize (if homeOf x.loc = die ∨ (copyFor (t.die die).rdc (x.loc / 64)).isSome = true then t
          else fillRdc t die (x.loc / 64) d tag) = t1 at h1
      split
      · exact h1.trans (keepsLanes_fillL1 _ _ _ _ _)
      · exact h1

theorem exec_prfg (ha : s.active h = true) (o : MemOps) : ∃ t, exec (.prfg h o) s = .next t ∧ KeepsLanes s t :=
  ⟨_, by change execPrfg h o s = _; rw [execPrfg, plain_active ha],
    keepsLanes_foldl (fun t va => keepsLanes_prefetchLine s.who (o.sz == 0) t va) _ s⟩

/-! ### The statement -/

/-- Settles O28: a FENCE with nothing pending only lands scratchpad writes and empties the caches of its scope; a lane comes
after its own change of the bindings; the walk that CINV makes over the tables finds the lines that walks of the range's
addresses find. -/
theorem fencesBindingsInvalidation : Obligations.FencesBindingsInvalidation := by
  intro h o r s ha base len obj binds keep rebound l1 rdc from_ n names cut
  have hcopy {c : Kv CacheLine} (hc : c = []) (line : Nat) : copyFor c line = none := by rw [hc]; rfl
  have hrebound {i : Instr} {added : Bool} {bs : List Binding} {v : Word} (hexec : exec i s = .next ((rebind s added bs).wrS r.d v 0)) :
      rebound i (if added then binds ++ bs else binds.filter (fun b => !bs.contains b)) v := by
    obtain ⟨hwrote, hbytes, hfiles, hpc⟩ := (keepsLanes_rebind s added bs).wrote r.d v 0
    have hbinds : ((rebind s added bs).wrS r.d v 0).me.binds = (rebind s added bs).me.binds := by rw [me_wrS, Ctx.updLane_binds]
    exact ⟨_, hexec, hwrote, hbinds.trans (binds_rebind s added bs), hbytes, hfiles, hpc,
      fun hr => (bindsFor_rebind hr added bs r.d v).trans (binds_rebind s added bs)⟩
  refine ⟨fun hn => ?_, exec_bind_full ha, fun hroom hbad => ?_, fun hroom h1 h2 h3 => ?_, ?_, ?_, ?_⟩
  · obtain ⟨t, hexec, hkeeps, hl1, hrdc⟩ := fence_leaves (h := h) ha hn o
    exact ⟨t, hexec, hkeeps.bytes, hkeeps.lanes, hkeeps.files, fun hacq hscope => hcopy (hl1 hacq hscope),
      fun hacq hscope => hcopy (hrdc hacq hscope)⟩
  · have hregion : regionOk base.toNat len = false := by
      rw [Bool.eq_false_iff]
      exact fun hok => hbad (by simpa [regionOk, and_assoc] using hok)
    rw [exec_bind_room ha hroom, if_pos hregion]
  · have hregion : regionOk base.toNat len = true := by
      simp only [regionOk, Bool.and_eq_true, decide_eq_true_eq]
      exact ⟨⟨h1, h2⟩, h3⟩
    refine hrebound (added := true) ?_
    rw [exec_bind_room ha hroom, if_neg (Bool.not_eq_false _ ▸ hregion)]
  · obtain ⟨hkeep, hcount⟩ := filter_unbound s r
    have hun := hrebound (exec_unbind (h := h) ha r)
    rw [if_neg Bool.false_ne_true, hkeep, hcount] at hun
    exact hun
  · have hkeeps := keepsLanes_invalidated s (s.srcS 1 o.base + offWord o.off) n o.sz.toNat
    refine ⟨_, exec_cinv ha o, hkeeps.bytes, hkeeps.lanes, hkeeps.files, fun hsz => ?_, fun hsz => ?_, fun hsz => ?_, fun hsz => ?_,
      fun hsz => ?_⟩
    · exact (l1_invalidated ..).trans (if_neg (by omega))
    · exact (rdc_invalidated ..).trans ((if_neg (by omega)).trans (if_neg (by omega)))
    · have hl1 := (l1_invalidated s (s.srcS 1 o.base + offWord o.off) n o.sz.toNat).trans (if_pos hsz)
      change cut (l1 s) (((s.invalidated _ _ _).core s.me.core).l1)
      rw [hl1]
      exact cutCopies_cuts s _ _ _
    · have hrdc := (rdc_invalidated s (s.srcS 1 o.base + offWord o.off) n o.sz.toNat).trans (if_pos hsz)
      change cut (rdc s) (((s.invalidated _ _ _).die s.myDie).rdc)
      rw [hrdc]
      exact cutCopies_cuts s _ _ _
    · exact (rdc_invalidated ..).trans ((if_neg (by omega)).trans (if_pos (by omega)))
  · obtain ⟨t, hexec, hkeeps⟩ := exec_prfg (h := h) ha o
    exact ⟨t, hexec, hkeeps.bytes, hkeeps.lanes, hkeeps.files⟩

end Sys2Proof.Machine
end

section
/-! Proofs. WAITC, TESTC, CSET and EDEP (O32). -/

namespace Sys2Proof.Machine

variable {s t u : State} {h : Hdr} {o : RegOps}

/-! ### Lists of names -/

theorem mem_distinct_of_mem {x : Nat} {xs : List Nat} (hx : x ∈ xs) : x ∈ distinct xs := by
  have hfold (xs l : List Nat) (h : x ∈ xs ∨ x ∈ l) : x ∈ xs.foldl (fun l y => if l.contains y then l else y :: l) l := by
    induction xs generalizing l with
    | nil => exact h.resolve_left List.not_mem_nil
    | cons y ys ih =>
      refine ih _ ?_
      rcases h with h | h
      · rcases List.mem_cons.mp h with rfl | h
        · refine .inr ?_
          dsimp only
          split
          · next hl => exact List.contains_iff_mem.mp hl
          · exact List.mem_cons_self
        · exact .inl h
      · refine .inr ?_
        dsimp only
        split
        · exact h
        · exact List.mem_cons_of_mem _ h
  exact List.mem_reverse.mpr (hfold xs [] (.inl hx))

/-! ### A counter's home (R106, R111, R311) -/

/-- What an operation of a lane at a counter's home leaves beside the counter. -/
structure AtHome (s t : State) : Prop where
  keeps : KeepsLanes s t
  incs : t.incs = s.incs
  joined : t.myLane.joined = s.myLane.joined

theorem AtHome.refl (s : State) : AtHome s s := ⟨.refl s, rfl, rfl⟩

theorem AtHome.trans (h : AtHome s t) (g : AtHome t u) : AtHome s u :=
  ⟨h.keeps.trans g.keeps, g.incs.trans h.incs, g.joined.trans h.joined⟩

theorem atHome_of_eq (hm : t.mem = s.mem) (hw : t.wlog = s.wlog) (hx : t.ctxs = s.ctxs) (hc : t.cur = s.cur)
    (hi : t.incs = s.incs) : AtHome s t := by
  refine ⟨keepsLanes_of_eq hm hw hx hc, hi, ?_⟩
  rw [State.myLane, State.me, State.ctx, hx, hc]
  rfl

theorem atHome_countAccess (s : State) (w : Who) (x : Xlat) : AtHome s (countAccess s w x) := by
  unfold countAccess
  extract_lets die
  split
  · exact atHome_of_eq rfl rfl rfl rfl rfl
  · exact .refl s

theorem atHome_dropLine (s : State) (core line : Nat) : AtHome s (dropLine s core line) := atHome_of_eq rfl rfl rfl rfl rfl

theorem atHome_updMyLane (s : State) {f : LaneSt → LaneSt} (hs : ∀ x, (f x).s = x.s) (hpc : ∀ x, (f x).pc = x.pc)
    (hj : ∀ x, (f x).joined = x.joined) : AtHome s (s.updMyLane f) :=
  ⟨keepsLanes_updMyLane s hs hpc, rfl, (congrArg LaneSt.joined (State.myLane_updMyLane s f)).trans (hj _)⟩

theorem atHome_seeHome {w : Who} (hk : w.ctx = s.cur.ctx) (hl : w.lane = s.cur.lane) (loc : Nat) : AtHome s (seeHome s w loc) := by
  unfold seeHome
  extract_lets line data differs
  split
  · rw [hk, hl]
    exact atHome_updMyLane s (fun _ => rfl) (fun _ => rfl) fun _ => rfl
  · exact .refl s

/-- The state that an operation at a counter's home leaves. -/
def State.leftHome (s : State) : Option Xlat → State
  | some x => seeHome (dropLine (countAccess s s.who x) s.who.core (x.loc / 64)) s.who x.loc
  | none => s

theorem runs_leaveCounter (s : State) (p : Nat × Option Xlat) : Runs s (leaveCounter p) () (s.leftHome p.2) := by
  obtain ⟨loc, _ | x⟩ := p <;> rfl

theorem atHome_leftHome (s : State) (x : Option Xlat) : AtHome s (s.leftHome x) := by
  cases x with
  | none => exact .refl s
  | some x =>
    have hcount := atHome_countAccess s s.who x
    have hdrop := hcount.trans (atHome_dropLine _ s.who.core (x.loc / 64))
    have hcur := hdrop.keeps.cur
    exact hdrop.trans (atHome_seeHome (congrArg Issue.ctx hcur).symm (congrArg Issue.lane hcur).symm x.loc)

theorem map_byteAt_range (s : State) (a n : Nat) : ((List.range n).map (a + ·)).map s.byteAt = s.readBytes a n := by
  induction n generalizing a with
  | zero => rfl
  | succ n ih =>
    rw [List.range_succ_eq_map, State.readBytes, ← ih (a + 1)]
    simp [Function.comp_def, Nat.add_comm, Nat.add_left_comm]

theorem runs_homeRead_clean {core loc n : Nat} (hn : NoneFirst s core) (hp : s.poisoned ((List.range n).map (loc + ·)) = none) :
    Runs s (homeRead core loc n) (s.readBytes loc n) s := by
  refine Runs.bind (run_drainFor_none hn loc n) (Runs.bind (run_get s) ?_)
  rw [hp]
  rfl

/-- A counter that can be reached has a place, in a scratchpad or through a translation. -/
theorem runs_counterPlace {sp write : Bool} {a loc : Nat} (hc : CounterAt s sp write a loc) :
    ∃ x, Runs s (counterPlace sp a write) (loc, x) s ∧ (sp = true → x = none)
      ∧ (sp = false → ∃ y, x = some y ∧ y.loc = loc ∧ y.host = false) := by
  obtain ⟨halign, -, hplace⟩ := hc
  cases sp with
  | true =>
    obtain ⟨hspan, -, hboard⟩ := (if_pos rfl).mp hplace
    refine ⟨none, Runs.bind (run_get s) ?_, fun _ => rfl, fun h => absurd h (by decide)⟩
    rw [if_pos rfl, if_neg (not_not.mpr halign)]
    exact Runs.bind (run_laneSpan_ok hspan (by simpa using hboard)) rfl
  | false =>
    obtain ⟨-, x, hx, hloc, hmg, hhost⟩ := (if_neg Bool.false_ne_true).mp hplace
    refine ⟨some x, Runs.bind (run_get s) ?_, fun h => absurd h (by decide), fun _ => ⟨x, rfl, hloc, hhost⟩⟩
    rw [if_neg Bool.false_ne_true, if_neg (not_not.mpr halign)]
    refine Runs.bind (run_xlat_ok hx) ?_
    rw [hmg, Bool.and_false, if_neg Bool.false_ne_true, hloc]
    rfl

/-- The counter is found and read, and every byte and register and what the lane has joined stay. -/
theorem runs_counterRead {sp : Bool} {a loc : Nat} (hc : CounterAt s sp false a loc) (wait : Bool) :
    ∃ x u, Runs s (counterPlace sp a false) (loc, x) s ∧ Runs s (counterRead wait a (loc, x)) (s.readNat loc 8) u ∧ AtHome s u := by
  obtain ⟨x, hplace, hspad, hmem⟩ := runs_counterPlace hc
  obtain ⟨-, hpoison, hreach⟩ := hc
  cases sp with
  | true =>
    obtain ⟨-, hpending, -⟩ := (if_pos rfl).mp hreach
    obtain rfl := hspad rfl
    refine ⟨none, s, hplace, Runs.bind (run_get s) (Runs.bind (run_spadReadBy_ok hpoison hpending 8) ?_), .refl s⟩
    rw [map_byteAt_range]
    rfl
  | false =>
    obtain ⟨hn, -⟩ := (if_neg Bool.false_ne_true).mp hreach
    obtain ⟨y, rfl, hloc, hhost⟩ := hmem rfl
    refine ⟨some y, _, hplace, Runs.bind (run_get s) ?_, atHome_leftHome s (some y)⟩
    dsimp only
    rw [hhost, Bool.and_false, if_neg Bool.false_ne_true, hloc]
    exact (runs_homeRead_clean hn hpoison).bind ((runs_leaveCounter s (loc, some y)).bind rfl)

/-! ### The join (R120, R131) -/

/-- The commands of the issuing context whose increments of a counter have been recorded. -/
def State.countedNames (s : State) (loc : Nat) : List Nat :=
  (s.incs.filter (fun i => i.loc == loc)).filterMap
    (fun i => if i.ctx = s.cur.ctx then i.name.map (fun n => cmdKey n.1 n.2) else none)

theorem mem_countedNames {i : CtrInc} {l : Lane} {n : BitVec 16} {loc : Nat} (hi : i ∈ s.incs) (hloc : i.loc = loc)
    (hctx : i.ctx = s.cur.ctx) (hname : i.name = some (l, n)) : cmdKey l n ∈ s.countedNames loc :=
  List.mem_filterMap.mpr ⟨i, List.mem_filter.mpr ⟨hi, beq_iff_eq.mpr hloc⟩, by rw [if_pos hctx, hname]; rfl⟩

theorem keepsLanes_dropLines (core : Nat) (ls : List Nat) (s : State) :
    KeepsLanes s (ls.foldl (fun u l => dropLine u core l) s) :=
  keepsLanes_foldl (fun u l => (atHome_dropLine u core l).keeps) ls s

theorem keepsLanes_removeLines (s : State) (core : Nat) (ls : List Nat) : KeepsLanes s (removeLines s core ls) :=
  keepsLanes_foldl (fun u _ => (keepsLanes_updCore u core _).trans (keepsLanes_updDie _ _ _)) ls s

/-- A join changes what the lane has joined, and caches. -/
theorem joinCounter_eq (s : State) (loc : Nat) : ∃ u, KeepsLanes s u ∧
    joinCounter s loc = u.updMyLane (fun x => { x with joined := distinct (s.countedNames loc ++ x.joined) }) := by
  unfold joinCounter
  extract_lets is names s0 s1
  have h0 : KeepsLanes s s0 := keepsLanes_foldl (fun t (i : CtrInc) => keepsLanes_dropLines s.myCore i.before t) _ s
  have h1 : KeepsLanes s s1 := (h0.trans (keepsLanes_removeLines s0 _ _)).trans
    (keepsLanes_foldl (fun t (i : CtrInc) => keepsLanes_dropLines (t.ctx i.ctx).core i.lines t) _ _)
  exact ⟨_, h1.trans (keepsLanes_updCore s1 _ _), rfl⟩

theorem keepsLanes_joinCounter (s : State) (loc : Nat) : KeepsLanes s (joinCounter s loc) := by
  obtain ⟨u, hu, heq⟩ := joinCounter_eq s loc
  rw [heq]
  exact hu.trans (keepsLanes_updMyLane u (fun _ => rfl) fun _ => rfl)

theorem countedNames_joined (s : State) (loc : Nat) {x : Nat} (hx : x ∈ s.countedNames loc) :
    x ∈ (joinCounter s loc).myLane.joined := by
  obtain ⟨u, -, heq⟩ := joinCounter_eq s loc
  rw [heq, State.myLane_updMyLane]
  exact mem_distinct_of_mem (List.mem_append_left _ hx)

theorem joined_wrS (s : State) (d : BitVec 6) (v : Word) (n : Nat) : (s.wrS d v n).myLane.joined = s.myLane.joined := by
  have hput (x : LaneSt) : (x.putS d.toNat v n).joined = x.joined := by unfold LaneSt.putS; split <;> rfl
  rw [State.wrS, State.myLane_updMyLane, hput]

theorem incs_acquired (t : State) (w : Who) (scope : Nat) (cov : Cover) : (t.acquired w scope cov).incs = t.incs := by
  rw [State.acquired, (joinMtcs_leaves _ _ _).2.2]
  unfold acquireState
  extract_lets s0 s1
  have h1 : s1.incs = t.incs := by unfold s1; split <;> rfl
  split <;> exact h1

/-- An acquire of a counter leaves every byte and register, and joins the commands that the counter includes. -/
theorem acquireCounter_leaves (s : State) (a : Word) (loc : Nat) :
    ∃ u, Runs s (acquireCounter a loc) () u ∧ KeepsLanes s u ∧ ∀ i ∈ s.incs, ∀ l n, i.loc = loc → i.ctx = s.cur.ctx →
      i.name = some (l, n) → cmdKey l n ∈ u.myLane.joined := by
  have hkeeps := keepsLanes_acquired (t := s) (s := s) rfl 4 (s.coverOf a)
  refine ⟨_, Runs.bind (run_get s) (Runs.bind (run_get s) ((runs_acquireOp_eq s s.who 4 (s.coverOf a)).bind (run_modify _ _))),
    hkeeps.trans (keepsLanes_joinCounter _ _), fun i hi l n hloc hctx hname => countedNames_joined _ _ ?_⟩
  refine mem_countedNames ?_ hloc (hctx.trans (congrArg Issue.ctx hkeeps.cur).symm) hname
  rw [incs_acquired]
  exact hi

/-! ### WAITC and TESTC (R311, R312) -/

/-- What WAITC and TESTC have in common: the counter is read, and its value decides. -/
def counterOp (o : RegOps) (s : State) (wait : Bool) (met : Nat → Nat → Op Unit) (unmet : Nat → Op Unit) : Op Unit := do
  let p ← counterPlace (o.sub.getLsbD 0) (s.srcS 1 o.a).toNat false
  let n ← counterRead wait (s.srcS 1 o.a).toNat p
  if (s.srcS 2 o.b).toNat ≤ n then met p.1 n else unmet p.1

/-- The acquire of a counter that has reached the operand, with its result. -/
def counterMet (o : RegOps) (s : State) (v : Nat → Word) (loc n : Nat) : Op Unit := do
  acquireCounter (s.srcS 1 o.a) loc
  modify (fun t => t.wrS o.d (v n) 0)

theorem execWaitc_eq (h : Hdr) (o : RegOps) (s : State) : exec (.waitc h o) s = gateOp h s
    (counterOp o s true (counterMet o s (BitVec.ofNat 64)) fun l => modify (fun t => t.park l (s.srcS 1 o.a) .counter)) := by
  change execWaitc h o s = _
  rfl

theorem execTestc_eq (h : Hdr) (o : RegOps) (s : State) : exec (.testc h o) s = gateOp h s
    (counterOp o s false (counterMet o s fun _ => 1) fun _ => modify (fun t => t.wrS o.d 0 0)) := by
  change execTestc h o s = _
  rfl

section
variable {loc : Nat} (ha : s.active h = true) (hc : CounterAt s (o.sub.getLsbD 0) false (s.srcS 1 o.a).toNat loc)
include ha hc

/-- A test or a wait that finds its counter at its operand or above acquires the counter and writes its result. -/
theorem counter_met (wait : Bool) (v : Nat → Word) (unmet : Nat → Op Unit) (hle : (s.srcS 2 o.b).toNat ≤ s.readNat loc 8) :
    ∃ t, gateOp h s (counterOp o s wait (counterMet o s v) unmet) = .next t ∧ Wrote s t o.d (v (s.readNat loc 8)) ∧ SameBytes s t
      ∧ SameFiles s t
      ∧ ∀ i ∈ s.incs, ∀ l n, i.loc = loc → i.ctx = s.cur.ctx → i.name = some (l, n) → cmdKey l n ∈ t.myLane.joined := by
  obtain ⟨x, u, hplace, hread, hu⟩ := runs_counterRead hc wait
  obtain ⟨w, hrun, hw, hjoins⟩ := acquireCounter_leaves u (s.srcS 1 o.a) loc
  obtain ⟨hwrote, hbytes, hfiles, -⟩ := (hu.keeps.trans hw).wrote o.d (v (s.readNat loc 8)) 0
  refine ⟨_, ?_, hwrote, hbytes, hfiles, fun i hi l n hloc hctx hname => ?_⟩
  · rw [gateOp_active ha]
    refine runOp_ok (hplace.bind (hread.bind ?_))
    rw [if_pos hle]
    exact hrun.bind (run_modify _ w)
  · rw [joined_wrS]
    exact hjoins i (hu.incs.symm ▸ hi) l n hloc (hctx.trans (congrArg Issue.ctx hu.keeps.cur).symm) hname

/-- One that finds it below has read it, and does nothing else before the end of its case. -/
theorem counter_unmet (wait : Bool) (met : Nat → Nat → Op Unit) (unmet : Nat → Op Unit)
    (hlt : s.readNat loc 8 < (s.srcS 2 o.b).toNat) :
    ∃ u, AtHome s u ∧ ∀ t, Runs u (unmet loc) () t → gateOp h s (counterOp o s wait met unmet) = .next t := by
  obtain ⟨x, u, hplace, hread, hu⟩ := runs_counterRead hc wait
  refine ⟨u, hu, fun t hm => ?_⟩
  rw [gateOp_active ha]
  refine runOp_ok (hplace.bind (hread.bind ?_))
  rw [if_neg (Nat.not_le.mpr hlt)]
  exact hm

theorem exec_waitc_below (hlt : s.readNat loc 8 < (s.srcS 2 o.b).toNat) :
    ∃ t, exec (.waitc h o) s = .next t ∧ t.cur.res = .parked ∧ SameBytes s t ∧ SameFiles s t ∧ SameLanes s t := by
  rw [execWaitc_eq]
  obtain ⟨u, hu, hexec⟩ := counter_unmet ha hc true (counterMet o s (BitVec.ofNat 64))
    (fun l => modify (fun t => t.park l (s.srcS 1 o.a) .counter)) hlt
  obtain ⟨hcur, hctxs, hbytes⟩ := park_leaves u loc (s.srcS 1 o.a) .counter
  have hctx (k : Nat) : (u.park loc (s.srcS 1 o.a) .counter).ctx k = u.ctx k := by rw [State.ctx, hctxs]; rfl
  have hk : (u.park loc (s.srcS 1 o.a) .counter).cur.ctx = u.cur.ctx := by rw [hcur]
  have hme : (u.park loc (s.srcS 1 o.a) .counter).me = u.me := by rw [State.me, hctx, hk]; rfl
  obtain ⟨hctx0, hlane0, hothers, hlanes⟩ := hu.keeps.lanes
  refine ⟨_, hexec _ (run_modify _ u), by rw [hcur], hu.keeps.bytes.trans hbytes, ?_, by rw [hcur]; exact hctx0,
    by rw [hcur]; exact hlane0, fun k hk => (hctx k).trans (hothers k hk), fun l => by rw [hme]; exact hlanes l⟩
  have hfiles := hu.keeps.files
  unfold SameFiles at *
  rwa [hme]

theorem exec_testc_below (hlt : s.readNat loc 8 < (s.srcS 2 o.b).toNat) :
    ∃ t, exec (.testc h o) s = .next t ∧ Wrote s t o.d 0 ∧ SameBytes s t ∧ SameFiles s t ∧ t.myLane.joined = s.myLane.joined := by
  rw [execTestc_eq]
  obtain ⟨u, hu, hexec⟩ := counter_unmet ha hc false (counterMet o s fun _ => 1) (fun _ => modify (fun t => t.wrS o.d 0 0)) hlt
  obtain ⟨hwrote, hbytes, hfiles, -⟩ := hu.keeps.wrote o.d 0 0
  exact ⟨_, hexec _ (run_modify _ u), hwrote, hbytes, hfiles, (joined_wrS _ _ _ _).trans hu.joined⟩

end

/-! ### CSET (R311, R314) -/

/-- As `s` with bytes written from a location on, but for caches, waits and the errors of rows. -/
structure Puts (s t : State) (loc : Nat) (bs : List Byte) : Prop where
  bytes : SameBytes (s.writeBytes loc bs) t
  ctxs : t.ctxs = s.ctxs
  cur : t.cur = s.cur
  incs : t.incs = s.incs

/-- What follows a write and leaves the lanes alone leaves them as they were before it. -/
theorem Puts.lanes {loc : Nat} {bs : List Byte} (hp : Puts s u loc bs) (hk : KeepsLanes u t) : SameLanes s t ∧ SameFiles s t := by
  have hctx (k : Nat) : u.ctx k = s.ctx k := by rw [State.ctx, hp.ctxs]; rfl
  have hme : u.me = s.me := by rw [State.me, hctx, hp.cur]; rfl
  obtain ⟨hctx0, hlane0, hothers, hlanes⟩ := hk.lanes
  have hfiles := hk.files
  unfold SameFiles at *
  rw [hp.cur] at hctx0 hlane0 hothers
  rw [hme] at hfiles hlanes
  exact ⟨⟨hctx0, hlane0, fun k hne => (hothers k hne).trans (hctx k), hlanes⟩, hfiles⟩

theorem puts_homeWriteLoc (s : State) (core loc : Nat) (bs : List Byte) : Puts s (homeWriteLoc s core loc bs) loc bs := by
  have hcopies (t : State) : (updateCopies t core loc bs).ctxs = t.ctxs ∧ (updateCopies t core loc bs).cur = t.cur
      ∧ (updateCopies t core loc bs).incs = t.incs := by
    unfold updateCopies
    extract_lets line s1 die
    have h1 : s1.ctxs = t.ctxs ∧ s1.cur = t.cur ∧ s1.incs = t.incs := by unfold s1; split <;> exact ⟨rfl, rfl, rfl⟩
    split <;> exact h1
  obtain ⟨hctxs, hcur, hincs⟩ := hcopies ((clearPoison s ((List.range bs.length).map (loc + ·))).writeBytes loc bs)
  rw [writeBytes_eq] at hctxs hcur hincs
  exact ⟨(sameHome_homeWriteLoc s core loc bs).bytes, by rw [homeWriteLoc, writeBytes_eq]; exact hctxs,
    by rw [homeWriteLoc, writeBytes_eq]; exact hcur, by rw [homeWriteLoc, writeBytes_eq]; exact hincs⟩

theorem flatten_rowGroups (cells : List (Nat × Byte)) : (rowGroups cells).flatten = cells := by
  induction cells with
  | nil => rfl
  | cons x l ih =>
    rw [rowGroups]
    split
    · next y g gs hgs =>
      rw [hgs] at ih
      split
      · rw [List.flatten_cons, ← ih]; rfl
      · rw [List.flatten_cons, ← ih]; rfl
    · rw [List.flatten_cons, ih]; rfl

theorem foldl_setByte_range (s : State) (a : Nat) (bs : List Byte) :
    (((List.range bs.length).map (a + ·)).zip bs).foldl (fun t ab => t.setByte ab.1 ab.2) s = s.writeBytes a bs := by
  induction bs generalizing s a with
  | nil => rfl
  | cons b bs ih =>
    rw [State.writeBytes, ← ih, List.length_cons, List.range_succ_eq_map]
    simp [Function.comp_def, Nat.add_comm, Nat.add_left_comm]

theorem SameBytes.setBytes (hb : SameBytes s t) (cells : List (Nat × Byte)) :
    SameBytes (cells.foldl (fun t ab => t.setByte ab.1 ab.2) s) (cells.foldl (fun t ab => t.setByte ab.1 ab.2) t) := by
  induction cells generalizing s t with
  | nil => exact hb
  | cons c cells ih => exact ih (hb.writeBytes c.1 [c.2])

theorem foldl_setByte_eq (s : State) (cells : List (Nat × Byte)) : cells.foldl (fun t ab => t.setByte ab.1 ab.2) s
    = { s with wlog := (cells.foldl (fun t ab => t.setByte ab.1 ab.2) s).wlog } := by
  induction cells generalizing s with
  | nil => rfl
  | cons c cells ih => rw [List.foldl_cons, ih]; rfl

/-- As `s` with the bytes of some cells put in place, but for waits and the errors of rows. -/
structure PutCells (s t : State) (cells : List (Nat × Byte)) : Prop where
  bytes : SameBytes (cells.foldl (fun t ab => t.setByte ab.1 ab.2) s) t
  ctxs : t.ctxs = s.ctxs
  cmds : t.cmds = s.cmds
  cur : t.cur = s.cur
  incs : t.incs = s.incs

theorem PutCells.pending (hp : PutCells s t cells) : t.scratchPending = s.scratchPending := by
  rw [State.scratchPending, hp.ctxs, hp.cmds]
  rfl

theorem PutCells.append {xs ys : List (Nat × Byte)} (hx : PutCells s t xs) (hy : PutCells t u ys) : PutCells s u (xs ++ ys) := by
  refine ⟨?_, hy.ctxs.trans hx.ctxs, hy.cmds.trans hx.cmds, hy.cur.trans hx.cur, hy.incs.trans hx.incs⟩
  rw [List.foldl_append]
  exact (hx.bytes.setBytes ys).trans hy.bytes

/-- With no write pending, the bytes of a write go into storage. -/
theorem putCells_placeBytes (hp : s.scratchPending = []) (me : Party) (cells : List (Nat × Byte)) :
    PutCells s (placeBytes s me cells) cells := by
  unfold placeBytes
  extract_lets locs s1
  have hpend : s1.scratchPending.isEmpty = true := by
    rw [show s1.scratchPending = s.scratchPending from rfl, hp]
    rfl
  rw [if_pos hpend, foldl_setByte_eq]
  refine ⟨?_, rfl, rfl, rfl, rfl⟩
  have hsame : SameBytes s s1 := (sameBytes_clearPoison s locs).trans (sameBytes_wakeIf _ _)
  have heq := foldl_setByte_eq s1 cells
  exact (hsame.setBytes cells).trans (fun a => by rw [← heq])

theorem putCells_foldl (hp : s.scratchPending = []) (me : Party) (groups : List (List (Nat × Byte))) :
    PutCells s (groups.foldl (fun t g => placeBytes t me g) s) groups.flatten := by
  induction groups generalizing s with
  | nil => exact ⟨.refl s, rfl, rfl, rfl, rfl⟩
  | cons g groups ih =>
    have hg := putCells_placeBytes hp me g
    exact hg.append (ih (hg.pending.trans hp))

/-- With no write pending, an interlocked write of the scratchpad is performed at once. -/
theorem puts_putWrite (hp : s.scratchPending = []) (loc : Nat) (bs : List Byte) :
    Puts s (putWrite s (rowGroups (((List.range bs.length).map (loc + ·)).zip bs)) 0) loc bs := by
  have hput := putCells_foldl hp (some (s.cur.ctx, s.cur.lane)) (rowGroups (((List.range bs.length).map (loc + ·)).zip bs))
  have hempty := scratchInflight_eq_nil (hput.pending.trans hp) s.cur.ctx s.cur.lane
  rw [flatten_rowGroups] at hput
  have hbytes := hput.bytes
  rw [foldl_setByte_range] at hbytes
  rw [putWrite, putWriteBy]
  dsimp only
  rw [if_pos (.inl rfl), if_pos (by rw [hempty]; rfl)]
  exact ⟨hbytes, hput.ctxs, hput.cur, hput.incs⟩

theorem runs_counterWrite {sp : Bool} {a loc : Nat} (hc : CounterAt s sp true a loc) (v : Nat) :
    ∃ t, Runs s (if sp = true then spadWrite ((List.range 8).map (loc + ·)) (bytesOf v 8) 0
        else homeWrite s.myCore loc (bytesOf v 8)) () t
      ∧ Puts s t loc (bytesOf v 8) := by
  obtain ⟨-, -, hreach⟩ := hc
  have hlen : (bytesOf v 8).length = 8 := bytes_of_length _ _
  cases sp with
  | true =>
    obtain ⟨-, hpending, -⟩ := (if_pos rfl).mp hreach
    have hputs := puts_putWrite hpending loc (bytesOf v 8)
    rw [hlen] at hputs
    exact ⟨_, rfl, hputs⟩
  | false =>
    obtain ⟨hn, -⟩ := (if_neg Bool.false_ne_true).mp hreach
    refine ⟨_, ?_, puts_homeWriteLoc s s.myCore loc (bytesOf v 8)⟩
    rw [if_neg Bool.false_ne_true]
    exact Runs.bind (run_drainFor_none hn loc _) (run_modify _ s)

/-- A counter's increments are no longer those of commands (R314). -/
def State.forgetIncs (s : State) (loc : Nat) : State := { s with incs := s.incs.filter (fun i => i.loc != loc) }

theorem exec_cset {loc : Nat} (ha : s.active h = true) (hc : CounterAt s (o.sub.getLsbD 0) true (s.srcS 1 o.a).toNat loc) :
    ∃ t, exec (.cset h o) s = .next t ∧ t.readNat loc 8 = (s.srcS 2 o.b).toNat ∧ SameOutside s t loc 8 ∧ SameLanes s t
      ∧ SameFiles s t ∧ ∀ i, i ∈ t.incs ↔ i ∈ s.incs ∧ i.loc ≠ loc := by
  obtain ⟨x, hplace, -, -⟩ := runs_counterPlace hc
  obtain ⟨u, hwrite, hu⟩ := runs_counterWrite hc (s.srcS 2 o.b).toNat
  have hleft := atHome_leftHome u x
  have hbytes := hu.bytes.trans hleft.keeps.bytes
  have hforget : KeepsLanes u ((u.leftHome x).forgetIncs loc) := hleft.keeps.trans (keepsLanes_of_eq rfl rfl rfl rfl)
  obtain ⟨hlanes, hfiles⟩ := hu.lanes hforget
  refine ⟨(u.leftHome x).forgetIncs loc, ?_, (hbytes.readNat loc 8).trans ?_, ?_, hlanes, hfiles, fun i => ?_⟩
  · change execCset h o s = _
    rw [execCset, gateOp_active ha]
    exact runOp_ok (hplace.bind (hwrite.ite_bind ((runs_leaveCounter u (loc, x)).bind (run_modify _ _))))
  · have hread := readNat_writeNat s loc 8 (s.srcS 2 o.b).toNat
    exact hread.trans (Nat.mod_eq_of_lt (s.srcS 2 o.b).isLt)
  · exact (sameOutside_writeNat s loc 8 _).trans (hbytes.outside loc 8)
  · rw [State.forgetIncs, List.mem_filter, hleft.incs, hu.incs, bne_iff_ne]

/-! ### The statement -/

theorem exec_edep (ha : s.active h = true) (o : RegOps) : exec (.edep h o) s = .next (s.updMyLane (fun x =>
    { x with edep := some (BitVec.ofNat 18 (s.srcS 1 o.a).toNat, BitVec.ofNat 18 (s.srcS 2 o.b).toNat) })) := by
  change execEdep h o s = _
  rw [execEdep, plain_active ha]

theorem exec_testcQ (ha : s.active h = true) (o : RegOps) : exec (.testcQ h o) s = .next (s.wrS o.d
    (match (laneOfCode (bits (s.srcS 1 o.a).toNat 16 2)).bind
        (fun l => s.cmdOf s.cur.ctx l (BitVec.ofNat 16 (s.srcS 1 o.a).toNat)) with
      | none => 0
      | some c => BitVec.ofNat 64 (1024 + (if c.phase = .held ∧ c.fault.isSome then 512 else 0) + 65536 * (c.off % 2 ^ 48))) 0) := by
  change execTestcQ h o s = _
  rw [execTestcQ, plain_active ha]
  dsimp only
  cases laneOfCode (bits (s.srcS 1 o.a).toNat 16 2) with
  | none => rfl
  | some l =>
    dsimp only [Option.bind]
    cases s.cmdOf s.cur.ctx l (BitVec.ofNat 16 (s.srcS 1 o.a).toNat) <;> rfl

/-- Settles O32: a counter that can be reached is read with every byte and register as before; the acquire that follows
joins each increment of the counter that is recorded, and CSET is a write of eight bytes after which none is. -/
theorem completionCounters : Obligations.CompletionCounters := by
  intro h o s loc ha a b sp v joins cmd
  refine ⟨fun hc => ⟨fun hle => ?_, exec_waitc_below ha hc, fun hle => ?_, exec_testc_below ha hc⟩, fun hcmd => ?_, fun c hcmd => ?_,
    exec_cset ha, exec_edep ha o⟩
  · rw [execWaitc_eq]
    exact counter_met ha hc true (BitVec.ofNat 64) _ hle
  · rw [execTestc_eq]
    exact counter_met ha hc false (fun _ => 1) _ hle
  · rw [exec_testcQ ha, show (laneOfCode (bits (s.srcS 1 o.a).toNat 16 2)).bind _ = none from hcmd]
  · rw [exec_testcQ ha, show (laneOfCode (bits (s.srcS 1 o.a).toNat 16 2)).bind _ = some c from hcmd]

end Sys2Proof.Machine
end

section
/-! Proofs. What leaves every context in its place, and every bank as it is (O46). -/

namespace Sys2Proof.Machine

variable {s t u : State}

/-! ### The relation -/

/-- Where a context stands, whether it is resident, and whether its report is due. -/
def Ctx.place (c : Ctx) : Nat × Nat × Residence × Bool := (c.core, c.bank, c.res, c.reportDue)

/-- The contexts that a core's banks hold, and which bank is active. -/
def CoreSt.banks (c : CoreSt) : Option Nat × Option Nat × Nat := (c.bank0, c.bank1, c.active)

/-- Every context stands where it stood, and every bank holds what it held. -/
structure KeepsPlaces (s t : State) : Prop where
  place : ∀ k, (t.ctx k).place = (s.ctx k).place
  banks : ∀ i, (t.core i).banks = (s.core i).banks

theorem KeepsPlaces.refl (s : State) : KeepsPlaces s s := ⟨fun _ => rfl, fun _ => rfl⟩

theorem KeepsPlaces.trans (h : KeepsPlaces s t) (g : KeepsPlaces t u) : KeepsPlaces s u :=
  ⟨fun k => (g.place k).trans (h.place k), fun i => (g.banks i).trans (h.banks i)⟩

theorem KeepsPlaces.core (h : KeepsPlaces s t) (k : Nat) : (t.ctx k).core = (s.ctx k).core := congrArg Prod.fst (h.place k)

theorem KeepsPlaces.bank (h : KeepsPlaces s t) (k : Nat) : (t.ctx k).bank = (s.ctx k).bank := congrArg (fun p => p.2.1) (h.place k)

theorem KeepsPlaces.res (h : KeepsPlaces s t) (k : Nat) : (t.ctx k).res = (s.ctx k).res := congrArg (fun p => p.2.2.1) (h.place k)

theorem KeepsPlaces.reportDue (h : KeepsPlaces s t) (k : Nat) : (t.ctx k).reportDue = (s.ctx k).reportDue :=
  congrArg (fun p => p.2.2.2) (h.place k)

theorem KeepsPlaces.active (h : KeepsPlaces s t) (i : Nat) : (t.core i).active = (s.core i).active :=
  congrArg (fun p => p.2.2) (h.banks i)

theorem KeepsPlaces.bankCtx (h : KeepsPlaces s t) (i bank : Nat) : (t.core i).bankCtx bank = (s.core i).bankCtx bank := by
  have h0 : (t.core i).bank0 = (s.core i).bank0 := congrArg Prod.fst (h.banks i)
  have h1 : (t.core i).bank1 = (s.core i).bank1 := congrArg (fun p => p.2.1) (h.banks i)
  rw [CoreSt.bankCtx, CoreSt.bankCtx, h0, h1]

/-! ### Changes outside places and banks -/

theorem keepsPlaces_of_eq (hx : t.ctxs = s.ctxs) (hc : t.cores = s.cores) : KeepsPlaces s t :=
  ⟨fun k => by rw [State.ctx, hx]; rfl, fun i => by rw [State.core, hc]; rfl⟩

theorem OnlyTranslations.keepsPlaces (h : OnlyTranslations s t) : KeepsPlaces s t := keepsPlaces_of_eq h.ctxs h.cores

theorem keepsPlaces_updCtx (s : State) (k : Nat) {f : Ctx → Ctx} (hf : ∀ c, (f c).place = c.place) : KeepsPlaces s (s.updCtx k f) := by
  refine ⟨fun j => ?_, fun _ => rfl⟩
  by_cases hj : j = k
  · subst hj; rw [State.ctx_updCtx, hf]
  · rw [State.ctx_updCtx_ne _ _ hj]

theorem keepsPlaces_updCore (s : State) (i : Nat) {f : CoreSt → CoreSt} (hf : ∀ c, (f c).banks = c.banks) :
    KeepsPlaces s (s.updCore i f) := by
  refine ⟨fun _ => rfl, fun j => ?_⟩
  by_cases hj : j = i
  · subst hj; rw [State.core_updCore, hf]
  · rw [State.core_updCore_ne _ _ hj]

theorem Ctx.place_updLane (c : Ctx) (l : Lane) (f : LaneSt → LaneSt) : (c.updLane l f).place = c.place := by cases l <;> rfl

theorem keepsPlaces_updLane (s : State) (k : Nat) (l : Lane) (f : LaneSt → LaneSt) : KeepsPlaces s (s.updLane k l f) :=
  keepsPlaces_updCtx s k fun c => c.place_updLane l f

theorem keepsPlaces_updDie (s : State) (k : Nat) (f : Die → Die) : KeepsPlaces s (s.updDie k f) := keepsPlaces_of_eq rfl rfl

theorem keepsPlaces_updVif (s : State) (k : Nat) (f : Vif → Vif) : KeepsPlaces s (s.updVif k f) := keepsPlaces_of_eq rfl rfl

theorem keepsPlaces_wrS (s : State) (d : BitVec 6) (v : Word) (n : Nat) : KeepsPlaces s (s.wrS d v n) := keepsPlaces_updLane s _ _ _

theorem keepsPlaces_writeBytes (s : State) (a : Nat) (bs : List Byte) : KeepsPlaces s (s.writeBytes a bs) := by
  rw [writeBytes_eq]
  exact keepsPlaces_of_eq rfl rfl

theorem keepsPlaces_writeNat (s : State) (a n v : Nat) : KeepsPlaces s (s.writeNat a n v) := keepsPlaces_writeBytes s _ _

theorem keepsPlaces_setField (s : State) (a lo len x : Nat) : KeepsPlaces s (s.setField a lo len x) := keepsPlaces_writeNat s _ _ _

theorem keepsPlaces_wakeIf (s : State) (p : Waiter → Bool) : KeepsPlaces s (s.wakeIf p) := keepsPlaces_of_eq rfl rfl

theorem keepsPlaces_touch (s : State) (l : Nat) : KeepsPlaces s (s.touch l) := keepsPlaces_wakeIf s _

theorem keepsPlaces_clearPoison (s : State) (locs : List Nat) : KeepsPlaces s (clearPoison s locs) := keepsPlaces_of_eq rfl rfl

theorem keepsPlaces_unwait (s : State) (k : Nat) (l : Lane) : KeepsPlaces s (s.unwait k l) := keepsPlaces_of_eq rfl rfl

theorem keepsPlaces_foldl {α : Type} {f : State → α → State} (hf : ∀ t x, KeepsPlaces t (f t x)) (xs : List α) (s : State) :
    KeepsPlaces s (xs.foldl f s) := by
  induction xs generalizing s with
  | nil => exact .refl s
  | cons x xs ih => exact (hf s x).trans (ih _)

theorem keepsPlaces_setByte (s : State) (a : Nat) (b : Byte) : KeepsPlaces s (s.setByte a b) := keepsPlaces_of_eq rfl rfl

theorem keepsPlaces_setBytes (s : State) (cells : List (Nat × Byte)) :
    KeepsPlaces s (cells.foldl (fun t ab => t.setByte ab.1 ab.2) s) :=
  keepsPlaces_foldl (fun t ab => keepsPlaces_setByte t ab.1 ab.2) cells s

/-! ### Faults, acquires, and writes of the home -/

theorem keepsPlaces_countUncorr (s : State) (k : Nat) (c : Cause) (detail : Nat) (addr : Word) :
    KeepsPlaces s (countUncorr s k c detail addr) := by
  unfold countUncorr
  split
  · exact keepsPlaces_updDie s _ _
  · exact .refl s

theorem keepsPlaces_recordFatal (s : State) (k : Nat) (c : Cause) (lane detail : Nat) (addr : Word) (pc : Option Nat)
    (cmd : Option (Lane × BitVec 16)) : KeepsPlaces s (recordFatal s k c lane detail addr pc cmd) := by
  unfold recordFatal
  split
  · exact .refl s
  · refine (keepsPlaces_countUncorr s k c detail addr).trans (keepsPlaces_updCtx _ k fun x => ?_)
    unfold Ctx.place
    split <;> rfl

theorem keepsPlaces_acquireState (s : State) (core asid scope : Nat) (cov : Cover) :
    KeepsPlaces s (acquireState s core asid scope cov) := by
  unfold acquireState
  extract_lets s0 s1
  have h0 : KeepsPlaces s s0 := keepsPlaces_updCore s core fun _ => rfl
  have h1 : KeepsPlaces s s1 := by
    unfold s1
    split
    · exact h0
    · exact h0.trans (keepsPlaces_updCore s0 core fun _ => rfl)
  split
  · exact h1
  · exact h1.trans (keepsPlaces_updDie s1 _ _)

theorem keepsPlaces_joinMtcs (s : State) (k : Nat) (l : Lane) : KeepsPlaces s (s.joinMtcs k l) := by
  unfold State.joinMtcs
  extract_lets names
  split
  · exact .refl s
  · exact keepsPlaces_updLane s k l _

theorem keepsPlaces_updateCopies (s : State) (core loc : Nat) (bs : List Byte) : KeepsPlaces s (updateCopies s core loc bs) := by
  unfold updateCopies
  extract_lets line s1 die
  have h1 : KeepsPlaces s s1 := by
    unfold s1
    split
    · exact .refl s
    · exact keepsPlaces_updCore s core fun _ => rfl
  split
  · exact h1
  · exact h1.trans (keepsPlaces_updDie s1 _ _)

theorem keepsPlaces_homeWriteLoc (s : State) (core loc : Nat) (bs : List Byte) : KeepsPlaces s (homeWriteLoc s core loc bs) :=
  (((keepsPlaces_clearPoison s _).trans (keepsPlaces_writeBytes _ _ _)).trans (keepsPlaces_updateCopies _ _ _ _)).trans
    (keepsPlaces_wakeIf _ _)

theorem keepsPlaces_homeWriteMasked (s : State) (core loc : Nat) (bs : List (Option Byte)) :
    KeepsPlaces s (homeWriteMasked s core loc bs) := by
  unfold homeWriteMasked
  split
  · exact keepsPlaces_homeWriteLoc s core loc _
  · refine (keepsPlaces_foldl (fun t bi => ?_) _ s).trans (keepsPlaces_wakeIf _ _)
    split
    · exact (keepsPlaces_writeBytes t _ [_]).trans (keepsPlaces_updateCopies _ _ _ _)
    · exact .refl t

theorem keepsPlaces_performOne (s : State) (core : Nat) (e : PendWrite) : KeepsPlaces s (performOne s core e) := by
  unfold performOne
  split
  · exact keepsPlaces_homeWriteMasked s core _ _
  · split
    · exact keepsPlaces_recordFatal s _ _ _ _ _ _ _
    · exact (keepsPlaces_homeWriteLoc s core _ _).trans (keepsPlaces_updCore _ core fun _ => rfl)

theorem keepsPlaces_unpend (s : State) (core : Nat) (e : PendWrite) : KeepsPlaces s (s.unpend core e) :=
  keepsPlaces_updCore s core fun _ => rfl

/-! ### Operations -/

/-- Whatever an operation comes to, it leaves a state of which `P` holds where it held before. -/
def Leaves {α : Type} (P : State → Prop) (m : Op α) : Prop := ∀ t, P t → P (m.run.run t).2

section
variable {α β : Type} {P : State → Prop}

theorem Leaves.bind {m : Op α} {f : α → Op β} (hm : Leaves P m) (hf : ∀ a, Leaves P (f a)) : Leaves P (m >>= f) := by
  intro t ht
  have h1 := hm t ht
  rcases hr : m.run.run t with ⟨_ | a, u⟩
  · rw [run_bind_error hr]
    rwa [hr] at h1
  · rw [run_bind_ok hr]
    rw [hr] at h1
    exact hf a u h1

theorem Leaves.get_bind {f : State → Op β} (hf : ∀ x, P x → Leaves P (f x)) : Leaves P (get >>= f) := by
  intro t ht
  rw [run_bind_ok (run_get t)]
  exact hf t ht t ht

theorem Leaves.pure (a : α) : Leaves P (pure a : Op α) := fun _ ht => ht

theorem Leaves.throw (e : Halt) : Leaves P (throw e : Op α) := fun _ ht => ht

theorem Leaves.set {x : State} (hx : P x) : Leaves P (set x : Op Unit) := fun _ _ => hx

theorem Leaves.modify {f : State → State} (hf : ∀ t, P t → P (f t)) : Leaves P (modify f : Op Unit) := fun t ht => hf t ht

theorem Leaves.foldlM {f : β → α → Op β} (hf : ∀ b a, Leaves P (f b a)) (xs : List α) (b : β) : Leaves P (xs.foldlM f b) := by
  induction xs generalizing b with
  | nil => exact .pure b
  | cons x xs ih =>
    rw [List.foldlM_cons]
    exact (hf b x).bind ih

end

theorem leaves_xlat (s : State) (w : Who) (write : Bool) (va : Nat) : Leaves (KeepsPlaces s) (xlat w write va) := by
  refine Leaves.get_bind fun x hx => ?_
  have ht := hx.trans (onlyTranslations_translate x (dieOfCore w.core) w.asid w.priv write va).keepsPlaces
  dsimp only
  refine (Leaves.set ht).bind fun _ => ?_
  split
  · exact .throw _
  · split
    · exact .pure _
    · exact .throw _

theorem leaves_drainWhere (s : State) (p : Nat × PendWrite → Bool) : Leaves (KeepsPlaces s) (drainWhere p) := by
  refine Leaves.get_bind fun x hx => ?_
  split
  · exact .pure _
  · have hone (t : State) (e : Nat × PendWrite) : KeepsPlaces t (performOne (t.unpend e.1 e.2) e.1 e.2) :=
      (keepsPlaces_unpend t e.1 e.2).trans (keepsPlaces_performOne (t.unpend e.1 e.2) e.1 e.2)
    have hset (due : List (Nat × PendWrite)) := keepsPlaces_foldl hone due x
    dsimp only
    split
    · refine Leaves.bind (Leaves.throw _) fun _ => Leaves.set (hx.trans ?_)
      exact hset _
    · refine Leaves.set (hx.trans ?_)
      exact hset _

theorem leaves_drainFor (s : State) (core loc n : Nat) : Leaves (KeepsPlaces s) (drainFor core loc n) :=
  Leaves.get_bind fun x _ => leaves_drainWhere s (x.firstAt core loc n)

theorem keepsPlaces_countAccess (s : State) (w : Who) (x : Xlat) : KeepsPlaces s (countAccess s w x) := by
  obtain ⟨-, hctxs, -, hcores⟩ := countAccess_leaves s w x
  exact keepsPlaces_of_eq hctxs hcores

theorem leaves_slotLocs (s : State) (w : Who) (r : RodRef) (k n : Nat) (write : Bool) :
    Leaves (KeepsPlaces s) (slotLocs w r k n write) := by
  refine Leaves.get_bind fun x _ => ?_
  dsimp only
  split
  · exact .pure _
  · split
    · split
      · exact .throw _
      · split
        · exact .throw _
        · exact .pure _
    · refine Leaves.foldlM ?_ _ _
      intro acc p
      refine Leaves.bind (leaves_xlat s w write p.1) fun x => ?_
      have hrest : Leaves (KeepsPlaces s) (do
          drainFor w.core x.loc p.2
          modify (fun t => countAccess t w x)
          return acc ++ (List.range p.2).map (x.loc + ·)) := by
        refine Leaves.bind (leaves_drainFor s _ _ _) fun _ => Leaves.bind (Leaves.modify fun t ht => ?_) fun _ => .pure _
        exact ht.trans (keepsPlaces_countAccess t w x)
      split
      · exact Leaves.bind (Leaves.throw _) fun _ => hrest
      · exact hrest

theorem leaves_locsRead (s : State) (locs : List Nat) : Leaves (KeepsPlaces s) (locsRead locs) := by
  refine Leaves.get_bind fun x _ => ?_
  split
  · exact .throw _
  · exact .pure _

theorem leaves_locsWrite (s : State) (locs : List Nat) (bs : List Byte) : Leaves (KeepsPlaces s) (locsWrite locs bs) :=
  Leaves.modify fun t ht => (ht.trans (keepsPlaces_clearPoison t locs)).trans (keepsPlaces_setBytes _ _)

/-! ### Slots of rods (R146, R148) -/

theorem keepsPlaces_updateRdc (s : State) (die loc : Nat) (bs : List Byte) : KeepsPlaces s (updateRdc s die loc bs) := by
  unfold updateRdc
  split
  · exact .refl s
  · exact keepsPlaces_updDie s _ _

theorem keepsPlaces_keepBead (s : State) (r : RodRef) (k : Nat) (bead : List Byte) : KeepsPlaces s (keepBead s r k bead) := by
  unfold keepBead
  split
  · exact .refl s
  · exact keepsPlaces_of_eq rfl rfl

theorem keepsPlaces_beadOrStored (s : State) (r : RodRef) (k : Nat) (now : List Byte) : KeepsPlaces s (beadOrStored s r k now).2 := by
  unfold beadOrStored
  split
  · exact .refl s
  · dsimp only
    split <;> exact keepsPlaces_of_eq rfl rfl

theorem leaves_reserveSlot (s : State) (w : Who) (r : RodRef) (bead : List Byte) : Leaves (KeepsPlaces s) (reserveSlot w r bead) := by
  refine Leaves.get_bind fun x _ => Leaves.bind (leaves_slotLocs s w r _ _ true) fun locs =>
    Leaves.bind (leaves_locsWrite s locs bead) fun _ => ?_
  refine Leaves.bind (Leaves.modify fun t ht => ht.trans ?_) fun _ => Leaves.bind (Leaves.modify fun t ht => ht.trans ?_) fun _ => .pure _
  · exact (keepsPlaces_foldl (fun u ab => keepsPlaces_updateRdc u _ _ _) _ t).trans (keepsPlaces_keepBead _ r _ bead)
  · exact (keepsPlaces_writeNat t _ _ _).trans (keepsPlaces_writeNat _ _ _ _)

theorem leaves_takeSlot (s : State) (w : Who) (r : RodRef) : Leaves (KeepsPlaces s) (takeSlot w r) := by
  refine Leaves.get_bind fun x _ => Leaves.bind (leaves_slotLocs s w r _ _ false) fun locs => Leaves.get_bind fun y hy =>
    Leaves.bind (leaves_locsRead s locs) fun now =>
      Leaves.bind (Leaves.set (hy.trans (keepsPlaces_beadOrStored y r _ now))) fun _ => ?_
  refine Leaves.bind (Leaves.modify fun t ht => ht.trans ?_) fun _ => .pure _
  exact ((keepsPlaces_writeNat t _ _ _).trans (keepsPlaces_writeNat _ _ _ _)).trans (keepsPlaces_touch _ _)

end Sys2Proof.Machine
end

section
/-! Proofs. Ends of waits, moves of pages and writes of the device leave every context in its place (O46). -/

namespace Sys2Proof.Machine

variable {s t u : State}

/-! ### A parked instruction retires (R63, R232, R365) -/

theorem Ctx.place_setQueues (c : Ctx) (l : Lane) (q : LaneQ) : (c.setQueues l q).place = c.place := c.place_updLane l _

theorem Ctx.place_endCheck (c : Ctx) (levels : List Level) (l : Lane) (lo hi : Nat) : (c.endCheck levels l lo hi).place = c.place := by
  unfold Ctx.endCheck
  dsimp only
  split
  · exact c.place_setQueues l _
  · exact (Ctx.place_updLane _ l _).trans (c.place_setQueues l _)

theorem Ctx.place_giveOne (c : Ctx) (l : Lane) (right : Bool) (t : Tok) : (c.giveOne l right t).place = c.place :=
  (Ctx.place_updLane _ l _).trans (c.place_setQueues _ _)

theorem Ctx.place_foldl {α : Type} {f : Ctx → α → Ctx} (hf : ∀ c x, (f c x).place = c.place) (xs : List α) (c : Ctx) :
    (xs.foldl f c).place = c.place := by
  induction xs generalizing c with
  | nil => rfl
  | cons x xs ih => exact (ih _).trans (hf c x)

theorem Ctx.place_flushGives (c : Ctx) (l : Lane) (bl br : Bool) (gs : List (List (Bool × Tok))) :
    (c.flushGives l bl br gs).1.place = c.place := by
  induction gs generalizing c bl br with
  | nil => rfl
  | cons g gs ih =>
    rw [Ctx.flushGives]
    dsimp only
    split
    · exact (ih _ _ _).trans (Ctx.place_foldl (fun c p => c.place_giveOne l p.1 p.2) g c)
    · exact ih c _ _

theorem Ctx.place_settleGives (c : Ctx) (l : Lane) : (c.settleGives l).place = c.place :=
  (Ctx.place_setQueues _ l _).trans (c.place_flushGives l false false _)

theorem Ctx.place_addGives (c : Ctx) (l : Lane) (g : List (Bool × Tok)) : (c.addGives l g).place = c.place := by
  unfold Ctx.addGives
  split
  · rfl
  · exact c.place_setQueues l _

theorem keepsPlaces_advance (s : State) (k : Nat) (l : Lane) (pc n : Nat) : KeepsPlaces s (s.advance k l pc n) :=
  keepsPlaces_updCtx s k fun c => (Ctx.place_endCheck _ _ l _ _).trans (c.place_updLane l _)

theorem keepsPlaces_finishParked (s : State) (k : Nat) (l : Lane) : KeepsPlaces s (s.finishParked k l) := by
  unfold State.finishParked
  split
  · exact .refl s
  · refine ((keepsPlaces_updLane s k l _).trans (keepsPlaces_updCtx _ k fun c => ?_)).trans (keepsPlaces_advance _ _ _ _ _)
    dsimp only
    split
    · exact ((Ctx.place_settleGives _ l).trans (Ctx.place_addGives _ l _)).trans (c.place_setQueues l _)
    · exact c.place_setQueues l _

/-! ### Writes of the scratchpad (R116, R284) -/

theorem keepsPlaces_putByte (me : Party) (s : State) (ab : Nat × Byte) : KeepsPlaces s (putByte me s ab) := by
  unfold putByte
  dsimp only
  split
  · exact keepsPlaces_updLane s _ _ _
  · split
    · exact keepsPlaces_of_eq rfl rfl
    · exact keepsPlaces_setByte s _ _

theorem keepsPlaces_underOthers (s : State) (me : Party) (locs : List Nat) : KeepsPlaces s (underOthers s me locs) := by
  unfold underOthers
  split
  · dsimp only
    have hfree : KeepsPlaces s (s.free 201).2 := keepsPlaces_of_eq rfl rfl
    split
    · exact hfree
    · have hlanes (os : List (Nat × Lane)) (f : LaneSt → LaneSt) :
          KeepsPlaces (s.free 201).2 (os.foldl (fun t o => t.updLane o.1 o.2 f) (s.free 201).2) :=
        keepsPlaces_foldl (fun t o => keepsPlaces_updLane t o.1 o.2 f) os _
      exact (hfree.trans (hlanes _ _)).trans (keepsPlaces_of_eq rfl rfl)
  · exact .refl s

theorem keepsPlaces_placeBytes (s : State) (me : Party) (cells : List (Nat × Byte)) : KeepsPlaces s (placeBytes s me cells) := by
  unfold placeBytes
  extract_lets locs s1
  have h1 : KeepsPlaces s s1 := keepsPlaces_of_eq rfl rfl
  split
  · exact h1.trans (keepsPlaces_setBytes s1 cells)
  · exact (h1.trans (keepsPlaces_underOthers s1 me locs)).trans (keepsPlaces_foldl (keepsPlaces_putByte me) cells _)

theorem keepsPlaces_putWriteBy (s : State) (k : Nat) (l : Lane) (accesses : List (List (Nat × Byte))) (bound : Nat) :
    KeepsPlaces s (putWriteBy s k l accesses bound) := by
  have h1 := keepsPlaces_foldl (fun t g => keepsPlaces_placeBytes t (some (k, l)) g) accesses s
  unfold putWriteBy
  dsimp only
  split
  · split
    · exact h1
    · exact h1.trans (keepsPlaces_updLane _ k l _)
  · exact h1.trans (keepsPlaces_updLane _ k l _)

/-! ### Waiters and their mirror (R141, R149) -/

theorem keepsPlaces_mirrorPut (s : State) (loc v : Nat) : KeepsPlaces s (mirrorPut s loc v) := by
  refine keepsPlaces_foldl (fun t a => ?_) _ s
  split
  · exact .refl t
  · exact keepsPlaces_writeNat t _ _ _

theorem keepsPlaces_slWaitq (s : State) (l : Nat) : KeepsPlaces s (slWaitq s l) :=
  (keepsPlaces_of_eq rfl rfl : KeepsPlaces s (s.free 13).2).trans (keepsPlaces_writeNat _ _ _ _)

theorem keepsPlaces_mirrorFor (s : State) (q : Waiter) (loc : Nat) : KeepsPlaces s (mirrorFor s q loc) := by
  unfold mirrorFor
  split
  · exact keepsPlaces_mirrorPut s _ _
  · exact keepsPlaces_mirrorPut s _ _
  · exact keepsPlaces_mirrorPut s _ _
  · exact keepsPlaces_slWaitq s loc
  · exact keepsPlaces_slWaitq s loc
  · exact .refl s

theorem keepsPlaces_countCommit (s : State) (r : Nat) : KeepsPlaces s (countCommit s r) := by
  unfold countCommit
  split
  · exact keepsPlaces_foldl (fun t (kv : Nat × Vif) => keepsPlaces_updVif t kv.1 countRecord) _ s
  · exact .refl s

theorem keepsPlaces_moveTail (s : State) (r : RodRef) : KeepsPlaces s (moveTail s r) :=
  ((keepsPlaces_writeNat s _ _ _).trans (keepsPlaces_touch _ _)).trans (keepsPlaces_countCommit _ _)

/-- The end of a rod instruction of a lane, once its bead is there (R149). -/
theorem keepsPlaces_endWait (s : State) (k : Nat) (l : Lane) (d : BitVec 6) (v : Word) :
    KeepsPlaces s (((s.updLane k l (fun x => x.putS d.toNat v 0)).unwait k l).finishParked k l) :=
  ((keepsPlaces_updLane s k l _).trans (keepsPlaces_unwait _ k l)).trans (keepsPlaces_finishParked _ k l)

theorem keepsPlaces_completeRod (s : State) (r : RodRef) (q : Waiter) (status idx : Nat) (bead : List Byte) :
    KeepsPlaces s (completeRod s r q status idx bead) := by
  unfold completeRod
  split
  · exact (keepsPlaces_unwait s _ _).trans (keepsPlaces_updDie _ _ _)
  · split
    · dsimp only
      split
      · exact keepsPlaces_unwait s _ _
      · exact (keepsPlaces_unwait s _ _).trans (keepsPlaces_updVif _ _ _)
    · extract_lets w s1 s2 d s3
      have h1 : KeepsPlaces s s1 := by
        unfold s1
        split
        · split
          · split
            · exact keepsPlaces_putWriteBy s _ _ _ _
            · exact keepsPlaces_recordFatal s _ _ _ _ _ _ _
          · exact .refl s
        · exact .refl s
      have h2 : KeepsPlaces s s2 := by
        unfold s2
        split
        · exact h1.trans ((keepsPlaces_acquireState s1 _ _ _ _).trans (keepsPlaces_joinMtcs _ _ _))
        · exact h1
      exact h2.trans (keepsPlaces_endWait s2 q.ctx q.lane d _)

theorem keepsPlaces_commitNext (s : State) (r : RodRef) : KeepsPlaces s (commitNext s r) := by
  unfold commitNext
  split
  · exact (keepsPlaces_moveTail s r).trans (keepsPlaces_completeRod _ r _ _ _ _)
  · exact .refl s

theorem keepsPlaces_commitAll (r : RodRef) (n : Nat) (s : State) : KeepsPlaces s (commitAll r n s) := by
  induction n generalizing s with
  | zero => exact .refl s
  | succ n ih =>
    rw [commitAll]
    split
    · exact .refl s
    · exact (keepsPlaces_commitNext s r).trans (ih _)

theorem keepsPlaces_releaseWaiter (s : State) (r : RodRef) (q : Waiter) (held : Bool) : KeepsPlaces s (releaseWaiter s r q held) := by
  have h := keepsPlaces_unwait s q.ctx q.lane
  unfold releaseWaiter
  split
  · exact h
  · split
    · dsimp only
      split
      · split
        · exact h.trans (keepsPlaces_updDie _ _ _)
        · exact h.trans (keepsPlaces_updVif _ _ _)
      · exact h
    · exact keepsPlaces_completeRod s r q _ _ _

/-- An operation for a waiter that completes. -/
theorem keepsPlaces_tryWaiter_ok {α : Type} {m : Op α} (hm : Leaves (KeepsPlaces s) m) {r : RodRef} {q : Waiter} {a : α}
    (h : tryWaiter s r q m = .ok (a, t)) : KeepsPlaces s t := by
  have hs := hm s (.refl s)
  unfold tryWaiter at h
  rcases hr : m.run.run s with ⟨e | b, u⟩ <;> rw [hr] at h hs
  · cases e <;> cases h
  · cases h; exact hs

/-- One that releases its waiter. -/
theorem keepsPlaces_tryWaiter_error {α : Type} {m : Op α} {r : RodRef} {q : Waiter} (h : tryWaiter s r q m = .error t) :
    KeepsPlaces s t := by
  unfold tryWaiter at h
  rcases hr : m.run.run s with ⟨e | b, u⟩ <;> rw [hr] at h
  · cases e <;> cases h <;> exact keepsPlaces_releaseWaiter s r q _
  · cases h

theorem keepsPlaces_serveOne {r : RodRef} (h : serveOne s r = some t) : KeepsPlaces s t := by
  unfold serveOne at h
  dsimp only at h
  split at h
  · split at h
    · next hr =>
      cases h
      exact (keepsPlaces_tryWaiter_ok (leaves_takeSlot s _ r) hr).trans (keepsPlaces_completeRod _ r _ _ _ _)
    · next hr =>
      cases h
      exact keepsPlaces_tryWaiter_error hr
  · split at h
    · cases h
    · next q _ =>
      split at h
      · next k v hr =>
        have hv : KeepsPlaces s { v with waiters := v.waiters.map (fun p => if p == q then { p with kind := .commit k } else p) } :=
          (keepsPlaces_tryWaiter_ok (leaves_reserveSlot s _ r _) hr).trans (keepsPlaces_of_eq rfl rfl)
        rw [← Option.some.inj h]
        split
        · exact hv.trans (keepsPlaces_commitNext _ r)
        · exact hv
      · next hr =>
        cases h
        exact keepsPlaces_tryWaiter_error hr

theorem keepsPlaces_serveWaiters (r : RodRef) (n : Nat) (s : State) : KeepsPlaces s (serveWaiters r n s) := by
  induction n generalizing s with
  | zero => exact .refl s
  | succ n ih =>
    rw [serveWaiters]
    split
    · next h => exact (keepsPlaces_serveOne h).trans (ih _)
    · exact .refl s

theorem keepsPlaces_mirrorWaitq (s : State) (l : Nat) : KeepsPlaces s (mirrorWaitq s l) := by
  unfold mirrorWaitq
  exact keepsPlaces_mirrorPut s _ _

theorem keepsPlaces_serveAll (s : State) (r : RodRef) : KeepsPlaces s (serveAll s r) := by
  unfold serveAll
  exact (keepsPlaces_serveWaiters r _ s).trans (keepsPlaces_mirrorWaitq _ _)

theorem keepsPlaces_cancelWaits (s : State) (qs : List Waiter) : KeepsPlaces s (cancelWaits s qs) := by
  refine keepsPlaces_foldl (fun t q => ?_) qs s
  split
  · exact .refl t
  · exact (keepsPlaces_commitAll _ _ t).trans (keepsPlaces_serveAll _ _)
  · split
    · exact .refl t
    · exact (keepsPlaces_unwait t _ _).trans (keepsPlaces_mirrorFor _ q _)

/-! ### Moves of pages (R147, R394) -/

theorem keepsPlaces_parkFor (s : State) (k : Nat) (l : Lane) (loc : Nat) (addr : Word) (kind : WaitKind) :
    KeepsPlaces s (s.parkFor k l loc addr kind).2 := by
  unfold State.parkFor
  dsimp only
  split
  · exact keepsPlaces_of_eq rfl rfl
  · exact .refl s

theorem keepsPlaces_reparkDevice (f : Nat → Nat) (s : State) (q : Waiter) : KeepsPlaces s (reparkDevice f s q) := by
  have h := (keepsPlaces_unwait s q.ctx q.lane).trans (keepsPlaces_parkFor _ q.ctx q.lane (f q.obj) q.addr q.kind)
  unfold reparkDevice
  split
  · next hp => rwa [hp] at h
  · exact keepsPlaces_of_eq rfl rfl

theorem keepsPlaces_followWaits (s : State) (m : PageMove) (f : Nat → Nat) : KeepsPlaces s (followWaits s m f) := by
  unfold followWaits
  extract_lets qs t
  have ht : KeepsPlaces s t := ((keepsPlaces_cancelWaits s qs).trans (keepsPlaces_wakeIf _ _)).trans
    (keepsPlaces_foldl (keepsPlaces_reparkDevice f) _ _)
  exact ht.trans (keepsPlaces_foldl (fun u q => keepsPlaces_mirrorFor u q _) qs t)

theorem keepsPlaces_copyLines (n : Nat) (s : State) (m : PageMove) : KeepsPlaces s (copyLines n s m).1 := by
  induction n generalizing s m with
  | zero => exact .refl s
  | succ n ih =>
    rw [copyLines]
    split
    · exact .refl s
    · exact ((keepsPlaces_clearPoison s _).trans (keepsPlaces_writeBytes _ _ _)).trans (ih _ _)

/-- What follows a page to its new frame changes pins and lines of contexts, and pending writes of cores. -/
theorem keepsPlaces_relocateState (s : State) (m : PageMove) (f : Nat → Nat) : KeepsPlaces s (relocateState s m f) := by
  refine ⟨fun k => ?_, fun i => ?_⟩
  · have hmap := kvGet_map (fun c : Ctx => { c with
      tablePins := c.tablePins.map (fun p => (f p.1, p.2))
      laneL := relocateLane f c.laneL
      laneC := relocateLane f c.laneC
      laneS := relocateLane f c.laneS }) s.ctxs k
    have hctx : (relocateState s m f).ctx k = (kvGet _ k).getD Ctx.reset := rfl
    rw [hctx]
    refine (congrArg (fun x => (Option.getD x Ctx.reset).place) hmap).trans ?_
    rw [State.ctx]
    cases kvGet s.ctxs k <;> rfl
  · have hmap := kvGet_map (fun c : CoreSt => { c with wpath := c.wpath.map (fun e =>
      if e.asid.toNat = m.asid ∧ m.va ≤ e.va.toNat ∧ e.va.toNat < m.va + m.size then { e with pa := f e.pa } else e) }) s.cores i
    have hcore : (relocateState s m f).core i = (kvGet _ i).getD CoreSt.reset := rfl
    rw [hcore]
    refine (congrArg (fun x => (Option.getD x CoreSt.reset).banks) hmap).trans ?_
    rw [State.core]
    cases kvGet s.cores i <;> rfl

theorem keepsPlaces_endMove (s : State) (m : PageMove) : KeepsPlaces s (endMove s m) := by
  unfold endMove
  extract_lets f s1
  have h1 : KeepsPlaces s s1 := ((keepsPlaces_followWaits s m f).trans (keepsPlaces_writeNat _ _ _ _)).trans
    (keepsPlaces_relocateState _ m f)
  exact h1.trans (keepsPlaces_of_eq rfl rfl)

theorem keepsPlaces_abandonMove (s : State) (m : PageMove) : KeepsPlaces s (abandonMove s m) :=
  (keepsPlaces_writeNat s _ _ _).trans (keepsPlaces_of_eq rfl rfl)

theorem keepsPlaces_goOnMove (s : State) (m : PageMove) (n : Nat) : KeepsPlaces s (goOnMove s m n).2 := by
  have h := keepsPlaces_copyLines n s m
  unfold goOnMove
  split
  · exact keepsPlaces_of_eq rfl rfl
  · generalize copyLines n s m = p at h
    obtain ⟨t, x⟩ := p
    dsimp only at h ⊢
    split
    · exact h.trans (keepsPlaces_endMove t x)
    · split
      · exact h.trans (keepsPlaces_abandonMove t x)
      · exact h.trans (keepsPlaces_of_eq rfl rfl)

theorem keepsPlaces_landMove (s : State) (k : Nat) (l : Lane) (m : PageMove) (p : Parked) : KeepsPlaces s (landMove s k l m p) := by
  have h := keepsPlaces_goOnMove s m m.total
  unfold landMove finishMove
  generalize goOnMove s m m.total = q at h
  obtain ⟨out, t⟩ := q
  dsimp only at h ⊢
  cases out with
  | error line => exact h.trans ((keepsPlaces_recordFatal t _ _ _ _ _ _ _).trans (keepsPlaces_finishParked _ k l))
  | status st => exact h.trans ((keepsPlaces_updLane t k l _).trans (keepsPlaces_finishParked _ k l))
  | more => exact h

theorem keepsPlaces_endMovesAt (s : State) (asid va : Nat) : KeepsPlaces s (endMovesAt s asid va) := by
  refine keepsPlaces_foldl (fun t m => ?_) _ s
  split
  · exact keepsPlaces_landMove t _ _ m _
  · exact keepsPlaces_goOnMove t m _

/-! ### Writes of the device, and images (R369) -/

theorem keepsPlaces_settledXlat (s : State) (die asid va : Nat) : KeepsPlaces s (settledXlat s die asid va).2 := by
  unfold settledXlat
  split
  · split
    · exact keepsPlaces_endMovesAt s asid va
    · exact .refl s
  · exact .refl s

theorem keepsPlaces_deviceWriteN (s : State) (die asid va n : Nat) (bs : List Byte) : KeepsPlaces s (deviceWriteN s die asid va n bs) := by
  unfold deviceWriteN
  generalize 0 = off
  induction pieces va n generalizing s off with
  | nil => exact .refl s
  | cons p ps ih =>
    rw [List.foldl_cons]
    have h := keepsPlaces_settledXlat s die asid p.1
    dsimp only
    generalize settledXlat s die asid p.1 = q at h
    obtain ⟨x, u⟩ := q
    cases x with
    | ok x =>
      exact h.trans ((((keepsPlaces_clearPoison u _).trans (keepsPlaces_writeBytes _ _ _)).trans (keepsPlaces_wakeIf _ _)).trans (ih _ _))
    | error f => exact h.trans (ih _ _)

theorem keepsPlaces_deviceWrite (s : State) (die asid va : Nat) (bs : List Byte) : KeepsPlaces s (deviceWrite s die asid va bs) :=
  keepsPlaces_deviceWriteN s die asid va _ bs

theorem keepsPlaces_writeImage (s : State) (k state : Nat) (stop : Bool) (spada : Nat) (r : Word × Word × Word) :
    KeepsPlaces s (writeImage s k state stop spada r) :=
  keepsPlaces_deviceWriteN s _ _ _ _ _

end Sys2Proof.Machine
end

section
/-! Proofs. Filling and emptying a bank: what loads an image, and what pays for slates, leaves places (O46). -/

namespace Sys2Proof.Machine

variable {s t u : State}

/-! ### Landing, meeting, and slots (R71, R104) -/

theorem Ctx.place_land (c : Ctx) : c.land.place = c.place := by
  simp only [Ctx.place, Ctx.land]

theorem keepsPlaces_landAll (s : State) (k : Nat) : KeepsPlaces s (landAll s k) := by
  unfold landAll
  extract_lets c due s1
  have h1 : KeepsPlaces s s1 :=
    keepsPlaces_foldl (fun t (e : PendAcc) => keepsPlaces_updCtx t k (f := fun x => { x with acc := x.acc.setIfInBounds e.acc e.val })
      fun _ => rfl) due s
  refine KeepsPlaces.trans (h1.trans ?_) (keepsPlaces_updCtx _ k Ctx.place_land)
  exact keepsPlaces_updCore s1 c.core fun _ => rfl

theorem keepsPlaces_countMeeting (s : State) (k : Nat) : KeepsPlaces s (countMeeting s k) := by
  unfold countMeeting
  extract_lets n s1
  have h1 : KeepsPlaces s s1 := (keepsPlaces_landAll s k).trans
    (keepsPlaces_foldl (fun t l => keepsPlaces_updLane t k l fun x => { x with lcnt := (x.lcnt + 1) % 2 ^ 64, arrived := false }) _ _)
  exact h1.trans (keepsPlaces_updCtx s1 k fun _ => rfl)

theorem keepsPlaces_leaveMeeting (s : State) (k pc : Nat) : KeepsPlaces s (leaveMeeting s k pc) :=
  keepsPlaces_foldl (fun t l => keepsPlaces_advance t k l pc 1) _ s

theorem CoreSt.banks_setImem_eq (c : CoreSt) (slot : Nat) (m : ImemSlot) : (c.setImem slot m).banks = c.banks := by
  unfold CoreSt.setImem
  split <;> rfl

theorem Ctx.place_setOvl (c : Ctx) (slot : Nat) (o : OvlSlot) (w : List (Nat × Nat)) :
    Ctx.place { c.setOvl slot o with ovlWait := w } = c.place := by
  unfold Ctx.setOvl
  split <;> rfl

theorem keepsPlaces_settleSlot (s : State) (k slot : Nat) : KeepsPlaces s (settleSlot s k slot) := by
  unfold settleSlot
  extract_lets c o m
  split
  · exact .refl s
  · split
    · exact keepsPlaces_updCore s _ fun x => x.banks_setImem_eq slot _
    · split
      · exact keepsPlaces_updCtx s k fun x => x.place_setOvl slot _ _
      · exact .refl s

/-! ### An image is loaded (R370) -/

theorem keepsPlaces_writeCtrl (s : State) (k n : Nat) (v : Word) : KeepsPlaces s (writeCtrl s k n v) := by
  unfold writeCtrl
  dsimp only
  split
  case h_1 | h_2 | h_3 | h_7 | h_8 | h_12 | h_14 | h_15 | h_16 | h_17 => exact keepsPlaces_updCtx s k fun _ => rfl
  case h_4 | h_5 | h_6 | h_9 | h_10 | h_11 => exact keepsPlaces_updLane s k _ _
  case h_13 =>
    split
    · exact .refl s
    · exact keepsPlaces_updCore s _ fun _ => rfl
  case h_18 =>
    split
    · exact keepsPlaces_updCore s _ fun _ => rfl
    · exact .refl s
  case h_19 =>
    split
    · exact keepsPlaces_updCtx s k fun _ => rfl
    · exact .refl s

theorem keepsPlaces_loadCtrl (s : State) (k n v : Nat) : KeepsPlaces s (loadCtrl s k n v) := by
  unfold loadCtrl
  dsimp only
  split
  case h_1 | h_2 | h_3 | h_6 | h_7 | h_8 => exact keepsPlaces_updCtx s k fun _ => rfl
  case h_4 => exact ((keepsPlaces_updLane s k .L _).trans (keepsPlaces_updLane _ k .C _)).trans (keepsPlaces_updLane _ k .S _)
  case h_5 => exact keepsPlaces_updCtx s k fun _ => rfl
  case h_9 => exact keepsPlaces_writeCtrl s k n _

theorem keepsPlaces_loadImage (s : State) (k : Nat) (bs : List Byte) : KeepsPlaces s (loadImage s k bs) := by
  unfold loadImage
  extract_lets was s1 pn fn vn an
  have h1 : KeepsPlaces s s1 := keepsPlaces_foldl (fun t (nv : Nat × Nat) => keepsPlaces_loadCtrl t k nv.1 nv.2) _ s
  refine h1.trans (keepsPlaces_updCtx s1 k fun c => ?_)
  simp only [Ctx.place, loadPins]

theorem keepsPlaces_resumeLanes (s : State) (k : Nat) (image : List Byte) : KeepsPlaces s (resumeLanes s k image) := by
  unfold resumeLanes
  exact keepsPlaces_updCtx s k fun _ => rfl

/-! ### Slates (R96, R99) -/

theorem keepsPlaces_completeWait (s : State) (q : Waiter) (d : BitVec 6) (v : Word) (scope : Option Nat) :
    KeepsPlaces s (completeWait s q d v scope) := by
  unfold completeWait
  extract_lets w s1 s2
  have h1 : KeepsPlaces s s1 := by
    unfold s1
    split
    · exact (keepsPlaces_acquireState s _ _ _ _).trans (keepsPlaces_joinMtcs _ _ _)
    · exact .refl s
  exact h1.trans (keepsPlaces_endWait s1 q.ctx q.lane d v)

theorem keepsPlaces_slTakeRead (s : State) (l k : Nat) : KeepsPlaces s (slTakeRead s l k) := by
  unfold slTakeRead
  refine KeepsPlaces.trans ?_ (keepsPlaces_updCtx _ k ?_)
  · exact keepsPlaces_writeNat s _ _ _
  · exact fun _ => rfl

theorem keepsPlaces_slTakeWrite (s : State) (l k : Nat) : KeepsPlaces s (slTakeWrite s l k) := by
  unfold slTakeWrite
  refine KeepsPlaces.trans ?_ (keepsPlaces_updCtx _ k ?_)
  · exact (keepsPlaces_setField s _ _ _ _).trans (keepsPlaces_setField _ _ _ _ _)
  · exact fun _ => rfl

theorem keepsPlaces_slServeOne (s : State) (l : Nat) (q : Waiter) : KeepsPlaces s (slServeOne s l q) := by
  unfold slServeOne
  split
  · split
    · exact keepsPlaces_completeWait s q _ _ _
    · split
      · exact keepsPlaces_completeWait s q _ _ _
      · split
        · exact (keepsPlaces_slTakeRead s l q.ctx).trans (keepsPlaces_completeWait _ q _ _ _)
        · exact .refl s
  · split
    · exact keepsPlaces_completeWait s q _ _ _
    · split
      · exact (keepsPlaces_slTakeWrite s l q.ctx).trans (keepsPlaces_completeWait _ q _ _ _)
      · exact .refl s
  · exact .refl s

theorem keepsPlaces_slServe (s : State) (l : Nat) : KeepsPlaces s (slServe s l) := by
  unfold slServe
  extract_lets ws
  split
  · exact keepsPlaces_touch s l
  · exact ((keepsPlaces_touch s l).trans (keepsPlaces_foldl (fun t q => keepsPlaces_slServeOne t l q) ws _)).trans
      (keepsPlaces_slWaitq _ l)

theorem keepsPlaces_releaseSlate (s : State) (key : Nat) (v : Option (BitVec 32)) (k : Nat) : KeepsPlaces s (releaseSlate s key v k) := by
  unfold releaseSlate
  split
  · exact .refl s
  · split
    · exact (keepsPlaces_writeNat s _ _ _).trans (keepsPlaces_slServe _ _)
    · split
      · exact (keepsPlaces_setField s _ _ _ _).trans (keepsPlaces_slServe _ _)
      · exact .refl s

theorem keepsPlaces_payOwed (s : State) (k : Nat) : KeepsPlaces s (payOwed s k) := by
  have hslates := keepsPlaces_foldl (fun t (o : Nat × Option (BitVec 32) × Nat) => keepsPlaces_releaseSlate t o.1 o.2.1 o.2.2)
    (s.ctx k).slateOwed s
  exact hslates.trans (keepsPlaces_updCtx _ k fun _ => rfl)

/-! ### A bank is emptied, filled, or swapped (R138, R367, R370) -/

theorem core_setSpill (s : State) (core bank : Nat) (q : Option (Nat × Lane)) :
    ((setSpill s core bank q).core core).spillOf bank = q ∧ (setSpill s core bank q).ctxs = s.ctxs
      ∧ ((setSpill s core bank q).core core).bankCtx bank = (s.core core).bankCtx bank := by
  rw [setSpill, State.core_updCore]
  by_cases h : bank = 0 <;> simp [CoreSt.spillOf, CoreSt.bankCtx, h]

/-- The bank of a context is free, whichever it is. -/
theorem bankCtx_freeBank {core bank k : Nat} (hcore : (s.ctx k).core = core) (hbank : (s.core core).bankCtx bank = some k) (b : Bool) :
    ((freeBank s k b).core core).bankCtx bank = none := by
  unfold freeBank
  rw [hcore, State.core_updCore]
  by_cases h : bank = 0 <;> simp only [CoreSt.bankCtx, h, if_true, if_false] at hbank ⊢ <;> exact if_pos hbank

/-- A spill that completes, but for the waits that it cancels and the bytes that it writes. -/
theorem completeSpill_eq (s : State) (core bank k asid share : Nat) : ∃ u, KeepsPlaces s u ∧ completeSpill s core bank k asid share
    = setSpill ((freeBank u k false).updCtx k (fun x => { x with res := .spilled, image := 2 })) core bank none := by
  unfold completeSpill
  extract_lets s0 locs qs s1 c stop s2 s3
  have h1 : KeepsPlaces s s1 := ((keepsPlaces_landAll s k).trans (keepsPlaces_cancelWaits s0 qs)).trans (keepsPlaces_wakeIf _ _)
  exact ⟨s3, (h1.trans (keepsPlaces_deviceWrite s1 _ _ _ _)).trans (keepsPlaces_writeImage s2 _ _ _ _ _), rfl⟩

/-- A spill that completes leaves its context spilled, its bank empty, and the spill engine free. -/
theorem completeSpill_empties {core bank k : Nat} (hcore : (s.ctx k).core = core) (hbank : (s.core core).bankCtx bank = some k)
    (asid share : Nat) : ((completeSpill s core bank k asid share).ctx k).res = .spilled
      ∧ ((completeSpill s core bank k asid share).core core).bankCtx bank = none
      ∧ ((completeSpill s core bank k asid share).core core).spillOf bank = none := by
  obtain ⟨u, hu, heq⟩ := completeSpill_eq s core bank k asid share
  obtain ⟨hspill, hctxs, hkeeps⟩ :=
    core_setSpill ((freeBank u k false).updCtx k (fun x => { x with res := .spilled, image := 2 })) core bank none
  have hfree := bankCtx_freeBank ((hu.core k).trans hcore) ((hu.bankCtx core bank).trans hbank) false
  rw [← heq] at hspill hctxs hkeeps
  refine ⟨?_, hkeeps.trans hfree, hspill⟩
  rw [State.ctx, hctxs]
  exact congrArg Ctx.res (State.ctx_updCtx _ k _)

/-- A bank takes a context, and is active where no context was. -/
def CoreSt.take (c : CoreSt) (bank k : Nat) : CoreSt :=
  { c.setBank bank (some k) with active := if (c.bankCtx c.active).isNone then bank else c.active }

theorem CoreSt.bankCtx_take (c : CoreSt) (bank k : Nat) : (c.take bank k).bankCtx bank = some k := by
  by_cases h : bank = 0 <;> simp [CoreSt.take, CoreSt.bankCtx, CoreSt.setBank, h]

/-- A fill that completes, but for what it loads and writes. -/
theorem completeFill_eq (s : State) (core bank k asid area : Nat) (image share : List Byte) :
    ∃ u : State, (u.ctx k).core = core ∧ (u.ctx k).bank = bank
      ∧ (u.ctx k).res = (if bits (blkWord image 0) 18 1 == 1 then .stopped else .resident)
      ∧ KeepsPlaces (u.updCore core (fun c => c.take bank k)) (completeFill s core bank k asid area image share) := by
  unfold completeFill
  extract_lets w stop die r base s0 s1 s2 locs s3 s4 s5
  have hbase : s0.ctx k = { fillBase s die k image with core := core, bank := bank } := State.ctx_setCtx s k _
  have hload := keepsPlaces_loadImage s0 k (image.drop 0x100)
  have hs1 : (s1.ctx k).core = ((loadImage s0 k (image.drop 0x100)).ctx k).core
      ∧ (s1.ctx k).bank = ((loadImage s0 k (image.drop 0x100)).ctx k).bank
      ∧ (s1.ctx k).res = if stop then .stopped else .resident := by
    rw [State.ctx_updCtx]
    generalize (loadImage s0 k (image.drop 0x100)).ctx k = c
    exact ⟨rfl, rfl, rfl⟩
  obtain ⟨hcore, hbank, hres⟩ := hs1
  have h4 : KeepsPlaces s1 s4 := (((keepsPlaces_resumeLanes s1 k image).trans (keepsPlaces_clearPoison s2 locs)).trans
    (keepsPlaces_setBytes _ _)).trans (keepsPlaces_deviceWrite s3 _ _ _ _)
  refine ⟨s4, ?_, ?_, ?_, (((keepsPlaces_settleSlot s5 k 0).trans (keepsPlaces_settleSlot _ k 1)).trans
    (keepsPlaces_acquireState _ core asid 4 .all)).trans (keepsPlaces_payOwed _ k)⟩
  · exact (h4.core k).trans (hcore.trans ((hload.core k).trans (congrArg Ctx.core hbase)))
  · exact (h4.bank k).trans (hbank.trans ((hload.bank k).trans (congrArg Ctx.bank hbase)))
  · exact (h4.res k).trans hres

/-- A fill that completes leaves its context in the bank, resident or stopped by its image. -/
theorem completeFill_fills (s : State) (core bank k asid area : Nat) (image share : List Byte) :
    ((completeFill s core bank k asid area image share).core core).bankCtx bank = some k
      ∧ ((completeFill s core bank k asid area image share).ctx k).core = core
      ∧ ((completeFill s core bank k asid area image share).ctx k).bank = bank
      ∧ ((completeFill s core bank k asid area image share).ctx k).res
        = if bits (blkWord image 0) 18 1 = 1 then .stopped else .resident := by
  obtain ⟨u, hcore, hbank, hres, hkeeps⟩ := completeFill_eq s core bank k asid area image share
  refine ⟨?_, (hkeeps.core k).trans hcore, (hkeeps.bank k).trans hbank, (hkeeps.res k).trans (hres.trans ?_)⟩
  · rw [hkeeps.bankCtx, State.core_updCore, CoreSt.bankCtx_take]
  · simp only [beq_iff_eq]

theorem resumeFrom_resumes (s : State) (k area : Nat) (image : List Byte) :
    ((resumeFrom s k area image).ctx k).res = .resident ∧ ((resumeFrom s k area image).ctx k).reportDue = false := by
  unfold resumeFrom
  extract_lets t1 t2
  have h := keepsPlaces_deviceWrite t2 (dieOfCore (s.ctx k).core) (saveAsid s k) area (bytesOf (putBits (blkWord image 0) 18 1 0) 8)
  rw [h.res, h.reportDue, State.ctx_updCtx]
  exact ⟨rfl, rfl⟩

/-- A swap to a context of the other bank makes that bank active. -/
theorem active_swapBanks {core k : Nat} (hk : (s.core core).bankCtx (s.core core).other = some k) :
    ((swapBanks s core).core core).active = (s.core core).other := by
  unfold swapBanks
  extract_lets c s1
  rw [hk]
  dsimp only
  rw [(keepsPlaces_settleSlot _ k 1).active, (keepsPlaces_settleSlot _ k 0).active, State.core_updCore]

end Sys2Proof.Machine
end

section
/-! Proofs. CTXSW, WAITI, CTXSPILL and CTXFILL (O46). -/

namespace Sys2Proof.Machine

variable {s t u v : State} {h : Hdr} {o : SysOps} {bs : List Byte}

/-! ### CTXSW and WAITI (R138, R354, R367) -/

/-- The state in which the last lane has reached a meeting point and every live lane has gone past it. -/
def State.met (s : State) : State := leaveMeeting (countMeeting s s.cur.ctx) s.cur.ctx s.cur.pc

theorem keepsPlaces_met (s : State) : KeepsPlaces s s.met := (keepsPlaces_countMeeting s _).trans (keepsPlaces_leaveMeeting _ _ _)

theorem cur_met (s : State) : s.met.cur = s.cur := (pastMeeting_leave s s.cur.ctx s.cur.pc).2.1

theorem myCore_met (s : State) : s.met.myCore = s.me.core := by
  have hcore := (keepsPlaces_met s).core s.cur.ctx
  rw [State.myCore, State.me, cur_met]
  exact hcore

theorem State.core_setRes (s : State) (r : Issued) (i : Nat) : (s.setRes r).core i = s.core i := rfl

/-- Where no loop is open, a live lane that has gone past a meeting point stands at the next word. -/
theorem lane_met (hloops : ∀ m, (s.me.queues m).loops = []) {m : Lane} (hm : m ∈ s.me.liveLanes) :
    ((s.met.setRes .met).me.lane m).pc = s.cur.pc + 1 ∧ ((s.met.setRes .met).me.lane m).arrived = false
      ∧ ((s.met.setRes .met).me.lane m).lcnt = ((s.me.lane m).lcnt + 1) % 2 ^ 64 := by
  obtain ⟨hpast, -⟩ := pastMeeting_leave s s.cur.ctx s.cur.pc
  have hme : (s.met.setRes .met).me = s.met.ctx s.cur.ctx := by
    rw [State.me_setRes, State.me, cur_met]
  obtain ⟨hpc, -, -, -, harrived, -, -, hlcnt, -⟩ := hpast.lane hm
  rw [show ((s.ctx s.cur.ctx).queues m).loops = [] from hloops m] at hpc
  rw [hme]
  exact ⟨hpc, harrived, hlcnt⟩

section
variable (hp : s.me.holdsPriv = true)
include hp

theorem exec_ctxsw_early (hall : s.allMet = false) :
    exec (.ctxsw h o) s = .next ((s.updMyLane (fun x => { x with arrived := true })).setRes .met) := by
  change execCtxsw h o s = _
  rw [execCtxsw, privileged_held hp, atMeeting_early hall]

theorem exec_ctxsw_last (hall : s.allMet = true) : exec (.ctxsw h o) s
    = .next ((if (otherReady s.met s.me.core).isSome then swapBanks s.met s.me.core else s.met).setRes .met) := by
  change execCtxsw h o s = _
  rw [execCtxsw, privileged_held hp, atMeeting_last hall, (counted_countMeeting s s.cur.ctx).cur]
  change Host.Outcome.next ((if (otherReady s.met s.met.myCore).isSome then swapBanks s.met s.met.myCore else s.met).setRes .met) = _
  rw [myCore_met]

theorem exec_waiti_early (hall : s.allMet = false) :
    exec (.waiti h o) s = .next ((s.updMyLane (fun x => { x with arrived := true })).setRes .met) := by
  change execWaiti h o s = _
  rw [execWaiti, privileged_held hp, if_neg (by simp [hall]), atMeeting_early hall]

theorem exec_waiti_last (hall : s.allMet = true) : exec (.waiti h o) s
    = .next (if readCtrl s s.cur.ctx 0x030 &&& waitiMask s o = 0 then s.setRes .stalled else s.met.setRes .met) := by
  change execWaiti h o s = _
  rw [execWaiti, privileged_held hp]
  by_cases hnone : readCtrl s s.cur.ctx 0x030 &&& waitiMask s o = 0
  · rw [if_pos ⟨hall, hnone⟩, if_pos hnone]
  · rw [if_neg (fun hboth => hnone hboth.2), if_neg hnone, atMeeting_last hall, (counted_countMeeting s s.cur.ctx).cur]
    rfl

/-- A ready context of the other bank takes over. -/
theorem ctxsw_swaps (hall : s.allMet = true) {k : Nat} (hk : otherReady s.met s.me.core = some k) :
    ∃ t, exec (.ctxsw h o) s = .next t ∧ t.cur.res = .met ∧ (t.core s.me.core).active = (s.core s.me.core).other := by
  have hplaces := keepsPlaces_met s
  have hother : (s.met.core s.me.core).other = (s.core s.me.core).other := congrArg (1 - ·) (hplaces.active s.me.core)
  obtain ⟨j, hj⟩ : ∃ j, (s.met.core s.me.core).bankCtx (s.met.core s.me.core).other = some j := by
    unfold otherReady at hk
    dsimp only at hk
    split at hk
    · next j hj => exact ⟨j, hj⟩
    · cases hk
  rw [exec_ctxsw_last hp hall, hk, Option.isSome_some, if_pos rfl]
  refine ⟨_, rfl, rfl, ?_⟩
  rw [State.core_setRes]
  exact (active_swapBanks hj).trans hother

end

/-! ### CTXSPILL and CTXFILL read a block (R370) -/

/-- A privileged instruction that reads its block of 16 bytes and goes on. -/
theorem privileged_load {opc : Nat} {f : State → List Byte → Op Unit} (hp : s.me.holdsPriv = true) (ha : s.active h = true)
    (hload : Runs s (loadBytes s.who (s.srcS 1 o.a).toNat 16) bs u) (hf : Runs u (f s bs) () t) :
    privileged s opc (fun s => gateOp h s (loadBytes s.who (s.srcS 1 o.a).toNat 16 >>= f s)) = .next t := by
  rw [privileged_held hp, gateOp_active ha]
  exact runOp_ok (hload.bind hf)

theorem runs_putResult (s : State) (d : BitVec 6) (v : Word) : Runs s (putResult d v) () (s.wrS d v 0) := run_modify _ s

/-- A spill that has begun waits for commands of its context that are on the scoreboard, or signal a scratchpad counter. -/
theorem runs_goOnSpill_waits {core bank k : Nat} (hbank : (s.core core).bankCtx bank = some k)
    (hcmd : ∃ c ∈ s.cmds, c.ctx = k ∧ c.blocksSpill = true) (d : BitVec 6) (share : Nat) :
    Runs s (goOnSpill d core bank share) () (s.setRes .parked) := by
  obtain ⟨c, hc, hctx, hblocks⟩ := hcmd
  have hany : (s.cmds.any fun c => c.ctx == k && c.blocksSpill) = true :=
    List.any_eq_true.mpr ⟨c, hc, by rw [hblocks, beq_iff_eq.mpr hctx]; rfl⟩
  refine Runs.bind (run_get s) ?_
  rw [hbank]
  dsimp only
  rw [hany, Bool.or_true, if_pos rfl]
  exact run_modify _ s

/-- Else it completes, where its context has no fault and its share no error. -/
theorem runs_goOnSpill_completes {core bank k : Nat} (hbank : (s.core core).bankCtx bank = some k) (hfatal : (s.ctx k).fatal = none)
    (hcmd : ∀ c ∈ s.cmds, c.ctx = k → c.blocksSpill = false) (hclean : spillPoison s k bank = none) (d : BitVec 6) (share : Nat) :
    Runs s (goOnSpill d core bank share) () ((completeSpill s core bank k s.me.ctrl.asid.toNat share).wrS d 0 0) := by
  have hany : (s.cmds.any fun c => c.ctx == k && c.blocksSpill) = false := by
    refine List.any_eq_false.mpr fun c hc hboth => ?_
    rw [Bool.and_eq_true, beq_iff_eq] at hboth
    exact Bool.false_ne_true ((hcmd c hc hboth.1).symm.trans hboth.2)
  refine Runs.bind (run_get s) ?_
  rw [hbank]
  dsimp only
  rw [hany, hfatal, hclean]
  exact Runs.bind (run_set _ s) (runs_putResult _ d 0)

theorem State.core_wrS (s : State) (d : BitVec 6) (v : Word) (n i : Nat) : (s.wrS d v n).core i = s.core i := rfl

/-- What a spill that completes at once leaves. -/
theorem goOnSpill_empties {core bank k : Nat} (hbank : (s.core core).bankCtx bank = some k) (hfatal : (s.ctx k).fatal = none)
    (hcmd : ∀ c ∈ s.cmds, c.ctx = k → c.blocksSpill = false) (hclean : spillPoison s k bank = none) (hcore : (s.ctx k).core = core)
    (d : BitVec 6) (share : Nat) : ∃ t, Runs s (goOnSpill d core bank share) () t ∧ (t.ctx k).res = .spilled
      ∧ (t.core core).bankCtx bank = none ∧ (t.core core).spillOf bank = none := by
  obtain ⟨hres, hempty, hspill⟩ := completeSpill_empties hcore hbank s.me.ctrl.asid.toNat share
  refine ⟨_, runs_goOnSpill_completes hbank hfatal hcmd hclean d share, ((keepsPlaces_wrS _ d 0 0).res k).trans hres, ?_, ?_⟩
  · rw [State.core_wrS, hempty]
  · rw [State.core_wrS, hspill]

theorem runs_spillRead_clean {die asid a n : Nat} (hclean : devicePoison s die asid a n = none) :
    Runs s (spillRead die asid a n) (deviceRead s die asid a n) s := by
  refine Runs.bind (run_get s) ?_
  rw [hclean]
  rfl

/-- What CTXSPILL does once it has its block. -/
def spillOp (d : BitVec 6) (s : State) (core bank area : Nat) : Op Unit :=
  if !deviceHalf area 65536 then putResult d 5
  else
    match (s.core core).spillOf bank, (s.core core).bankCtx bank with
    | some q, _ => if q = (s.cur.ctx, s.cur.lane) then goOnSpill d core bank area else putResult d 6
    | none, none => putResult d 1
    | none, some k => do
      touchPages s.who true area (4 * bankShare (s.core core) bank)
      modify (fun t => setSpill (beginSpill t core bank k) core bank (some (s.cur.ctx, s.cur.lane)))
      goOnSpill d core bank area

/-- What CTXSPILL.kill does once it has its block. -/
def killOp (d : BitVec 6) (s : State) (core bank : Nat) : Op Unit :=
  match (s.core core).spillOf bank, (s.core core).bankCtx bank with
  | some q, none =>
    if q = (s.cur.ctx, s.cur.lane) then do
      modify (fun t => setSpill t core bank none)
      putResult d 0
    else putResult d 6
  | some q, some _ => if q = (s.cur.ctx, s.cur.lane) then waitSpill else putResult d 6
  | none, none => putResult d 1
  | none, some k => do
    modify (fun t => setSpill (endAsFault t k .killed 0 0 0) core bank (some (s.cur.ctx, s.cur.lane)))
    waitSpill

/-- What CTXFILL does once it has its block. -/
def fillOp (d : BitVec 6) (s : State) (core bank area : Nat) : Op Unit :=
  if !deviceHalf area 4096 then putResult d 5
  else if ((s.core core).spillOf bank).isSome then putResult d 6
  else if ((s.core core).bankCtx bank).isSome then putResult d 2
  else do
    touchPages s.who true area imageSize
    let image ← spillRead (dieOfCore core) s.me.ctrl.asid.toNat area imageSize
    fillFrom d core bank area (image.getD [])

/-- What CTXFILL.resume does once it has its block. -/
def resumeOp (d : BitVec 6) (s : State) (core bank : Nat) : Op Unit :=
  match (s.core core).bankCtx bank with
  | none => putResult d 4
  | some k =>
    if ((s.core core).spillOf bank).isSome then putResult d 6
    else if (s.ctx k).res != .stopped then putResult d 4
    else do
      match ← spillRead (dieOfCore core) (saveAsid s k) (s.ctx k).ctrl.savea.toNat imageSize with
      | none => putResult d 3
      | some image =>
        modify (fun t => resumeFrom t k (s.ctx k).ctrl.savea.toNat image)
        putResult d 0

section
variable (hp : s.me.holdsPriv = true) (ha : s.active h = true) (hload : Runs s (loadBytes s.who (s.srcS 1 o.a).toNat 16) bs u)
include hp ha hload

variable {core bank : Nat} (htarget : targetBank s (blkWord bs 0) = (core, bank))
include htarget

theorem exec_ctxspill (hgo : Runs u (spillOp o.d s core bank (blkWord bs 1)) () t) : exec (.ctxspill h o) s = .next t := by
  change execCtxspill h o s = _
  refine privileged_load hp ha hload ?_
  dsimp only
  rw [htarget]
  exact hgo

theorem exec_ctxspillKill (hgo : Runs u (killOp o.d s core bank) () t) : exec (.ctxspillKill h o) s = .next t := by
  change execCtxspillKill h o s = _
  refine privileged_load hp ha hload ?_
  dsimp only
  rw [htarget]
  exact hgo

theorem exec_ctxfill (hgo : Runs u (fillOp o.d s core bank (blkWord bs 1)) () t) : exec (.ctxfill h o) s = .next t := by
  change execCtxfill h o s = _
  refine privileged_load hp ha hload ?_
  dsimp only
  rw [htarget]
  exact hgo

theorem exec_ctxfillResume (hgo : Runs u (resumeOp o.d s core bank) () t) : exec (.ctxfillResume h o) s = .next t := by
  change execCtxfillResume h o s = _
  refine privileged_load hp ha hload ?_
  dsimp only
  rw [htarget]
  exact hgo

end

section
variable {d : BitVec 6} {core bank area : Nat}

theorem runs_spillOp_outside (hbad : deviceHalf area 65536 = false) : Runs u (spillOp d s core bank area) () (u.wrS d 5 0) := by
  rw [spillOp, hbad]
  exact runs_putResult u d 5

theorem runs_spillOp_empty (hdev : deviceHalf area 65536 = true) (hspill : (s.core core).spillOf bank = none)
    (hbank : (s.core core).bankCtx bank = none) : Runs u (spillOp d s core bank area) () (u.wrS d 1 0) := by
  rw [spillOp, hdev, hspill, hbank]
  exact runs_putResult u d 1

theorem runs_spillOp_busy (hdev : deviceHalf area 65536 = true) {q : Nat × Lane} (hspill : (s.core core).spillOf bank = some q)
    (hq : q ≠ (s.cur.ctx, s.cur.lane)) : Runs u (spillOp d s core bank area) () (u.wrS d 6 0) := by
  rw [spillOp, hdev, hspill]
  dsimp only
  rw [if_neg hq]
  exact runs_putResult u d 6

/-- A spill that begins goes on at once. -/
theorem runs_spillOp_begins (hdev : deviceHalf area 65536 = true) (hspill : (s.core core).spillOf bank = none) {k : Nat}
    (hbank : (s.core core).bankCtx bank = some k)
    (htouch : Runs u (touchPages s.who true area (4 * bankShare (s.core core) bank)) () v)
    (hgo : Runs (setSpill (beginSpill v core bank k) core bank (some (s.cur.ctx, s.cur.lane))) (goOnSpill d core bank area) () t) :
    Runs u (spillOp d s core bank area) () t := by
  rw [spillOp, hdev, hspill, hbank]
  exact htouch.bind (Runs.bind (run_modify _ v) hgo)

theorem runs_killOp_empty (hspill : (s.core core).spillOf bank = none) (hbank : (s.core core).bankCtx bank = none) :
    Runs u (killOp d s core bank) () (u.wrS d 1 0) := by
  rw [killOp, hspill, hbank]
  exact runs_putResult u d 1

theorem runs_killOp_busy {q : Nat × Lane} (hspill : (s.core core).spillOf bank = some q) (hq : q ≠ (s.cur.ctx, s.cur.lane)) :
    Runs u (killOp d s core bank) () (u.wrS d 6 0) := by
  rw [killOp, hspill]
  cases (s.core core).bankCtx bank <;> dsimp only <;> rw [if_neg hq] <;> exact runs_putResult u d 6

theorem runs_killOp_kills (hspill : (s.core core).spillOf bank = none) {k : Nat} (hbank : (s.core core).bankCtx bank = some k) :
    Runs u (killOp d s core bank) ()
      ((setSpill (endAsFault u k .killed 0 0 0) core bank (some (s.cur.ctx, s.cur.lane))).setRes .parked) := by
  rw [killOp, hspill, hbank]
  exact Runs.bind (run_modify _ u) (run_modify _ _)

theorem runs_fillOp_outside (hbad : deviceHalf area 4096 = false) : Runs u (fillOp d s core bank area) () (u.wrS d 5 0) := by
  rw [fillOp, hbad]
  exact runs_putResult u d 5

theorem runs_fillOp_busy (hdev : deviceHalf area 4096 = true) (hspill : ((s.core core).spillOf bank).isSome = true) :
    Runs u (fillOp d s core bank area) () (u.wrS d 6 0) := by
  rw [fillOp, hdev, hspill]
  exact runs_putResult u d 6

theorem runs_fillOp_occupied (hdev : deviceHalf area 4096 = true) (hspill : (s.core core).spillOf bank = none)
    (hbank : ((s.core core).bankCtx bank).isSome = true) : Runs u (fillOp d s core bank area) () (u.wrS d 2 0) := by
  rw [fillOp, hdev, hspill, hbank]
  exact runs_putResult u d 2

/-- A fill of a free bank reads its image and goes on. -/
theorem runs_fillOp_reads (hdev : deviceHalf area 4096 = true) (hspill : (s.core core).spillOf bank = none)
    (hbank : (s.core core).bankCtx bank = none) (htouch : Runs u (touchPages s.who true area imageSize) () v)
    (hclean : devicePoison v (dieOfCore core) s.me.ctrl.asid.toNat area imageSize = none)
    (hgo : Runs v (fillFrom d core bank area ((deviceRead v (dieOfCore core) s.me.ctrl.asid.toNat area imageSize).getD [])) () t) :
    Runs u (fillOp d s core bank area) () t := by
  rw [fillOp, hdev, hspill, hbank]
  exact htouch.bind ((runs_spillRead_clean hclean).bind hgo)

theorem runs_resumeOp_none (hbank : (s.core core).bankCtx bank = none) : Runs u (resumeOp d s core bank) () (u.wrS d 4 0) := by
  rw [resumeOp, hbank]
  exact runs_putResult u d 4

variable {k : Nat} (hbank : (s.core core).bankCtx bank = some k)
include hbank

theorem runs_resumeOp_busy (hspill : ((s.core core).spillOf bank).isSome = true) :
    Runs u (resumeOp d s core bank) () (u.wrS d 6 0) := by
  rw [resumeOp, hbank]
  dsimp only
  rw [if_pos hspill]
  exact runs_putResult u d 6

theorem runs_resumeOp_running (hspill : (s.core core).spillOf bank = none) (hres : (s.ctx k).res ≠ .stopped) :
    Runs u (resumeOp d s core bank) () (u.wrS d 4 0) := by
  rw [resumeOp, hbank]
  dsimp only
  rw [hspill, if_neg (by decide), if_pos (bne_iff_ne.mpr hres)]
  exact runs_putResult u d 4

variable (hspill : (s.core core).spillOf bank = none) (hres : (s.ctx k).res = .stopped)
  (hclean : devicePoison u (dieOfCore core) (saveAsid s k) (s.ctx k).ctrl.savea.toNat imageSize = none)
include hspill hres hclean

theorem runs_resumeOp_unread
    (hread : deviceRead u (dieOfCore core) (saveAsid s k) (s.ctx k).ctrl.savea.toNat imageSize = none) :
    Runs u (resumeOp d s core bank) () (u.wrS d 3 0) := by
  have hrun := runs_spillRead_clean hclean
  rw [hread] at hrun
  rw [resumeOp, hbank]
  dsimp only
  rw [hspill, if_neg (by decide), hres, if_neg (by decide)]
  exact hrun.bind (runs_putResult u d 3)

/-- A stopped context resumes from its save area, where that can be read. -/
theorem resumeOp_resumes {image : List Byte}
    (hread : deviceRead u (dieOfCore core) (saveAsid s k) (s.ctx k).ctrl.savea.toNat imageSize = some image) :
    ∃ t, Runs u (resumeOp d s core bank) () t ∧ (t.ctx k).res = .resident ∧ (t.ctx k).reportDue = false := by
  obtain ⟨hresident, hreport⟩ := resumeFrom_resumes u k (s.ctx k).ctrl.savea.toNat image
  have hput := keepsPlaces_wrS (resumeFrom u k (s.ctx k).ctrl.savea.toNat image) d 0 0
  have hrun := runs_spillRead_clean hclean
  rw [hread] at hrun
  refine ⟨_, ?_, (hput.res k).trans hresident, (hput.reportDue k).trans hreport⟩
  rw [resumeOp, hbank]
  dsimp only
  rw [hspill, if_neg (by decide), hres, if_neg (by decide)]
  exact hrun.bind (Runs.bind (run_modify _ u) (runs_putResult _ d 0))

end

/-! ### An image that has been read (R138) -/

section
variable {core bank area : Nat} {image : List Byte} (d : BitVec 6)

theorem runs_fillFrom_unfit (hfit : imageFits s core image = false) :
    Runs s (fillFrom d core bank area image) () (s.wrS d 3 0) := by
  refine Runs.bind (run_get s) ?_
  dsimp only
  rw [hfit]
  exact runs_putResult s d 3

/-- A CHECKED context does not go beside another one. -/
theorem runs_fillFrom_beside (hfit : imageFits s core image = true)
    (hfree : ¬ ((fillBase s (dieOfCore core) (fillKey s image) image).ctrl.chk = false ∨ upperFree s core = true)) :
    Runs s (fillFrom d core bank area image) () (s.wrS d 2 0) := by
  rw [not_or, Bool.not_eq_false, Bool.not_eq_true] at hfree
  obtain ⟨hchk, hupper⟩ := hfree
  refine Runs.bind (run_get s) ?_
  dsimp only
  rw [hfit, hchk, hupper]
  exact runs_putResult s d 2

theorem runs_fillFrom_fills (hfit : imageFits s core image = true)
    (hfree : (fillBase s (dieOfCore core) (fillKey s image) image).ctrl.chk = false ∨ upperFree s core = true)
    {share : Option (List Byte)}
    (hshare : Runs s (do
      touchPages s.who false (blkWord image 1) (4 * bankShare (s.core core) bank)
      drain (s.ctx (fillKey s image)).core (fun e => e.ctx == fillKey s image)
      spillRead (dieOfCore core) s.me.ctrl.asid.toNat (blkWord image 1) (4 * bankShare (s.core core) bank)) share t) :
    Runs s (fillFrom d core bank area image) ()
      ((completeFill t core bank (fillKey s image) s.me.ctrl.asid.toNat area image (share.getD [])).wrS d 0 0) := by
  have hbeside : ((fillBase s (dieOfCore core) (fillKey s image) image).ctrl.chk && !upperFree s core) = false := by
    rcases hfree with hchk | hupper
    · rw [hchk, Bool.false_and]
    · rw [hupper, Bool.not_true, Bool.and_false]
  refine Runs.bind (run_get s) ?_
  dsimp only
  rw [hfit, hbeside, if_neg (by decide), if_neg (by decide)]
  have hgo := hshare.bind (f := fun share => do
    modify (fun t => completeFill t core bank (fillKey s image) s.me.ctrl.asid.toNat area image (share.getD []))
    putResult d 0) (Runs.bind (run_modify _ t) (runs_putResult _ d 0))
  simpa only [bind_assoc] using hgo

end

/-! ### The statement -/

/-- What a fill that completes leaves. -/
theorem fillFrom_fills {core bank area : Nat} {image : List Byte} (hfit : imageFits s core image = true)
    (hfree : (fillBase s (dieOfCore core) (fillKey s image) image).ctrl.chk = false ∨ upperFree s core = true)
    {share : Option (List Byte)}
    (hshare : Runs s (do
      touchPages s.who false (blkWord image 1) (4 * bankShare (s.core core) bank)
      drain (s.ctx (fillKey s image)).core (fun e => e.ctx == fillKey s image)
      spillRead (dieOfCore core) s.me.ctrl.asid.toNat (blkWord image 1) (4 * bankShare (s.core core) bank)) share t) (d : BitVec 6) :
    ∃ v, Runs s (fillFrom d core bank area image) () v ∧ (v.core core).bankCtx bank = some (fillKey s image)
      ∧ (v.ctx (fillKey s image)).core = core ∧ (v.ctx (fillKey s image)).bank = bank
      ∧ (v.ctx (fillKey s image)).res = if bits (blkWord image 0) 18 1 = 1 then .stopped else .resident := by
  obtain ⟨hfill, hcore, hbank, hres⟩ := completeFill_fills t core bank (fillKey s image) s.me.ctrl.asid.toNat area image (share.getD [])
  have hput := keepsPlaces_wrS (completeFill t core bank (fillKey s image) s.me.ctrl.asid.toNat area image (share.getD [])) d 0 0
  exact ⟨_, runs_fillFrom_fills d hfit hfree hshare, (hput.bankCtx core bank).trans hfill, (hput.core _).trans hcore,
    (hput.bank _).trans hbank, (hput.res _).trans hres⟩

theorem exec_unprivileged (hp : s.me.holdsPriv = false) (h : Hdr) (o : SysOps) :
    exec (.ctxsw h o) s = .next (trapHere s .privilege 0xE3 0) ∧ exec (.waiti h o) s = .next (trapHere s .privilege 0xE8 0)
      ∧ exec (.ctxspill h o) s = .next (trapHere s .privilege 0xE4 0)
      ∧ exec (.ctxspillKill h o) s = .next (trapHere s .privilege 0xE4 0)
      ∧ exec (.ctxfill h o) s = .next (trapHere s .privilege 0xE5 0)
      ∧ exec (.ctxfillResume h o) s = .next (trapHere s .privilege 0xE5 0) := by
  refine ⟨?_, ?_, ?_, ?_, ?_, ?_⟩
  · change execCtxsw h o s = _; rw [execCtxsw, privileged_trap hp]
  · change execWaiti h o s = _; rw [execWaiti, privileged_trap hp]
  · change execCtxspill h o s = _; rw [execCtxspill, privileged_trap hp]
  · change execCtxspillKill h o s = _; rw [execCtxspillKill, privileged_trap hp]
  · change execCtxfill h o s = _; rw [execCtxfill, privileged_trap hp]
  · change execCtxfillResume h o s = _; rw [execCtxfillResume, privileged_trap hp]

/-- Settles O46: a meeting point leaves places as they are until the banks swap; a spill and a fill end with the bank and the
context as the statement says, whatever is cancelled, written and loaded before; each status is found where its
conditions hold. -/
theorem bankControl : Obligations.BankControl := by
  intro h o s u bs me ret core bank b die area asid movedOn arrives noLoops
  refine ⟨fun hp => ⟨exec_ctxsw_early hp, exec_waiti_early hp, fun hall => ⟨fun hloops hnone => ?_,
    fun k hk => ctxsw_swaps hp hall hk,
    fun hloops hbits => ?_, fun hbits => ?_⟩⟩, fun hp ha hload => ?_, fun hp => exec_unprivileged hp h o⟩
  · refine ⟨s.met.setRes .met, ?_, rfl, fun m hm => lane_met hloops hm⟩
    rw [exec_ctxsw_last hp hall, show otherReady s.met s.me.core = none from hnone]
    rfl
  · refine ⟨s.met.setRes .met, ?_, rfl, fun m hm => lane_met hloops hm⟩
    rw [exec_waiti_last hp hall, if_neg hbits]
  · rw [exec_waiti_last hp hall, if_pos hbits]
  · have ht : targetBank s (blkWord bs 0) = (core, bank) := rfl
    have spill {t : State} := exec_ctxspill (h := h) (t := t) hp ha hload ht
    have kill {t : State} := exec_ctxspillKill (h := h) (t := t) hp ha hload ht
    have fill {t : State} := exec_ctxfill (h := h) (t := t) hp ha hload ht
    have resume {t : State} := exec_ctxfillResume (h := h) (t := t) hp ha hload ht
    refine ⟨fun hbad => spill (runs_spillOp_outside hbad), fun hspill hbank => ?_, fun q hspill hq => ?_,
      fun k v hdev hspill hbank htouch => ?_, fun k hspill hbank => kill (runs_killOp_kills hspill hbank),
      fun hbad => fill (runs_fillOp_outside hbad), fun hdev hspill => fill (runs_fillOp_busy hdev hspill),
      fun hdev hspill hbank => fill (runs_fillOp_occupied hdev hspill hbank), fun v hdev hspill hbank htouch => ?_,
      fun hbank => resume (runs_resumeOp_none hbank), fun k hbank => ?_⟩
    · exact ⟨kill (runs_killOp_empty hspill hbank), fun hdev => spill (runs_spillOp_empty hdev hspill hbank)⟩
    · exact ⟨kill (runs_killOp_busy hspill hq), fun hdev => spill (runs_spillOp_busy hdev hspill hq)⟩
    · intro w hw hfatal
      refine ⟨fun hcmd => ?_, fun hcmd hclean hcore => ?_⟩
      · exact spill (runs_spillOp_begins hdev hspill hbank htouch (runs_goOnSpill_waits hw hcmd _ _))
      · obtain ⟨t, hgo, hleft⟩ := goOnSpill_empties hw hfatal hcmd hclean hcore o.d (blkWord bs 1)
        exact ⟨t, spill (runs_spillOp_begins hdev hspill hbank htouch hgo), hleft⟩
    · intro image k free n hclean
      refine ⟨fun hfit => ?_, fun hfit hfree => ?_, fun share w hfit hfree hshare => ?_⟩
      · exact fill (runs_fillOp_reads hdev hspill hbank htouch hclean (runs_fillFrom_unfit o.d hfit))
      · exact fill (runs_fillOp_reads hdev hspill hbank htouch hclean (runs_fillFrom_beside o.d hfit hfree))
      · obtain ⟨t, hgo, hleft⟩ := fillFrom_fills hfit hfree hshare o.d
        exact ⟨t, fill (runs_fillOp_reads hdev hspill hbank htouch hclean hgo), hleft⟩
    · refine ⟨fun hspill => resume (runs_resumeOp_busy hbank hspill),
        fun hspill hres => resume (runs_resumeOp_running hbank hspill hres),
        fun hspill hres hclean => ⟨fun hread => resume (runs_resumeOp_unread hbank hspill hres hclean hread), fun image hread => ?_⟩⟩
      obtain ⟨t, hgo, hleft⟩ := resumeOp_resumes (d := o.d) hbank hspill hres hclean hread
      exact ⟨t, resume hgo, hleft⟩

end Sys2Proof.Machine
end

section
/-! Proofs. KVAPP_ENTRY_UPDATE for a lane with an older write to its scratchpad (O48). -/

/-! The update of a table's entry, refuted in a state in which the command's lane has a write to its scratchpad that comes
before the command and need not have been performed. The event performs such writes before the command makes an access
(R130, `performOlder`), and the statement compares it with the update alone, run in the state before the event. -/

namespace Sys2Proof.Machine

/-- A KVAPP for the table of `appendBase`, whose fresh page 1 stands ready to be entered. -/
def updateCmd : EngCmd :=
  { newCmd appendBase default (draft .kvapp [] 256 0) with
    dst := 2 ^ 56 + 0x5000, kvNapp := true, kvSet := some 0, kvNew := some 1, kvDone := true, phase := .started, wid := 1 }

/-- A write of one byte to the scratchpad, with a number below that of the command's issue. -/
def olderWrite : ScratchWrite := ⟨[[(2 ^ 72, 0)]], 1, 0⟩

/-- The command in flight, and the older write of its lane, which need not have been performed. -/
def updateState : State :=
  { appendBase with
    ctxs := [(0, { Ctx.reset with res := .resident, laneL := { LaneSt.reset with scratchInflight := [olderWrite] } })]
    cmds := [updateCmd] }

/-- The writes of the command's lane that need not have been performed after a step. -/
def unperformedAfter (r : Res) : Option (List ScratchWrite) :=
  match r with
  | .next t => some (t.lane updateCmd.ctx updateCmd.lane).scratchInflight
  | _ => none

theorem unperformedAfter_putCmd (t : State) (c : EngCmd) : unperformedAfter (.next (t.putCmd c)) = unperformedAfter (.next t) := rfl

/-- The command of the event is the append, whose page is filled. -/
theorem updateCmd_ready :
    updateState.cmdOf updateState.cur.ev.ctx updateState.cur.ev.lane (BitVec.ofNat 16 updateState.cur.ev.num) = some updateCmd
    ∧ updateCmd.kvSet = some 0 ∧ updateCmd.kvNew = some 1 ∧ updateCmd.phase ≠ .held ∧ updateCmd.kvDone = true := by
  decide +kernel

/-- The update alone completes, and leaves the lane's write as it was. -/
theorem updateCmd_updates :
    ((kvUpdate updateCmd 0 1).run.run updateState).1 = .ok { updateCmd with kvSet := none, kvNew := none, kvPage := 1 }
    ∧ unperformedAfter (.next ((kvUpdate updateCmd 0 1).run.run updateState).2) = some [olderWrite] := by
  decide +kernel

/-- The event performs the write first. -/
theorem updateState_performs : unperformedAfter (exec .kvappEntryUpdate updateState) = some [] := by decide +kernel

/-- Refutes O48, in what it says of KVAPP_ENTRY_UPDATE: the event leaves not the state that the update alone leaves, but one
in which the lane's older write to the scratchpad has been performed as well. -/
theorem not_waitEvents : ¬ Obligations.WaitEvents := by
  unfold Obligations.WaitEvents
  intro h
  obtain ⟨hcmd, hset, hnew, hheld, hdone⟩ := updateCmd_ready
  obtain ⟨hrun, hkept⟩ := updateCmd_updates
  obtain ⟨-, -, -, -, -, hupdate, -⟩ := h updateState
  obtain ⟨hexec, -⟩ := hupdate updateCmd _ 0 1 _ hcmd hset hnew hheld hdone (runs_of_result hrun)
  have hperformed := updateState_performs
  rw [hexec, unperformedAfter_putCmd, hkept] at hperformed
  exact absurd hperformed (by decide)

end Sys2Proof.Machine
end

section
/-! Proofs. Seats of contexts, and the spans of the scratchpad that they give (R86, R92). -/

namespace Sys2Proof.Machine

variable {s t u : State}


/-- Where a context's share lies, whether its bank holds it, and whose windows reach it. -/
def Ctx.seat (c : Ctx) : Nat × Nat × Residence × BitVec 13 := (c.core, c.bank, c.res, c.ctrl.asid)

/-- Every core divides its scratchpad as before, among contexts in the same seats. -/
structure SameSeats (s t : State) : Prop where
  core : ∀ k, SameShares (s.core k) (t.core k)
  seat : ∀ k, (t.ctx k).seat = (s.ctx k).seat

theorem SameSeats.refl (s : State) : SameSeats s s := ⟨fun _ => .refl _, fun _ => rfl⟩

theorem SameShares.trans {c d e : CoreSt} (h : SameShares c d) (g : SameShares d e) : SameShares c e :=
  ⟨g.h0.trans h.h0, g.bank0.trans h.bank0, g.bank1.trans h.bank1, g.last0.trans h.last0, g.last1.trans h.last1⟩

theorem SameSeats.trans (h : SameSeats s t) (g : SameSeats t u) : SameSeats s u :=
  ⟨fun k => (h.core k).trans (g.core k), fun k => (g.seat k).trans (h.seat k)⟩

theorem Ctx.seat_eq {c d : Ctx} (h : d.seat = c.seat) : d.core = c.core ∧ d.bank = c.bank ∧ d.res = c.res ∧ d.ctrl.asid = c.ctrl.asid := by
  simpa [Ctx.seat] using h

/-- A location of a share depends on the seat. -/
theorem SameSeats.shareLoc (h : SameSeats s t) {c d : Ctx} (hc : d.seat = c.seat) (a : Nat) : t.shareLoc d a = s.shareLoc c a := by
  obtain ⟨hcore, hbank, -, -⟩ := Ctx.seat_eq hc
  rw [State.shareLoc, State.shareLoc, bankShare, bankShare, hcore, hbank, (h.core _).h0]

theorem SameSeats.ownSpan (h : SameSeats s t) {c d : Ctx} (hc : d.seat = c.seat) (a n : Nat) : t.ownSpan d a n = s.ownSpan c a n := by
  simp only [State.ownSpan, h.shareLoc hc]

theorem SameSeats.residentIn (h : SameSeats s t) (b : Option Nat) : (t.residentIn b).map Ctx.seat = (s.residentIn b).map Ctx.seat := by
  cases b with
  | none => rfl
  | some k =>
    obtain ⟨-, -, hres, -⟩ := Ctx.seat_eq (h.seat k)
    simp only [State.residentIn, hres]
    split
    · exact congrArg some (h.seat k)
    · rfl

theorem SameSeats.shareIn (h : SameSeats s t) (b last : Option Nat) : (t.shareIn b last).map Ctx.seat = (s.shareIn b last).map Ctx.seat := by
  cases b with
  | some k => exact h.residentIn (some k)
  | none =>
    cases last with
    | none => rfl
    | some k => exact congrArg some (h.seat k)

/-- The context of a window, among those of two banks. -/
def windowOf (c : Ctx) (x y : Option Ctx) : Option Ctx :=
  let ok (x : Option Ctx) : Option Ctx := x.bind (fun x => if x.ctrl.asid = c.ctrl.asid then some x else none)
  match ok x, ok y with
  | some x, some y => if c.bank = 0 then some x else some y
  | some x, none => some x
  | none, y => y

theorem State.windowCtx_eq (s : State) (c : Ctx) (q : Nat) : s.windowCtx c q = if isService c.core then none else
    let t := s.core (c.core / 4 * 4 + q)
    match windowOf c (s.residentIn t.bank0) (s.residentIn t.bank1) with
    | some x => some x
    | none => windowOf c (s.shareIn t.bank0 t.last0) (s.shareIn t.bank1 t.last1) := rfl

theorem seat_cases {x y : Option Ctx} (h : y.map Ctx.seat = x.map Ctx.seat) :
    (x = none ∧ y = none) ∨ ∃ a b, x = some a ∧ y = some b ∧ b.seat = a.seat := by
  cases x <;> cases y <;> simp_all

/-- Contexts in the same seats are reached through the same windows. -/
theorem windowOf_seat {c d : Ctx} {x x' y y' : Option Ctx} (hc : d.seat = c.seat) (hx : x'.map Ctx.seat = x.map Ctx.seat)
    (hy : y'.map Ctx.seat = y.map Ctx.seat) : (windowOf d x' y').map Ctx.seat = (windowOf c x y).map Ctx.seat := by
  obtain ⟨-, hbank, -, hasid⟩ := Ctx.seat_eq hc
  have hok {z z' : Option Ctx} (hz : z'.map Ctx.seat = z.map Ctx.seat) :
      (z'.bind (fun x => if x.ctrl.asid = d.ctrl.asid then some x else none)).map Ctx.seat
        = (z.bind (fun x => if x.ctrl.asid = c.ctrl.asid then some x else none)).map Ctx.seat := by
    obtain ⟨rfl, rfl⟩ | ⟨a, b, rfl, rfl, hab⟩ := seat_cases hz
    · rfl
    · obtain ⟨-, -, -, he⟩ := Ctx.seat_eq hab
      rw [Option.bind_some, Option.bind_some, he, hasid]
      split
      · exact congrArg some hab
      · rfl
  have hx := hok hx
  have hy := hok hy
  unfold windowOf
  dsimp only
  obtain ⟨h1, h2⟩ | ⟨a, b, h1, h2, hab⟩ := seat_cases hx
  · rw [h1, h2]
    exact hy
  · rw [h1, h2]
    obtain ⟨h3, h4⟩ | ⟨e, f, h3, h4, hef⟩ := seat_cases hy
    · rw [h3, h4]
      exact congrArg some hab
    · rw [h3, h4]
      dsimp only
      rw [hbank]
      split
      · exact congrArg some hab
      · exact congrArg some hef

theorem SameSeats.windowCtx (h : SameSeats s t) {c d : Ctx} (hc : d.seat = c.seat) (q : Nat) :
    (t.windowCtx d q).map Ctx.seat = (s.windowCtx c q).map Ctx.seat := by
  obtain ⟨hcore, -, -, -⟩ := Ctx.seat_eq hc
  obtain ⟨-, hb0, hb1, hl0, hl1⟩ := h.core (c.core / 4 * 4 + q)
  rw [State.windowCtx_eq, State.windowCtx_eq, hcore]
  dsimp only
  rw [hb0, hb1, hl0, hl1]
  split
  · rfl
  · have hres := windowOf_seat hc (h.residentIn (s.core (c.core / 4 * 4 + q)).bank0) (h.residentIn (s.core (c.core / 4 * 4 + q)).bank1)
    obtain ⟨h1, h2⟩ | ⟨a, b, h1, h2, hab⟩ := seat_cases hres
    · rw [h1, h2]
      exact windowOf_seat hc (h.shareIn _ _) (h.shareIn _ _)
    · rw [h1, h2]
      exact congrArg some hab

/-- What a read of a scratchpad reaches depends on seats. -/
theorem SameSeats.spadSpan (h : SameSeats s t) {c d : Ctx} (hc : d.seat = c.seat) (a n : Nat) :
    t.spadSpan d a n false = s.spadSpan c a n false := by
  have hspan {x y : Ctx} (hxy : y.seat = x.seat) (o : Nat) : (List.range n).mapM (fun i => t.shareLoc y (o + i))
      = (List.range n).mapM (fun i => s.shareLoc x (o + i)) := by simp only [h.shareLoc hxy]
  by_cases h1 : a < 0x800000
  · simp only [State.spadSpan, State.spadTargets, if_pos h1, List.mapM_cons, List.mapM_nil, hspan hc]
  · by_cases h2 : a < 0x1000000
    · simp only [State.spadSpan, State.spadTargets, if_neg h1, if_pos h2]
      obtain ⟨hx, hy⟩ | ⟨x, y, hx, hy, hxy⟩ := seat_cases (h.windowCtx hc ((a - 0x800000) / 0x200000))
      · rw [hx, hy]
        rfl
      · rw [hx, hy]
        simp only [Option.map_some, List.mapM_cons, List.mapM_nil, hspan hxy]
    · simp only [State.spadSpan, State.spadTargets, if_neg h1, if_neg h2, Bool.false_eq_true, and_false, if_false]

/-- The seat of the context whose share holds a location, and the offset there. -/
theorem SameSeats.shareOf (h : SameSeats s t) (loc : Nat) :
    (t.shareOf loc).map (fun p => (p.1.seat, p.2)) = (s.shareOf loc).map (fun p => (p.1.seat, p.2)) := by
  obtain ⟨hh, hb0, hb1, hl0, hl1⟩ := h.core ((loc - 2 ^ 72) / 2 ^ 21)
  have hshare (b last : Option Nat) (o : Nat) :
      ((t.shareIn b last).map (fun x => (x, o))).map (fun p => (p.1.seat, p.2))
        = ((s.shareIn b last).map (fun x => (x, o))).map (fun p => (p.1.seat, p.2)) := by
    obtain ⟨h1, h2⟩ | ⟨x, y, h1, h2, hxy⟩ := seat_cases (h.shareIn b last)
    · rw [h1, h2]
    · rw [h1, h2]
      simp only [Option.map_some, hxy]
  simp only [State.shareOf, hh, hb0, hb1, hl0, hl1]
  split <;> exact hshare _ _ _

end Sys2Proof.Machine
end

section
/-! Proofs. Rods: what the operations on a block leave beside its bytes (R139 to R149). -/

namespace Sys2Proof.Machine

variable {s t u : State} {l : Nat}

/-! ### Contexts that keep their registers -/

/-- As `s` in every context, but for what the issuing lanes note of caches, commands and scratchpad writes. -/
structure KeepsRegs (s t : State) : Prop where
  cur : t.cur = s.cur
  others : ∀ k, k ≠ s.cur.ctx → t.ctx k = s.ctx k
  regs : s.me.SameRegs t.me
  pc : ∀ l, (t.me.lane l).pc = (s.me.lane l).pc

theorem KeepsRegs.trans (h : KeepsRegs s t) (g : KeepsRegs t u) : KeepsRegs s u :=
  ⟨g.cur.trans h.cur, fun k hk => (g.others k (h.cur ▸ hk)).trans (h.others k hk), h.regs.trans g.regs, fun l => (g.pc l).trans (h.pc l)⟩

theorem KeepsLanes.keepsRegs (h : KeepsLanes s t) : KeepsRegs s t := ⟨h.cur, h.others, h.regs, h.pc⟩

theorem keepsRegs_of_eq (hx : t.ctxs = s.ctxs) (hc : t.cur = s.cur) : KeepsRegs s t := by
  have hctx (k : Nat) : t.ctx k = s.ctx k := by rw [State.ctx, hx]; rfl
  have hme : t.me = s.me := by rw [State.me, hctx, hc]; rfl
  exact ⟨hc, fun k _ => hctx k, hme ▸ .refl _, fun l => by rw [hme]⟩

theorem KeepsRegs.refl (s : State) : KeepsRegs s s := keepsRegs_of_eq rfl rfl

theorem KeepsRegs.files (h : KeepsRegs s t) : SameFiles s t := sameFiles_of_sameRegs h.regs

/-- A result in a register of the issuing lane, after what leaves the registers. -/
theorem KeepsRegs.wrote (h : KeepsRegs s t) (d : BitVec 6) (v : Word) (n : Nat) :
    Wrote s (t.wrS d v n) d v ∧ SameFiles s (t.wrS d v n) := by
  refine ⟨wrote_of_regs h.cur h.regs.s d v n, ?_⟩
  have hfiles := h.files
  unfold SameFiles at *
  rw [me_wrS]
  simpa using hfiles

/-- What leaves the registers leaves a result. -/
theorem Wrote.keeps {d : BitVec 6} {v : Word} (h : Wrote s t d v) (g : KeepsRegs t u) : Wrote s u d v := by
  obtain ⟨hctx, hlane, hmine, hothers⟩ := h
  have hmy : u.myLane.s = t.myLane.s := by rw [State.myLane, State.myLane, g.cur]; exact g.regs.s _
  exact ⟨(congrArg Issue.ctx g.cur).trans hctx, (congrArg Issue.lane g.cur).trans hlane, hmy.trans hmine,
    fun l hl => (g.regs.s l).trans (hothers l hl)⟩

theorem SameFiles.trans (h : SameFiles s t) (g : SameFiles t u) : SameFiles s u := by
  obtain ⟨hf, hv, hp, hacc, hctrl⟩ := h
  obtain ⟨gf, gv, gp, gacc, gctrl⟩ := g
  exact ⟨gf.trans hf, gv.trans hv, gp.trans hp, gacc.trans hacc, gctrl.trans hctrl⟩

/-! ### What decides which writes come before an operation (R128, R135) -/

/-- A map's entry adds nothing to a list that is made of all entries. -/
theorem flatMap_kvPut {α β : Type} {g : Nat × α → List β} {m : Kv α} {k : Nat} {x : α} (hx : g (k, x) = [])
    (hy : ∀ y, kvGet m k = some y → g (k, y) = []) : (kvPut m k x).flatMap g = m.flatMap g := by
  induction m with
  | nil => simp [kvPut, hx]
  | cons p m ih =>
    obtain ⟨j, y⟩ := p
    unfold kvPut
    split
    · simp [hx]
    · split
      · next hkj =>
        subst hkj
        simp [hx, hy y (if_pos rfl)]
      · next hkj =>
        have hget : kvGet ((j, y) :: m) k = kvGet m k := if_neg fun h => hkj h.symm
        rw [List.flatMap_cons, List.flatMap_cons, ih fun z hz => hy z (hget.trans hz)]

/-- A core that has no write pending, and has none after a change, adds none to the pending writes. -/
theorem pendings_updCore {k : Nat} {f : CoreSt → CoreSt} (hp : (s.core k).wpath = []) (hf : ∀ c, (f c).wpath = c.wpath) :
    (s.updCore k f).pendings = s.pendings := by
  have hflat : (s.updCore k f).cores.flatMap (fun kc => kc.2.wpath.map (fun e => (kc.1, e)))
      = s.cores.flatMap (fun kc => kc.2.wpath.map (fun e => (kc.1, e))) := by
    refine flatMap_kvPut ?_ fun y hy => ?_
    · rw [hf, hp]
      rfl
    · rw [State.core, hy] at hp
      exact congrArg (List.map _) hp
  rw [State.pendings, State.pendings, hflat]

theorem noneFirst_updCore {k : Nat} {f : CoreSt → CoreSt} (hp : (s.core k).wpath = []) (hf : ∀ c, (f c).wpath = c.wpath)
    (hseen : ∀ c, (f c).seen = c.seen) {core : Nat} (h : NoneFirst s core) : NoneFirst (s.updCore k f) core := by
  have keeps {α : Type} (g : CoreSt → α) (hg : ∀ c, g (f c) = g c) : g ((s.updCore k f).core core) = g (s.core core) := by
    by_cases hk : core = k
    · subst hk; rw [State.core_updCore, hg]
    · rw [State.core_updCore_ne _ _ hk]
  refine ⟨(keeps CoreSt.wpath hf).trans h.1, fun loc n => ?_⟩
  have hfirst : (s.updCore k f).firstAt core loc n = s.firstAt core loc n := by
    funext x
    rw [State.firstAt, State.firstAt, keeps CoreSt.seen hseen]
  rw [hfirst, pendings_updCore hp hf]
  exact h.2 loc n

/-! ### What an operation on a rod leaves -/

/-- As `s` in what an operation on a rod looks at beside the bytes of storage: registers, the places of shares, writes and
commands that come first, translations, and the objects that are waited on. -/
structure RodFrame (s t : State) : Prop where
  keeps : KeepsRegs s t
  seats : SameSeats s t
  first : ∀ core, NoneFirst s core → NoneFirst t core
  pending : s.scratchPending = [] → t.scratchPending = []
  waits : ∀ l, NoWaiters s l → NoWaiters t l
  moves : t.moves = s.moves
  cmds : t.cmds = s.cmds
  tlb : t.tlb = s.tlb
  walks : t.walks = s.walks
  asidTable : t.asidTable = s.asidTable
  aperBase : t.aperBase = s.aperBase
  aperSize : t.aperSize = s.aperSize
  poison : ∀ p ∈ t.poison, p ∈ s.poison

theorem RodFrame.refl (s : State) : RodFrame s s :=
  ⟨.refl s, .refl s, fun _ h => h, id, fun _ h => h, rfl, rfl, rfl, rfl, rfl, rfl, rfl, fun _ h => h⟩

theorem RodFrame.trans (h : RodFrame s t) (g : RodFrame t u) : RodFrame s u :=
  ⟨h.keeps.trans g.keeps, h.seats.trans g.seats, fun c hc => g.first c (h.first c hc), fun hp => g.pending (h.pending hp),
    fun l hl => g.waits l (h.waits l hl), g.moves.trans h.moves, g.cmds.trans h.cmds, g.tlb.trans h.tlb, g.walks.trans h.walks,
    g.asidTable.trans h.asidTable, g.aperBase.trans h.aperBase, g.aperSize.trans h.aperSize, fun p hp => h.poison p (g.poison p hp)⟩

/-- The party of the issuing lane. -/
theorem RodFrame.who (h : RodFrame s t) : t.who = s.who := by
  obtain ⟨hcore, -, -, -⟩ := Ctx.seat_eq (h.seats.seat s.cur.ctx)
  have hcore : t.me.core = s.me.core := by rw [State.me, h.keeps.cur]; exact hcore
  rw [State.who, State.who, h.keeps.cur, hcore, Ctx.holdsPriv, Ctx.holdsPriv, h.keeps.regs.ctrl]

/-- The seat of the issuing context. -/
theorem RodFrame.seat_me (h : RodFrame s t) : t.me.seat = s.me.seat := by
  rw [State.me, h.keeps.cur]
  exact h.seats.seat _

theorem RodFrame.sameWalks (h : RodFrame s t) {but : Nat → Prop} (hb : ∀ a, ¬ but a → t.byteAt a = s.byteAt a) : SameWalks s t but :=
  ⟨hb, h.tlb, h.walks, h.asidTable, h.aperBase, h.aperSize, h.poison⟩

theorem RodFrame.unmoved (h : RodFrame s t) (hu : Unmoved s l) : Unmoved t l := by
  rw [Unmoved, h.moves]
  exact hu

theorem RodFrame.poisoned (h : RodFrame s t) {locs : List Nat} (hp : s.poisoned locs = none) : t.poisoned locs = none := by
  rw [State.poisoned, List.find?_eq_none] at *
  exact fun p hm => hp p (h.poison p hm)

theorem RodFrame.boardHit (h : RodFrame s t) (k : Nat) (locs : List Nat) : t.boardHit k locs = s.boardHit k locs := by
  rw [State.boardHit, h.cmds]
  rfl

theorem RodFrame.spadSpan (h : RodFrame s t) (a n : Nat) : t.spadSpan t.me a n false = s.spadSpan s.me a n false :=
  h.seats.spadSpan h.seat_me a n

/-- A change outside contexts, cores, commands, waits and what translations look at. -/
theorem rodFrame_of_eq (hx : t.ctxs = s.ctxs) (hc : t.cur = s.cur) (hcores : t.cores = s.cores) (hcmds : t.cmds = s.cmds)
    (hw : ∀ l, NoWaiters s l → NoWaiters t l) (hm : t.moves = s.moves) (htlb : t.tlb = s.tlb) (hwalks : t.walks = s.walks)
    (hasid : t.asidTable = s.asidTable) (hbase : t.aperBase = s.aperBase) (hsize : t.aperSize = s.aperSize)
    (hpoison : ∀ p ∈ t.poison, p ∈ s.poison) : RodFrame s t := by
  have hcore (k : Nat) : t.core k = s.core k := by rw [State.core, hcores]; rfl
  have hctx (k : Nat) : t.ctx k = s.ctx k := by rw [State.ctx, hx]; rfl
  refine ⟨keepsRegs_of_eq hx hc, ⟨fun k => ?_, fun k => by rw [hctx]⟩, fun core h => ?_, fun hp => ?_, hw, hm, hcmds, htlb, hwalks, hasid,
    hbase, hsize, hpoison⟩
  · rw [hcore]
    exact .refl _
  · have hpend : t.pendings = s.pendings := by rw [State.pendings, hcores]; rfl
    have hfirst (loc n : Nat) : t.firstAt core loc n = s.firstAt core loc n := by
      funext x
      rw [State.firstAt, State.firstAt, hcore]
    refine ⟨(congrArg CoreSt.wpath (hcore core)).trans h.1, fun loc n => ?_⟩
    rw [hpend, hfirst]
    exact h.2 loc n
  · rw [State.scratchPending, hx, hcmds]
    exact hp

theorem rodFrame_writeBytes (s : State) (a : Nat) (bs : List Byte) : RodFrame s (s.writeBytes a bs) := by
  rw [writeBytes_eq]
  exact rodFrame_of_eq rfl rfl rfl rfl (fun _ h => h) rfl rfl rfl rfl rfl rfl fun _ h => h

theorem rodFrame_writeNat (s : State) (a n v : Nat) : RodFrame s (s.writeNat a n v) := rodFrame_writeBytes s _ _

theorem rodFrame_setField (s : State) (a lo len x : Nat) : RodFrame s (s.setField a lo len x) := rodFrame_writeBytes s _ _

theorem rodFrame_updDie (s : State) (k : Nat) (f : Die → Die) : RodFrame s (s.updDie k f) :=
  rodFrame_of_eq rfl rfl rfl rfl (fun _ h => h) rfl rfl rfl rfl rfl rfl fun _ h => h

theorem rodFrame_updVif (s : State) (k : Nat) (f : Vif → Vif) : RodFrame s (s.updVif k f) :=
  rodFrame_of_eq rfl rfl rfl rfl (fun _ h => h) rfl rfl rfl rfl rfl rfl fun _ h => h

theorem rodFrame_free (s : State) (kind : Nat) : RodFrame s (s.free kind).2 :=
  rodFrame_of_eq rfl rfl rfl rfl (fun _ h => h) rfl rfl rfl rfl rfl rfl fun _ h => h

theorem rodFrame_clearPoison (s : State) (locs : List Nat) : RodFrame s (clearPoison s locs) :=
  rodFrame_of_eq rfl rfl rfl rfl (fun _ h => h) rfl rfl rfl rfl rfl rfl fun _ h => List.mem_of_mem_filter h

theorem rodFrame_dropBeads (s : State) (l : Nat) : RodFrame s (dropBeads s l) :=
  rodFrame_of_eq rfl rfl rfl rfl (fun _ h => h) rfl rfl rfl rfl rfl rfl fun _ h => h

/-- Waits are marked, and their objects stay. -/
theorem noWaiters_wakeIf (p : Waiter → Bool) (h : NoWaiters s l) : NoWaiters (s.wakeIf p) l := fun q hq => by
  obtain ⟨q, hmem, rfl⟩ := List.mem_map.mp hq
  split <;> exact h q hmem

theorem rodFrame_touch (s : State) (l : Nat) : RodFrame s (s.touch l) :=
  rodFrame_of_eq rfl rfl rfl rfl (fun _ h => noWaiters_wakeIf _ h) rfl rfl rfl rfl rfl rfl fun _ h => h

theorem rodFrame_countAccess (s : State) (w : Who) (x : Xlat) : RodFrame s (countAccess s w x) := by
  unfold countAccess
  extract_lets die
  split
  · exact rodFrame_updDie s _ _
  · exact .refl s

theorem rodFrame_dropLine {core : Nat} (h : NoneFirst s core) (line : Nat) : RodFrame s (dropLine s core line) :=
  ⟨keepsRegs_of_eq rfl rfl, ⟨SameShares.updCore s core fun _ => ⟨rfl, rfl, rfl, rfl, rfl⟩, fun _ => rfl⟩,
    fun _ hc => noneFirst_updCore (f := fun c => { c with l1 := kvDel c.l1 line }) h.1 (fun _ => rfl) (fun _ => rfl) hc,
    id, fun _ h => h, rfl, rfl, rfl, rfl, rfl, rfl, rfl, fun _ h => h⟩

theorem Ctx.seat_updLane (c : Ctx) (l : Lane) (f : LaneSt → LaneSt) : (c.updLane l f).seat = c.seat := by
  simp [Ctx.seat]

/-- What the issuing lane notes of its own. -/
theorem rodFrame_updMyLane (s : State) {f : LaneSt → LaneSt} (hs : ∀ x, (f x).s = x.s) (hpc : ∀ x, (f x).pc = x.pc)
    (hflight : ∀ x, (f x).scratchInflight = x.scratchInflight ∨ (f x).scratchInflight = []) : RodFrame s (s.updMyLane f) := by
  refine ⟨(keepsLanes_updMyLane s hs hpc).keepsRegs, ⟨fun _ => .refl _, fun k => ?_⟩, fun _ h => h, fun hp => ?_, fun _ h => h, rfl, rfl,
    rfl, rfl, rfl, rfl, rfl, fun _ h => h⟩
  · by_cases hk : k = s.cur.ctx
    · subst hk
      rw [State.updMyLane, State.updLane, State.ctx_updCtx, Ctx.seat_updLane]
    · rw [State.updMyLane, State.updLane, State.ctx_updCtx_ne _ _ hk]
  · have hinflight := scratchInflight_eq_nil hp s.cur.ctx
    simp only [State.scratchPending, List.append_eq_nil_iff, List.flatMap_eq_nil_iff] at hp ⊢
    refine ⟨fun kc hkc m hm => ?_, hp.2⟩
    rcases mem_kvPut hkc with h | h
    · exact hp.1 kc h m hm
    · rw [h]
      dsimp only
      by_cases hl : m = s.cur.lane
      · subst hl
        rw [Ctx.lane_updLane]
        rcases hflight ((s.ctx s.cur.ctx).lane s.cur.lane) with h | h
        · exact h.trans (hinflight _)
        · exact h
      · rw [Ctx.lane_updLane_ne _ _ hl]
        exact hinflight m

theorem rodFrame_seeHome {w : Who} (hk : w.ctx = s.cur.ctx) (hl : w.lane = s.cur.lane) (loc : Nat) : RodFrame s (seeHome s w loc) := by
  unfold seeHome
  extract_lets line data differs
  split
  · rw [hk, hl]
    exact rodFrame_updMyLane s (fun _ => rfl) (fun _ => rfl) fun _ => .inl rfl
  · exact .refl s

theorem rodFrame_foldl {α : Type} {f : State → α → State} (hf : ∀ t x, RodFrame t (f t x)) (xs : List α) (s : State) :
    RodFrame s (xs.foldl f s) := by
  induction xs generalizing s with
  | nil => exact .refl s
  | cons x xs ih => exact (hf s x).trans (ih _)

theorem rodFrame_updateRdc (s : State) (die loc : Nat) (bs : List Byte) : RodFrame s (updateRdc s die loc bs) := by
  unfold updateRdc
  split
  · exact .refl s
  · exact rodFrame_updDie s _ _

theorem sameBytes_updateRdc (s : State) (die loc : Nat) (bs : List Byte) : SameBytes s (updateRdc s die loc bs) := by
  unfold updateRdc
  split
  · exact .refl s
  · exact sameBytes_updDie s _ _

/-- A die's copy of a block is brought up to date, and nothing else. -/
theorem refreshBlock_leaves (s : State) (die loc : Nat) (old : List Byte) :
    RodFrame s (refreshBlock s die loc old) ∧ SameBytes s (refreshBlock s die loc old) := by
  unfold refreshBlock
  split
  · exact ⟨.refl s, .refl s⟩
  · refine ⟨rodFrame_foldl (fun t x => ?_) _ s, sameBytes_foldl (fun t x => ?_) _ s⟩
    · split
      · exact .refl t
      · exact rodFrame_updateRdc t _ _ _
    · split
      · exact .refl t
      · exact sameBytes_updateRdc t _ _ _

theorem runs_onBlock_refreshed {m : Op Unit} (h : Runs s m () t) (loc : Nat) :
    Runs s (onBlock loc m) () (refreshBlock t t.myDie loc (s.readBytes loc 64)) :=
  Runs.bind (run_get s) (h.bind (run_modify _ t))

/-- An operation on a block: what follows it leaves its registers and its bytes. -/
theorem runs_onBlock {m : Op Unit} (h : Runs s m () t) (loc : Nat) :
    ∃ u, Runs s (onBlock loc m) () u ∧ KeepsRegs t u ∧ SameBytes t u := by
  obtain ⟨hframe, hbytes⟩ := refreshBlock_leaves t t.myDie loc (s.readBytes loc 64)
  exact ⟨_, runs_onBlock_refreshed h loc, hframe.keeps, hbytes⟩

end Sys2Proof.Machine
end

section
/-! Proofs. Rods that nothing waits on: naming them, and the start of an operation (R139 to R147, R332). -/

namespace Sys2Proof.Machine

variable {s t u : State} {r : RodRef} {l : Nat}

/-! ### Naming a rod (R332) -/

theorem RodFrame.blockAt (h : RodFrame s t) {a : Word} (hb : BlockAt s a l) : BlockAt t a l := by
  obtain ⟨halign, hmoved, hspan, hboard⟩ := hb
  refine ⟨halign, h.unmoved hmoved, (h.spadSpan _ _).trans hspan, ?_⟩
  rw [h.boardHit, h.keeps.cur]
  exact hboard

theorem RodFrame.objectAt (h : RodFrame s t) (ht : SameTables s t) {a : Word} (ho : ObjectAt s a l) : ObjectAt t a l := by
  obtain ⟨hfirst, hmoved, x, hsees, hx⟩ := ho
  have hcore : t.me.core = s.me.core := congrArg Who.core h.who
  refine ⟨hcore ▸ h.first _ hfirst, h.unmoved hmoved, x, ?_, hx⟩
  rw [h.who]
  exact hsees.same ht

theorem RodReach.frame (hr : RodReach s r) (h : RodFrame s t) (ht : SameTables s t) : RodReach t r := by
  unfold RodReach at *
  by_cases hsp : r.sp = true
  · rw [if_pos hsp] at hr ⊢
    exact h.blockAt hr
  · rw [if_neg hsp] at hr ⊢
    exact ⟨hr.1, h.objectAt ht hr.2⟩

/-- Where a rod lies that an instruction reaches. -/
theorem RodReach.aligned (hr : RodReach s r) : r.addr.toNat % 64 = 0 := by
  unfold RodReach at hr
  split at hr
  · exact hr.1
  · exact hr.1

theorem RodReach.unmoved (hr : RodReach s r) : Unmoved s r.loc := by
  unfold RodReach at hr
  split at hr
  · exact hr.2.1
  · exact hr.2.2.1

theorem RodReach.loc_lt (hr : RodReach s r) (hsp : r.sp = false) : r.loc < 2 ^ 64 := by
  rw [RodReach, if_neg (by simp [hsp])] at hr
  obtain ⟨-, -, -, x, -, -, hlt, -, -⟩ := hr
  exact hlt

/-! ### The start of an operation (R141, R144, R147) -/

theorem frames_of_unmoved (hm : Unmoved s l) {o : Nat} (ho : o < 64) : s.frames (l + o) = [l + o] := by
  have hnone : s.moves.filter (fun m => !m.lost && decide (m.old ≤ l + o) && decide (l + o < m.old + m.size)) = [] :=
    List.filter_eq_nil_iff.mpr fun m hmem hin => by
      simp only [Bool.and_eq_true, Bool.not_eq_true', decide_eq_true_eq] at hin
      have := hm m hmem hin.1.1
      omega
  rw [State.frames, hnone]
  rfl

theorem rodWaiters_eq_nil (hw : NoWaiters s l) : s.rodWaiters l = [] :=
  List.filter_eq_nil_iff.mpr fun q hq => by
    have hobj : q.obj ≠ l := fun hobj => hw q hq (congrArg rowOf hobj)
    simp [hobj]

theorem committer_eq_none (hw : NoWaiters s l) : s.committer l = none :=
  List.find?_eq_none.mpr fun q hq => by
    have hobj : q.obj ≠ l := fun hobj => hw q hq (congrArg rowOf hobj)
    simp [hobj]

/-- What a mirror of a wait list changes. -/
theorem mirrorPut_leaves (hm : Unmoved s l) {o : Nat} (ho : o < 64) (v : Nat) :
    RodFrame s (mirrorPut s (l + o) v) ∧ SameOutside s (mirrorPut s (l + o) v) (l + o) 8 := by
  rw [mirrorPut, frames_of_unmoved hm ho, List.foldl_cons, List.foldl_nil]
  split
  · exact ⟨.refl s, (SameBytes.refl s).outside _ _⟩
  · exact ⟨rodFrame_writeNat s _ _ _, sameOutside_writeNat s _ _ _⟩

theorem mirrorWaitq_leaves (hm : Unmoved s l) : RodFrame s (mirrorWaitq s l) ∧ SameOutside s (mirrorWaitq s l) (l + 0x30) 8 :=
  mirrorPut_leaves hm (by decide) _

theorem wlog_length_writeBytes (s : State) (a : Nat) (bs : List Byte) :
    (s.writeBytes a bs).wlog.length = bs.length + s.wlog.length := by
  induction bs generalizing s a with
  | nil => exact (Nat.zero_add _).symm
  | cons b bs ih =>
    rw [State.writeBytes, ih, State.setByte, List.length_cons, List.length_cons]
    omega

/-- A rod whose HOME needs no fix-up. -/
def HomeRight (s : State) (r : RodRef) : Prop := r.sp = true ∨ 2 ^ 72 ≤ r.loc ∨ s.field r.loc 48 8 = rodHome r.loc

theorem rodFixHome_of_homeRight (h : HomeRight s r) : rodFixHome s r = s := if_pos h

/-- A fix-up writes. -/
theorem homeRight_of_rodFixHome (h : rodFixHome s r = s) : HomeRight s r := by
  by_contra hno
  have hlen : (rodFixHome s r).wlog.length = 8 + (8 + s.wlog.length) := by
    rw [HomeRight] at hno
    rw [rodFixHome, if_neg hno, setRodCheck, State.setField, State.writeNat, wlog_length_writeBytes, State.setField, State.writeNat,
      wlog_length_writeBytes, bytes_of_length, bytes_of_length]
  rw [h] at hlen
  omega

/-- As `s` in what an operation looks at, in every byte but those of WAITQ, and in the beads that have been kept. -/
structure Entered (s t : State) (l : Nat) : Prop where
  frame : RodFrame s t
  bytes : SameOutside s t (l + 0x30) 8
  beads : t.beads = s.beads

theorem Entered.refl (s : State) (l : Nat) : Entered s s l := ⟨.refl s, (SameBytes.refl s).outside _ _, rfl⟩

theorem Entered.trans (h : Entered s t l) (g : Entered t u l) : Entered s u l :=
  ⟨h.frame.trans g.frame, h.bytes.trans g.bytes, g.beads.trans h.beads⟩

theorem beads_countAccess (s : State) (w : Who) (x : Xlat) : (countAccess s w x).beads = s.beads := by
  unfold countAccess
  extract_lets die
  split <;> rfl

theorem beads_seeHome (s : State) (w : Who) (loc : Nat) : (seeHome s w loc).beads = s.beads := by
  unfold seeHome
  extract_lets line data differs
  split <;> rfl

theorem beads_mirrorPut (s : State) (a v : Nat) : (mirrorPut s a v).beads = s.beads := by
  have hfold (as : List Nat) (t : State) :
      (as.foldl (fun t a => if t.readNat a 8 = v then t else t.writeNat a 8 v) t).beads = t.beads := by
    induction as generalizing t with
    | nil => rfl
    | cons a as ih =>
      rw [List.foldl_cons, ih]
      split
      · rfl
      · rw [State.writeNat, writeBytes_eq]
  exact hfold _ s

theorem entered_mirrorWaitq (hm : Unmoved s l) : Entered s (mirrorWaitq s l) l :=
  ⟨(mirrorWaitq_leaves hm).1, (mirrorWaitq_leaves hm).2, beads_mirrorPut s _ _⟩

/-- A rod that an instruction reaches is found. -/
theorem RodReach.runs_rodAt (hr : RodReach s r) : ∃ u, Runs s (rodAt r.sp r.addr) r u ∧ SameBytes s u ∧ Entered s u r.loc := by
  obtain ⟨loc, a, sp⟩ := r
  cases sp with
  | true =>
    obtain ⟨halign, -, hspan, hboard⟩ : BlockAt s a loc := hr
    refine ⟨s, Runs.bind (run_get s) ?_, .refl s, .refl s _⟩
    dsimp only
    rw [if_pos rfl, if_pos halign]
    refine Runs.bind (run_laneSpan_ok hspan (by simpa using hboard)) ?_
    simp [List.range_succ_eq_map]
    rfl
  | false =>
    rw [RodReach, if_neg Bool.false_ne_true] at hr
    obtain ⟨-, hfirst, -, x, hsees, rfl, -, hhost, hmg⟩ := hr
    have hcount := rodFrame_countAccess s s.who x
    have hdrop := hcount.trans (rodFrame_dropLine (hcount.first _ hfirst) (x.loc / 64))
    have hsee := hdrop.trans (rodFrame_seeHome (w := s.who) (by rw [hdrop.keeps.cur]; rfl) (by rw [hdrop.keeps.cur]; rfl) x.loc)
    have hbytes := (atHome_leftHome s (some x)).keeps.bytes
    have hbeads : (s.leftHome (some x)).beads = s.beads := by
      rw [State.leftHome, beads_seeHome]
      exact beads_countAccess s _ x
    refine ⟨_, Runs.bind (run_get s) ?_, hbytes, hsee, hbytes.outside _ _, hbeads⟩
    rw [if_neg Bool.false_ne_true]
    refine Runs.bind (run_xlat_ok hsees) (Runs.bind (t := s) (a := ()) ?_ ?_)
    · rw [hostCheck, hhost]
      rfl
    · rw [hmg, if_neg Bool.false_ne_true]
      exact Runs.bind (run_drainFor_none hfirst _ _) (Runs.bind (run_modify _ s) (Runs.bind (run_modify _ _) rfl))

section
variable (h : SameOutside s t (l + 0x30) 8)
include h

theorem rodElsz_outside : rodElsz t l = rodElsz s l := h.field (by omega) _ _
theorem rodCapl_outside : rodCapl t l = rodCapl s l := h.field (by omega) _ _
theorem rodBase_outside : rodBase t l = rodBase s l := h.readNat (by omega)
theorem rodHead_outside : rodHead t l = rodHead s l := h.readNat (by omega)
theorem rodTail_outside : rodTail t l = rodTail s l := h.readNat (by omega)
theorem rodRsv_outside : rodRsv t l = rodRsv s l := h.readNat (by omega)
theorem rodFree_outside : rodFree t l = rodFree s l := h.readNat (by omega)
theorem rodStatus_outside : rodStatus t l = rodStatus s l := h.field (by omega) _ _
theorem rodCap_outside : rodCap t l = rodCap s l := congrArg (2 ^ ·) (rodCapl_outside h)

end

theorem rodFieldsOk_outside (h : SameOutside s t (r.loc + 0x30) 8) : rodFieldsOk t r = rodFieldsOk s r := by
  simp only [rodFieldsOk, rodElsz_outside h, rodCapl_outside h, rodStatus_outside h, rodBase_outside h, h.field (a := r.loc) (by omega)]

theorem rodCheck12_outside (h : SameOutside s t (r.loc + 0x30) 8) : rodCheck12 t r = rodCheck12 s r := by
  simp only [rodCheck12, rodStatus_outside h, h.field (a := r.loc) (by omega)]

theorem rodCheck37_outside (h : SameOutside s t (r.loc + 0x30) 8) : rodCheck37 t r = rodCheck37 s r := by
  simp only [rodCheck37, rodFieldsOk_outside h, rodHead_outside h, rodTail_outside h, rodRsv_outside h, rodFree_outside h, rodCap_outside h,
    h.readBytes (a := r.loc) (n := 16) (by omega), h.field (a := r.loc + 0x38) (by omega)]

theorem HomeRight.outside (hh : HomeRight s r) (h : SameOutside s t (r.loc + 0x30) 8) : HomeRight t r := by
  rw [HomeRight, h.field (by omega)]
  exact hh

/-- A rod that passes checks 1 and 2, or is quarantined, is met: its HOME is put right, and the mirror of its wait list. -/
theorem runs_rodMeet {c : RodCheck} (hc : rodCheck12 s r = c) (hb : ∀ n, c ≠ .bad n) :
    Runs s (rodMeet r) c (mirrorWaitq (rodFixHome s r) r.loc) := by
  refine Runs.bind (run_get s) ?_
  rw [hc]
  cases c with
  | bad n => exact absurd rfl (hb n)
  | quarantined => exact Runs.bind (run_modify _ s) rfl
  | ok => exact Runs.bind (run_modify _ s) rfl

/-- A rod whose checks hold is entered. -/
theorem RodSound.runs_rodEnter (hs : RodSound s r) : Runs s (rodEnter r) .ok (mirrorWaitq s r.loc) := by
  obtain ⟨h12, h37, hfix, hm⟩ := hs
  refine (runs_rodMeet h12 fun _ => RodCheck.noConfusion).bind (Runs.bind (run_get _) ?_)
  rw [hfix, rodCheck37_outside (entered_mirrorWaitq hm).bytes, h37]
  rfl

theorem RodSound.entered (hs : RodSound s r) (h : Entered s t r.loc) : RodSound t r := by
  obtain ⟨h12, h37, hfix, hm⟩ := hs
  exact ⟨(rodCheck12_outside h.bytes).trans h12, (rodCheck37_outside h.bytes).trans h37,
    rodFixHome_of_homeRight ((homeRight_of_rodFixHome hfix).outside h.bytes), h.frame.unmoved hm⟩

/-! ### Waiters that are not there (R146, R149) -/

theorem serveOne_eq_none (hw : NoWaiters s r.loc) : serveOne s r = none := by
  have hnil : (if isWorkRod r.loc then [] else s.rodWaiters r.loc) = [] := by
    rw [rodWaiters_eq_nil hw]
    exact ite_self _
  simp [serveOne, hnil]

theorem serveAll_of_noWaiters (hw : NoWaiters s r.loc) : serveAll s r = mirrorWaitq s r.loc := by
  rw [serveAll, serveWaiters, serveOne_eq_none hw]

theorem commitAll_of_noWaiters (hw : NoWaiters s r.loc) (n : Nat) : commitAll r n s = s := by
  cases n with
  | zero => rfl
  | succ n =>
    rw [commitAll, committer_eq_none hw]
    rfl

theorem settleSlots_of_noWaiters (hw : NoWaiters s r.loc) : settleSlots s r = s := by
  rw [settleSlots, committer_eq_none hw]
  rfl

theorem settleKinds_of_noWaiters (hw : NoWaiters s r.loc) (enq : Bool) : settleKinds s r enq = s := by
  rw [settleKinds, rodWaiters_eq_nil hw]
  rfl

theorem wakeAll_of_noWaiters (hw : NoWaiters s r.loc) (status : Nat) : wakeAll s r status = mirrorWaitq (s.touch r.loc) r.loc := by
  rw [wakeAll, rodWaiters_eq_nil hw]
  rfl

/-- A release with nothing pending performs the lane's scratchpad writes, of which nothing else is left. -/
theorem runs_releaseOp_entered (h : NoneFirst s s.me.core) (cov : Cover) :
    ∃ u, Runs s (releaseOp s.who cov) () u ∧ SameTables s u ∧ ∀ l, Entered s u l := by
  let u := s.updMyLane (fun x => { x with scratchInflight := [] })
  have hpath : (u.core s.who.core).wpath = [] := h.1
  have hframe : RodFrame s u := rodFrame_updMyLane s (fun _ => rfl) (fun _ => rfl) fun _ => .inr rfl
  refine ⟨u, ?_, ⟨rfl, rfl, rfl, rfl, rfl, rfl, rfl⟩, fun l => ⟨hframe, (sameBytes_of_mem_wlog rfl rfl).outside _ _, rfl⟩⟩
  have hpub : publish u s.who.core (fun _ => true) = u := by simp [publish, hpath]
  have hnone : ∀ x ∈ u.pendings, x.1 ≠ s.who.core := h.not_pending
  refine Runs.bind (t := u) (a := ()) rfl ((runs_drain_none hnone (releaseDue s.who.ctx cov)).bind ?_)
  exact (congrArg (Prod.mk (Except.ok ())) hpub :)

end Sys2Proof.Machine
end

section
/-! Proofs. Bytes at locations, and where the slots of a rod lie (R139, R142). -/

namespace Sys2Proof.Machine

variable {s t u : State} {r : RodRef} {k : Nat} {locs : List Nat}

/-! ### Bytes at locations -/

/-- Bytes stand at locations, and every other byte is as before. -/
def Placed (s t : State) (locs : List Nat) (bs : List Byte) : Prop :=
  locs.map t.byteAt = bs ∧ ∀ a, a ∉ locs → t.byteAt a = s.byteAt a

theorem Placed.getD {bs : List Byte} (h : Placed s t locs bs) {j : Nat} (hj : j < locs.length) : t.byteAt (locs.getD j 0) = bs.getD j 0 := by
  rw [← h.1, List.getD_eq_getElem _ _ hj, List.getD_eq_getElem _ _ (by rwa [List.length_map]), List.getElem_map]

theorem placed_setBytes (hnd : locs.Nodup) {bs : List Byte} (hlen : locs.length = bs.length) (s : State) :
    Placed s ((locs.zip bs).foldl (fun t ab => t.setByte ab.1 ab.2) s) locs bs := by
  have hkeys := List.map_fst_zip (Nat.le_of_eq hlen)
  refine ⟨List.ext_getElem (by rwa [List.length_map]) fun i hi hj => ?_, fun a ha => byteAt_foldl_setByte_notMem (by rwa [hkeys]) s⟩
  rw [List.length_map] at hi
  rw [List.getElem_map]
  refine byteAt_foldl_setByte (by rwa [hkeys]) (List.mem_iff_getElem.mpr ⟨i, by rw [List.length_zip]; omega, ?_⟩) s
  exact List.getElem_zip

theorem Placed.same {bs : List Byte} (h : Placed s t locs bs) (hu : SameBytes t u) : Placed s u locs bs := by
  refine ⟨?_, fun a ha => (hu a).trans (h.2 a ha)⟩
  rw [← h.1]
  exact List.map_congr_left fun a _ => hu a

theorem length_of_mapM {α β : Type} {f : α → Option β} {xs : List α} {ys : List β} (h : xs.mapM f = some ys) :
    ys.length = xs.length := by
  induction xs generalizing ys with
  | nil => cases h; rfl
  | cons x xs ih =>
    rw [List.mapM_cons] at h
    cases hx : f x with
    | none => rw [hx] at h; cases h
    | some y =>
      cases hxs : xs.mapM f with
      | none => rw [hx, hxs] at h; cases h
      | some zs =>
        rw [hx, hxs] at h
        cases h
        exact congrArg Nat.succ (ih hxs)

/-- An access that has one target has as many locations as bytes. -/
theorem length_of_spadSpan {c : Ctx} {a n : Nat} {write : Bool} (h : s.spadSpan c a n write = some [locs]) : locs.length = n := by
  rw [State.spadSpan] at h
  cases ht : s.spadTargets c a write with
  | none => rw [ht] at h; cases h
  | some p =>
    obtain ⟨xs, off⟩ := p
    rw [ht] at h
    have hone : xs.length = 1 := (length_of_mapM h).symm
    obtain ⟨x, rfl⟩ := List.length_eq_one_iff.mp hone
    dsimp only at h
    rw [List.mapM_cons] at h
    cases hx : (List.range n).mapM (fun i => s.shareLoc x (off + i)) with
    | none => rw [hx] at h; cases h
    | some ys =>
      rw [hx] at h
      cases h
      exact (length_of_mapM hx).trans List.length_range

theorem sum_pieces (va n : Nat) : ((pieces va n).map (·.2)).sum = n := by
  induction n generalizing va with
  | zero => rfl
  | succ n ih =>
    have h := ih ((va + 1) % 2 ^ 64)
    rw [pieces]
    cases hp : pieces ((va + 1) % 2 ^ 64) n with
    | nil =>
      rw [hp] at h
      obtain rfl : 0 = n := h
      rfl
    | cons q ps =>
      obtain ⟨a, m⟩ := q
      rw [hp, List.map_cons, List.sum_cons] at h
      dsimp only at h ⊢
      split
      · rw [List.map_cons, List.map_cons, List.sum_cons, List.sum_cons]
        omega
      · rw [List.map_cons, List.sum_cons]
        omega

/-! ### Where a slot lies (R139, R142) -/

theorem SlotAt.length {write : Bool} (h : SlotAt s r k write locs) : locs.length = 2 ^ rodElsz s r.loc := by
  obtain ⟨-, hat, -, -⟩ := h
  split at hat
  · obtain ⟨c, o, -, hspan⟩ := hat
    exact (length_of_mapM hspan).trans List.length_range
  · obtain ⟨at_, rfl, -⟩ := hat
    simp only [List.length_flatMap, List.length_map, List.length_range]
    exact sum_pieces _ _

/-- What `slotLocs` does for one piece of a slot in memory. -/
def slotPiece (w : Who) (write : Bool) (acc : List Nat) (p : Nat × Nat) : Op (List Nat) := do
  let x ← xlat w write p.1
  if write && x.mg then throw .stall
  drainFor w.core x.loc p.2
  modify (fun t => countAccess t w x)
  return acc ++ (List.range p.2).map (x.loc + ·)

theorem slotLocs_memory (hwork : isWorkRod r.loc = false) (hsp : ¬ r.sp = true) (w : Who) (k n : Nat) (write : Bool) :
    slotLocs w r k n write = get >>= fun s =>
      (pieces ((rodBase s r.loc + k % rodCap s r.loc * 2 ^ rodElsz s r.loc) % 2 ^ 64) n).foldlM (slotPiece w write) [] := by
  refine bind_congr fun s => ?_
  rw [if_neg (by simp [hwork]), if_neg hsp]
  rfl

/-- The pieces of a slot that translate whatever `but` holds are found one after another. -/
theorem runs_slotPieces {w : Who} {write : Bool} {but : Nat → Prop} {at_ : Nat → Nat} {ps : List (Nat × Nat)}
    (hps : ∀ p ∈ ps, ∃ x, (∀ u, SameWalks s u but → Sees u w write p.1 x) ∧ x.mg = false ∧ ∀ i, i < p.2 → at_ (p.1 + i) = x.loc + i)
    (hfirst : NoneFirst s w.core) (hframe : RodFrame s t) (hb : ∀ a, ¬ but a → t.byteAt a = s.byteAt a) (acc : List Nat) :
    ∃ u, Runs t (ps.foldlM (slotPiece w write) acc) (acc ++ ps.flatMap (fun p => (List.range p.2).map (fun i => at_ (p.1 + i)))) u
      ∧ RodFrame t u ∧ SameBytes t u ∧ u.beads = t.beads := by
  induction ps generalizing t acc with
  | nil => exact ⟨t, by simp; rfl, .refl t, .refl t, rfl⟩
  | cons p ps ih =>
    rw [List.forall_mem_cons] at hps
    obtain ⟨⟨x, hsees, hmg, hat⟩, hps⟩ := hps
    have hcount := rodFrame_countAccess t w x
    have hbytes := (atHome_countAccess t w x).keeps.bytes
    obtain ⟨u, hrun, hu, hub, hbeads⟩ := ih hps (hframe.trans hcount) (fun a ha => (hbytes a).trans (hb a ha))
      (acc ++ (List.range p.2).map (x.loc + ·))
    refine ⟨u, ?_, hcount.trans hu, hbytes.trans hub, hbeads.trans (beads_countAccess t w x)⟩
    have hmap : (List.range p.2).map (fun i => at_ (p.1 + i)) = (List.range p.2).map (x.loc + ·) :=
      List.map_congr_left fun i hi => hat i (List.mem_range.mp hi)
    rw [List.flatMap_cons, hmap, ← List.append_assoc, List.foldlM_cons]
    refine Runs.bind (t := countAccess t w x) ?_ hrun
    refine Runs.bind (run_xlat_ok (hsees t (hframe.sameWalks hb))) ?_
    rw [hmg, Bool.and_false, if_neg Bool.false_ne_true]
    exact Runs.bind (run_drainFor_none (hframe.first _ hfirst) _ _) (Runs.bind (run_modify _ t) rfl)

/-- The slot of a rod that has been entered is found. -/
theorem SlotAt.runs_slotLocs {write : Bool} (h : SlotAt s r k write locs) (hfirst : NoneFirst s s.me.core) (ht : Entered s t r.loc) :
    ∃ u, Runs t (slotLocs s.who r k (2 ^ rodElsz s r.loc) write) locs u ∧ RodFrame t u ∧ SameBytes t u ∧ u.beads = t.beads := by
  obtain ⟨hwork, hat, -, -⟩ := h
  by_cases hsp : r.sp = true
  · rw [if_pos hsp] at hat
    obtain ⟨c, o, hshare, hspan⟩ := hat
    refine ⟨t, Runs.bind (run_get t) ?_, .refl t, .refl t, rfl⟩
    rw [if_neg (by simp [hwork]), if_pos hsp, rodBase_outside ht.bytes, rodCap_outside ht.bytes, rodElsz_outside ht.bytes]
    have hseat := ht.frame.seats.shareOf r.loc
    rw [hshare] at hseat
    cases hc : t.shareOf r.loc with
    | none => rw [hc] at hseat; cases hseat
    | some p =>
      obtain ⟨d, o'⟩ := p
      rw [hc] at hseat
      have hd : d.seat = c.seat := congrArg Prod.fst (Option.some.inj hseat)
      dsimp only
      rw [ht.frame.seats.ownSpan hd, hspan]
      rfl
  · rw [if_neg hsp] at hat
    obtain ⟨at_, rfl, hps⟩ := hat
    obtain ⟨u, hrun, hu⟩ := runs_slotPieces (t := t) hps hfirst ht.frame (fun a ha => ht.bytes a (by omega)) []
    refine ⟨u, ?_, hu⟩
    rw [slotLocs_memory hwork hsp]
    refine Runs.bind (run_get t) ?_
    rw [rodBase_outside ht.bytes, rodCap_outside ht.bytes, rodElsz_outside ht.bytes]
    exact hrun

end Sys2Proof.Machine
end

section
/-! Proofs. The bead that is put in a slot, and the bead that is taken from one (R146, R148). -/

namespace Sys2Proof.Machine

variable {s t u : State} {r : RodRef} {k : Nat} {locs : List Nat} {bead : List Byte}

/-! ### The reservation of a slot -/

theorem rodFrame_setBytes (s : State) (cells : List (Nat × Byte)) : RodFrame s (cells.foldl (fun t ab => t.setByte ab.1 ab.2) s) := by
  rw [foldl_setByte_eq]
  exact rodFrame_of_eq rfl rfl rfl rfl (fun _ h => h) rfl rfl rfl rfl rfl rfl fun _ h => h

theorem keepBead_leaves (s : State) (r : RodRef) (k : Nat) (bead : List Byte) :
    RodFrame s (keepBead s r k bead) ∧ SameBytes s (keepBead s r k bead) := by
  unfold keepBead
  split
  · exact ⟨.refl s, .refl s⟩
  · exact ⟨rodFrame_of_eq rfl rfl rfl rfl (fun _ h => h) rfl rfl rfl rfl rfl rfl fun _ h => h, sameBytes_of_mem_wlog rfl rfl⟩

theorem rodFree_lt (s : State) (l : Nat) : rodFree s l < 2 ^ 64 := readNat_lt s (l + 0x28) 8

/-- The counts of a rod, each where it is written. -/
def setCounts (s : State) (l a v free : Nat) : State := (s.writeNat (l + a) 8 v).writeNat (l + 0x28) 8 free

theorem setCounts_leaves (s : State) (l v free : Nat) {a : Nat} (ha : a + 8 ≤ 0x28) :
    let t := setCounts s l a v free
    RodFrame s t ∧ t.readNat (l + a) 8 = v % 2 ^ 64 ∧ rodFree t l = free % 2 ^ 64
      ∧ ∀ b, (b < l + a ∨ l + a + 8 ≤ b) → (b < l + 0x28 ∨ l + 0x30 ≤ b) → t.byteAt b = s.byteAt b := by
  have h1 := sameOutside_writeNat s (l + a) 8 v
  have hw1 := readWord_writeNat s (l + a) v
  have h2 := sameOutside_writeNat (s.writeNat (l + a) 8 v) (l + 0x28) 8 free
  refine ⟨(rodFrame_writeNat s _ _ _).trans (rodFrame_writeNat _ _ _ _), ?_, readWord_writeNat _ _ _, fun b hb hb' => ?_⟩
  · exact (h2.readNat (by omega)).trans hw1
  · exact (h2 b (by omega)).trans (h1 b (by omega))

/-- A slot has been reserved, and holds a bead. -/
structure Reserves (s t : State) (r : RodRef) (locs : List Nat) (bead : List Byte) : Prop where
  frame : RodFrame s t
  slot : locs.map t.byteAt = bead
  rsv : rodRsv t r.loc = (rodRsv s r.loc + 1) % 2 ^ 64
  free : rodFree t r.loc = rodFree s r.loc - 1
  rest : ∀ a, a ∉ locs → (a < r.loc + 0x20 ∨ r.loc + 0x30 ≤ a) → t.byteAt a = s.byteAt a

/-- A bead put in a slot by its home, with the die's copies of the slot brought up to date, and kept as it was enqueued. -/
def beadInSlot (s : State) (w : Who) (r : RodRef) (k : Nat) (locs : List Nat) (bead : List Byte) : State :=
  keepBead ((locs.zip bead).foldl (fun t ab => updateRdc t (dieOfCore w.core) ab.1 [ab.2])
    ((locs.zip bead).foldl (fun t ab => t.setByte ab.1 ab.2) (clearPoison s locs))) r k bead

theorem beadInSlot_leaves (hnd : locs.Nodup) (hlen : locs.length = bead.length) (s : State) (w : Who) (r : RodRef) (k : Nat) :
    RodFrame s (beadInSlot s w r k locs bead) ∧ Placed s (beadInSlot s w r k locs bead) locs bead := by
  unfold beadInSlot
  have hput := (rodFrame_clearPoison s locs).trans (rodFrame_setBytes (clearPoison s locs) (locs.zip bead))
  obtain ⟨hmap, hrest⟩ := placed_setBytes hnd hlen (clearPoison s locs)
  generalize (locs.zip bead).foldl (fun t ab => t.setByte ab.1 ab.2) (clearPoison s locs) = v at hput hmap hrest
  have hrdc : RodFrame v ((locs.zip bead).foldl (fun t ab => updateRdc t (dieOfCore w.core) ab.1 [ab.2]) v) :=
    rodFrame_foldl (fun t ab => rodFrame_updateRdc t (dieOfCore w.core) ab.1 [ab.2]) (locs.zip bead) v
  have hrdcb : SameBytes v ((locs.zip bead).foldl (fun t ab => updateRdc t (dieOfCore w.core) ab.1 [ab.2]) v) :=
    sameBytes_foldl (fun t ab => sameBytes_updateRdc t (dieOfCore w.core) ab.1 [ab.2]) (locs.zip bead) v
  obtain ⟨hkeep, hkeepb⟩ := keepBead_leaves ((locs.zip bead).foldl (fun t ab => updateRdc t (dieOfCore w.core) ab.1 [ab.2]) v) r k bead
  have hplaced : Placed s v locs bead := ⟨hmap, fun a ha => (hrest a ha).trans (sameBytes_clearPoison s locs a)⟩
  exact ⟨(hput.trans hrdc).trans hkeep, hplaced.same (hrdcb.trans hkeepb)⟩

/-- A slot that lies apart from the rod's block is reserved. -/
theorem SlotAt.runs_reserveSlot (h : SlotAt s r (rodRsv s r.loc) true locs) (hfirst : NoneFirst s s.me.core) (ht : Entered s t r.loc)
    (hlen : bead.length = 2 ^ rodElsz s r.loc) :
    ∃ u, Runs t (reserveSlot s.who r bead) (rodRsv s r.loc) u ∧ Reserves t u r locs bead := by
  obtain ⟨v, hslot, hv, hvb, -⟩ := h.runs_slotLocs hfirst ht
  have hcells : locs.length = bead.length := h.length.trans hlen.symm
  obtain ⟨-, -, hnd, happart⟩ := h
  obtain ⟨hput, hplaced⟩ := beadInSlot_leaves hnd hcells v s.who r (rodRsv s r.loc)
  have hk : rodRsv t r.loc = rodRsv s r.loc := rodRsv_outside ht.bytes
  have hrun (x : State) (hx : beadInSlot v s.who r (rodRsv s r.loc) locs bead = x) : Runs t (reserveSlot s.who r bead) (rodRsv s r.loc)
      (setCounts x r.loc 0x20 ((rodRsv s r.loc + 1) % 2 ^ 64) (rodFree x r.loc - 1)) := by
    refine Runs.bind (run_get t) ?_
    rw [hk, hlen, ← hx]
    exact hslot.bind (Runs.bind (run_modify _ v) (Runs.bind (run_modify _ _) (Runs.bind (run_modify _ _) rfl)))
  generalize hx : beadInSlot v s.who r (rodRsv s r.loc) locs bead = x at hput hplaced
  have hrest (a : Nat) (ha : a ∉ locs) : x.byteAt a = t.byteAt a := (hplaced.2 a ha).trans (hvb a)
  have hfree : rodFree x r.loc = rodFree t r.loc := readNat_of_byteAt_eq fun i _ => hrest _ fun hmem => happart _ hmem (by omega)
  obtain ⟨hset, hrsv, hfree', hbytes⟩ :=
    setCounts_leaves x r.loc ((rodRsv s r.loc + 1) % 2 ^ 64) (rodFree x r.loc - 1) (a := 0x20) (by decide)
  have hlt := rodFree_lt t r.loc
  refine ⟨_, hrun x hx, (hv.trans hput).trans hset, ?_, ?_, ?_, fun a ha hout => (hbytes a (by omega) (by omega)).trans (hrest a ha)⟩
  · rw [← hplaced.1]
    refine List.map_congr_left fun a ha => ?_
    have := happart a ha
    exact hbytes a (by omega) (by omega)
  · rw [hk]
    exact hrsv.trans (Nat.mod_mod _ _)
  · rw [hfree', hfree]
    exact Nat.mod_eq_of_lt (by omega)

/-! ### The bead that is taken (R148) -/

/-- Where no plain store has changed the bead, a DEQ finds it. -/
theorem beadOrStored_stands (hb : ∀ b ∈ s.beads, b.rod = r.loc → b.num = k → b.bytes = bead) :
    ∃ u, beadOrStored s r k bead = (bead, u) ∧ RodFrame s u ∧ SameBytes s u := by
  unfold beadOrStored
  split
  · exact ⟨s, rfl, .refl s, .refl s⟩
  · next b hfind =>
    have hname := List.find?_some hfind
    simp only [Bool.and_eq_true, beq_iff_eq] at hname
    extract_lets t
    rw [if_pos (.inl (hb b (List.mem_of_find?_eq_some hfind) hname.1 hname.2))]
    exact ⟨t, rfl, rodFrame_of_eq rfl rfl rfl rfl (fun _ h => h) rfl rfl rfl rfl rfl rfl fun _ h => h, sameBytes_of_mem_wlog rfl rfl⟩

/-- The oldest bead has been taken. -/
structure TookOldest (s t : State) (r : RodRef) : Prop where
  frame : RodFrame s t
  head : rodHead t r.loc = (rodHead s r.loc + 1) % 2 ^ 64
  free : rodFree t r.loc = (rodFree s r.loc + 1) % 2 ^ 64
  rest : ∀ a, (a < r.loc + 0x10 ∨ r.loc + 0x18 ≤ a) → (a < r.loc + 0x28 ∨ r.loc + 0x30 ≤ a) → t.byteAt a = s.byteAt a

theorem SlotAt.runs_takeSlot (h : SlotAt s r (rodHead s r.loc) false locs) (hfirst : NoneFirst s s.me.core) (ht : Entered s t r.loc)
    (hpoison : s.poisoned locs = none) (hb : BeadStands s r (rodHead s r.loc) locs) :
    ∃ u, Runs t (takeSlot s.who r) (rodHead s r.loc, locs.map s.byteAt) u ∧ TookOldest t u r := by
  obtain ⟨v, hslot, hv, hvb, hbeads⟩ := h.runs_slotLocs hfirst ht
  obtain ⟨-, -, -, happart⟩ := h
  have hnow : locs.map v.byteAt = locs.map s.byteAt := List.map_congr_left fun a ha => by
    have := happart a ha
    exact (hvb a).trans (ht.bytes a (by omega))
  obtain ⟨w, hbead, hw, hwb⟩ := beadOrStored_stands (s := v) (r := r) (k := rodHead s r.loc) (bead := locs.map s.byteAt) (by
    rw [hbeads, ht.beads]
    exact hb)
  have hread : Runs v (locsRead locs) (locs.map s.byteAt) v := by
    refine Runs.bind (run_get v) ?_
    rw [hv.poisoned (ht.frame.poisoned hpoison), hnow]
    rfl
  have hk : rodHead t r.loc = rodHead s r.loc := rodHead_outside ht.bytes
  have hfree : rodFree w r.loc = rodFree t r.loc := (hvb.trans hwb).readNat _ _
  obtain ⟨hset, hhead, hfree', hbytes⟩ := setCounts_leaves w r.loc ((rodHead s r.loc + 1) % 2 ^ 64) (rodFree w r.loc + 1) (a := 0x10) (by decide)
  have htouch := sameBytes_touch (setCounts w r.loc 0x10 ((rodHead s r.loc + 1) % 2 ^ 64) (rodFree w r.loc + 1)) r.loc
  refine ⟨_, Runs.bind (run_get t) ?_, ((hv.trans hw).trans hset).trans (rodFrame_touch _ r.loc), ?_, ?_, fun a ha ha' => ?_⟩
  · rw [hk, rodElsz_outside ht.bytes]
    refine hslot.bind (Runs.bind (run_get v) (hread.bind ?_))
    rw [hbead]
    exact Runs.bind (run_set w v) (Runs.bind (run_modify _ w) rfl)
  · rw [hk]
    exact ((htouch.readNat _ _).trans hhead).trans (Nat.mod_mod _ _)
  · rw [← hfree]
    exact (htouch.readNat _ _).trans hfree'
  · exact (htouch a).trans ((hbytes a (by omega) (by omega)).trans ((hvb.trans hwb) a))

/-! ### TAIL moves -/

theorem countCommit_leaves (s : State) (l : Nat) : RodFrame s (countCommit s l) ∧ SameBytes s (countCommit s l) := by
  unfold countCommit
  split
  · exact ⟨rodFrame_foldl (fun t (kv : Nat × Vif) => rodFrame_updVif t kv.1 countRecord) _ s,
      sameBytes_foldl (fun t (kv : Nat × Vif) => sameBytes_updVif (s := t) kv.1 countRecord) _ s⟩
  · exact ⟨.refl s, .refl s⟩

theorem moveTail_leaves (s : State) (r : RodRef) : RodFrame s (moveTail s r) ∧ SameOutside s (moveTail s r) (r.loc + 0x18) 8
    ∧ rodTail (moveTail s r) r.loc = (rodTail s r.loc + 1) % 2 ^ 64 := by
  obtain ⟨hframe, hbytes⟩ := countCommit_leaves ((s.writeNat (r.loc + 0x18) 8 ((rodTail s r.loc + 1) % 2 ^ 64)).touch r.loc) r.loc
  have hwrite := rodFrame_writeNat s (r.loc + 0x18) 8 ((rodTail s r.loc + 1) % 2 ^ 64)
  have hout := sameOutside_writeNat s (r.loc + 0x18) 8 ((rodTail s r.loc + 1) % 2 ^ 64)
  have hword := readWord_writeNat s (r.loc + 0x18) ((rodTail s r.loc + 1) % 2 ^ 64)
  have hsame := (sameBytes_touch (s.writeNat (r.loc + 0x18) 8 ((rodTail s r.loc + 1) % 2 ^ 64)) r.loc).trans hbytes
  exact ⟨(hwrite.trans (rodFrame_touch _ r.loc)).trans hframe, hout.trans (hsame.outside _ _),
    ((hsame.readNat _ _).trans hword).trans (Nat.mod_mod _ _)⟩

end Sys2Proof.Machine
end

section
/-! Proofs. ENQ on a sound rod that nothing waits on (O35). -/

namespace Sys2Proof.Machine

variable {s t u v : State} {r : RodRef} {h : Hdr} {o : RegOps} {slot locs bead : List Nat} {n : Nat}

/-! ### The steps that rod instructions share (R120, R333) -/

theorem runs_beadSpan {a n : Nat} (hn : n ≤ 2 ^ 21) (hspan : s.spadSpan s.me a n false = some [locs])
    (hboard : s.boardHit s.cur.ctx locs = false) : Runs s (beadSpan a n false) locs s := by
  unfold beadSpan
  rw [if_neg (Nat.not_lt.mpr hn)]
  refine Runs.bind (run_laneSpan_ok hspan (by simpa using hboard)) ?_
  simp
  rfl

theorem runs_rodAcquire (u : State) (r : RodRef) : ∃ v, Runs u (rodAcquire r) () v ∧ KeepsLanes u v :=
  ⟨_, Runs.bind (run_get u) (runs_acquireOp_eq u u.who _ _), keepsLanes_acquired rfl _ _⟩

theorem runs_rodResult (u : State) (r : RodRef) (d : BitVec 6) (st n : Nat) :
    ∃ v, Runs u (rodResult r d st n) () (v.wrS d (resultWord st n) 0) ∧ KeepsLanes u v := by
  by_cases hst : st = 3
  · obtain ⟨v, hrun, hv⟩ := runs_rodAcquire u r
    refine ⟨v, ?_, hv⟩
    rw [rodResult, if_pos hst]
    exact hrun.bind (run_modify _ v)
  · refine ⟨u, ?_, .refl u⟩
    rw [rodResult, if_neg hst]
    exact run_modify _ u

theorem runs_rodAnswer_status {st : Nat} (hst : st ≠ 0) (u : State) (r : RodRef) (d : BitVec 6) (kind : WaitKind) (dst : List Nat) :
    ∃ v, Runs u (rodAnswer r d kind dst (.done st 0 [])) () (v.wrS d (resultWord st 0) 0) ∧ KeepsLanes u v := by
  cases st with
  | zero => exact absurd rfl hst
  | succ st => exact runs_rodResult u r d (st + 1) 0

theorem SameLanes.keeps (h : SameLanes s t) (g : KeepsRegs t u) : SameLanes s u := by
  obtain ⟨hctx, hlane, hothers, hlanes⟩ := h
  exact ⟨(congrArg Issue.ctx g.cur).trans hctx, (congrArg Issue.lane g.cur).trans hlane,
    fun k hk => (g.others k (hctx ▸ hk)).trans (hothers k hk), fun l => ⟨(g.regs.s l).trans (hlanes l).1, (g.pc l).trans (hlanes l).2⟩⟩

/-- What is done where a condition holds, and leaves the state. -/
theorem Runs.ite_modify {α : Type} {c : Prop} [Decidable c] {f : State → State} {rest : Op α} {a : α} (hf : f u = u)
    (h : Runs u rest a v) : Runs u (if c then (do modify f; rest) else rest) a v := by
  by_cases hc : c
  · rw [if_pos hc]
    refine Runs.bind (t := u) (a := ()) ?_ h
    have hrun := run_modify f u
    rwa [hf] at hrun
  · rwa [if_neg hc]

/-- A sound rod is entered. -/
theorem RodSound.enters (hs : RodSound s r) (ht : Entered s t r.loc) : ∃ u, Runs t (rodEnter r) .ok u ∧ Entered s u r.loc :=
  ⟨_, (hs.entered ht).runs_rodEnter, ht.trans (entered_mirrorWaitq (hs.entered ht).2.2.2)⟩

/-- An answer in a register, where the operation before it has changed WAITQ alone. -/
theorem Entered.answers {v w : State} {l : Nat} {val : Word} (h : Entered s u l) (hv : KeepsLanes u v)
    (hk : KeepsRegs (v.wrS d val 0) w) (hb : SameBytes (v.wrS d val 0) w) :
    Wrote s w d val ∧ SameFiles s w ∧ SameOutside s w (l + 0x30) 8 := by
  obtain ⟨hwrote, hfiles⟩ := (h.frame.keeps.trans hv.keepsRegs).wrote d val 0
  exact ⟨hwrote.keeps hk, hfiles.trans hk.files,
    h.bytes.trans (((hv.bytes.trans (sameBytes_wrS v d val 0)).trans hb).outside _ _)⟩

/-! ### ENQ (R146, R333) -/

/-- The status of an ENQ that changes nothing. -/
def enqStatus (s : State) (l n : Nat) (blocking : Bool) : Option Nat :=
  if rodStatus s l = 1 then some 3
  else if n ≠ 2 ^ rodElsz s l then some 5
  else if rodFree s l = 0 ∧ blocking = false then some 2
  else none

theorem RodSound.runs_rodEnq_status (hs : RodSound s r) (hw : NoWaiters s r.loc) (ht : Entered s t r.loc) {n st : Nat} {blocking : Bool}
    (hst : enqStatus s r.loc n blocking = some st) (w : Who) (bead : List Byte) (late : Bool) :
    ∃ u, Runs t (rodEnq w r bead n blocking late) (.done st 0 []) u ∧ Entered s u r.loc := by
  obtain ⟨u, henter, hu⟩ := hs.enters ht
  refine ⟨u, henter.bind (Runs.bind (run_get u) (Runs.ite_modify (settleKinds_of_noWaiters (hu.frame.waits _ hw) true)
    (Runs.bind (run_get u) ?_))), hu⟩
  rw [rodStatus_outside hu.bytes, rodElsz_outside hu.bytes, rodFree_outside hu.bytes]
  unfold enqStatus at hst
  split at hst
  · next hc => cases hst; rw [if_pos hc]; rfl
  · next hc =>
    rw [if_neg hc]
    split at hst
    · next hn => cases hst; rw [if_pos hn]; rfl
    · next hn =>
      rw [if_neg hn]
      split at hst
      · next hf => cases hst; rw [if_pos hf.1, hf.2]; rfl
      · cases hst

/-- What an ENQ has done to the block and the slot: the bead is in place, and the counts that it does not name stay. -/
structure Enqueued (s t : State) (r : RodRef) (slot : List Nat) (bytes : List Byte) : Prop where
  stands : slot.map t.byteAt = bytes
  rsv : rodRsv t r.loc = (rodRsv s r.loc + 1) % 2 ^ 64
  free : rodFree t r.loc = rodFree s r.loc - 1
  head : rodHead t r.loc = rodHead s r.loc
  rest : ∀ a, a ∉ slot → (a < r.loc ∨ r.loc + 64 ≤ a) → t.byteAt a = s.byteAt a

/-- Words of the block that are not counts of slots change afterwards. -/
theorem Enqueued.later {bytes : List Byte} (h : Enqueued s t r slot bytes) (happart : ∀ a ∈ slot, ¬ (r.loc ≤ a ∧ a < r.loc + 64))
    (hu : ∀ a, (a < r.loc + 0x18 ∨ r.loc + 0x20 ≤ a) → (a < r.loc + 0x30 ∨ r.loc + 0x38 ≤ a) → u.byteAt a = t.byteAt a) :
    Enqueued s u r slot bytes := by
  have word {a : Nat} (ha : a + 8 ≤ 0x18 ∨ 0x20 ≤ a ∧ a + 8 ≤ 0x30) : u.readNat (r.loc + a) 8 = t.readNat (r.loc + a) 8 :=
    readNat_of_byteAt_eq fun i hi => hu _ (by omega) (by omega)
  refine ⟨?_, (word (a := 0x20) (by decide)).trans h.rsv, (word (a := 0x28) (by decide)).trans h.free,
    (word (a := 0x10) (by decide)).trans h.head, fun a ha hout => (hu a (by omega) (by omega)).trans (h.rest a ha hout)⟩
  rw [← h.stands]
  refine List.map_congr_left fun a ha => ?_
  have := happart a ha
  exact hu a (by omega) (by omega)

/-- The tail has moved past the slot, or the slot is reserved. -/
def Committed (s t : State) (r : RodRef) : RodOut → Prop
  | .done st idx bead => st = 0 ∧ idx = rodRsv s r.loc % 2 ^ 56 ∧ bead = [] ∧ rodTail t r.loc = (rodRsv s r.loc + 1) % 2 ^ 64
  | .reserved _ => rodTail t r.loc = rodTail s r.loc
  | _ => False

theorem RodSound.runs_rodEnq_takes (hs : RodSound s r) (hw : NoWaiters s r.loc) (hfirst : NoneFirst s s.me.core) (ht : Entered s t r.loc)
    {n : Nat} (hopen : rodStatus s r.loc = 0) (hn : n = 2 ^ rodElsz s r.loc) (hfree : rodFree s r.loc ≠ 0)
    (hslot : SlotAt s r (rodRsv s r.loc) true slot) {bead : List Byte} (hlen : bead.length = n) (blocking late : Bool) :
    ∃ out u, Runs t (rodEnq s.who r bead n blocking late) out u ∧ RodFrame s u ∧ Enqueued s u r slot bead ∧ Committed s u r out := by
  obtain ⟨u, henter, hu⟩ := hs.enters ht
  have huw := hu.frame.waits _ hw
  obtain ⟨v, hreserve, hv⟩ := hslot.runs_reserveSlot hfirst hu (hlen.trans hn)
  obtain ⟨-, -, -, happart⟩ := hslot
  have hvw := hv.frame.waits _ huw
  have hframe := hu.frame.trans hv.frame
  have hmoved := hframe.unmoved hs.2.2.2
  have hkept (a : Nat) (ha : a ∉ slot) (hcounts : a < r.loc + 0x20 ∨ r.loc + 0x30 ≤ a) (hwait : a < r.loc + 0x30 ∨ r.loc + 0x38 ≤ a) :
      v.byteAt a = s.byteAt a := (hv.rest a ha hcounts).trans (hu.bytes a (by omega))
  have hblock {a : Nat} (ha : r.loc ≤ a ∧ a < r.loc + 64) : a ∉ slot := fun hmem => happart a hmem ha
  have hvtail : rodTail v r.loc = rodTail s r.loc :=
    readNat_of_byteAt_eq fun i _ => hkept _ (hblock (by omega)) (by omega) (by omega)
  have hput : Enqueued s v r slot bead := by
    refine ⟨hv.slot, ?_, ?_, ?_, fun a ha hout => hkept a ha (by omega) (by omega)⟩
    · rw [hv.rsv, rodRsv_outside hu.bytes]
    · rw [hv.free, rodFree_outside hu.bytes]
    · exact readNat_of_byteAt_eq fun i _ => hkept _ (hblock (by omega)) (by omega) (by omega)
  have hrun {out : RodOut} {x : State} (hx : Runs v (if late = true ∨ rodTail v r.loc ≠ rodRsv s r.loc then (do
        modify (fun t => mirrorWaitq t r.loc)
        return .reserved (rodRsv s r.loc)) else (do
        set (serveAll (moveTail v r) r)
        return .done 0 (rodRsv s r.loc % 2 ^ 56) [])) out x) : Runs t (rodEnq s.who r bead n blocking late) out x := by
    refine henter.bind (Runs.bind (run_get u) (Runs.ite_modify (settleKinds_of_noWaiters huw true) (Runs.bind (run_get u) ?_)))
    rw [rodStatus_outside hu.bytes, rodElsz_outside hu.bytes, rodFree_outside hu.bytes, if_neg (by omega), if_neg (by omega), if_neg hfree]
    refine hreserve.bind (Runs.bind (run_get v) ?_)
    dsimp only
    rw [commitAll_of_noWaiters hvw, ite_self]
    simpa using hx
  by_cases hlate : late = true ∨ rodTail v r.loc ≠ rodRsv s r.loc
  · obtain ⟨hmirror, hout⟩ := mirrorWaitq_leaves hmoved
    refine ⟨.reserved (rodRsv s r.loc), mirrorWaitq v r.loc, hrun ?_, hframe.trans hmirror,
      hput.later happart fun a _ ha => hout a (by omega), ?_⟩
    · rw [if_pos hlate]
      exact Runs.bind (run_modify _ v) rfl
    · exact (rodTail_outside hout).trans hvtail
  · obtain ⟨hmove, hmout, hmtail⟩ := moveTail_leaves v r
    obtain ⟨hmirror, hout⟩ := mirrorWaitq_leaves (hmove.unmoved hmoved)
    have htail : rodTail v r.loc = rodRsv s r.loc := not_not.mp fun hne => hlate (.inr hne)
    refine ⟨.done 0 (rodRsv s r.loc % 2 ^ 56) [], mirrorWaitq (moveTail v r) r.loc, hrun ?_, (hframe.trans hmove).trans hmirror,
      hput.later happart fun a ha ha' => (hout a (by omega)).trans (hmout a (by omega)), rfl, rfl, rfl, ?_⟩
    · rw [if_neg hlate, serveAll_of_noWaiters (hmove.waits _ hvw)]
      exact Runs.bind (run_set _ v) rfl
    · rw [rodTail_outside hout, hmtail, htail]

theorem getD_of_map_eq {α : Type} {f g : Nat → α} {xs ys : List Nat} (h : xs.map f = ys.map g) {j : Nat} (hj : j < ys.length) :
    f (xs.getD j 0) = g (ys.getD j 0) := by
  have hlen : xs.length = ys.length := by simpa using congrArg List.length h
  have hget : (xs.map f)[j]? = (ys.map g)[j]? := by rw [h]
  simp only [List.getElem?_map] at hget
  rw [List.getD_eq_getElem _ _ (hlen ▸ hj), List.getD_eq_getElem _ _ hj]
  rwa [List.getElem?_eq_getElem (hlen ▸ hj), List.getElem?_eq_getElem hj, Option.map_some, Option.map_some, Option.some.injEq] at hget

/-- The lane waits for the slot that it has reserved. -/
theorem runs_rodAnswer_reserved (u : State) (r : RodRef) (d : BitVec 6) (kind : WaitKind) (dst : List Nat) (k : Nat) :
    ∃ v, Runs u (rodAnswer r d kind dst (.reserved k)) () v ∧ v.cur.res = .parked ∧ SameLanes u v ∧ SameBytes u v :=
  ⟨_, run_modify _ u, rfl, ⟨rfl, rfl, fun _ _ => rfl, fun _ => ⟨rfl, rfl⟩⟩, sameBytes_of_mem_wlog rfl rfl⟩

theorem SameLanes.trans_of (h : KeepsRegs s t) (g : SameLanes t u) : SameLanes s u := by
  obtain ⟨hctx, hlane, hothers, hlanes⟩ := g
  have hcur : t.cur.ctx = s.cur.ctx := congrArg Issue.ctx h.cur
  exact ⟨hctx.trans hcur, hlane.trans (congrArg Issue.lane h.cur),
    fun k hk => (hothers k (by rwa [hcur])).trans (h.others k hk), fun l => ⟨(hlanes l).1.trans (h.regs.s l), (hlanes l).2.trans (h.pc l)⟩⟩

section
variable (ha : s.active h = true) (hp : s.scratchPending = []) (hfirst : NoneFirst s s.me.core)
  (haddr : r.addr = s.srcS 1 o.a) (hsp : r.sp = o.sub.getLsbD 0) (hr : RodReach s r) (hs : RodSound s r) (hw : NoWaiters s r.loc)
  (hspan : s.spadSpan s.me (s.srcS 2 o.b).toNat n false = some [bead]) (hboard : s.boardHit s.cur.ctx bead = false)
  (hn : n ≤ 2 ^ 21)
include ha hp hfirst haddr hsp hr hspan hboard hn

/-- An ENQ that reaches its bead and its rod operates on the rod in a state as it was. -/
theorem exec_enq_reaches (hsize : n = (s.srcS 3 o.c).toNat) (hpoison : s.poisoned bead = none) : ∃ t late, Entered s t r.loc
    ∧ ∀ out u v, Runs t (rodEnq s.who r (bead.map s.byteAt) n (!o.mod.getLsbD 0) late) out u →
      Runs u (rodAnswer r o.d (.enq (bead.map s.byteAt)) [] out) () v →
      ∃ x, exec (.enq h o) s = .next x ∧ KeepsRegs v x ∧ SameBytes v x := by
  obtain ⟨u0, hrelease, htables, h0⟩ := runs_releaseOp_entered hfirst (s.coverOf (s.srcS 1 o.a))
  obtain ⟨u1, hat, -, h1⟩ := (hr.frame (h0 r.loc).frame htables).runs_rodAt
  have h2 : Entered u1 (u1.free 12).2 r.loc := ⟨rodFrame_free u1 12, (sameBytes_of_mem_wlog rfl rfl : SameBytes _ _).outside _ _, rfl⟩
  have hframe := (h0 r.loc).frame
  have hread : Runs u0 (spadRead bead) (bead.map s.byteAt) u0 := by
    have hrun := run_spadRead_ok (hframe.poisoned hpoison) (hframe.pending hp)
    rwa [show u0.byteAt = s.byteAt from funext (sameBytes_of_mem_wlog htables.mem htables.wlog)] at hrun
  refine ⟨(u1.free 12).2, (u1.free 12).1 % 2 == 1, ((h0 _).trans h1).trans h2, fun out u v henq hanswer => ?_⟩
  obtain ⟨x, hblock, hx⟩ := runs_onBlock (henq.bind hanswer) r.loc
  refine ⟨x, ?_, hx⟩
  change execEnq h o s = _
  rw [execEnq, gateOp_active ha]
  refine runOp_ok (hrelease.bind (Runs.bind (runs_beadSpan (locs := bead) (s := u0) ?_ ?_ ?_) (hread.bind ?_)))
  · rwa [← hsize]
  · rw [← hsize]
    exact (hframe.spadSpan _ _).trans hspan
  · rw [hframe.boardHit, hframe.keeps.cur]
    exact hboard
  · rw [← hsp, ← haddr, ← hsize]
    exact hat.bind (Runs.bind (run_free 12 u1) hblock)

include hs hw

/-- An ENQ that changes nothing answers its status. -/
theorem exec_enq_status (hsize : n = (s.srcS 3 o.c).toNat) (hpoison : s.poisoned bead = none) {st : Nat} (hzero : st ≠ 0)
    (hst : enqStatus s r.loc n (!o.mod.getLsbD 0) = some st) : ∃ x, exec (.enq h o) s = .next x ∧ Wrote s x o.d (resultWord st 0)
      ∧ SameFiles s x ∧ SameOutside s x (r.loc + 0x30) 8 := by
  obtain ⟨t, late, ht, hexec⟩ := exec_enq_reaches ha hp hfirst haddr hsp hr hspan hboard hn hsize hpoison
  obtain ⟨u, henq, hu⟩ := hs.runs_rodEnq_status hw ht hst s.who (bead.map s.byteAt) late
  obtain ⟨v, hanswer, hv⟩ := runs_rodAnswer_status hzero u r o.d (.enq (bead.map s.byteAt)) []
  obtain ⟨x, hx, hk, hb⟩ := hexec _ u _ henq hanswer
  exact ⟨x, hx, hu.answers hv hk hb⟩

theorem exec_enq_takes (hsize : n = (s.srcS 3 o.c).toNat) (hpoison : s.poisoned bead = none) (hopen : rodStatus s r.loc = 0)
    (hbead : n = 2 ^ rodElsz s r.loc) (hfree : rodFree s r.loc ≠ 0) (hslot : SlotAt s r (rodRsv s r.loc) true slot) :
    ∃ x, exec (.enq h o) s = .next x ∧ Enqueued s x r slot (bead.map s.byteAt)
      ∧ ((rodTail x r.loc = (rodRsv s r.loc + 1) % 2 ^ 64 ∧ Wrote s x o.d (resultWord 0 (rodRsv s r.loc % 2 ^ 56)))
        ∨ (rodTail x r.loc = rodTail s r.loc ∧ x.cur.res = .parked ∧ SameLanes s x)) := by
  obtain ⟨t, late, ht, hexec⟩ := exec_enq_reaches ha hp hfirst haddr hsp hr hspan hboard hn hsize hpoison
  have hlen : (bead.map s.byteAt).length = n := (List.length_map _).trans (length_of_spadSpan hspan)
  obtain ⟨out, u, henq, hframe, hput, hcommit⟩ := hs.runs_rodEnq_takes hw hfirst ht hopen hbead hfree hslot hlen (!o.mod.getLsbD 0) late
  obtain ⟨-, -, -, happart⟩ := hslot
  match out, hcommit with
  | .done st idx b, hcommit =>
    obtain ⟨rfl, rfl, rfl, htail⟩ := hcommit
    obtain ⟨x, hx, hk, hb⟩ := hexec _ u _ henq (run_modify _ u)
    have hbytes := (sameBytes_wrS u o.d _ interlocked).trans hb
    refine ⟨x, hx, hput.later happart fun a _ _ => hbytes a, .inl ⟨(hbytes.readNat _ _).trans htail, ?_⟩⟩
    have hwrote := (hframe.keeps.wrote o.d (resultWord 0 (rodRsv s r.loc % 2 ^ 56 % 2 ^ 56)) 0).1.keeps hk
    rwa [Nat.mod_mod] at hwrote
  | .reserved k, htail =>
    obtain ⟨v, hanswer, hparked, hlanes, hv⟩ := runs_rodAnswer_reserved u r o.d (.enq (bead.map s.byteAt)) [] k
    obtain ⟨x, hx, hk, hb⟩ := hexec _ u _ henq hanswer
    have hbytes := hv.trans hb
    exact ⟨x, hx, hput.later happart fun a _ _ => hbytes a, .inr ⟨(hbytes.readNat _ _).trans htail,
      (congrArg Issue.res hk.cur).trans hparked, (SameLanes.trans_of hframe.keeps hlanes).keeps hk⟩⟩

end

end Sys2Proof.Machine
end

section
/-! Proofs. DEQ and RODQRY on a sound rod that nothing waits on, and the statement of transfers (O35). -/

namespace Sys2Proof.Machine

variable {s t u : State} {r : RodRef} {h : Hdr} {o : RegOps} {slot locs bead : List Nat} {n : Nat}

/-! ### DEQ (R146, R333) -/

/-- The status of a DEQ that changes nothing. -/
def deqStatus (s : State) (l n : Nat) (blocking : Bool) : Option Nat :=
  if n ≠ 2 ^ rodElsz s l then some 5
  else if rodTail s l = rodHead s l then if rodStatus s l = 1 then some 3 else if blocking = false then some 1 else none
  else none

/-- What a DEQ does of waits where there are none. -/
theorem settles_of_noWaiters (hw : NoWaiters u r.loc) (blocking : Bool) :
    (if rodStatus u r.loc = 1 then settleSlots u r else if blocking = true then settleKinds u r false else u) = u := by
  rw [settleSlots_of_noWaiters hw, settleKinds_of_noWaiters hw, ite_self, ite_self]

theorem RodSound.runs_rodDeq_status (hs : RodSound s r) (hw : NoWaiters s r.loc) (ht : Entered s t r.loc) {n st : Nat} {blocking : Bool}
    (hst : deqStatus s r.loc n blocking = some st) (w : Who) :
    ∃ u, Runs t (rodDeq w r n blocking) (.done st 0 []) u ∧ Entered s u r.loc := by
  obtain ⟨u, henter, hu⟩ := hs.enters ht
  refine ⟨u, henter.bind (Runs.bind (run_get u) (Runs.bind (run_get u)
    (Runs.ite_modify (settles_of_noWaiters (hu.frame.waits _ hw) blocking) (Runs.bind (run_get u) ?_)))), hu⟩
  rw [rodStatus_outside hu.bytes, rodElsz_outside hu.bytes, rodTail_outside hu.bytes, rodHead_outside hu.bytes]
  unfold deqStatus at hst
  split at hst
  · next hc => cases hst; rw [if_pos hc]; rfl
  · next hc =>
    rw [if_neg hc]
    split at hst
    · next he =>
      rw [if_pos he]
      split at hst
      · next hclosed => cases hst; rw [if_pos hclosed]; rfl
      · next hclosed =>
        rw [if_neg hclosed]
        split at hst
        · next hb => cases hst; rw [hb]; rfl
        · cases hst
    · cases hst

/-- What a DEQ has done to the block. -/
structure Dequeued (s t : State) (r : RodRef) : Prop where
  head : rodHead t r.loc = (rodHead s r.loc + 1) % 2 ^ 64
  free : rodFree t r.loc = (rodFree s r.loc + 1) % 2 ^ 64
  rsv : rodRsv t r.loc = rodRsv s r.loc
  tail : rodTail t r.loc = rodTail s r.loc

theorem Dequeued.same (h : Dequeued s t r) (hu : ∀ a, r.loc ≤ a → a < r.loc + 0x30 → u.byteAt a = t.byteAt a) : Dequeued s u r := by
  have word {a : Nat} (ha : a + 8 ≤ 0x30) : u.readNat (r.loc + a) 8 = t.readNat (r.loc + a) 8 :=
    readNat_of_byteAt_eq fun i hi => hu _ (by omega) (by omega)
  exact ⟨(word (a := 0x10) (by decide)).trans h.head, (word (a := 0x28) (by decide)).trans h.free,
    (word (a := 0x20) (by decide)).trans h.rsv, (word (a := 0x18) (by decide)).trans h.tail⟩

theorem RodSound.runs_rodDeq_takes (hs : RodSound s r) (hw : NoWaiters s r.loc) (hfirst : NoneFirst s s.me.core) (ht : Entered s t r.loc)
    {n : Nat} (hn : n = 2 ^ rodElsz s r.loc) (hsome : rodTail s r.loc ≠ rodHead s r.loc)
    (hslot : SlotAt s r (rodHead s r.loc) false slot) (hpoison : s.poisoned slot = none) (hb : BeadStands s r (rodHead s r.loc) slot)
    (blocking : Bool) : ∃ u, Runs t (rodDeq s.who r n blocking) (.done 0 (rodHead s r.loc % 2 ^ 56) (slot.map s.byteAt)) u ∧ RodFrame s u
      ∧ Dequeued s u r ∧ SameOutside s u r.loc 64 := by
  obtain ⟨u, henter, hu⟩ := hs.enters ht
  have huw := hu.frame.waits _ hw
  obtain ⟨v, htake, hv⟩ := hslot.runs_takeSlot hfirst hu hpoison hb
  have hframe := hu.frame.trans hv.frame
  obtain ⟨hmirror, hout⟩ := mirrorWaitq_leaves (hframe.unmoved hs.2.2.2)
  have word {a : Nat} (ha : a + 8 ≤ 0x10 ∨ 0x18 ≤ a ∧ a + 8 ≤ 0x28) : v.readNat (r.loc + a) 8 = s.readNat (r.loc + a) 8 :=
    (readNat_of_byteAt_eq fun i _ => hv.rest _ (by omega) (by omega)).trans (hu.bytes.readNat (by omega))
  have htook : Dequeued s v r := by
    refine ⟨?_, ?_, word (a := 0x20) (by decide), word (a := 0x18) (by decide)⟩
    · rw [hv.head, rodHead_outside hu.bytes]
    · rw [hv.free, rodFree_outside hu.bytes]
  refine ⟨mirrorWaitq v r.loc, ?_, hframe.trans hmirror, htook.same fun a _ ha => hout a (by omega),
    fun a ha => (hout a (by omega)).trans ((hv.rest a (by omega) (by omega)).trans (hu.bytes a (by omega)))⟩
  refine henter.bind (Runs.bind (run_get u) (Runs.bind (run_get u) (Runs.ite_modify (settles_of_noWaiters huw blocking)
    (Runs.bind (run_get u) ?_))))
  rw [rodElsz_outside hu.bytes, rodTail_outside hu.bytes, rodHead_outside hu.bytes, if_neg (by omega), if_neg hsome]
  refine htake.bind (Runs.bind (t := mirrorWaitq v r.loc) (a := ()) ?_ rfl)
  have hrun := run_modify (fun t => serveAll t r) v
  rwa [serveAll_of_noWaiters (hv.frame.waits _ huw)] at hrun

/-- With no write pending, an interlocked write of the scratchpad puts its bytes in place. -/
theorem runs_spadWrite_placed (hp : s.scratchPending = []) (hnd : locs.Nodup) {bs : List Byte} (hlen : locs.length = bs.length) :
    ∃ u, Runs s (spadWrite locs bs interlocked) () u ∧ Placed s u locs bs ∧ KeepsRegs s u := by
  have hput := putCells_foldl hp (some (s.cur.ctx, s.cur.lane)) (rowGroups (locs.zip bs))
  have hempty := scratchInflight_eq_nil (hput.pending.trans hp) s.cur.ctx s.cur.lane
  rw [flatten_rowGroups] at hput
  refine ⟨_, run_modify _ s, ?_⟩
  rw [putWrite, putWriteBy]
  dsimp only
  rw [if_pos (.inl rfl), if_pos (by rw [hempty]; rfl)]
  exact ⟨(placed_setBytes hnd hlen s).same hput.bytes, keepsRegs_of_eq hput.ctxs hput.cur⟩

/-- A bead that has been taken is written to its destination. -/
theorem runs_rodAnswer_bead (hp : u.scratchPending = []) (hnd : bead.Nodup) {bs : List Byte} (hlen : bead.length = bs.length)
    (hne : bs ≠ []) (r : RodRef) (d : BitVec 6) (kind : WaitKind) (idx : Nat) :
    ∃ v, Runs u (rodAnswer r d kind bead (.done 0 idx bs)) () (v.wrS d (resultWord 0 (idx % 2 ^ 56)) 0)
      ∧ Placed u v bead bs ∧ KeepsRegs u v := by
  obtain ⟨w, hwrite, hplaced, hw⟩ := runs_spadWrite_placed hp hnd hlen
  obtain ⟨v, hacquire, hv⟩ := runs_rodAcquire w r
  refine ⟨v, ?_, hplaced.same hv.bytes, hw.trans hv.keepsRegs⟩
  have hsome : (!bs.isEmpty) = true := by cases bs with
    | nil => exact absurd rfl hne
    | cons b bs => rfl
  rw [rodAnswer, if_pos hsome]
  exact hwrite.bind (hacquire.bind (run_modify _ v))

section
variable (ha : s.active h = true) (hp : s.scratchPending = []) (hfirst : NoneFirst s s.me.core)
  (haddr : r.addr = s.srcS 1 o.a) (hsp : r.sp = o.sub.getLsbD 0) (hr : RodReach s r) (hs : RodSound s r) (hw : NoWaiters s r.loc)
  (hspan : s.spadSpan s.me (s.srcS 2 o.b).toNat n false = some [bead]) (hboard : s.boardHit s.cur.ctx bead = false)
  (hn : n ≤ 2 ^ 21)
include ha haddr hsp hr hspan hboard hn

/-- A DEQ that reaches its destination and its rod operates on the rod in a state as it was. -/
theorem exec_deq_reaches (hsize : n = (s.srcS 3 o.c).toNat) : ∃ t, Entered s t r.loc
    ∧ ∀ out u v, Runs t (rodDeq s.who r n (!o.mod.getLsbD 0)) out u →
      Runs u (rodAnswer r o.d (.deq (s.srcS 2 o.b).toNat n) bead out) () v →
      ∃ x, exec (.deq h o) s = .next x ∧ KeepsRegs v x ∧ SameBytes v x := by
  obtain ⟨t, hat, -, ht⟩ := hr.runs_rodAt
  refine ⟨t, ht, fun out u v hdeq hanswer => ?_⟩
  obtain ⟨x, hblock, hx⟩ := runs_onBlock (hdeq.bind hanswer) r.loc
  refine ⟨x, ?_, hx⟩
  change execDeq h o s = _
  rw [execDeq, gateOp_active ha, ← hsize, ← hsp, ← haddr]
  exact runOp_ok ((runs_beadSpan hn hspan hboard).bind (hat.bind hblock))

include hs hw

theorem exec_deq_status (hsize : n = (s.srcS 3 o.c).toNat) {st : Nat} (hzero : st ≠ 0)
    (hst : deqStatus s r.loc n (!o.mod.getLsbD 0) = some st) : ∃ x, exec (.deq h o) s = .next x ∧ Wrote s x o.d (resultWord st 0)
      ∧ SameFiles s x ∧ SameOutside s x (r.loc + 0x30) 8 := by
  obtain ⟨t, ht, hexec⟩ := exec_deq_reaches ha haddr hsp hr hspan hboard hn hsize
  obtain ⟨u, hdeq, hu⟩ := hs.runs_rodDeq_status hw ht hst s.who
  obtain ⟨v, hanswer, hv⟩ := runs_rodAnswer_status hzero u r o.d (.deq (s.srcS 2 o.b).toNat n) bead
  obtain ⟨x, hx, hk, hb⟩ := hexec _ u _ hdeq hanswer
  exact ⟨x, hx, hu.answers hv hk hb⟩

include hp hfirst

theorem exec_deq_takes (hsize : n = (s.srcS 3 o.c).toNat) (hnd : bead.Nodup) (hout : ∀ a ∈ bead, a < r.loc ∨ r.loc + 64 ≤ a)
    (hbead : n = 2 ^ rodElsz s r.loc) (hsome : rodTail s r.loc ≠ rodHead s r.loc) (hslot : SlotAt s r (rodHead s r.loc) false slot)
    (hpoison : s.poisoned slot = none) (hb : BeadStands s r (rodHead s r.loc) slot) :
    ∃ x, exec (.deq h o) s = .next x ∧ bead.map x.byteAt = slot.map s.byteAt ∧ Dequeued s x r
      ∧ Wrote s x o.d (resultWord 0 (rodHead s r.loc % 2 ^ 56))
      ∧ ∀ a, a ∉ bead → (a < r.loc ∨ r.loc + 64 ≤ a) → x.byteAt a = s.byteAt a := by
  obtain ⟨t, ht, hexec⟩ := exec_deq_reaches ha haddr hsp hr hspan hboard hn hsize
  have hlen : slot.length = 2 ^ rodElsz s r.loc := hslot.length
  obtain ⟨u, hdeq, hframe, htook, hrest⟩ := hs.runs_rodDeq_takes hw hfirst ht hbead hsome hslot hpoison hb (!o.mod.getLsbD 0)
  have hsame : bead.length = (slot.map s.byteAt).length := by
    rw [List.length_map, hlen, ← hbead]
    exact length_of_spadSpan hspan
  have hne : slot.map s.byteAt ≠ [] := fun hnil => by
    have hzero : slot.length = 0 := by simpa using congrArg List.length hnil
    have := Nat.two_pow_pos (rodElsz s r.loc)
    omega
  obtain ⟨v, hanswer, hplaced, hv⟩ := runs_rodAnswer_bead (hframe.pending hp) hnd hsame hne r o.d (.deq (s.srcS 2 o.b).toNat n)
    (rodHead s r.loc % 2 ^ 56)
  obtain ⟨x, hx, hk, hxb⟩ := hexec _ u _ hdeq hanswer
  have hplaced := hplaced.same ((sameBytes_wrS v o.d _ 0).trans hxb)
  refine ⟨x, hx, hplaced.1, htook.same fun a hlo hhi => hplaced.2 a fun hmem => ?_, ?_,
    fun a hmem hblock => (hplaced.2 a hmem).trans (hrest a hblock)⟩
  · have := hout a hmem
    omega
  · have hwrote := ((hframe.keeps.trans hv).wrote o.d (resultWord 0 (rodHead s r.loc % 2 ^ 56 % 2 ^ 56)) 0).1.keeps hk
    rwa [Nat.mod_mod] at hwrote

end

/-! ### RODQRY (R334) -/

theorem rodQuery_of_noWaiters (hw : NoWaiters s r.loc) (hu : Entered s u r.loc) : rodQuery u r.loc
    = packNats 8 [rodHead s r.loc, rodTail s r.loc, rodRsv s r.loc, rodStatus s r.loc + 2 ^ 8 * s.field (r.loc + 0x38) 8 4] := by
  rw [rodQuery, rodWaiters_eq_nil (hu.frame.waits _ hw), rodHead_outside hu.bytes, rodTail_outside hu.bytes, rodRsv_outside hu.bytes,
    rodStatus_outside hu.bytes, hu.bytes.field (by omega)]
  rfl

theorem exec_rodqry (ha : s.active h = true) (hp : s.scratchPending = []) (haddr : r.addr = s.srcS 1 o.a)
    (hsp : r.sp = o.sub.getLsbD 0) (hr : RodReach s r) (hs : RodSound s r) (hw : NoWaiters s r.loc)
    (hspan : s.spadSpan s.me (s.srcS 2 o.b).toNat 32 false = some [bead]) (hboard : s.boardHit s.cur.ctx bead = false)
    (halign : (s.srcS 2 o.b).toNat % 8 = 0) (hnd : bead.Nodup) :
    ∃ x v, exec (.rodqry h o) s = .next x ∧ Wrote s x o.d (resultWord 0 0) ∧ Entered s v r.loc
      ∧ Placed v x bead (packNats 8 [rodHead s r.loc, rodTail s r.loc, rodRsv s r.loc,
        rodStatus s r.loc + 2 ^ 8 * s.field (r.loc + 0x38) 8 4]) := by
  obtain ⟨t, hat, -, ht⟩ := hr.runs_rodAt
  obtain ⟨h12, -, hfix, hm⟩ := hs.entered ht
  have hmeet := runs_rodMeet h12 fun _ => RodCheck.noConfusion
  rw [hfix] at hmeet
  have hu := ht.trans (entered_mirrorWaitq hm)
  have hquery := rodQuery_of_noWaiters hw hu
  generalize mirrorWaitq t r.loc = u at hmeet hu hquery
  obtain ⟨v, hwrite, hplaced, hv⟩ := runs_spadWrite_placed (hu.frame.pending hp) hnd (bs := rodQuery u r.loc)
    ((length_of_spadSpan hspan).trans rfl)
  obtain ⟨hblock, hb⟩ := refreshBlock_leaves (v.wrS o.d (resultWord 0 0) 0) (v.wrS o.d (resultWord 0 0) 0).myDie r.loc (t.readBytes r.loc 64)
  refine ⟨_, u, ?_, ((hu.frame.keeps.trans hv).wrote o.d (resultWord 0 0) 0).1.keeps hblock.keeps, hu, ?_⟩
  · change execRodqry h o s = _
    rw [execRodqry, gateOp_active ha, ← hsp, ← haddr]
    dsimp only
    rw [if_neg (not_not.mpr halign)]
    refine runOp_ok ((runs_beadSpan (by decide) hspan hboard).bind (hat.bind (runs_onBlock_refreshed ?_ r.loc)))
    exact hmeet.bind (Runs.bind (run_get u) (hwrite.bind (run_modify _ v)))
  · rw [← hquery]
    exact hplaced.same ((sameBytes_wrS v o.d _ 0).trans hb)

/-! ### The statement -/

/-- The counts and the status of a rod, where WAITQ alone has changed in its block. -/
theorem counts_outside {l : Nat} (h : SameOutside s t (l + 0x30) 8) : rodHead t l = rodHead s l ∧ rodTail t l = rodTail s l
    ∧ rodRsv t l = rodRsv s l ∧ rodFree t l = rodFree s l ∧ rodStatus t l = rodStatus s l :=
  ⟨rodHead_outside h, rodTail_outside h, rodRsv_outside h, rodFree_outside h, rodStatus_outside h⟩

/-- Settles O35: with nothing that waits, entering a sound rod changes WAITQ at most; then an ENQ puts its bead in the slot that
RSV names and a DEQ takes the one that HEAD names, where the counts admit it, and else each answers its status. -/
theorem rodTransfers : Obligations.RodTransfers := by
  intro h o s r bead slot ha hp hfirst haddr hsp hr hs hw n b size free rsv head status span apart counts answers
  have status_answers {i : Instr} {st : Nat} (hx : ∃ x, exec i s = .next x ∧ Wrote s x o.d (resultWord st 0) ∧ SameFiles s x
      ∧ SameOutside s x (r.loc + 0x30) 8) : answers i (resultWord st 0) := by
    obtain ⟨x, hexec, hwrote, hfiles, hout⟩ := hx
    exact ⟨x, hexec, hwrote, fun a ha => hout a (by omega), counts_outside hout, hfiles⟩
  refine ⟨fun hspan hn => ?_, fun hspan hn hnd => ?_, fun hspan halign hnd => ?_⟩
  · obtain ⟨hspan, hboard, hpoison, -⟩ := hspan
    have answer {st : Nat} (hzero : st ≠ 0) (hst : enqStatus s r.loc n (!o.mod.getLsbD 0) = some st) :=
      status_answers (exec_enq_status (h := h) ha hp hfirst haddr hsp hr hs hw hspan hboard hn rfl hpoison hzero hst)
    refine ⟨fun hopen hbead hfree hslot => ?_, fun hopen hbead hfree hmod => answer (by decide) ?_,
      fun hopen hbead => answer (by decide) ?_, fun hclosed => answer (by decide) (if_pos hclosed)⟩
    · obtain ⟨x, hexec, ⟨hstands, hrsv, hfree, hhead, hrest⟩, hends⟩ :=
        exec_enq_takes (h := h) ha hp hfirst haddr hsp hr hs hw hspan hboard hn rfl hpoison hopen hbead hfree hslot
      have hlen : bead.length = n := length_of_spadSpan hspan
      exact ⟨x, hexec, fun j hj => getD_of_map_eq hstands (hlen ▸ hj), hrsv, hfree, hhead, hends, hrest⟩
    · rw [enqStatus, if_neg (by rw [show rodStatus s r.loc = 0 from hopen]; decide), if_neg (not_not.mpr hbead), hmod]
      exact if_pos ⟨hfree, rfl⟩
    · rw [enqStatus, if_neg (by rw [show rodStatus s r.loc = 0 from hopen]; decide)]
      exact if_pos hbead
  · obtain ⟨hspan, hboard, hpoison, hout⟩ := hspan
    have answer {st : Nat} (hzero : st ≠ 0) (hst : deqStatus s r.loc n (!o.mod.getLsbD 0) = some st) :=
      status_answers (exec_deq_status (h := h) ha haddr hsp hr hs hw hspan hboard hn rfl hzero hst)
    refine ⟨fun hbead hsome hslot hpoison hstands => ?_, fun hbead hempty hopen hmod => answer (by decide) ?_,
      fun hbead hempty hclosed => answer (by decide) ?_, fun hbead => answer (by decide) (if_pos hbead)⟩
    · obtain ⟨x, hexec, hbytes, ⟨hhead, hfree, hrsv, htail⟩, hwrote, hrest⟩ := exec_deq_takes (h := h) ha hp hfirst haddr hsp hr hs hw
        hspan hboard hn rfl hnd hout hbead hsome hslot hpoison hstands
      have hlen : slot.length = n := hslot.length.trans hbead.symm
      exact ⟨x, hexec, fun j hj => getD_of_map_eq hbytes (hlen ▸ hj), hhead, hfree, hrsv, htail, hwrote, hrest⟩
    · rw [deqStatus, if_neg (not_not.mpr hbead), if_pos hempty, if_neg (by rw [show rodStatus s r.loc = 0 from hopen]; decide), hmod]
      exact if_pos rfl
    · rw [deqStatus, if_neg (not_not.mpr hbead), if_pos hempty]
      exact if_pos hclosed
  · obtain ⟨hspan, hboard, hpoison, hout⟩ := hspan
    obtain ⟨x, v, hexec, hwrote, hv, hquery, hrest⟩ := exec_rodqry (h := h) ha hp haddr hsp hr hs hw hspan hboard halign hnd
    have hblock {a : Nat} (hlo : r.loc ≤ a) (hhi : a < r.loc + 64) : a ∉ bead := fun hmem => by
      have := hout a hmem
      omega
    have word {a : Nat} (ha : a + 8 ≤ 64) : x.readNat (r.loc + a) 8 = v.readNat (r.loc + a) 8 :=
      readNat_of_byteAt_eq fun i hi => hrest _ (hblock (by omega) (by omega))
    obtain ⟨hhead, htail, hrsv, hfree, hstatus⟩ := counts_outside hv.bytes
    refine ⟨x, hexec, hwrote, hquery, ⟨(word (a := 0x10) (by decide)).trans hhead, (word (a := 0x18) (by decide)).trans htail,
      (word (a := 0x20) (by decide)).trans hrsv, (word (a := 0x28) (by decide)).trans hfree, ?_⟩, fun a hmem hblock => ?_⟩
    · exact (congrArg (bits · 0 2) (word (a := 0x38) (by decide))).trans hstatus
    · exact (hrest a hmem).trans (hv.bytes a (by omega))

end Sys2Proof.Machine
end

section
/-! Proofs. The block that RODINIT writes, and a rod that an operation has met (R139, R140, R147, R153). -/

namespace Sys2Proof.Machine

variable {s t u : State} {r : RodRef} {l : Nat}

/-! ### A block as RODINIT writes it (R139) -/

/-- Each word of a block that is written as a whole. -/
theorem readNat_writeBytes_packNats (s : State) (l : Nat) {ws : List Nat} {i : Nat} (hi : i < ws.length) :
    (s.writeBytes l (packNats 8 ws)).readNat (l + 8 * i) 8 = ws.getD i 0 % 2 ^ 64 := by
  induction ws generalizing s l i with
  | nil => cases hi
  | cons w ws ih =>
    have hpack : packNats 8 (w :: ws) = bytesOf w 8 ++ packNats 8 ws := rfl
    rw [hpack, writeBytes_append, bytes_of_length]
    cases i with
    | zero =>
      have hout := sameOutside_writeBytes (s.writeBytes l (bytesOf w 8)) (l + 8) (packNats 8 ws)
      exact (hout.readNat (.inl le_rfl)).trans (readWord_writeNat s l w)
    | succ i =>
      have h := ih (s.writeBytes l (bytesOf w 8)) (l + 8) (Nat.lt_of_succ_lt_succ hi)
      rwa [show l + 8 + 8 * i = l + 8 * (i + 1) by omega] at h

theorem length_packNats (ws : List Nat) : (packNats 8 ws).length = 8 * ws.length := by
  induction ws with
  | nil => rfl
  | cons w ws ih =>
    have hpack : packNats 8 (w :: ws) = bytesOf w 8 ++ packNats 8 ws := rfl
    rw [hpack, List.length_append, ih, bytes_of_length, List.length_cons]
    omega

/-- The first word of a rod's block. -/
def rcbWord (sp : Bool) (flags elsz capl home : Nat) : Nat :=
  0xB0D5 + 2 ^ 16 * sp.toNat + 2 ^ 17 * flags + 2 ^ 32 * elsz + 2 ^ 40 * capl + 2 ^ 48 * (home % 256)

theorem rcbWord_fields (sp : Bool) {flags elsz capl : Nat} (home : Nat) (hf : flags < 8) (he : elsz < 256) (hc : capl < 256) :
    let w := rcbWord sp flags elsz capl home % 2 ^ 64
    bits w 0 16 = 0xB0D5 ∧ bits w 16 1 = sp.toNat ∧ bits w 17 3 = flags ∧ bits w 32 8 = elsz ∧ bits w 40 8 = capl
      ∧ bits w 48 8 = home % 256 := by
  have hsp : sp.toNat ≤ 1 := by cases sp <;> decide
  have hh : home % 256 < 256 := Nat.mod_lt _ (by decide)
  simp only [rcbWord, bits]
  omega

theorem rodHome_le {l : Nat} (h : l < 2 ^ 64) : rodHome l ≤ 15 := by
  rw [rodHome, if_neg (by omega), homeOf]
  split
  · omega
  · simp only [portHome]
    omega

/-- An open rod that is empty, with its fields. -/
structure FreshRod (s : State) (r : RodRef) (base elsz capl : Nat) : Prop where
  check12 : rodCheck12 s r = .ok
  check37 : rodCheck37 s r = .ok
  status : rodStatus s r.loc = 0
  head : rodHead s r.loc = 0
  tail : rodTail s r.loc = 0
  rsv : rodRsv s r.loc = 0
  free : rodFree s r.loc = 2 ^ capl
  base : rodBase s r.loc = base
  elsz : rodElsz s r.loc = elsz

theorem FreshRod.same {base elsz capl : Nat} (h : FreshRod s r base elsz capl) (hb : SameBytes s t) : FreshRod t r base elsz capl := by
  have hout := hb.outside (r.loc + 0x30) 8
  exact ⟨(rodCheck12_outside hout).trans h.check12, (rodCheck37_outside hout).trans h.check37, (rodStatus_outside hout).trans h.status,
    (rodHead_outside hout).trans h.head, (rodTail_outside hout).trans h.tail, (rodRsv_outside hout).trans h.rsv,
    (rodFree_outside hout).trans h.free, (rodBase_outside hout).trans h.base, (rodElsz_outside hout).trans h.elsz⟩

theorem setRodCheck_leaves (s : State) (l : Nat) : RodFrame s (setRodCheck s l) ∧ SameOutside s (setRodCheck s l) (l + 0x38) 8
    ∧ (setRodCheck s l).field (l + 0x38) 48 16 = crc16 (s.readBytes l 16)
    ∧ ∀ lo len, lo + len ≤ 48 → (setRodCheck s l).field (l + 0x38) lo len = s.field (l + 0x38) lo len := by
  refine ⟨rodFrame_setField s _ _ _ _, sameOutside_setField s _ _ _ _, ?_, fun lo len h => ?_⟩
  · rw [setRodCheck, field_setField (by decide)]
    exact Nat.mod_eq_of_lt (crc16_lt _)
  · rw [setRodCheck, field_setField_apart (.inl h) (by omega)]

/-- The words of the block that `writeRcb` leaves, and its check code. -/
structure RcbWords (s : State) (l w base cap : Nat) : Prop where
  first : s.readNat l 8 = w % 2 ^ 64
  base : rodBase s l = base % 2 ^ 64
  head : rodHead s l = 0
  tail : rodTail s l = 0
  rsv : rodRsv s l = 0
  free : rodFree s l = cap % 2 ^ 64
  status : rodStatus s l = 0
  check : crc16 (s.readBytes l 16) = s.field (l + 0x38) 48 16

theorem rcbWords_written (s : State) (l w base cap idle : Nat) :
    let x := (setRodCheck (dropBeads (s.writeBytes l (packNats 8 [w, base, 0, 0, 0, cap, idle, 0])) l) l).touch l
    RodFrame s x ∧ SameOutside s x l 64 ∧ RcbWords x l w base cap := by
  intro x
  unfold x
  have hwout := sameOutside_writeBytes s l (packNats 8 [w, base, 0, 0, 0, cap, idle, 0])
  have hwframe := rodFrame_writeBytes s l (packNats 8 [w, base, 0, 0, 0, cap, idle, 0])
  have hword {i : Nat} (hi : i < [w, base, 0, 0, 0, cap, idle, 0].length) := readNat_writeBytes_packNats s l hi
  rw [length_packNats] at hwout
  generalize s.writeBytes l (packNats 8 [w, base, 0, 0, 0, cap, idle, 0]) = v at hwout hwframe hword
  obtain ⟨hcframe, hcout, hcrc, hlast⟩ := setRodCheck_leaves (dropBeads v l) l
  have hdrop : SameBytes v (dropBeads v l) := sameBytes_of_mem_wlog rfl rfl
  have hframe := (hwframe.trans (rodFrame_dropBeads v l)).trans hcframe
  have hstatus : (setRodCheck (dropBeads v l) l).field (l + 0x38) 0 2 = 0 := by
    have hseven : v.readNat (l + 0x38) 8 = 0 := by simpa using hword (i := 7) (by simp)
    rw [hlast _ _ (by decide), hdrop.field, State.field, hseven]
    rfl
  generalize setRodCheck (dropBeads v l) l = y at hcout hcrc hframe hstatus
  have htouch := sameBytes_touch y l
  have hkept : SameOutside v (y.touch l) (l + 0x38) 8 := (hdrop.outside _ _).trans (hcout.trans (htouch.outside _ _))
  have word {i : Nat} (hi : i < 7) : (y.touch l).readNat (l + 8 * i) 8 = [w, base, 0, 0, 0, cap, idle, 0].getD i 0 % 2 ^ 64 :=
    (hkept.readNat (by omega)).trans (hword (by simp; omega))
  have hzero {a : Nat} (ha : a = 0 % 2 ^ 64) : a = 0 := ha
  refine ⟨hframe.trans (rodFrame_touch y l), hwout.trans (hkept.mono (by omega) (by simp)), word (i := 0) (by decide), word (i := 1) (by decide),
    hzero (word (i := 2) (by decide)), hzero (word (i := 3) (by decide)), hzero (word (i := 4) (by decide)), word (i := 5) (by decide),
    (htouch.field _ _ _).trans hstatus, ?_⟩
  rw [htouch.field, hcrc, (hcout.trans (htouch.outside _ _)).readBytes (by omega)]

theorem writeRcb_words (s : State) (r : RodRef) (base elsz capl flags : Nat) :
    RodFrame s (writeRcb s r base elsz capl flags) ∧ SameOutside s (writeRcb s r base elsz capl flags) r.loc 64
      ∧ RcbWords (writeRcb s r base elsz capl flags) r.loc (rcbWord r.sp flags elsz capl (rodHome r.loc)) base (2 ^ capl) :=
  rcbWords_written s r.loc _ base (2 ^ capl) _

/-- An RCB with fields that check 4 admits is that of an empty open rod. -/
theorem RcbWords.fresh {base elsz capl flags : Nat} (h : RcbWords s r.loc (rcbWord r.sp flags elsz capl (rodHome r.loc)) base (2 ^ capl))
    (hr : r.addr.toNat % 64 = 0) (hloc : r.sp = false → r.loc < 2 ^ 64) (hbase : base < 2 ^ 64) (hf : flags < 8)
    (hok : rodInitOk u r base elsz capl flags = true) : FreshRod s r base elsz capl := by
  simp only [rodInitOk, Bool.and_eq_true, decide_eq_true_eq, beq_iff_eq, Bool.or_eq_true, Bool.not_eq_true'] at hok
  obtain ⟨⟨⟨⟨⟨he3, he8⟩, hc1⟩, hc24⟩, hb64⟩, hsp⟩ := hok
  have hcap : 2 ^ capl < 2 ^ 64 := Nat.pow_lt_pow_right (by decide) (by omega)
  obtain ⟨hmagic, hspf, hflags, helsz, hcapl, hhome⟩ :=
    rcbWord_fields r.sp (rodHome r.loc) hf (show elsz < 256 by omega) (show capl < 256 by omega)
  have hfirst (lo len : Nat) : s.field r.loc lo len = bits (rcbWord r.sp flags elsz capl (rodHome r.loc) % 2 ^ 64) lo len :=
    congrArg (bits · lo len) h.first
  have hbase' : rodBase s r.loc = base := h.base.trans (Nat.mod_eq_of_lt hbase)
  have hfree : rodFree s r.loc = 2 ^ capl := h.free.trans (Nat.mod_eq_of_lt hcap)
  have hcapr : rodCap s r.loc = 2 ^ capl := congrArg (2 ^ ·) ((hfirst 40 8).trans hcapl)
  have helszr : rodElsz s r.loc = elsz := (hfirst 32 8).trans helsz
  have hcaplr : rodCapl s r.loc = capl := (hfirst 40 8).trans hcapl
  have hfields : rodFieldsOk s r = true := by
    simp only [rodFieldsOk, helszr, hcaplr, hfirst, hspf, hflags, hhome, h.status, hbase', hb64]
    cases hsp' : r.sp with
    | true =>
      rw [hsp'] at hsp
      simp [he3, he8, hc1, hc24, (hsp.resolve_left (by decide)).1]
    | false =>
      have hle := rodHome_le (hloc hsp')
      have hmod : rodHome r.loc % 256 ≤ 15 := by omega
      simp [he3, he8, hc1, hc24, hmod]
  refine ⟨?_, ?_, h.status, h.head, h.tail, h.rsv, hfree, hbase', helszr⟩
  · rw [rodCheck12, if_neg (not_not.mpr hr), hfirst, hmagic, if_neg (by decide), h.status]
    rfl
  · have hdist : dist64 0 0 = 0 := rfl
    simp only [rodCheck37, h.check, hfields, h.head, h.tail, h.rsv, hfree, hcapr, hdist]
    simp

/-! ### A rod that has been met (R147) -/

/-- As `s` outside the block, and in its fields but HOME, WAITQ and CHECK. -/
structure Met (s t : State) (l : Nat) : Prop where
  frame : RodFrame s t
  outside : SameOutside s t l 64
  word : ∀ a, 8 ≤ a → a + 8 ≤ 0x30 → t.readNat (l + a) 8 = s.readNat (l + a) 8
  first : ∀ lo len, lo + len ≤ 48 → t.field l lo len = s.field l lo len
  last : ∀ lo len, lo + len ≤ 48 → t.field (l + 0x38) lo len = s.field (l + 0x38) lo len
  home : t.field l 48 8 = s.field l 48 8 ∨ t.field l 48 8 = rodHome l % 256

theorem Met.trans_entered (h : Met s t l) (g : Entered t u l) : Met s u l :=
  ⟨h.frame.trans g.frame, h.outside.trans (g.bytes.mono (by omega) (by omega)), fun a h1 h2 => (g.bytes.readNat (by omega)).trans (h.word a h1 h2),
    fun lo len hle => (g.bytes.field (by omega) _ _).trans (h.first lo len hle),
    fun lo len hle => (g.bytes.field (by omega) _ _).trans (h.last lo len hle), by rw [g.bytes.field (by omega)]; exact h.home⟩

theorem Entered.trans_met (h : Entered s t l) (g : Met t u l) : Met s u l :=
  ⟨h.frame.trans g.frame, (h.bytes.mono (by omega) (by omega)).trans g.outside, fun a h1 h2 => (g.word a h1 h2).trans (h.bytes.readNat (by omega)),
    fun lo len hle => (g.first lo len hle).trans (h.bytes.field (by omega) _ _),
    fun lo len hle => (g.last lo len hle).trans (h.bytes.field (by omega) _ _), by
      have hh := h.bytes.field (a := l) (by omega) 48 8
      rw [← hh]
      exact g.home⟩

theorem Met.refl (s : State) (l : Nat) : Met s s l :=
  ⟨.refl s, (SameBytes.refl s).outside _ _, fun _ _ _ => rfl, fun _ _ _ => rfl, fun _ _ _ => rfl, .inl rfl⟩

theorem met_rodFixHome (s : State) (r : RodRef) : Met s (rodFixHome s r) r.loc := by
  unfold rodFixHome
  split
  · exact .refl s r.loc
  · have hout := sameOutside_setField s r.loc 48 8 (rodHome r.loc)
    obtain ⟨hframe, hcheck, -, hlast⟩ := setRodCheck_leaves (s.setField r.loc 48 8 (rodHome r.loc)) r.loc
    refine ⟨(rodFrame_setField s _ _ _ _).trans hframe, (hout.mono (by omega) (by omega)).trans (hcheck.mono (by omega) (by omega)),
      fun a h1 h2 => (hcheck.readNat (by omega)).trans (hout.readNat (by omega)), fun lo len hle => ?_,
      fun lo len hle => (hlast lo len hle).trans (hout.field (by omega) _ _), .inr ?_⟩
    · rw [hcheck.field (by omega), field_setField_apart (.inl hle) (by omega)]
    · rw [hcheck.field (by omega), field_setField (by decide)]
      rfl

/-- A rod is met. -/
theorem met_rodMeet (hm : Unmoved s r.loc) : Met s (mirrorWaitq (rodFixHome s r) r.loc) r.loc :=
  (met_rodFixHome s r).trans_entered (entered_mirrorWaitq ((met_rodFixHome s r).frame.unmoved hm))

end Sys2Proof.Machine
end

section
/-! Proofs. RODINIT, RODCLOSE and RODADM on a rod that nothing waits on (O36). -/

namespace Sys2Proof.Machine

variable {s t x : State} {r : RodRef} {h : Hdr} {o : RegOps} {q : SysOps} {d : BitVec 6} {val : Word} {l : Nat}

/-- A result after what has changed the block alone. -/
theorem RodFrame.ends (hf : RodFrame s t) (ho : SameOutside s t l 64) (hk : KeepsRegs (t.wrS d val 0) x) (hb : SameBytes (t.wrS d val 0) x) :
    Wrote s x d val ∧ (SameOutside s x l 64 ∧ SameFiles s x) ∧ SameBytes t x := by
  obtain ⟨hwrote, hfiles⟩ := hf.keeps.wrote d val 0
  have hbytes := (sameBytes_wrS t d val 0).trans hb
  exact ⟨hwrote.keeps hk, ⟨ho.trans (hbytes.outside _ _), hfiles.trans hk.files⟩, hbytes⟩

/-! ### RODINIT (R153, R334) -/

/-- The flags that the issuer of RODINIT may set. -/
def initFlags (s : State) (c : Nat) : Nat := if s.me.holdsPriv then bits c 16 3 else 0

theorem initFlags_lt (s : State) (c : Nat) : initFlags s c < 8 := by
  unfold initFlags
  split
  · exact bits_lt c 16 3
  · decide

/-- The fields that RODINIT takes are valid. -/
def rodinitOk (s : State) (r : RodRef) (o : RegOps) : Bool :=
  rodInitOk s r (s.srcS 2 o.b).toNat (bits (s.srcS 3 o.c).toNat 0 8) (bits (s.srcS 3 o.c).toNat 8 8) (initFlags s (s.srcS 3 o.c).toNat)

/-- RODINIT once the rod has been named. -/
def rodinitOp (s : State) (o : RegOps) (r : RodRef) : Op Unit :=
  if !rodinitOk s r o then putResult o.d (resultWord 5 0)
  else onBlock r.loc do
    modify (fun t => settleSlots t r)
    if !((← get).waitersOn r.loc).isEmpty then putResult o.d (resultWord 6 0)
    else
      modify (fun t => writeRcb t r (s.srcS 2 o.b).toNat (bits (s.srcS 3 o.c).toNat 0 8) (bits (s.srcS 3 o.c).toNat 8 8)
        (initFlags s (s.srcS 3 o.c).toNat))
      putResult o.d (resultWord 0 0)

section
variable (ha : s.active h = true) (haddr : r.addr = s.srcS 1 o.a) (hsp : r.sp = o.sub.getLsbD 0) (hr : RodReach s r)
include ha haddr hsp hr

theorem exec_rodinit_reaches : ∃ t, Entered s t r.loc ∧ SameBytes s t
    ∧ ∀ u, Runs t (rodinitOp s o r) () u → exec (.rodinit h o) s = .next u := by
  obtain ⟨t, hat, hb, ht⟩ := hr.runs_rodAt
  refine ⟨t, ht, hb, fun u hrun => ?_⟩
  change execRodinit h o s = _
  rw [execRodinit, gateOp_active ha, ← hsp, ← haddr]
  refine runOp_ok (hat.bind ?_)
  exact Runs.ite_skip (not_not.mpr hr.aligned) hrun

theorem exec_rodinit_refused (hok : rodinitOk s r o = false) :
    ∃ x, exec (.rodinit h o) s = .next x ∧ Wrote s x o.d (resultWord 5 0) ∧ SameBytes s x ∧ SameFiles s x := by
  obtain ⟨t, ht, hb, hexec⟩ := exec_rodinit_reaches ha haddr hsp hr
  obtain ⟨hwrote, hfiles⟩ := ht.frame.keeps.wrote o.d (resultWord 5 0) 0
  refine ⟨_, hexec (t.wrS o.d (resultWord 5 0) 0) ?_, hwrote, hb.trans (sameBytes_wrS t _ _ _), hfiles⟩
  rw [rodinitOp, hok]
  exact run_modify _ t

theorem exec_rodinit_writes (hw : NoWaiters s r.loc) (hok : rodinitOk s r o = true) :
    ∃ x, exec (.rodinit h o) s = .next x ∧ Wrote s x o.d (resultWord 0 0) ∧ (SameOutside s x r.loc 64 ∧ SameFiles s x)
      ∧ FreshRod x r (s.srcS 2 o.b).toNat (bits (s.srcS 3 o.c).toNat 0 8) (bits (s.srcS 3 o.c).toNat 8 8) := by
  obtain ⟨t, ht, hb, hexec⟩ := exec_rodinit_reaches ha haddr hsp hr
  obtain ⟨hframe, hout, hwords⟩ := writeRcb_words t r (s.srcS 2 o.b).toNat (bits (s.srcS 3 o.c).toNat 0 8)
    (bits (s.srcS 3 o.c).toNat 8 8) (initFlags s (s.srcS 3 o.c).toNat)
  have hfresh := hwords.fresh hr.aligned hr.loc_lt (s.srcS 2 o.b).isLt (initFlags_lt s _) hok
  have htw := ht.frame.waits _ hw
  have hsettle : Runs t (modify fun t => settleSlots t r) () t := by
    have hrun := run_modify (fun t => settleSlots t r) t
    rwa [settleSlots_of_noWaiters htw] at hrun
  have hrun (v : State) (hv : writeRcb t r (s.srcS 2 o.b).toNat (bits (s.srcS 3 o.c).toNat 0 8)
      (bits (s.srcS 3 o.c).toNat 8 8) (initFlags s (s.srcS 3 o.c).toNat) = v) : ∃ x, Runs t (rodinitOp s o r) () x
        ∧ KeepsRegs (v.wrS o.d (resultWord 0 0) 0) x ∧ SameBytes (v.wrS o.d (resultWord 0 0) 0) x := by
    rw [rodinitOp, hok]
    refine runs_onBlock (hsettle.bind (Runs.bind (run_get t) ?_)) r.loc
    rw [waitersOn_eq_nil htw, ← hv]
    exact Runs.bind (run_modify _ t) (run_modify _ _)
  obtain ⟨x, hx, hk, hxb⟩ := hrun _ rfl
  obtain ⟨hwrote, honly, hbytes⟩ := (ht.frame.trans hframe).ends ((hb.outside _ _).trans hout) hk hxb
  exact ⟨x, hexec x hx, hwrote, honly, hfresh.same hbytes⟩

end

/-! ### RODCLOSE (R153, R334) -/

theorem exec_rodclose (ha : s.active h = true) (haddr : r.addr = s.srcS 1 o.a) (hsp : r.sp = o.sub.getLsbD 0) (hr : RodReach s r)
    (hw : NoWaiters s r.loc) (hfirst : NoneFirst s s.me.core) (hs : RodSound s r) (hopen : rodStatus s r.loc = 0) :
    ∃ x, exec (.rodclose h o) s = .next x ∧ Wrote s x o.d (resultWord 0 0) ∧ (SameOutside s x r.loc 64 ∧ SameFiles s x)
      ∧ rodStatus x r.loc = 1 := by
  obtain ⟨u0, hrelease, htables, h0⟩ := runs_releaseOp_entered hfirst (s.coverOf r.addr)
  obtain ⟨u1, hat, -, h1⟩ := (hr.frame (h0 r.loc).frame htables).runs_rodAt
  obtain ⟨u, henter, hu⟩ := hs.enters ((h0 r.loc).trans h1)
  have huw := hu.frame.waits _ hw
  have hset := rodFrame_setField u (r.loc + 0x38) 0 2 1
  have hout := sameOutside_setField u (r.loc + 0x38) 0 2 1
  have hstatus : rodStatus (u.setField (r.loc + 0x38) 0 2 1) r.loc = 1 := field_setField (by decide) u _ 1
  have hclose (v : State) (hv : u.setField (r.loc + 0x38) 0 2 1 = v) :
      wakeAll ((settleSlots u r).setField (r.loc + 0x38) 0 2 1) r 3 = mirrorWaitq (v.touch r.loc) r.loc := by
    rw [settleSlots_of_noWaiters huw, wakeAll_of_noWaiters (hset.waits _ huw), hv]
  generalize u.setField (r.loc + 0x38) 0 2 1 = v at hset hout hstatus hclose
  have htouch := rodFrame_touch v r.loc
  have hclosed := (hu.frame.trans hset).trans htouch
  obtain ⟨hmirror, hmout⟩ := mirrorWaitq_leaves (hclosed.unmoved hs.2.2.2)
  have hbytes := sameBytes_touch v r.loc
  obtain ⟨x, hx, hk, hxb⟩ : ∃ x, exec (.rodclose h o) s = .next x
      ∧ KeepsRegs ((mirrorWaitq (v.touch r.loc) r.loc).wrS o.d (resultWord 0 0) 0) x
      ∧ SameBytes ((mirrorWaitq (v.touch r.loc) r.loc).wrS o.d (resultWord 0 0) 0) x := by
    obtain ⟨hframe, hb⟩ := refreshBlock_leaves ((mirrorWaitq (v.touch r.loc) r.loc).wrS o.d (resultWord 0 0) 0)
      ((mirrorWaitq (v.touch r.loc) r.loc).wrS o.d (resultWord 0 0) 0).myDie r.loc (u1.readBytes r.loc 64)
    refine ⟨_, ?_, hframe.keeps, hb⟩
    change execRodclose h o s = _
    rw [execRodclose, gateOp_active ha, ← hsp, ← haddr]
    dsimp only
    refine runOp_ok (hrelease.bind (hat.bind (runs_onBlock_refreshed ?_ r.loc)))
    refine henter.bind (Runs.bind (run_get u) (Runs.ite_skip ?_ ?_))
    · rw [rodStatus_outside hu.bytes, hopen]
      decide
    · rw [← hclose v rfl]
      exact Runs.bind (run_modify _ u) (run_modify _ _)
  have hblock : SameOutside s v r.loc 64 := (hu.bytes.mono (by omega) (by omega)).trans (hout.mono (by omega) (by omega))
  have hrest : SameOutside v (mirrorWaitq (v.touch r.loc) r.loc) r.loc 64 := (hbytes.outside _ _).trans (hmout.mono (by omega) (by omega))
  obtain ⟨hwrote, honly, hxbytes⟩ := (hclosed.trans hmirror).ends (hblock.trans hrest) hk hxb
  exact ⟨x, hx, hwrote, honly, (hxbytes.field _ _ _).trans ((rodStatus_outside hmout).trans ((hbytes.field _ _ _).trans hstatus))⟩

/-! ### RODADM (R154, R155) -/

/-- What the four parts of RODADM begin with: the rod is met, and the part acts on it. -/
theorem rodAdmin_acts (ha : s.active h = true) (haddr : r.addr = s.srcS 1 q.a) (hsp : r.sp = false) (hr : RodReach s r)
    (hw : NoWaiters s r.loc) (hpriv : s.me.holdsPriv = true) (hc : ∀ n, rodCheck12 s r ≠ .bad n)
    (act : RodRef → State → Nat × Nat × State) :
    ∃ u, Met s u r.loc ∧ ∀ st n t, act r u = (st, n, t) → RodFrame u t → SameOutside u t r.loc 64 →
      ∃ x, rodAdmin h q s act = .next x ∧ Wrote s x q.d (resultWord st n) ∧ (SameOutside s x r.loc 64 ∧ SameFiles s x) ∧ SameBytes t x := by
  obtain ⟨u0, hat, hb, h0⟩ := hr.runs_rodAt
  have hc0 : rodCheck12 u0 r = rodCheck12 s r := rodCheck12_outside h0.bytes
  have hmeet := runs_rodMeet hc0 hc
  have hmet := h0.trans_met (met_rodMeet (h0.frame.unmoved hr.unmoved))
  generalize mirrorWaitq (rodFixHome u0 r) r.loc = u at hmeet hmet
  refine ⟨u, hmet, fun st n t hact hframe hout => ?_⟩
  obtain ⟨hrefresh, hrb⟩ := refreshBlock_leaves (t.wrS q.d (resultWord st n) 0)
    (t.wrS q.d (resultWord st n) 0).myDie r.loc (u0.readBytes r.loc 64)
  obtain ⟨hwrote, honly, hbytes⟩ := (hmet.frame.trans hframe).ends (hmet.outside.trans hout) hrefresh.keeps hrb
  refine ⟨_, ?_, hwrote, honly, hbytes⟩
  rw [rodAdmin, privileged_held hpriv, gateOp_active ha, ← haddr]
  rw [hsp] at hat
  refine runOp_ok (hat.bind (runs_onBlock_refreshed ?_ r.loc))
  refine hmeet.bind ?_
  have hsettle := settleSlots_of_noWaiters (hmet.frame.waits _ hw)
  cases hcase : rodCheck12 s r
  case bad n => exact absurd hcase (hc n)
  all_goals
    refine Runs.ite_modify hsettle (Runs.bind (run_get u) ?_)
    rw [hact]
    exact Runs.bind (run_set t u) (run_modify _ t)

end Sys2Proof.Machine
end

section
/-! Proofs. The parts of RODADM, and the statement of administration (O36). -/

namespace Sys2Proof.Machine

variable {s t u : State} {r : RodRef} {l : Nat}

/-! ### What a rod that has been met says (R139) -/

theorem Met.rodStatus (h : Met s t l) : rodStatus t l = rodStatus s l := h.last 0 2 (by decide)
theorem Met.rodHead (h : Met s t l) : rodHead t l = rodHead s l := h.word 0x10 (by decide) (by decide)
theorem Met.rodTail (h : Met s t l) : rodTail t l = rodTail s l := h.word 0x18 (by decide) (by decide)
theorem Met.rodRsv (h : Met s t l) : rodRsv t l = rodRsv s l := h.word 0x20 (by decide) (by decide)
theorem Met.rodBase (h : Met s t l) : rodBase t l = rodBase s l := h.word 8 (by decide) (by decide)
theorem Met.rodElsz (h : Met s t l) : rodElsz t l = rodElsz s l := h.first 32 8 (by decide)
theorem Met.rodCapl (h : Met s t l) : rodCapl t l = rodCapl s l := h.first 40 8 (by decide)
theorem Met.rodCap (h : Met s t l) : rodCap t l = rodCap s l := congrArg (2 ^ ·) h.rodCapl

/-- Check 4 of a rod in memory holds once its HOME has been put right. -/
theorem Met.rodFieldsOk (h : Met s t r.loc) (hloc : r.loc < 2 ^ 64) (hok : rodFieldsOk s r = true) (hsp : r.sp = false) :
    rodFieldsOk t r = true := by
  have hle := rodHome_le hloc
  simp only [Machine.rodFieldsOk, h.rodElsz, h.rodCapl, h.rodStatus, h.rodBase, h.first 16 1 (by decide), h.first 17 3 (by decide), hsp] at hok ⊢
  simp only [Bool.and_eq_true, Bool.or_eq_true, decide_eq_true_eq] at hok ⊢
  obtain ⟨⟨⟨⟨⟨⟨⟨⟨he3, he8⟩, hc1⟩, hc24⟩, hhome⟩, hst⟩, hflags⟩, hbase⟩, hmem⟩ := hok
  refine ⟨⟨⟨⟨⟨⟨⟨⟨he3, he8⟩, hc1⟩, hc24⟩, hhome.imp_right fun hh => ?_⟩, hst⟩, hflags⟩, hbase⟩, hmem⟩
  rcases h.home with hsame | hright
  · rwa [hsame]
  · omega

theorem rodCheck12_ok (hr : r.addr.toNat % 64 = 0) (hmagic : s.field r.loc 0 16 = 0xB0D5) (hst : rodStatus s r.loc ≠ 2) :
    rodCheck12 s r = .ok := by
  rw [rodCheck12, if_neg (not_not.mpr hr), if_neg (not_not.mpr hmagic), if_neg hst]

theorem status_of_rodCheck12_ok (h : rodCheck12 s r = .ok) : rodStatus s r.loc ≠ 2 := fun hst => by
  unfold rodCheck12 at h
  split at h
  · cases h
  · split at h
    · cases h
    · cases h

theorem of_rodCheck12_quarantined (h : rodCheck12 s r = .quarantined) : s.field r.loc 0 16 = 0xB0D5 ∧ rodStatus s r.loc = 2 := by
  unfold rodCheck12 at h
  split at h
  · cases h
  · split at h
    · cases h
    · next hmagic =>
      split at h
      · next hst => exact ⟨not_not.mp hmagic, hst⟩
      · cases h

/-! ### The parts of RODADM (R155) -/

theorem rodDrain_leaves (hst : rodStatus u r.loc ≠ 2) (hw : NoWaiters u r.loc) (hm : Unmoved u r.loc) :
    ∃ t, rodDrain r u = (0, dist64 (rodHead u r.loc) (rodTail u r.loc) % 2 ^ 56, t) ∧ RodFrame u t ∧ SameOutside u t r.loc 64
      ∧ rodHead t r.loc = rodTail u r.loc ∧ rodFree t r.loc = rodCap u r.loc % 2 ^ 64 := by
  obtain ⟨hset, hhead, hfree, hbytes⟩ := setCounts_leaves (dropBeads u r.loc) r.loc (rodTail u r.loc) (rodCap u r.loc) (a := 0x10) (by decide)
  have hdrain : rodDrain r u = (0, dist64 (rodHead u r.loc) (rodTail u r.loc) % 2 ^ 56,
      serveAll ((setCounts (dropBeads u r.loc) r.loc 0x10 (rodTail u r.loc) (rodCap u r.loc)).touch r.loc) r) := if_neg hst
  have hframe := (rodFrame_dropBeads u r.loc).trans hset
  have hdrop : SameBytes u (dropBeads u r.loc) := sameBytes_of_mem_wlog rfl rfl
  generalize setCounts (dropBeads u r.loc) r.loc 0x10 (rodTail u r.loc) (rodCap u r.loc) = v at hhead hfree hbytes hdrain hframe
  have htouched := hframe.trans (rodFrame_touch v r.loc)
  have htouch := sameBytes_touch v r.loc
  obtain ⟨hmirror, hout⟩ := mirrorWaitq_leaves (htouched.unmoved hm)
  rw [serveAll_of_noWaiters (htouched.waits _ hw)] at hdrain
  have htail : rodTail u r.loc % 2 ^ 64 = rodTail u r.loc := Nat.mod_eq_of_lt (readNat_lt u (r.loc + 0x18) 8)
  refine ⟨_, hdrain, htouched.trans hmirror, fun a ha => ?_, ?_, ?_⟩
  · exact (hout a (by omega)).trans ((htouch a).trans ((hbytes a (by omega) (by omega)).trans (hdrop a)))
  · exact (rodHead_outside hout).trans ((htouch.readNat _ _).trans (hhead.trans htail))
  · exact (rodFree_outside hout).trans ((htouch.readNat _ _).trans hfree)

theorem rodReopen_leaves (hst : rodStatus u r.loc ≠ 2) :
    ∃ t, rodReopen r u = (0, 0, t) ∧ RodFrame u t ∧ SameOutside u t r.loc 64 ∧ rodStatus t r.loc = 0 := by
  have hout := sameOutside_setField u (r.loc + 0x38) 0 2 0
  have htouch := sameBytes_touch (u.setField (r.loc + 0x38) 0 2 0) r.loc
  exact ⟨_, if_neg hst, (rodFrame_setField u _ _ _ _).trans (rodFrame_touch _ r.loc),
    (hout.mono (by omega) (by omega)).trans (htouch.outside _ _), (htouch.field _ _ _).trans (field_setField (by decide) u _ 0)⟩

theorem rodRetire_leaves (hw : NoWaiters u r.loc) (hm : Unmoved u r.loc) :
    ∃ t, rodRetire r u = (0, 0, t) ∧ RodFrame u t ∧ SameOutside u t r.loc 64 ∧ t.field r.loc 0 16 = 0 := by
  have hretire : rodRetire r u = (0, 0, ((dropBeads (mirrorWaitq (u.touch r.loc) r.loc) r.loc).setField r.loc 0 16 0).touch r.loc) := by
    rw [rodRetire, wakeAll_of_noWaiters hw]
  have htouched := rodFrame_touch u r.loc
  obtain ⟨hmirror, hmout⟩ := mirrorWaitq_leaves (htouched.unmoved hm)
  generalize mirrorWaitq (u.touch r.loc) r.loc = v at hretire hmirror hmout
  have hdrop : SameBytes v (dropBeads v r.loc) := sameBytes_of_mem_wlog rfl rfl
  have hset := sameOutside_setField (dropBeads v r.loc) r.loc 0 16 0
  have hframe := ((htouched.trans hmirror).trans (rodFrame_dropBeads v r.loc)).trans (rodFrame_setField _ r.loc 0 16 0)
  have hmagic : ((dropBeads v r.loc).setField r.loc 0 16 0).field r.loc 0 16 = 0 := field_setField (by decide) _ _ 0
  generalize (dropBeads v r.loc).setField r.loc 0 16 0 = w at hretire hset hframe hmagic
  have htouch := sameBytes_touch w r.loc
  refine ⟨_, hretire, hframe.trans (rodFrame_touch w r.loc), fun a ha => ?_, (htouch.field _ _ _).trans hmagic⟩
  exact (htouch a).trans ((hset a (by omega)).trans ((hdrop a).trans ((hmout a (by omega)).trans (sameBytes_touch u r.loc a))))

/-- The block of a rod that has been repaired, before its check code. -/
def repaired (u : State) (l free : Nat) : State :=
  ((((u.writeNat (l + 0x28) 8 free).setField l 48 8 (rodHome l)).writeNat (l + 0x30) 8 (0x7FF + 2 ^ 16 * 0x7FF)).setField
    (l + 0x38) 8 4 0).setField (l + 0x38) 0 2 0

theorem repaired_leaves (u : State) (l free : Nat) : RodFrame u (repaired u l free) ∧ SameOutside u (repaired u l free) l 64
    ∧ rodFree (repaired u l free) l = free % 2 ^ 64 ∧ (repaired u l free).field l 0 16 = u.field l 0 16
    ∧ rodStatus (repaired u l free) l = 0 := by
  unfold repaired
  generalize 0x7FF + 2 ^ 16 * 0x7FF = idle
  have h1 := sameOutside_writeNat u (l + 0x28) 8 free
  have hfree := readWord_writeNat u (l + 0x28) free
  have hf := rodFrame_writeNat u (l + 0x28) 8 free
  generalize u.writeNat (l + 0x28) 8 free = a at h1 hfree hf
  have h2 := sameOutside_setField a l 48 8 (rodHome l)
  have hmagic : (a.setField l 48 8 (rodHome l)).field l 0 16 = a.field l 0 16 := field_setField_apart (.inl (by decide)) (by decide) _ _ _
  have hf := hf.trans (rodFrame_setField a l 48 8 (rodHome l))
  generalize a.setField l 48 8 (rodHome l) = b at h2 hmagic hf
  have h3 := sameOutside_writeNat b (l + 0x30) 8 idle
  have hf := hf.trans (rodFrame_writeNat b (l + 0x30) 8 idle)
  generalize b.writeNat (l + 0x30) 8 idle = c at h3 hf
  have h4 := sameOutside_setField c (l + 0x38) 8 4 0
  have hf := hf.trans (rodFrame_setField c (l + 0x38) 8 4 0)
  generalize c.setField (l + 0x38) 8 4 0 = d at h4 hf
  have h5 := sameOutside_setField d (l + 0x38) 0 2 0
  refine ⟨hf.trans (rodFrame_setField d (l + 0x38) 0 2 0), fun x hx => ?_, ?_, ?_, field_setField (by decide) _ _ 0⟩
  · exact (h5 x (by omega)).trans ((h4 x (by omega)).trans ((h3 x (by omega)).trans ((h2 x (by omega)).trans (h1 x (by omega)))))
  · exact (h5.readNat (by omega)).trans ((h4.readNat (by omega)).trans ((h3.readNat (by omega)).trans ((h2.readNat (by omega)).trans hfree)))
  · exact (h5.field (by omega) _ _).trans ((h4.field (by omega) _ _).trans ((h3.field (by omega) _ _).trans
      (hmagic.trans (h1.field (by omega) _ _))))

theorem rodRepair_leaves (hst : rodStatus u r.loc = 2) (hfields : rodFieldsOk u r = true) (hrsv : rodRsv u r.loc = rodTail u r.loc)
    (hheld : dist64 (rodHead u r.loc) (rodTail u r.loc) ≤ rodCap u r.loc) :
    ∃ t, rodRepair r u = (0, dist64 (rodHead u r.loc) (rodTail u r.loc), t) ∧ RodFrame u t ∧ SameOutside u t r.loc 64
      ∧ rodStatus t r.loc = 0 ∧ rodFree t r.loc = rodCap u r.loc - dist64 (rodHead u r.loc) (rodTail u r.loc)
      ∧ t.field r.loc 0 16 = u.field r.loc 0 16 := by
  have hcheck : repairCheck u r = none := by
    simp only [repairCheck, hfields, hrsv]
    simp [Nat.not_lt.mpr hheld]
  have hrepair : rodRepair r u = (0, dist64 (rodHead u r.loc) (rodTail u r.loc), (setRodCheck (repaired u r.loc
      (rodCap u r.loc - dist64 (rodHead u r.loc) (rodTail u r.loc))) r.loc).touch r.loc) := by
    rw [rodRepair, if_neg (not_not.mpr hst), hcheck]
    rfl
  have hcapl : rodCapl u r.loc ≤ 24 := by
    simp only [rodFieldsOk, Bool.and_eq_true, decide_eq_true_eq] at hfields
    obtain ⟨⟨⟨⟨⟨⟨-, hcapl⟩, -⟩, -⟩, -⟩, -⟩, -⟩ := hfields
    exact hcapl
  have hcap : rodCap u r.loc < 2 ^ 64 := Nat.pow_lt_pow_right (by decide) (by omega)
  obtain ⟨hframe, hout, hfree, hmagic, hstatus⟩ := repaired_leaves u r.loc (rodCap u r.loc - dist64 (rodHead u r.loc) (rodTail u r.loc))
  generalize repaired u r.loc (rodCap u r.loc - dist64 (rodHead u r.loc) (rodTail u r.loc)) = v at hrepair hframe hout hfree hmagic hstatus
  obtain ⟨hcframe, hcout, -, hlast⟩ := setRodCheck_leaves v r.loc
  generalize setRodCheck v r.loc = w at hrepair hcframe hcout hlast
  have htouch := sameBytes_touch w r.loc
  refine ⟨_, hrepair, (hframe.trans hcframe).trans (rodFrame_touch w r.loc), ?_, ?_, ?_, ?_⟩
  · exact hout.trans ((hcout.mono (by omega) (by omega)).trans (htouch.outside _ _))
  · exact (htouch.field _ _ _).trans ((hlast _ _ (by decide)).trans hstatus)
  · refine (htouch.readNat _ _).trans ((hcout.readNat (by omega)).trans (hfree.trans (Nat.mod_eq_of_lt (by omega))))
  · exact (htouch.field _ _ _).trans ((hcout.field (by omega) _ _).trans hmagic)

/-! ### The statement -/

/-- Settles O36: with nothing that waits, a rod is named and met with no change but in HOME, CHECK and WAITQ; RODINIT writes a
block whose checks hold, and each other instruction writes the fields that it names. -/
theorem rodAdministration : Obligations.RodAdministration := by
  intro h o q s r ha base c flags ok named admin held only
  refine ⟨fun hnamed hok => ?_, fun hnamed hok => ?_, fun hnamed hfirst hs hopen => ?_, fun hadmin => ?_,
    fun haddr hsp hr hw hpriv hc hfields htail hheld => ?_, fun hpriv i hi => ?_⟩
  · obtain ⟨haddr, hsp, hr, hw⟩ := hnamed
    obtain ⟨x, hexec, hwrote, honly, h12, h37, hstatus, hhead, htail, hrsv, hfree, hbase, helsz⟩ :=
      exec_rodinit_writes (h := h) ha haddr hsp hr hw hok
    exact ⟨x, hexec, hwrote, honly, h12, h37, hstatus, hhead, htail, hrsv, hfree, hbase, helsz⟩
  · obtain ⟨haddr, hsp, hr, -⟩ := hnamed
    exact exec_rodinit_refused ha haddr hsp hr hok
  · obtain ⟨haddr, hsp, hr, hw⟩ := hnamed
    exact exec_rodclose ha haddr hsp hr hw hfirst hs hopen
  · obtain ⟨haddr, hsp, hr, hw, hpriv, hc, -⟩ := hadmin
    have acts := rodAdmin_acts (h := h) ha haddr hsp hr hw hpriv (fun n hbad => by rw [hc] at hbad; cases hbad)
    have hst := status_of_rodCheck12_ok hc
    refine ⟨?_, ?_, ?_⟩
    · obtain ⟨u, hu, hexec⟩ := acts rodDrain
      obtain ⟨t, hact, hframe, hout, hhead, hfree⟩ := rodDrain_leaves (ne_of_eq_of_ne hu.rodStatus hst) (hu.frame.waits _ hw)
        (hu.frame.unmoved hr.unmoved)
      obtain ⟨x, hx, hwrote, honly, hb⟩ := hexec _ _ _ hact hframe hout
      rw [hu.rodHead, hu.rodTail] at hwrote
      exact ⟨x, hx, hwrote, honly, ((hb.readNat _ _).trans hhead).trans hu.rodTail, ((hb.readNat _ _).trans hfree).trans (by rw [hu.rodCap])⟩
    · obtain ⟨u, hu, hexec⟩ := acts rodReopen
      obtain ⟨t, hact, hframe, hout, hopen⟩ := rodReopen_leaves (ne_of_eq_of_ne hu.rodStatus hst)
      obtain ⟨x, hx, hwrote, honly, hb⟩ := hexec _ _ _ hact hframe hout
      exact ⟨x, hx, hwrote, honly, (hb.field _ _ _).trans hopen⟩
    · obtain ⟨u, hu, hexec⟩ := acts rodRetire
      obtain ⟨t, hact, hframe, hout, hmagic⟩ := rodRetire_leaves (hu.frame.waits _ hw) (hu.frame.unmoved hr.unmoved)
      obtain ⟨x, hx, hwrote, honly, hb⟩ := hexec _ _ _ hact hframe hout
      exact ⟨x, hx, hwrote, honly, (hb.field _ _ _).trans hmagic⟩
  · obtain ⟨hmagic, hst⟩ := of_rodCheck12_quarantined hc
    obtain ⟨u, hu, hexec⟩ := rodAdmin_acts (h := h) ha haddr hsp hr hw hpriv (fun n hbad => by rw [hc] at hbad; cases hbad) rodRepair
    obtain ⟨t, hact, hframe, hout, hopen, hfree, hkept⟩ := rodRepair_leaves (hu.rodStatus.trans hst)
      (hu.rodFieldsOk (hr.loc_lt hsp) hfields hsp) (by rw [hu.rodRsv, hu.rodTail, htail]) (by rw [hu.rodHead, hu.rodTail, hu.rodCap]; exact hheld)
    obtain ⟨x, hx, hwrote, honly, hb⟩ := hexec _ _ _ hact hframe hout
    rw [hu.rodHead, hu.rodTail] at hwrote hfree
    rw [hu.rodCap] at hfree
    have hstatus : rodStatus x r.loc = 0 := (hb.field _ _ _).trans hopen
    refine ⟨x, hx, hwrote, honly, hstatus, (hb.readNat _ _).trans hfree, rodCheck12_ok hr.aligned ?_ (by rw [hstatus]; decide)⟩
    exact ((hb.field _ _ _).trans hkept).trans ((hu.first _ _ (by decide)).trans hmagic)
  · simp only [List.mem_cons, List.not_mem_nil, or_false] at hi
    have traps (act : RodRef → State → Nat × Nat × State) : rodAdmin h q s act = .next (trapHere s .privilege 0xEB 0) :=
      privileged_trap hpriv 0xEB _
    rcases hi with rfl | rfl | rfl | rfl
    exacts [traps rodDrain, traps rodReopen, traps rodRepair, traps rodRetire]

end Sys2Proof.Machine
end
